-- ==== Sys2Proof/Word.lean ====
section
/-! DEFINITION. The word types of the G9 and the small closed types its instruction words and events are
written in (spec/03, spec/04 R84, spec/05 R119, spec/25 R440). -/

namespace Sys2Proof

/-- A byte of memory (R4). -/
abbrev Byte := BitVec 8
/-- A 64-bit scalar register, address or mask (R161). -/
abbrev W64 := BitVec 64
/-- A 32-bit lane register element (R178). -/
abbrev W32 := BitVec 32
/-- A scalar register number, s0..s31 (R65). -/
abbrev Reg := BitVec 5
/-- A tile handle number, h0..h63 (R65). -/
abbrev Hnd := BitVec 6

/-- Bits lo+len-1 : lo of a number (R4). -/
def bits (w lo len : Nat) : Nat := w / 2 ^ lo % 2 ^ len

/-- Bit i of a number. -/
def bit (w i : Nat) : Bool := w / 2 ^ i % 2 == 1

/-- `Sext(x, n)` of R8: the low n bits of x read as two's complement. -/
def sextNat (x n : Nat) : Int :=
  if x % 2 ^ n < 2 ^ (n - 1) then (x % 2 ^ n : Nat) else ((x % 2 ^ n : Nat) : Int) - (2 ^ n : Nat)

/-- A number with its bits lo+len-1 : lo replaced by the low len bits of v. -/
def setBits (w lo len v : Nat) : Nat :=
  w - bits w lo len * 2 ^ lo + (v % 2 ^ len) * 2 ^ lo

/-- Lane type codes (R75), in code order. -/
inductive Ty where
  | i32 | n32 | f32 | f16 | bf16 | f16x2 | bf16x2 | i16x2 | n16x2 | i8x4 | n8x4 | e4m3x4 | e5m2x4 | q4x8 | i64 | n64
  deriving DecidableEq, Repr

/-- The code of a type (R75). -/
def Ty.code : Ty → Nat
  | .i32 => 0 | .n32 => 1 | .f32 => 2 | .f16 => 3 | .bf16 => 4 | .f16x2 => 5 | .bf16x2 => 6 | .i16x2 => 7
  | .n16x2 => 8 | .i8x4 => 9 | .n8x4 => 10 | .e4m3x4 => 11 | .e5m2x4 => 12 | .q4x8 => 13 | .i64 => 14 | .n64 => 15

/-- The type of a code; every value of the four bits is one (R75). -/
def Ty.ofCode (n : Nat) : Ty :=
  match n % 16 with
  | 0 => .i32 | 1 => .n32 | 2 => .f32 | 3 => .f16 | 4 => .bf16 | 5 => .f16x2 | 6 => .bf16x2 | 7 => .i16x2
  | 8 => .n16x2 | 9 => .i8x4 | 10 => .n8x4 | 11 => .e4m3x4 | 12 => .e5m2x4 | 13 => .q4x8 | 14 => .i64 | _ => .n64

/-- Order codes (R72). -/
inductive Order where
  | rlx | acq | rel | ar
  deriving DecidableEq, Repr

/-- The code of an order (R72). -/
def Order.code : Order → Nat
  | .rlx => 0 | .acq => 1 | .rel => 2 | .ar => 3

/-- The order of a two-bit code (R72). -/
def Order.ofCode (n : Nat) : Order :=
  match n % 4 with
  | 0 => .rlx | 1 => .acq | 2 => .rel | _ => .ar

/-- The order acquires (R247). -/
def Order.acquires : Order → Bool
  | .acq | .ar => true
  | .rlx | .rel => false

/-- The order releases (R247). -/
def Order.releases : Order → Bool
  | .rel | .ar => true
  | .rlx | .acq => false

/-- Scope codes 0..5 (R72). -/
inductive Scope where
  | grp | team | tdm | gang | dev | sys
  deriving DecidableEq, Repr

/-- The code of a scope (R72). -/
def Scope.code : Scope → Nat
  | .grp => 0 | .team => 1 | .tdm => 2 | .gang => 3 | .dev => 4 | .sys => 5

/-- The scope of a code; 6 and above are illegal (R72). -/
def Scope.ofCode? (n : Nat) : Option Scope :=
  match n with
  | 0 => some .grp | 1 => some .team | 2 => some .tdm | 3 => some .gang | 4 => some .dev | 5 => some .sys
  | _ => none

/-- Access sizes of format M (R66). -/
inductive Size where
  | b | h | w | d
  deriving DecidableEq, Repr

/-- The code of a size (R66). -/
def Size.code : Size → Nat
  | .b => 0 | .h => 1 | .w => 2 | .d => 3

/-- The size of a two-bit code (R66). -/
def Size.ofCode (n : Nat) : Size :=
  match n % 4 with
  | 0 => .b | 1 => .h | 2 => .w | _ => .d

/-- The bytes of a size (R66). -/
def Size.bytes : Size → Nat
  | .b => 1 | .h => 2 | .w => 4 | .d => 8

/-- What `wait` and `btest` name (R69): an object (with the overreach bit of `wait.or`), a copy batch, a matrix batch. -/
inductive WaitKind where
  | obj | objOr | copy | matrix
  deriving DecidableEq, Repr

/-- The code of a wait kind in the sc field (R69). -/
def WaitKind.code : WaitKind → Nat
  | .obj => 0 | .copy => 1 | .matrix => 2 | .objOr => 4

/-- Condition codes of VCMP words (R79). -/
inductive Cond where
  | eq | ne | lt | le | gt | ge | un | ord
  deriving DecidableEq, Repr

/-- The code of a condition (R79). -/
def Cond.code : Cond → Nat
  | .eq => 0 | .ne => 1 | .lt => 2 | .le => 3 | .gt => 4 | .ge => 5 | .un => 6 | .ord => 7

/-- The condition of a code; 8 and above are illegal (R79). -/
def Cond.ofCode? (n : Nat) : Option Cond :=
  match n with
  | 0 => some .eq | 1 => some .ne | 2 => some .lt | 3 => some .le | 4 => some .gt | 5 => some .ge
  | 6 => some .un | 7 => some .ord
  | _ => none

/-- The operand fields of a lane word, all but op8 and fn8 (R73). -/
structure LaneWord where
  /-- guard negate -/
  gn : Bool := false
  /-- guard predicate; 7 is p7 -/
  gp : BitVec 3 := 7
  /-- lookahead -/
  la : BitVec 4 := 0
  /-- destination register code or predicate sub-fields -/
  vd : BitVec 8 := 0
  /-- a operand -/
  va : BitVec 8 := 0
  /-- b operand -/
  vb : BitVec 8 := 0
  /-- c operand or family sub-fields -/
  vc : BitVec 8 := 0
  /-- type -/
  ty : Ty := .i32
  /-- modifier bits: 3 immediate b, 2 negate a, 1 negate b, 0 saturate (md[43:40]) -/
  md : BitVec 4 := 0
  /-- immediate or family sub-fields -/
  x32 : W32 := 0
  deriving DecidableEq, Repr

/-- Where the distributor puts a team (R111): the first core, scratch bases and slot bases for the leader and
the wheeler, and for each declared group its context, register base and scratch reserve on its own core. -/
structure Place where
  core : Nat := 0
  sb0 : Nat := 0
  sb1 : Nat := 0
  f0 : Nat := 0
  f1 : Nat := 0
  ctxs : List Nat := []
  rbs : List Nat := []
  reserves : List Nat := []
  deriving DecidableEq, Repr

/-- The host and supervisor registers that have no behaviour of their own when written (R6, R440, R406). -/
inductive HostReg where
  /-- queue record of queue q (R368) -/
  | queueRec (q : Nat)
  /-- partition record of partition p (R382) -/
  | partRec (p : Nat)
  /-- trap block of partition p: SAVEBASE .. TVEC and the claim table (R408, R404) -/
  | trapBlock (p : Nat)
  /-- sampler control of partition p (R435) -/
  | sampler (p : Nat)
  /-- monitor m of a die (R436) -/
  | monitor (die m : Nat)
  /-- die register (R460) -/
  | dieReg (die : Nat)
  /-- package register (R461) -/
  | pkgReg
  /-- Smio routing table entry (R448) -/
  | route (i : Nat)
  /-- collective table entry (R449) -/
  | coll (i : Nat)
  /-- sealed stream table entry i of partition p: KEY, SID, NEXT (R446) -/
  | seal (p i : Nat)
  /-- STQBASE of a core (R406) -/
  | stqBase (core : Nat)
  /-- SVERD of a core, for a write that carries verdict 0; the verdicts 1 to 3 are events of their own (R406, R407) -/
  | sverd (core : Nat)
  /-- HITS of a group watchpoint (R427) -/
  | gwHits (core i : Nat)
  /-- HITS of an engine watchpoint (R427) -/
  | ewHits (i : Nat)
  /-- PCI Express base address register 2 or 4 of PF0 (R439) -/
  | bar (n : Nat)
  deriving DecidableEq, Repr

/-- Who makes a host request: PF0, or the VF of a partition, with the T bit of its IDE stream (R439, R444). -/
structure Requester where
  vf : Option Nat := none
  t : Bool := false
  deriving DecidableEq, Repr

/-- PCI Express AtomicOps (R250). -/
inductive AtomicOp where
  | fetchAdd | swap | cas
  deriving DecidableEq, Repr

/-- What a supervisor core's firmware does to memory (R352). -/
inductive SupOp where
  | load | store | amoSwap | amoAdd | amoAnd | amoOr | amoXor | amoMin | amoMax | amoMinu | amoMaxu | fence
  deriving DecidableEq, Repr

/-- What a remote package's access does (R448). -/
inductive RemoteOp where
  | read | write | atomicAdd | atomicSwap | atomicCas
  deriving DecidableEq, Repr

/-- A Smio flit as received (R447): sequence number, payload and the CRC it carries. -/
structure Flit where
  seq : BitVec 12 := 0
  payload : List Byte := []
  crc : W32 := 0
  deriving DecidableEq, Repr

/-- A collective contribution (R351, R449): the sender's leaf and settings, and its elements' bytes. -/
structure Contribution where
  leaf : Nat := 0
  op : Nat := 0
  ty : Nat := 0
  n : Nat := 0
  len : Nat := 0
  data : List Byte := []
  deriving DecidableEq, Repr

end Sys2Proof
end

