-- ==== Sys2Proof/Config.lean ====
section
/-! DEFINITION. What the spec leaves to an implementation and the values it leaves open: opaque constants, of which no
proof can see a value. Each is applied to the operands it depends on, or to State.fresh for a new value each time. -/

namespace Sys2Proof

/-- The parts of a boot image (R451). -/
structure Image where
  /-- the root RSA-4096 public key -/
  rootKey : List Byte
  /-- the intermediate RSA-4096 key -/
  midKey : List Byte
  /-- the root key's signature of the intermediate key -/
  midSig : List Byte
  /-- the header, without the image's signature -/
  header : List Byte
  /-- the intermediate key's signature of the header and the payload -/
  sig : List Byte
  /-- the security version -/
  svn : W64
  /-- the firmware, the first part of the payload -/
  firmware : List Byte
  /-- the configuration block, the rest of the payload -/
  config : List Byte
  /-- the payload's length and sections match the header -/
  form : Bool
  deriving DecidableEq, Repr

namespace Config

/-- How many of the package's own events fall in a core period, at most (R3: latencies are not architectural). Log 6. -/
opaque burst : Nat → Nat
/-- How many periods pass, at most, without an event of the package's own while one can fall (R3). Log 6. -/
opaque patience : Nat
/-- Which of its two ready paths an L-stream issues, at the k-th choice (R141): slot 0 or slot 1. Log 5. -/
opaque pathChoice : Nat → Bool
/-- Which of the actions the machine could take next it takes at the k-th choice (R141, R254). Log 5. -/
opaque choice : Nat → Nat
/-- Whether a cache that holds a line serves the k-th cached load (R174, R238: which allowed value is returned is
not architectural). Log 8. -/
opaque cacheHit : Nat → Bool
/-- Whether the k-th load of a supervisor core reads through the scalar cache, else through L1 (R14, R174, R238: it reads through both,
and the spec does not say which serves a load). Log 8. -/
opaque supCache : Nat → Bool
/-- Whether a held translation serves in place of an entry that has changed since (R318, R320), in a step, by the key of its page or
entry: one step finds one of the two throughout. Log 8. -/
opaque tlbHit : Nat → Nat → Bool
/-- Which line leaves a full cache at a step, as an index among those it holds, when another comes in (R238-R240: replacement is not
architectural). Arguments: the step, the line that comes in. Log 8. -/
opaque victim : Nat → Nat → Nat
/-- The order, as ranks, in which the lanes of one instruction reach their ports (R8, R242, R245). Log 9. -/
opaque laneRank : Nat → Nat → Nat
/-- The bit of the 2048-bit read signature that stands for a granule (R230, R231). Log 11. -/
opaque sigBit : Nat → BitVec 11
/-- Whether vrcp (0), vrsq (1), vexp2 (2) or vlog2 (3) rounds its magnitude up (R190: at most 1 ulp; R191: a fixed function
of the input bits and FTZ). Log 10. -/
opaque approxUp : Nat → W32 → Bool → Bool
/-- The value of vsin (2), vcos (3) where R190 states an accuracy and no value (R191). Log 10. -/
opaque approx : Nat → W32 → Bool → W32
/-- The value read for a line of the tag store of the AES-GCM check of a sealed message (R270, R271): the plaintext,
or none when the tag fails. Arguments: key, IV, header, ciphertext, tag. Log 12. -/
opaque gcmOpen : BitVec 256 → BitVec 96 → BitVec 128 → List Byte → BitVec 128 → Option (List Byte)
/-- SHA-512 (R450-R452). Log 12. -/
opaque sha512 : List Byte → BitVec 512
/-- The SRAM PUF response of this package (R450). Log 12. -/
opaque puf : List Byte
/-- The identity seed reconstructed from the PUF and helper data, and whether its key check value agrees (R450). Log 12. -/
opaque reconstruct : List Byte → List Byte → BitVec 512 × Bool
/-- The root key hash in mask ROM (R451). Log 12. -/
opaque rootHash : BitVec 512
/-- The parts of an image (R451), whose layout the spec does not give; none when the image cannot be parsed. Log 12. -/
opaque parseImage : List Byte → Option Image
/-- RSASSA-PSS with SHA-512 and a 64-byte salt (R451): whether a signature of a digest verifies under an RSA-4096 public key. Arguments:
key, digest, signature. Log 12. -/
opaque pssVerify : List Byte → BitVec 512 → List Byte → Bool
/-- The host registers that a configuration block sets (R450 step 6), as 64-bit words of BAR0: offset and value; the block's layout is not
given. Log 12. -/
opaque settings : List Byte → List (Nat × W64)
/-- Where the firmware is placed in device memory, and where it is started (R450 step 6). Log 12. -/
opaque firmwareAt : Nat × Nat
/-- HKDF-SHA-512 with info "LZG9 identity", giving the identity key (R452). Log 12. -/
opaque identityKey : BitVec 512 → BitVec 384
/-- ECDSA P-384 signature of a message (R452). Log 12. -/
opaque ecdsaSign : BitVec 384 → List Byte → List Byte
/-- The contents of mask ROM (R452 index 1). Log 12. -/
opaque maskRom : List Byte
/-- The CRC of a Smio flit's sequence number and payload (R447). Log 12. -/
opaque flitCrc : BitVec 12 → List Byte → W32
/-- What another package returns in the k-th step for a read of a byte over a Smio port (R448). Log 13. -/
opaque remoteRead : Nat → Nat → Byte
/-- Cycle fields of a sampler record and the level reached (R435: timing). Log 6. -/
opaque sampleFields : Nat → BitVec 80
/-- Whether a core's trace unit can take the k-th packet (R434). Log 6. -/
opaque traceRoom : Nat → Bool
/-- A latency in cycles, or a level code, that a monitor records (R3, R436). Log 6. -/
opaque latency : Nat → Nat
/-- The length of the k-th part of a copy command's destination bytes that the engine performs at once (R254, R273). Log 5. -/
opaque copyBurst : Nat → Nat
/-- Whether an element that an incomplete long-latency instruction writes holds the new value already (R125: which of the two values an
instruction inside the window finds is not reported). Arguments: the draw, the register, the lane. Log 53. -/
opaque earlyWrite : Nat → Nat → Nat → Bool
/-- Which of the places that fit a team takes (R111), at the k-th choice. Log 14. -/
opaque placeChoice : Nat → Nat

end Config
end Sys2Proof
end

