-- ==== Sys2Proof/Machine/Float.lean ====
section
/-! DEFINITION. Numbers (spec/04): the values of the float formats, exact arithmetic on them, and the one conversion
`Convert` (R91) by which every result is rounded. -/

namespace Sys2Proof.Machine

/-- The FLAGS bits (R92). -/
abbrev Flags := BitVec 7
/-- No flag. -/
def fl0 : Flags := 0
/-- invalid operation -/
def flNV : Flags := 1
/-- division by zero -/
def flDZ : Flags := 2
/-- overflow -/
def flOF : Flags := 4
/-- underflow -/
def flUF : Flags := 8
/-- inexact -/
def flNX : Flags := 16
/-- clamped -/
def flSAT : Flags := 32
/-- quantised block overflowed -/
def flQO : Flags := 64

/-- Float formats (R86). -/
inductive FT where
  | f32 | f16 | bf16 | e5m2 | e4m3
  deriving DecidableEq, Repr

/-- Trailing significand bits (R86). -/
def FT.sig : FT → Nat
  | .f32 => 23 | .f16 => 10 | .bf16 => 7 | .e5m2 => 2 | .e4m3 => 3
/-- Exponent bias (R86). -/
def FT.bias : FT → Nat
  | .f32 => 127 | .f16 => 15 | .bf16 => 127 | .e5m2 => 15 | .e4m3 => 7
/-- Bits without the sign. -/
def FT.mag : FT → Nat
  | .f32 => 31 | .f16 => 15 | .bf16 => 15 | .e5m2 => 7 | .e4m3 => 7
/-- Bits of the largest finite value (R86). -/
def FT.maxBits : FT → Nat
  | .f32 => 0x7F7FFFFF | .f16 => 0x7BFF | .bf16 => 0x7F7F | .e5m2 => 0x7B | .e4m3 => 0x7E
/-- Bits of infinity; E4M3 has none and its NaN stands here (R86, R91). -/
def FT.infBits : FT → Nat
  | .f32 => 0x7F800000 | .f16 => 0x7C00 | .bf16 => 0x7F80 | .e5m2 => 0x7C | .e4m3 => 0x7F
/-- Bits of the default quiet NaN (R86). -/
def FT.nanBits : FT → Nat
  | .f32 => 0x7FC00000 | .f16 => 0x7E00 | .bf16 => 0x7FC0 | .e5m2 => 0x7E | .e4m3 => 0x7F
/-- The exponent of the smallest normal. -/
def FT.emin (t : FT) : Int := 1 - (t.bias : Int)

/-- Rounding modes, by their codes (R90). -/
inductive Rnd where
  | rne | rz | rdn | rup
  deriving DecidableEq, Repr
/-- The mode of a code (R90). -/
def Rnd.ofCode (n : Nat) : Rnd :=
  match n % 4 with
  | 0 => .rne | 1 => .rz | 2 => .rdn | _ => .rup

/-- An exact value: NaN (signalling or not), an infinity, or ±m × 2^e, a little more in magnitude if `more`. -/
inductive Val where
  | nan (signalling : Bool)
  | inf (neg : Bool)
  | num (neg : Bool) (m : Nat) (e : Int) (more : Bool)
  deriving DecidableEq, Repr

/-- The value of an integer; zero is +0 (R87). -/
def Val.ofInt (x : Int) : Val := .num (decide (x < 0)) x.natAbs 0 false

/-- Not a NaN and not an infinity. -/
def Val.finite : Val → Bool
  | .num _ _ _ _ => true
  | _ => false
/-- A NaN. -/
def Val.isNan : Val → Bool
  | .nan _ => true
  | _ => false
/-- A signalling NaN. -/
def Val.isSnan : Val → Bool
  | .nan s => s
  | _ => false
/-- A zero. -/
def Val.isZero : Val → Bool
  | .num _ 0 _ _ => true
  | _ => false
/-- The sign. -/
def Val.sign : Val → Bool
  | .nan _ => false
  | .inf n => n
  | .num n _ _ _ => n

/-- The value of an element's bits (R86). -/
def FT.val (t : FT) (w : Nat) : Val :=
  let neg := bit w t.mag
  let x := w % 2 ^ t.mag
  let e := x / 2 ^ t.sig
  let f := x % 2 ^ t.sig
  if x > t.infBits || (t == .e4m3 && x == 0x7F) then .nan (t != .e4m3 && f / 2 ^ (t.sig - 1) == 0)
  else if x = t.infBits then .inf neg
  else if e = 0 then .num neg f (t.emin - t.sig) false
  else .num neg (f + 2 ^ t.sig) (t.emin - t.sig + (e - 1)) false

/-- The integer on which a format's finite values and infinities fall in order, both zeros at 0. -/
def FT.ord (t : FT) (w : Nat) : Int :=
  if bit w t.mag then -((w % 2 ^ t.mag : Nat) : Int) else ((w % 2 ^ t.mag : Nat) : Int)

/-- The bits at an order. -/
def FT.ofOrd (t : FT) (x : Int) : Nat := (if x < 0 then 2 ^ t.mag else 0) + x.natAbs

/-- A denormal (R86). -/
def FT.denormal (t : FT) (w : Nat) : Bool := w % 2 ^ t.mag != 0 && decide (w % 2 ^ t.mag < 2 ^ t.sig)

/-- m × 2^e rounded to a multiple of 2^q, and whether that was inexact (R90). -/
def roundAt (mode : Rnd) (neg : Bool) (m : Nat) (e : Int) (more : Bool) (q : Int) : Nat × Bool :=
  if q ≤ e then (m * 2 ^ (e - q).toNat, more)
  else
    let k := (q - e).toNat
    let n := m / 2 ^ k
    let r := m % 2 ^ k
    let h := 2 ^ (k - 1)
    let inexact := r != 0 || more
    let up := match mode with
      | .rne => decide (h < r) || (r == h && (more || n % 2 == 1))
      | .rz => false
      | .rdn => neg && inexact
      | .rup => !neg && inexact
    (if up then n + 1 else n, inexact)

/-- `RoundInt` (R90). -/
def roundInt (mode : Rnd) (neg : Bool) (m : Nat) (e : Int) (more : Bool) : Int × Bool :=
  let r := roundAt mode neg m e more 0
  (if neg then -(r.1 : Int) else r.1, r.2)

/-- `RoundUnbounded` of a non-zero value (R90), as magnitude bits that continue above the largest finite value; and
whether it was inexact. -/
def roundBits (t : FT) (mode : Rnd) (neg : Bool) (m : Nat) (e : Int) (more : Bool) : Nat × Bool :=
  let top := (Nat.log2 m : Int) + e
  let q := max (top - t.sig) (t.emin - t.sig)
  let r := roundAt mode neg m e more q
  ((q - (t.emin - t.sig)).toNat * 2 ^ t.sig + r.1, r.2)

/-- `Convert` to a float type (R91). -/
def convert (t : FT) (mode : Rnd) (sat : Bool) (x : Val) : Nat × Flags :=
  match x with
  | .nan s => (t.nanBits, if s then flNV else fl0)
  | .inf neg =>
    let sg := neg.toNat * 2 ^ t.mag
    if t = .e4m3 then (sg + (if sat then t.maxBits else t.infBits), flNV) else (sg + t.infBits, fl0)
  | .num neg m e more =>
    let sg := neg.toNat * 2 ^ t.mag
    if m = 0 then (sg, fl0)
    else
      let r := roundBits t mode neg m e more
      if t.maxBits < r.1 then
        if sat then (sg + t.maxBits, flOF ||| flNX ||| flSAT)
        else if mode = .rne || (mode = .rup && !neg) || (mode = .rdn && neg) then (sg + t.infBits, flOF ||| flNX)
        else (sg + t.maxBits, flOF ||| flNX)
      else (sg + r.1, if r.2 then (if (Nat.log2 m : Int) + e < t.emin then flNX ||| flUF else flNX) else fl0)

/-- `Convert` to an integer type of w bits (R91); fromInt: the source type is an integer. -/
def convertInt (signed : Bool) (w : Nat) (mode : Rnd) (sat fromInt : Bool) (x : Val) : Nat × Flags :=
  let lo : Int := if signed then -(2 ^ (w - 1) : Nat) else 0
  let hi : Int := if signed then (2 ^ (w - 1) : Nat) - 1 else (2 ^ w : Nat) - 1
  match x with
  | .nan _ => (0, flNV)
  | .inf neg => (((if neg then lo else hi) % (2 ^ w : Nat)).toNat, flNV)
  | .num neg m e more =>
    let r := roundInt mode neg m e more
    let v := r.1
    if v < lo || hi < v then
      if fromInt && !sat then ((v % (2 ^ w : Nat)).toNat, fl0)
      else (((if v < lo then lo else hi) % (2 ^ w : Nat)).toNat, if fromInt then flSAT else flNV)
    else ((v % (2 ^ w : Nat)).toNat, if r.2 then flNX else fl0)

/-- Scaling by a power of two, exactly (R106). -/
def Val.scale (x : Val) (k : Int) : Val :=
  match x with
  | .num n m e more => .num n m (e + k) more
  | v => v

/-- The sum of two finite values, exactly; an exact zero takes the IEEE sign (R188). -/
def addNum (mode : Rnd) (na : Bool) (ma : Nat) (ea : Int) (nb : Bool) (mb : Nat) (eb : Int) : Val :=
  let e := min ea eb
  let a : Int := (ma * 2 ^ (ea - e).toNat : Nat)
  let b : Int := (mb * 2 ^ (eb - e).toNat : Nat)
  let s := (if na then -a else a) + (if nb then -b else b)
  if s = 0 then .num (if ma = 0 && mb = 0 && na == nb then na else decide (mode = .rdn)) 0 0 false
  else .num (decide (s < 0)) s.natAbs e false

/-- a + b before rounding, and NV (R188). -/
def addVal (mode : Rnd) (a b : Val) : Val × Flags :=
  let f := if a.isSnan || b.isSnan then flNV else fl0
  match a, b with
  | .nan _, _ => (.nan false, f)
  | _, .nan _ => (.nan false, f)
  | .inf na, .inf nb => if na = nb then (.inf na, f) else (.nan false, flNV)
  | .inf n, .num _ _ _ _ => (.inf n, f)
  | .num _ _ _ _, .inf n => (.inf n, f)
  | .num na ma ea _, .num nb mb eb _ => (addNum mode na ma ea nb mb eb, f)

/-- a × b before rounding, and NV (R188). -/
def mulVal (a b : Val) : Val × Flags :=
  let f := if a.isSnan || b.isSnan then flNV else fl0
  match a, b with
  | .nan _, _ => (.nan false, f)
  | _, .nan _ => (.nan false, f)
  | .inf na, .inf nb => (.inf (na != nb), f)
  | .inf na, .num nb m _ _ => if m = 0 then (.nan false, flNV) else (.inf (na != nb), f)
  | .num na m _ _, .inf nb => if m = 0 then (.nan false, flNV) else (.inf (na != nb), f)
  | .num na ma ea _, .num nb mb eb _ => (.num (na != nb) (ma * mb) (ea + eb) false, f)

/-- a × b + c before rounding, and NV: 0 × Inf is invalid whatever c is (R188). -/
def fmaVal (mode : Rnd) (a b c : Val) : Val × Flags :=
  let p := mulVal a b
  let r := addVal mode p.1 c
  (r.1, p.2 ||| r.2)

/-- a ÷ b before rounding, to 64 bits and a remainder mark, with NV and DZ (R188). -/
def divVal (a b : Val) : Val × Flags :=
  let f := if a.isSnan || b.isSnan then flNV else fl0
  match a, b with
  | .nan _, _ => (.nan false, f)
  | _, .nan _ => (.nan false, f)
  | .inf _, .inf _ => (.nan false, flNV)
  | .inf na, .num nb _ _ _ => (.inf (na != nb), f)
  | .num na _ _ _, .inf nb => (.num (na != nb) 0 0 false, f)
  | .num na ma ea _, .num nb mb eb _ =>
    if mb = 0 then (if ma = 0 then (.nan false, flNV) else (.inf (na != nb), flDZ))
    else
      let n := ma * 2 ^ 96
      (.num (na != nb) (n / mb) (ea - eb - 96) (n % mb != 0), f)

/-- The integer square root, bit by bit from the k-th down. -/
def sqrtBits (n : Nat) (r : Nat) : Nat → Nat
  | 0 => r
  | k + 1 => sqrtBits n (if (r + 2 ^ k) * (r + 2 ^ k) ≤ n then r + 2 ^ k else r) k

/-- √a before rounding, with NV (R188). -/
def sqrtVal (a : Val) : Val × Flags :=
  match a with
  | .nan s => (.nan false, if s then flNV else fl0)
  | .inf neg => if neg then (.nan false, flNV) else (.inf false, fl0)
  | .num neg m e more =>
    if m = 0 then (.num neg 0 0 false, fl0)
    else if neg then (.nan false, flNV)
    else
      let k : Nat := if e % 2 = 0 then 64 else 65
      let n := m * 2 ^ k
      let r := sqrtBits n 0 (Nat.log2 n / 2 + 1)
      (.num false r ((e - k) / 2) (r * r != n || more), fl0)

/-- FTZ: a denormal replaced by zero of its sign (R94). -/
def ftzIn (t : FT) (ftz : Bool) (w : Nat) : Nat :=
  if ftz && t == .f32 && t.denormal w then w / 2 ^ t.mag % 2 * 2 ^ t.mag else w

/-- FTZ of a result: flushing sets UF and NX (R188). -/
def ftzOut (t : FT) (ftz : Bool) (r : Nat × Flags) : Nat × Flags :=
  if ftz && t == .f32 && t.denormal r.1 then (r.1 / 2 ^ t.mag % 2 * 2 ^ t.mag, r.2 ||| flUF ||| flNX) else r

/-- The rounded result of an exact operation (R188). -/
def finish (t : FT) (mode : Rnd) (sat ftz : Bool) (x : Val × Flags) : Nat × Flags :=
  let r := convert t mode sat x.1
  ftzOut t ftz (r.1, r.2 ||| x.2)

/-- `vfmin` and `vfmax` of two elements (R189). -/
def minMax (t : FT) (ftz isMax : Bool) (a b : Nat) : Nat × Flags :=
  let a := ftzIn t ftz a
  let b := ftzIn t ftz b
  let va := t.val a
  let vb := t.val b
  let f := if va.isSnan || vb.isSnan then flNV else fl0
  if va.isNan && vb.isNan then (t.nanBits, f)
  else if va.isNan then (b, f)
  else if vb.isNan then (a, f)
  else
    let aLess := decide (t.ord a < t.ord b) || (t.ord a == t.ord b && va.sign && !vb.sign)
    (if aLess != isMax then a else b, f)

/-- A power of two, exactly. -/
def isPow2 (m : Nat) : Bool := m != 0 && m == 2 ^ Nat.log2 m

/-- Within one ulp of an exact value (R190): the exact one where the rule says so; else a neighbour chosen by an
implementation (Config.approxUp). -/
def within1 (fn : Nat) (raw : W32) (ftz : Bool) (must : Bool) (x : Val) : Nat :=
  let lo := (convert .f32 .rz false x)
  if lo.2 &&& flNX = 0 then
    if must || !Config.approxUp (fn + 16) raw ftz then lo.1
    else if Config.approxUp fn raw ftz then lo.1 + 1 else lo.1 - 1
  else if Config.approxUp fn raw ftz then lo.1 + 1 else lo.1

/-- A free f32 value held between two f32 orders. -/
def between (fn : Nat) (raw : W32) (ftz : Bool) (lo hi : Int) : Nat :=
  FT.f32.ofOrd (min hi (max lo (FT.f32.ord (Config.approx fn raw ftz).toNat)))

/-- FTZ of an approximated result (R190). -/
def flushed (ftz : Bool) (r : Nat × Flags) : Nat × Flags := ftzOut .f32 ftz r

/-- A result above MaxT (R190): ±Inf with OF; ±MaxT with SAT under md[40], where the table gives no OF. -/
def approxOver (neg sat : Bool) : Nat × Flags :=
  (neg.toNat * 2 ^ 31 + (if sat then FT.f32.maxBits else FT.f32.infBits), if sat then flSAT else flOF)

/-- `vrcp` (R190). -/
def rcp (ftz sat : Bool) (w : Nat) : Nat × Flags :=
  let w := ftzIn .f32 ftz w
  match FT.f32.val w with
  | .nan s => (FT.f32.nanBits, if s then flNV else fl0)
  | .inf neg => (neg.toNat * 2 ^ 31, fl0)
  | .num neg m e more =>
    if m = 0 then (neg.toNat * 2 ^ 31 + FT.f32.infBits, flDZ)
    else
      let x := (divVal (.num false 1 0 false) (.num neg m e more)).1
      if (convert .f32 .rup false (match x with | .num _ m e s => .num false m e s | v => v)).2 &&& flOF != 0 then approxOver neg sat
      else
        let r := within1 0 (BitVec.ofNat 32 w) ftz (isPow2 m && decide (-((Nat.log2 m : Int) + e) ≥ FT.f32.emin)) x
        flushed ftz (r, fl0)

/-- `vrsq` (R190). -/
def rsq (ftz : Bool) (w : Nat) : Nat × Flags :=
  let w := ftzIn .f32 ftz w
  match FT.f32.val w with
  | .nan s => (FT.f32.nanBits, if s then flNV else fl0)
  | .inf neg => if neg then (FT.f32.nanBits, flNV) else (0, fl0)
  | .num neg m e more =>
    if m = 0 then (neg.toNat * 2 ^ 31 + FT.f32.infBits, flDZ)
    else if neg then (FT.f32.nanBits, flNV)
    else
      let x := (sqrtVal (divVal (.num false 1 0 false) (.num false m e more)).1).1
      flushed ftz (within1 1 (BitVec.ofNat 32 w) ftz (isPow2 m && ((Nat.log2 m : Int) + e) % 2 == 0) x, fl0)

/-! The approximated functions to a fixed point of 160 bits or more, which locates the neighbours R190 allows. -/

/-- ln 2 and pi, times 2^160, rounded down. -/
def ln2Fix : Nat := 0xB17217F7D1CF79ABC9E3B39803F2F6AF40F34326
def piFix : Nat := 0x3243F6A8885A308D313198A2E03707344A4093822
/-- The terms x^k / k! of a series, in units of 2^-160, summed from the k-th. -/
def expSum (x term k : Nat) : Nat → Nat
  | 0 => 0
  | n + 1 => term + expSum x (term * x / 2 ^ 160 / k) (k + 1) n
/-- Binary digits of log2 x for 1 ≤ x < 2, x in units of 2^-256, by repeated squaring. -/
def logDigits (x acc : Nat) : Nat → Nat
  | 0 => acc
  | n + 1 =>
    let y := x * x / 2 ^ 256
    if y < 2 ^ 257 then logDigits y (2 * acc) n else logDigits (y / 2) (2 * acc + 1) n
/-- The terms of the sine (k = 1, first term x) or cosine (k = 0, first term 1) of x, in units of 2^-160, from the k-th on. -/
def trigSum (x term : Int) (k : Nat) : Nat → Int
  | 0 => 0
  | n + 1 => term + trigSum x (-(term * x * x / 2 ^ 320) / (((k + 1) * (k + 2) : Nat) : Int)) (k + 2) n

/-- `vexp2` (R190, R191). -/
def exp2 (ftz sat : Bool) (w : Nat) : Nat × Flags :=
  let w := ftzIn .f32 ftz w
  match FT.f32.val w with
  | .nan s => (FT.f32.nanBits, if s then flNV else fl0)
  | .inf neg => (if neg then 0 else FT.f32.infBits, fl0)
  | .num neg m e more =>
    let f := roundInt .rdn neg m e more
    if f.1 ≥ 128 then approxOver false sat
    else if f.1 < -150 || (f.1 = -150 && !f.2) then (0, flUF)
    else if !f.2 then flushed ftz ((convert .f32 .rne false (.num false 1 (max f.1 (-149)) false)).1, fl0)
    else
      let a := m * 2 ^ (e + 160).toNat % 2 ^ 160
      let x := expSum ((if neg then 2 ^ 160 - a else a) * ln2Fix / 2 ^ 160) (2 ^ 160) 1 40
      let r := max 1 (within1 2 (BitVec.ofNat 32 w) ftz true (.num false x (f.1 - 160) true))
      if r = FT.f32.infBits then approxOver false sat else flushed ftz (r, if f.1 < -126 then flUF else fl0)

/-- `vlog2` (R190, R191). -/
def log2f (ftz : Bool) (w : Nat) : Nat × Flags :=
  let w := ftzIn .f32 ftz w
  match FT.f32.val w with
  | .nan s => (FT.f32.nanBits, if s then flNV else fl0)
  | .inf neg => if neg then (FT.f32.nanBits, flNV) else (FT.f32.infBits, fl0)
  | .num neg m e _ =>
    if m = 0 then (2 ^ 31 + FT.f32.infBits, flDZ)
    else if neg then (FT.f32.nanBits, flNV)
    else
      let n := (Nat.log2 m : Int) + e
      if isPow2 m then flushed ftz ((convert .f32 .rne false (Val.ofInt n)).1, fl0)
      else
        let l := n * 2 ^ 128 + (logDigits (m * 2 ^ (256 - Nat.log2 m)) 0 128 : Int)
        let x := if l < 0 then Val.num true ((-l).toNat - 1) (-128) true else Val.num false l.toNat (-128) true
        flushed ftz (within1 3 (BitVec.ofNat 32 w) ftz true x, fl0)

/-- `vsin` and `vcos` (R190, R191): a value within 2^-22 of the exact one up to 100 pi, and one of [-1, 1] beyond. -/
def sinCos (ftz cos : Bool) (w : Nat) : Nat × Flags :=
  let w := ftzIn .f32 ftz w
  let fn := if cos then 3 else 2
  match FT.f32.val w with
  | .nan s => (FT.f32.nanBits, if s then flNV else fl0)
  | .inf _ => (FT.f32.nanBits, flNV)
  | .num neg m e _ =>
    let a := m * 2 ^ (e + 160).toNat
    if m = 0 then (if cos then 0x3F800000 else w, fl0)
    else if a ≤ 100 * piFix then
      let x : Int := ((a % (2 * piFix) : Nat) : Int)
      let y := if cos then trigSum x (2 ^ 160) 0 40 else trigSum x x 1 40
      let y := if neg && !cos then -y else y
      let at_ := fun (up : Rnd) (v : Int) => FT.f32.ord (convert .f32 up false (.num (decide (v < 0)) v.natAbs (-160) false)).1
      flushed ftz (between fn (BitVec.ofNat 32 w) ftz (at_ .rup (y - 2 ^ 138)) (at_ .rdn (y + 2 ^ 138)), fl0)
    else flushed ftz (between fn (BitVec.ofNat 32 w) ftz (-0x3F800000) 0x3F800000, fl0)

/-- `vfrnd` of an element (R192). -/
def roundIntegral (t : FT) (mode : Rnd) (w : Nat) : Nat × Flags :=
  match t.val w with
  | .nan s => (t.nanBits, if s then flNV else fl0)
  | .inf _ => (w, fl0)
  | .num neg m e more =>
    let r := roundAt mode neg m e more 0
    let y := (convert t .rne false (.num neg r.1 0 false)).1
    (y, if r.2 then flNX else fl0)

/-- `vfcls` of an element (R192). -/
def classBit (t : FT) (w : Nat) : Nat :=
  match t.val w with
  | .nan s => if s then 2 ^ 8 else 2 ^ 9
  | .inf neg => if neg then 1 else 2 ^ 7
  | .num neg m _ _ =>
    if m = 0 then (if neg then 2 ^ 3 else 2 ^ 4)
    else if t.denormal w then (if neg then 2 ^ 2 else 2 ^ 5)
    else if neg then 2 else 2 ^ 6

/-- RoundF32 of an exact value, as a value again (R8, R97). -/
def roundF32 (x : Val) : Val := FT.f32.val (convert .f32 .rne false x).1

/-- One tree node (R97). -/
def treeNode (x y : Val) : Val := roundF32 (addVal .rne x y).1

/-- One level of the fixed binary tree (R97). -/
def treeLevel : List Val → List Val
  | x :: y :: r => treeNode x y :: treeLevel r
  | r => r

/-- `DotBlock` (R97). -/
def dotBlock (a b : List Val) : Val :=
  let n0 := List.zipWith (fun x y => (mulVal x y).1) a b
  (treeLevel (treeLevel (treeLevel (treeLevel (treeLevel n0))))).headD (.num false 0 0 false)

/-- One block of `DotAccumulate`: D plus the scaled block sum (R97); the scales are E8 codes. -/
def dotAccumulate (d : Val) (a b : List Val) (ea eb : Nat) : Val :=
  let s := dotBlock a b
  let s := if ea = 0xFF || eb = 0xFF then Val.nan false else roundF32 (s.scale ((ea : Int) + eb - 254))
  roundF32 (addVal .rne d s).1

/-- Destinations of the quantiser (R99). -/
inductive QT where
  | e4m3 | e5m2 | i8
  deriving DecidableEq, Repr

/-- Emax of R99. -/
def QT.emax : QT → Int
  | .e4m3 => 8 | .e5m2 => 15 | .i8 => 6

/-- The float type of a quantiser destination. -/
def QT.ft : QT → FT
  | .e4m3 => .e4m3 | .e5m2 => .e5m2 | .i8 => .e4m3

/-- A scaled value rounded by the quantiser lies outside the destination's range (R99, in every mode as the procedure
states it: DEDUCED, log 16). -/
def qOut (t : QT) (mode : Rnd) (x : Val) : Bool :=
  match x with
  | .num neg m e more =>
    if m = 0 then false
    else match t with
      | .i8 => let v := (roundInt mode neg m e more).1; decide (v < -128) || decide (127 < v)
      | .e4m3 => decide (FT.e4m3.maxBits < (roundBits .e4m3 mode neg m e more).1)
      | .e5m2 => decide (FT.e5m2.maxBits < (roundBits .e5m2 mode neg m e more).1)
  | _ => true

/-- The retry loop of R99, from scale s: the scale, the retries and whether the block still overflows. -/
def qLoop (t : QT) (mode : Rnd) (xs : List Val) (retry : Nat) : Nat → Int → Nat → Int × Nat × Bool
  | 0, s, n => (s, n, true)
  | fuel + 1, s, n =>
    if !xs.any (fun x => qOut t mode (x.scale (-s))) then (s, n, false)
    else if n = retry || s = 127 then (s, n, true)
    else qLoop t mode xs retry fuel (s + 1) (n + 1)

/-- The result of the quantiser: codes, scale code, retries, overflow, nonfinite, flags (R99). -/
structure QRes where
  y : List Nat
  code : Nat
  tries : Nat
  ovf : Bool
  nonfin : Bool
  flags : Flags
  deriving DecidableEq, Repr

/-- The magnitude of a value as an exponent: floor(log2 |x|) (R99). -/
def Val.log2 : Val → Option Int
  | .num _ m e _ => if m = 0 then none else some ((Nat.log2 m : Int) + e)
  | _ => none

/-- The greatest of the magnitudes' exponents. -/
def maxLog (xs : List Val) : Option Int :=
  xs.foldl (fun a x => match a, x.log2 with
    | none, l => l
    | some p, none => some p
    | some p, some q => some (max p q)) none

/-- One element of the quantiser's result (R99). -/
def qElem (t : QT) (mode : Rnd) (qsat : Bool) (x : Val) : Nat × Flags :=
  match t with
  | .i8 =>
    match x with
    | .num neg m e more =>
      let r := roundInt mode neg m e more
      if r.1 < -128 then (128, flSAT)
      else if 127 < r.1 then (127, flSAT)
      else ((r.1 % 256).toNat, if r.2 then flNX else fl0)
    | _ => (0, fl0)
  | .e4m3 => convert .e4m3 mode qsat x
  | .e5m2 => convert .e5m2 mode qsat x

/-- `Quantise` (R99). -/
def quantise (t : QT) (mode : Rnd) (retry : Nat) (qsat : Bool) (xs : List Val) : QRes :=
  if xs.any (fun x => !x.finite) then
    { y := xs.map (fun _ => match t with | .i8 => 0 | .e4m3 => FT.e4m3.nanBits | .e5m2 => FT.e5m2.nanBits),
      code := 0xFF, tries := 0, ovf := false, nonfin := true, flags := fl0 }
  else
    let s0 : Int := match maxLog xs with
      | none => 0
      | some l => max (-127) (min 127 (l - t.emax))
    let l := qLoop t mode xs retry 8 s0 0
    let ys := xs.map (fun x => qElem t mode qsat (x.scale (-l.1)))
    { y := ys.map (·.1), code := (l.1 + 127).toNat, tries := l.2.1, ovf := l.2.2, nonfin := false,
      flags := ys.foldl (fun f y => f ||| y.2) (if l.2.2 then flQO else fl0) }

end Sys2Proof.Machine
end

