-- ==== Sys2Proof/Syntax.lean ====
section
/-! DEFINITION. The instructions and events of the G9: one constructor for every row of the opcode table, in its
order. Scalar instructions name their fields (spec/03 R65-R72), lane instructions carry the operand fields of
their word (R73-R81), events carry what their rule says the step is about (spec/95). -/

namespace Sys2Proof

/-- Every step of the G9 (spec/95, opcode table). -/
inductive Instr where
  /-- ADD (R166): Writes the 64-bit sum a + b, wrapping mod 2^64, to sd. -/
  | add (d a b : Reg)
  /-- SUB (R166): Writes the 64-bit difference a − b, wrapping, to sd. -/
  | sub (d a b : Reg)
  /-- MUL (R166): Writes bits 63:0 of the product a × b to sd. -/
  | mul (d a b : Reg)
  /-- MULH (R166): Writes bits 127:64 of the signed product to sd. -/
  | mulh (d a b : Reg)
  /-- MULHN (R166): Writes bits 127:64 of the unsigned product to sd. -/
  | mulhn (d a b : Reg)
  /-- DIV (R167): Writes the signed quotient, with fixed results for division by zero and overflow, to sd. -/
  | div (d a b : Reg)
  /-- DIVN (R167): Writes the unsigned quotient to sd; division by zero gives all ones. -/
  | divn (d a b : Reg)
  /-- REM (R167): Writes the signed remainder, taking the sign of the dividend, to sd. -/
  | rem (d a b : Reg)
  /-- REMN (R167): Writes the unsigned remainder to sd; division by zero gives a. -/
  | remn (d a b : Reg)
  /-- AND (R166): Writes the bitwise and of a and b to sd. -/
  | and (d a b : Reg)
  /-- OR (R166): Writes the bitwise or of a and b to sd. -/
  | or (d a b : Reg)
  /-- XOR (R166): Writes the bitwise exclusive or of a and b to sd. -/
  | xor (d a b : Reg)
  /-- SHL (R166): Writes a shifted left by b[5:0] to sd. -/
  | shl (d a b : Reg)
  /-- SHR (R166): Writes a shifted right logically by b[5:0] to sd. -/
  | shr (d a b : Reg)
  /-- SRA (R166): Writes a shifted right arithmetically by b[5:0] to sd. -/
  | sra (d a b : Reg)
  /-- MIN (R166): Writes the signed minimum of a and b to sd. -/
  | min (d a b : Reg)
  /-- MAX (R166): Writes the signed maximum of a and b to sd. -/
  | max (d a b : Reg)
  /-- MINN (R166): Writes the unsigned minimum of a and b to sd. -/
  | minn (d a b : Reg)
  /-- MAXN (R166): Writes the unsigned maximum of a and b to sd. -/
  | maxn (d a b : Reg)
  /-- SLT (R166): Writes 1 to sd if a is less than b as signed values, else 0. -/
  | slt (d a b : Reg)
  /-- SLTN (R166): Writes 1 to sd if a is less than b as unsigned values, else 0. -/
  | sltn (d a b : Reg)
  /-- SEQ (R166): Writes 1 to sd if a equals b, else 0. -/
  | seq (d a b : Reg)
  /-- SNE (R166): Writes 1 to sd if a differs from b, else 0. -/
  | sne (d a b : Reg)
  /-- CLZ (R166): Writes the number of leading zero bits of a to sd. -/
  | clz (d a : Reg)
  /-- CTZ (R166): Writes the number of trailing zero bits of a to sd. -/
  | ctz (d a : Reg)
  /-- POPC (R166): Writes the number of one bits of a to sd. -/
  | popc (d a : Reg)
  /-- SEXT_B (R166): Writes the sign extension of a[7:0] to sd. -/
  | sextB (d a : Reg)
  /-- SEXT_H (R166): Writes the sign extension of a[15:0] to sd. -/
  | sextH (d a : Reg)
  /-- SEXT_W (R166): Writes the sign extension of a[31:0] to sd. -/
  | sextW (d a : Reg)
  /-- ZEXT_B (R166): Writes the zero extension of a[7:0] to sd. -/
  | zextB (d a : Reg)
  /-- ZEXT_H (R166): Writes the zero extension of a[15:0] to sd. -/
  | zextH (d a : Reg)
  /-- ZEXT_W (R166): Writes the zero extension of a[31:0] to sd. -/
  | zextW (d a : Reg)
  /-- ADDI (R169): Adds the sign-extended 16-bit immediate to sa and writes sd. -/
  | addi (d a : Reg) (imm : BitVec 16)
  /-- ANDI (R169): Ands sa with the zero-extended immediate into sd. -/
  | andi (d a : Reg) (imm : BitVec 16)
  /-- ORI (R169): Ors sa with the zero-extended immediate into sd. -/
  | ori (d a : Reg) (imm : BitVec 16)
  /-- XORI (R169): Exclusive-ors sa with the zero-extended immediate into sd. -/
  | xori (d a : Reg) (imm : BitVec 16)
  /-- SHLI (R169): Shifts sa left by an immediate amount into sd. -/
  | shli (d a : Reg) (n : BitVec 6)
  /-- SHRI (R169): Shifts sa right logically by an immediate amount into sd. -/
  | shri (d a : Reg) (n : BitVec 6)
  /-- SRAI (R169): Shifts sa right arithmetically by an immediate amount into sd. -/
  | srai (d a : Reg) (n : BitVec 6)
  /-- SLTI (R169): Writes 1 to sd if sa is signed-less than the sign-extended immediate. -/
  | slti (d a : Reg) (imm : BitVec 16)
  /-- LIH (R169): Writes Sext(imm16 << 16, 32) to sd. -/
  | lih (d : Reg) (imm : BitVec 16)
  /-- LHH (R169): Adds the sign-extended immediate shifted left by 32 to sa into sd. -/
  | lhh (d a : Reg) (imm : BitVec 16)
  /-- LHX (R169): Adds the sign-extended immediate shifted left by 48 to sa into sd. -/
  | lhx (d a : Reg) (imm : BitVec 16)
  /-- SLD (R172): Loads 1 to 8 bytes at sa + off, cached or bypassing, and zero-extends them into sd. -/
  | sld (d a : Reg) (sz : Size) (bp : Bool) (off : BitVec 12)
  /-- SST (R173): Stores the low 1 to 8 bytes of the data register at sa + off. -/
  | sst (d a : Reg) (sz : Size) (off : BitVec 12)
  /-- BEQ (R160): Branches by off16 words when sa equals sb. -/
  | beq (a b : Reg) (off : BitVec 16)
  /-- BNE (R160): Branches when sa differs from sb. -/
  | bne (a b : Reg) (off : BitVec 16)
  /-- BLT (R160): Branches when sa is signed-less than sb. -/
  | blt (a b : Reg) (off : BitVec 16)
  /-- BGE (R160): Branches when sa is signed-greater-or-equal to sb. -/
  | bge (a b : Reg) (off : BitVec 16)
  /-- BLTN (R160): Branches when sa is unsigned-less than sb. -/
  | bltn (a b : Reg) (off : BitVec 16)
  /-- BGEN (R160): Branches when sa is unsigned-greater-or-equal to sb. -/
  | bgen (a b : Reg) (off : BitVec 16)
  /-- JMP (R160): Jumps by off26 words. -/
  | jmp (off : BitVec 26)
  /-- CALL (R160): Writes PC + 4 to s31 and jumps by off26 words. -/
  | call (off : BitVec 26)
  /-- JR (R160): Jumps to the address in sa, faulting ALIGN if it is misaligned. -/
  | jr (a : Reg)
  /-- CALLR (R160): Writes the link to s31 and jumps to the address read from sa. -/
  | callr (a : Reg)
  /-- RET (R160): Jumps to the address in s31. -/
  | ret
  /-- LGO (R128): Queues a lane block with start index, block parameters and the scalar FMT, stalling while the lane queue is full. -/
  | lgo (a b : Reg) (n : BitVec 5)
  /-- LSYNC (R129): Holds the S-stream until the lane queue is empty. -/
  | lsync
  /-- SPOP (R130): Removes the oldest return-queue entry into sd, stalling while empty. -/
  | spop (d : Reg)
  /-- LQD (R131): Writes the lane and return queue depths to sd. -/
  | lqd (d : Reg)
  /-- SPAWN (R133): Creates a new group of the team on the caller's core and reports a status. -/
  | spawn (d a : Reg)
  /-- EXIT (R134): Waits for the lane queue to empty and retires the group. -/
  | exit
  /-- YIELD (R135): Marks the group as most recently issued on its S-stream. -/
  | yield
  /-- SETPRIO (R135): Sets the group's non-critical class. -/
  | setprio (n : BitVec 5)
  /-- CRIT (R122): Increments or decrements the group's critical count. -/
  | crit (n : BitVec 5)
  /-- SRD (R137): Reads a special register into sd. -/
  | srd (d : Reg) (code : BitVec 10)
  /-- SWR (R137): Writes FMT or FLAGS from sa, faulting PRIV on a read-only register. -/
  | swr (a : Reg) (code : BitVec 10)
  /-- FMT (R137): Writes bits 18:0 of sa to the scalar FMT. -/
  | fmt (a : Reg)
  /-- STIME (R137): Reads STC into sd, ordered with the group's memory accesses on both sides. -/
  | stime (d : Reg)
  /-- MARK (R137): Emits a trace marker carrying sa and n, stamped with STC. -/
  | mark (a : Reg) (n : BitVec 10)
  /-- TALLOC (R287): Binds a handle to a run of Casket slots with the given shape. -/
  | talloc (h : Hnd) (a : Reg)
  /-- TGIVE (R288): Makes another live group of the team the owner of a handle. -/
  | tgive (h : Hnd) (a : Reg)
  /-- TFREE (R289): Unbinds a handle at once, leaving its slots draining. -/
  | tfree (h : Hnd)
  /-- TLD (R290): Hands the copy engine a command that moves a shaped region into the tile. -/
  | tld (h : Hnd) (a b : Reg)
  /-- TST (R290): Hands the copy engine a command that moves the tile into a shaped region. -/
  | tst (h : Hnd) (a b : Reg)
  /-- TZERO (R291): Writes zero to every byte of the tile in slot order. -/
  | tzero (h : Hnd)
  /-- TINFO (R292): Writes a handle's binding, ownership and slot information to sa. -/
  | tinfo (d : Reg) (h : Hnd)
  /-- MXACQ (R310): Appends the team to the tandem's acquisition queue. -/
  | mxacq
  /-- MXREL (R310): Ends the team's acquisition of the matrix complex. -/
  | mxrel
  /-- MXRDY (R311): Waits for earlier lane writes and posts a B quarter into a tag place. -/
  | mxrdy (tag : BitVec 6) (q : BitVec 2) (vn : BitVec 8)
  /-- MXA (R304): Issues a dense matrix multiply-accumulate command into the team's queue. -/
  | mxa (hd ha : Hnd) (tag : BitVec 6)
  /-- MXS (R305): Issues a 2:4 sparse matrix multiply-accumulate command. -/
  | mxs (hd ha : Hnd) (tag : BitVec 6)
  /-- MXDR (R312): Issues a command that drains D into a region by add, max, min or quantised replacement. -/
  | mxdr (hd : Hnd) (a b : Reg) (n : BitVec 6)
  /-- CBLD (R314): Issues a command that loads the A or B Q4 codebook. -/
  | cbld (a : Reg) (n : BitVec 6)
  /-- CPY (R267): Hands the copy engine a linear byte copy, optionally counted into a barrier object. -/
  | cpy (bar a b c : Reg)
  /-- CPYT (R268): Hands the copy engine a tile move described by a shape record. -/
  | cpyt (bar a b c : Reg)
  /-- CPYS (R271): Reads a sealed message header, checks the destination and hands a sealed copy-in to the engine. -/
  | cpys (bar a b c : Reg)
  /-- BCLOSE (R269): Closes the group's open copy or matrix commands into a numbered batch. -/
  | bclose (d : Reg) (n : BitVec 5)
  /-- BINIT (R221): Initialises a barrier object and faults its former waiters ORPHANWAIT. -/
  | binit (a b : Reg) (f : BitVec 3)
  /-- BARR (R222): Performs one arrival at a barrier object and returns its phase. -/
  | barr (d a : Reg)
  /-- BARRD (R222): Performs one arrival and one drop at a barrier object. -/
  | barrd (d a : Reg)
  /-- BEXP (R223): Adds an expected byte count to a barrier object. -/
  | bexp (a b : Reg)
  /-- WAIT (R224): Waits for a barrier phase or a batch, optionally entering overreach. -/
  | wait (a b : Reg) (kind : WaitKind)
  /-- BTEST (R225): Tests the condition of wait without blocking. -/
  | btest (d a b : Reg) (kind : WaitKind)
  /-- SAMO_ADD (R246): Atomically adds the operand at the port and returns the old value. -/
  | samoAdd (d a b : Reg) (o : Order) (sc : Scope) (w : Bool)
  /-- SAMO_AND (R246): Atomic bitwise and at the port, returning the old value. -/
  | samoAnd (d a b : Reg) (o : Order) (sc : Scope) (w : Bool)
  /-- SAMO_OR (R246): Atomic bitwise or at the port, returning the old value. -/
  | samoOr (d a b : Reg) (o : Order) (sc : Scope) (w : Bool)
  /-- SAMO_XOR (R246): Atomic exclusive or at the port, returning the old value. -/
  | samoXor (d a b : Reg) (o : Order) (sc : Scope) (w : Bool)
  /-- SAMO_MIN (R246): Atomic signed minimum at the port, returning the old value. -/
  | samoMin (d a b : Reg) (o : Order) (sc : Scope) (w : Bool)
  /-- SAMO_MAX (R246): Atomic signed maximum at the port, returning the old value. -/
  | samoMax (d a b : Reg) (o : Order) (sc : Scope) (w : Bool)
  /-- SAMO_MINN (R246): Atomic unsigned minimum at the port, returning the old value. -/
  | samoMinn (d a b : Reg) (o : Order) (sc : Scope) (w : Bool)
  /-- SAMO_MAXN (R246): Atomic unsigned maximum at the port, returning the old value. -/
  | samoMaxn (d a b : Reg) (o : Order) (sc : Scope) (w : Bool)
  /-- SAMO_SWAP (R246): Atomic exchange at the port, returning the old value. -/
  | samoSwap (d a b : Reg) (o : Order) (sc : Scope) (w : Bool)
  /-- SCAS (R246): Atomic compare-and-swap at the port, returning the old value. -/
  | scas (d a b : Reg) (o : Order) (sc : Scope) (w : Bool)
  /-- SAMO_FADD (R246): Atomic f32 add at the port, rounded RNE, returning the old value. -/
  | samoFadd (d a b : Reg) (o : Order) (sc : Scope)
  /-- SLDO (R246): Ordered load performed at the port, optionally an acquire. -/
  | sldo (d a : Reg) (o : Order) (sc : Scope) (w : Bool)
  /-- SSTO (R246): Ordered store performed at the port, optionally a release. -/
  | ssto (a b : Reg) (o : Order) (sc : Scope) (w : Bool)
  /-- LOCK (R249): Requests a lock word at its port and waits until it is granted. -/
  | lock (a : Reg) (sc : Scope) (w : Bool)
  /-- UNLOCK (R249): Writes zero to a lock word with a release and lowers the critical count. -/
  | unlock (a : Reg) (sc : Scope) (w : Bool)
  /-- SRED_ADD (R246): Reduction add at the port with no return value. -/
  | sredAdd (a b : Reg) (o : Order) (sc : Scope) (w : Bool)
  /-- SRED_AND (R246): Reduction and at the port. -/
  | sredAnd (a b : Reg) (o : Order) (sc : Scope) (w : Bool)
  /-- SRED_OR (R246): Reduction or at the port. -/
  | sredOr (a b : Reg) (o : Order) (sc : Scope) (w : Bool)
  /-- SRED_XOR (R246): Reduction exclusive or at the port. -/
  | sredXor (a b : Reg) (o : Order) (sc : Scope) (w : Bool)
  /-- SRED_MIN (R246): Reduction signed minimum at the port. -/
  | sredMin (a b : Reg) (o : Order) (sc : Scope) (w : Bool)
  /-- SRED_MAX (R246): Reduction signed maximum at the port. -/
  | sredMax (a b : Reg) (o : Order) (sc : Scope) (w : Bool)
  /-- SRED_MINN (R246): Reduction unsigned minimum at the port. -/
  | sredMinn (a b : Reg) (o : Order) (sc : Scope) (w : Bool)
  /-- SRED_MAXN (R246): Reduction unsigned maximum at the port. -/
  | sredMaxn (a b : Reg) (o : Order) (sc : Scope) (w : Bool)
  /-- SRED_FADD (R246): Reduction f32 add at the port. -/
  | sredFadd (a b : Reg) (o : Order) (sc : Scope)
  /-- FENCE (R248): Orders the group's accesses as a release, acquire or both at a scope. -/
  | fence (o : Order) (sc : Scope)
  /-- FLUSH (R251): Releases at system scope and writes dirty committed lines of a range back to DRAM. -/
  | flush (a b : Reg)
  /-- INV (R251): Discards every committed cached copy of a range and acquires at system scope. -/
  | inv (a b : Reg)
  /-- VSTAT (R253): Reads request-table, side-log or lost-reduction status into sd. -/
  | vstat (d : Reg) (n : BitVec 5)
  /-- DLAUNCH (R381): Releases at device scope and hands a launch command to a queue as a child launch. -/
  | dlaunch (d a b : Reg)
  /-- TRAP (R422): Stops the group after itself with cause TRAPINSN. -/
  | trap (n : BitVec 10)
  /-- BRK (R422): Stops the group after itself with cause BRK. -/
  | brk (n : BitVec 10)
  /-- CURB (R423): Requests curb leave for a class and writes the cycles waited. -/
  | curb (d : Reg) (n : BitVec 5)
  /-- VADD (R184): Lane integer add, wrapping or saturating. -/
  | vadd (w : LaneWord)
  /-- VSUB (R184): Lane integer subtract. -/
  | vsub (w : LaneWord)
  /-- VMUL (R184): Lane integer multiply, low bits or saturated. -/
  | vmul (w : LaneWord)
  /-- VMULH (R184): Lane integer multiply, high half. -/
  | vmulh (w : LaneWord)
  /-- VMAD (R184): Lane integer multiply-add formed exactly then wrapped or saturated. -/
  | vmad (w : LaneWord)
  /-- VMIN (R184): Lane integer minimum. -/
  | vmin (w : LaneWord)
  /-- VMAX (R184): Lane integer maximum. -/
  | vmax (w : LaneWord)
  /-- VABS (R184): Lane integer absolute value. -/
  | vabs (w : LaneWord)
  /-- VNEG (R184): Lane integer negation. -/
  | vneg (w : LaneWord)
  /-- VAND (R184): Lane bitwise and. -/
  | vand (w : LaneWord)
  /-- VOR (R184): Lane bitwise or. -/
  | vor (w : LaneWord)
  /-- VXOR (R184): Lane bitwise exclusive or. -/
  | vxor (w : LaneWord)
  /-- VNOT (R184): Lane bitwise complement. -/
  | vnot (w : LaneWord)
  /-- VSHL (R184): Lane shift left. -/
  | vshl (w : LaneWord)
  /-- VSHR (R184): Lane logical shift right. -/
  | vshr (w : LaneWord)
  /-- VSRA (R184): Lane arithmetic shift right. -/
  | vsra (w : LaneWord)
  /-- VBFE (R186): Lane bit-field extract. -/
  | vbfe (w : LaneWord)
  /-- VBFI (R186): Lane bit-field insert. -/
  | vbfi (w : LaneWord)
  /-- VPOPC (R184): Lane population count. -/
  | vpopc (w : LaneWord)
  /-- VCLZ (R184): Lane count of leading zeros. -/
  | vclz (w : LaneWord)
  /-- VBREV (R184): Lane bit reversal. -/
  | vbrev (w : LaneWord)
  /-- VFADD (R188): Lane floating-point add rounded once under FMT. -/
  | vfadd (w : LaneWord)
  /-- VFSUB (R188): Lane floating-point subtract. -/
  | vfsub (w : LaneWord)
  /-- VFMUL (R188): Lane floating-point multiply. -/
  | vfmul (w : LaneWord)
  /-- VFFMA (R188): Lane fused multiply-add rounded once. -/
  | vffma (w : LaneWord)
  /-- VFMIN (R189): Lane floating-point minimum. -/
  | vfmin (w : LaneWord)
  /-- VFMAX (R189): Lane floating-point maximum. -/
  | vfmax (w : LaneWord)
  /-- VFDIV (R188): Long-latency correctly rounded lane division. -/
  | vfdiv (w : LaneWord)
  /-- VRCP (R190): Long-latency approximate f32 reciprocal. -/
  | vrcp (w : LaneWord)
  /-- VRSQ (R190): Long-latency approximate f32 reciprocal square root. -/
  | vrsq (w : LaneWord)
  /-- VSQRT (R188): Long-latency correctly rounded square root. -/
  | vsqrt (w : LaneWord)
  /-- VEXP2 (R190): Long-latency approximate base-2 exponential. -/
  | vexp2 (w : LaneWord)
  /-- VLOG2 (R190): Long-latency approximate base-2 logarithm. -/
  | vlog2 (w : LaneWord)
  /-- VSIN (R190): Long-latency approximate sine. -/
  | vsin (w : LaneWord)
  /-- VCOS (R190): Long-latency approximate cosine. -/
  | vcos (w : LaneWord)
  /-- VFRND (R192): Rounds each element to an integral value under FMT.RND. -/
  | vfrnd (w : LaneWord)
  /-- VFCLS (R192): Writes a one-hot class code for each element. -/
  | vfcls (w : LaneWord)
  /-- VCMP (R193): Integer compare writing a predicate and its complement. -/
  | vcmp (cc : Cond) (w : LaneWord)
  /-- VFCMP (R193): Floating-point compare writing a predicate and its complement. -/
  | vfcmp (cc : Cond) (w : LaneWord)
  /-- PAND (R194): Predicate and. -/
  | pand (w : LaneWord)
  /-- POR (R194): Predicate or. -/
  | por (w : LaneWord)
  /-- PXOR (R194): Predicate exclusive or. -/
  | pxor (w : LaneWord)
  /-- PANDN (R194): Predicate and-not. -/
  | pandn (w : LaneWord)
  /-- VCVT (R102): Converts elements between types of one class under RND. -/
  | vcvt (w : LaneWord)
  /-- VQUANT (R105): Long-latency block quantisation with an E8 scale and status word. -/
  | vquant (w : LaneWord)
  /-- VDEQ (R106): Dequantises narrow elements through a codebook and optional scale. -/
  | vdeq (w : LaneWord)
  /-- VPACK (R103): Converts and packs two registers into narrower elements. -/
  | vpack (w : LaneWord)
  /-- VUNPACK (R104): Unpacks one part of a packed register into wider elements. -/
  | vunpack (w : LaneWord)
  /-- VSCALE (R107): Scales elements by an E8 code and converts them. -/
  | vscale (w : LaneWord)
  /-- VMOV (R196): Copies a register or pair. -/
  | vmov (w : LaneWord)
  /-- VMOVK (R196): Copies a 64-bit block parameter into a register pair. -/
  | vmovk (w : LaneWord)
  /-- VMOVI (R196): Writes an immediate to a register. -/
  | vmovi (w : LaneWord)
  /-- VSEL (R196): Selects between two operands by a predicate. -/
  | vsel (w : LaneWord)
  /-- VSHFL (R198): Long-latency lane shuffle by index, xor, up or down. -/
  | vshfl (w : LaneWord)
  /-- VBCAST (R198): Long-latency broadcast of one source lane. -/
  | vbcast (w : LaneWord)
  /-- VBALLOT (R198): Long-latency ballot of a predicate into a lane mask. -/
  | vballot (w : LaneWord)
  /-- VRED (R199): Long-latency reduction across participants along a fixed tree. -/
  | vred (w : LaneWord)
  /-- VSCAN (R199): Long-latency inclusive or exclusive prefix scan along a fixed tree. -/
  | vscan (w : LaneWord)
  /-- VPUT (R200): Pushes one 64-bit value onto the return queue, stalling while full. -/
  | vput (w : LaneWord)
  /-- VSPEC (R201): Writes a selected lane or group identity value. -/
  | vspec (w : LaneWord)
  /-- VLD (R242): Gathers one element per lane from memory. -/
  | vld (w : LaneWord)
  /-- VST (R242): Scatters one element per lane to memory, optionally with release. -/
  | vst (w : LaneWord)
  /-- VLDS (R211): Loads one element per lane from team scratch by aperture offset. -/
  | vlds (w : LaneWord)
  /-- VSTS (R211): Stores one element per lane to team scratch. -/
  | vsts (w : LaneWord)
  /-- VAMO (R245): Performs one atomic or reduction per lane at its port. -/
  | vamo (w : LaneWord)
  /-- VRDM (R242): Uncached lane load, optionally an acquire. -/
  | vrdm (w : LaneWord)
  /-- VTGET (R294): Reads one tile row into a register in slot order. -/
  | vtget (w : LaneWord)
  /-- VTSET (R294): Writes a register into one tile row in slot order. -/
  | vtset (w : LaneWord)
  /-- LBRA (R150): Splits the path by guard and branches the taken lanes. -/
  | lbra (w : LaneWord)
  /-- MJOIN (R151): Pushes a join entry naming the rejoin index. -/
  | mjoin (w : LaneWord)
  /-- JOIN (R152): Arrives at the path's join and resolves the stack. -/
  | join (w : LaneWord)
  /-- LEND (R153): Retires the path and ends the block when no path remains. -/
  | lend (w : LaneWord)
  /-- LKILL (R154): Clears guarded lanes from the live mask and the path. -/
  | lkill (w : LaneWord)
  /-- LFMT (R155): Sets the current path's FMT copy. -/
  | lfmt (w : LaneWord)
  /-- LNOP (R156): Lane no-operation that counts toward windows. -/
  | lnop (w : LaneWord)
  /-- LBRK (R157): Stops the group with cause BRK when any guarded lane is true. -/
  | lbrk (w : LaneWord)
  /-- TEAM_ADMISSION (R111): The distributor admits a team once its reservations can be met, copies the scratch image and starts its declared groups. -/
  | teamAdmission (launch : Nat) (place : Place)
  /-- BLOCK_START (R117): The L-stream takes the next queued block and starts it as one path. -/
  | blockStart (gid : Nat)
  /-- LONG_LATENCY_COMPLETE (R123): A long-latency lane instruction completes, writes its results and closes its window. -/
  | longLatencyComplete (gid i : Nat)
  /-- ACCESS_PERFORMED_AT_PORT (R236): A memory access is performed at its port and a load or returning atomic returns data. -/
  | accessPerformedAtPort (gid i : Nat)
  /-- WAIT_PROBE (R227): A group blocked for WPRB cycles sends a probe and faults WAITCYCLE if it returns through blocked parties. -/
  | waitProbe (gid : Nat)
  /-- STREAM_AGE_PROMOTION (R120): A ready stream whose age reaches 256, or 256 × N, is moved ahead in issue order. -/
  | streamAgePromotion (gid : Nat) (lane : Bool)
  /-- CRITTIMEOUT (R416): After 100 µs of deferral critical groups are stopped for pre-emption and a NOSTOP record is written. -/
  | crittimeout (p : Nat)
  /-- TEAM_END (R116): When all groups have exited and commands completed the team publishes its version and frees its resources. -/
  | teamEnd (key : Nat)
  /-- LAUNCH_END (R376): A launch ends with a system-scope release, writes its completion record and advances LASTDONE. -/
  | launchEnd (launch : Nat)
  /-- COPY_BYTES_LANDED (R273): A part of a copy command's destination bytes is performed and counted into LANDED. -/
  | copyBytesLanded (core id n : Nat)
  /-- COPY_COMMAND_COMPLETE (R272): A copy command completes with a status and updates its batch object. -/
  | copyCommandComplete (core id : Nat)
  /-- SEALED_MESSAGE (R271): The engine checks counter and tag of a sealed message and lands its plaintext. -/
  | sealedMessage (core id : Nat)
  /-- CURB_GRANT (R454): The die's curb controller grants waiting leave requests up to GMAX weight per cycle. -/
  | curbGrant (die : Nat)
  /-- MATRIX_OPERATION (R304): At the head of the queue an operation takes its tag, reads the quarters and accumulates into D. -/
  | matrixOperation (tandem : Nat)
  /-- MATRIX_COMMAND_COMPLETE (R307): A matrix command completes and retires into its issuer's matrix batch. -/
  | matrixCommandComplete (tandem : Nat)
  /-- COMPLEX_HANDOVER (R310): After a releasing team's commands complete the complex passes to the next queued team. -/
  | complexHandover (tandem : Nat)
  /-- TILE_ACCESS_PERFORMED (R282): An access in a slot's order is performed after the accesses it depends on. -/
  | tileAccessPerformed (key id : Nat)
  /-- SIDE_LOG_REPLAY (R326): Side-log entries replay when their page is mapped, or a refused page discards or faults them. -/
  | sideLogReplay (core i : Nat)
  /-- LAUNCH_ACCEPT (R374): The G9 fetches a command and its descriptor, accepts or refuses it and sets LASTACC. -/
  | launchAccept (q : Nat)
  /-- LAUNCH_START (R375): An accepted launch begins admission once its dependences and queue order allow. -/
  | launchStart (launch : Nat)
  /-- PREDICTION_START (R386): The Outrider starts a predicted launch in its own prediction version. -/
  | predictionStart (q : Nat)
  /-- PREEMPT_SAVE (R414): After stops and command drains each affected team is saved as one image and windows are re-mapped. -/
  | preemptSave (p : Nat)
  /-- READMISSION (R414): Saved teams are readmitted whole where room allows. -/
  | readmission (p : Nat) (place : Place)
  /-- SHOOT_ACKNOWLEDGE (R323): Once accesses using stale entries are accepted the acknowledgement is written. -/
  | shootAcknowledge (p : Nat)
  /-- MOVE_COMPLETE (R328): Every page of a MIGRATE or FLIP has ended and the acknowledgement is written. -/
  | moveComplete (p : Nat)
  /-- SAMPLER_TAG (R435): A scheduler's random interval expires and it tags an issuing instruction. -/
  | samplerTag (core quarter : Nat) (lane : Bool)
  /-- SAMPLE_RECORD (R435): A tagged instruction writes back or is discarded and the sampler writes its record. -/
  | sampleRecord (core quarter : Nat)
  /-- STRETCH_END (R456): After 6 stretched cycles halving begins. -/
  | stretchEnd (die : Nat)
  /-- HALVING_END (R456): After 64 halved cycles full issue resumes. -/
  | halvingEnd (die : Nat)
  /-- BOOT_LINK_TIMEOUT (R450): After 2 s without link the boot ROM falls back to Ultra Ethernet port 1. -/
  | bootLinkTimeout
  /-- BOOT_RETRY (R450): After failed attempts the boot restarts at discovery after 60 s. -/
  | bootRetry
  /-- COLLECTIVE_CONTRIBUTION (R351): A contribution arrives at the root and is combined along the canonical tree. -/
  | collectiveContribution (entry : Nat) (c : Contribution)
  /-- COLLECTIVE_RESULT (R449): The result reaches a participant, is written to DST and DONE advances EPOCH. -/
  | collectiveResult (entry : Nat) (bad : Bool) (data : List Byte)
  /-- QUEUE_ENABLE (R370): EN written 0 to 1 checks the queue record and resets sequence state and gait. -/
  | queueEnable (by_ : Requester) (q : Nat)
  /-- DOORBELL (R373): A doorbell write submits commands up to the written sequence number or restarts a stopped queue. -/
  | doorbell (by_ : Requester) (q : Nat) (val : W32)
  /-- REGISTER_WRITE (R6): A host or supervisor write to a register that has no behaviour of its own. -/
  | registerWrite (by_ : Requester) (r : HostReg) (word : Nat) (val : W64)
  /-- HOST_MEMORY_WRITE (R240): A host write through BAR2 lands in DRAM. -/
  | hostMemoryWrite (by_ : Requester) (off size : Nat) (val : BitVec 512)
  /-- HOST_MEMORY_READ (R240): A host read through BAR2 reads DRAM. -/
  | hostMemoryRead (by_ : Requester) (off size : Nat)
  /-- HOST_WINDOW_WRITE (R250): A host write to the host-coherent window lands in its SRAM in issue order. -/
  | hostWindowWrite (by_ : Requester) (off size : Nat) (val : W64)
  /-- HOST_WINDOW_READ (R250): A host read returns the current window SRAM contents. -/
  | hostWindowRead (by_ : Requester) (off size : Nat)
  /-- RESPOND (R324): A page command answers a page request, mapping or refusing the page. -/
  | respond (by_ : Requester) (p : Nat) (cmd : BitVec 512)
  /-- SVERD_RESUME (R407): A supervisor RESUME verdict reloads the frame and lets the group issue again. -/
  | sverdResume (core : Nat) (ctx : BitVec 7)
  /-- HOST_HALT (R411): Host command HALT stops the named groups before their next instruction. -/
  | hostHalt (by_ : Requester) (p : Nat) (cmd : BitVec 128)
  /-- QUEUE_DISABLE (R370): EN written 1 to 0 stops fetching and refutes live predictions. -/
  | queueDisable (by_ : Requester) (q : Nat)
  /-- CANCEL (R377): A control-word write cancels an accepted launch that has not completed. -/
  | cancel (by_ : Requester) (q : Nat) (val : W32)
  /-- GAIT_RECORD_WRITE (R393): A host write of a gait record is taken whole or refused with GAITERR. -/
  | gaitRecordWrite (by_ : Requester) (q : Nat) (rec_ : BitVec 4096)
  /-- RESIZE (R383): A partition command sets a partition's tandem set, vacating removed tandems. -/
  | resize (by_ : Requester) (p : Nat) (cmd : BitVec 192)
  /-- SHOOT (R323): A page command invalidates matching TLB and walk-cache entries package-wide. -/
  | shoot (by_ : Requester) (p : Nat) (cmd : BitVec 512)
  /-- MIGRATE (R328): A page command moves pages to a new device frame by protect, drain, copy and entry update. -/
  | migrate (by_ : Requester) (p : Nat) (cmd : BitVec 512)
  /-- FLIP (R330): A page command passes pages to host frames, forcing publications and discarding version lines. -/
  | flip (by_ : Requester) (p : Nat) (cmd : BitVec 512)
  /-- ATS_TRANSLATION_COMPLETION (R324): In host-assisted mode an ATS Translation Completion supplies a translation. -/
  | atsTranslationCompletion (core asid : Nat) (va pte : W64)
  /-- PRG_RESPONSE (R324): In host-assisted mode a PRG Response answers a page request group. -/
  | prgResponse (p : Nat) (tag : W32) (success : Bool)
  /-- ATS_INVALIDATE (R324): In host-assisted mode an ATS Invalidate Request acts as SHOOT. -/
  | atsInvalidate (p asid : Nat) (va : W64) (npages : Nat)
  /-- SVERD_FORWARD (R407): A supervisor FORWARD verdict writes the record to the host ring. -/
  | sverdForward (core : Nat) (ctx : BitVec 7)
  /-- SVERD_END (R407): A supervisor END verdict ends the task and discards its unpublished version. -/
  | sverdEnd (core : Nat) (ctx : BitVec 7)
  /-- STQTAIL_WRITE (R406): Consuming supervisor trap records lets waiting NOSTOP records be written. -/
  | stqtailWrite (core : Nat) (val : W32)
  /-- TTAIL_WRITE (R410): Consuming host trap ring records lets waiting records be written. -/
  | ttailWrite (by_ : Requester) (p : Nat) (val : W32)
  /-- HOST_RESUME (R409): Host command RESUME resumes a group whose stop was delivered to the host. -/
  | hostResume (by_ : Requester) (p : Nat) (cmd : BitVec 128)
  /-- HOST_END (R409): Host command END ends the named tasks. -/
  | hostEnd (by_ : Requester) (p : Nat) (cmd : BitVec 128)
  /-- CTXSAVE (R420): Host command CTXSAVE vacates every tandem of a partition and holds admission. -/
  | ctxsave (by_ : Requester) (p : Nat) (cmd : BitVec 128)
  /-- CTXLOAD (R420): Host command CTXLOAD readmits saved teams and lifts the admission hold. -/
  | ctxload (by_ : Requester) (p : Nat) (cmd : BitVec 128)
  /-- WATCHPOINT_WRITE (R427): A write to a watchpoint arms it only when aligned and valid. -/
  | watchpointWrite (by_ : Requester) (core : Option Nat) (i : Nat) (val : BitVec 128)
  /-- TRACE_CONTROL_WRITE (R432): A write to the trace control starts or stops tracing of the partition. -/
  | traceControlWrite (by_ : Requester) (p : Nat) (val : BitVec 128)
  /-- MONITOR_CLEAR (R436): CLR resets a monitor's MIN, MAX and bins. -/
  | monitorClear (by_ : Requester) (die m : Nat)
  /-- HFLUSH (R442): Host command writes back dirty committed lines of a physical range to DRAM. -/
  | hflush (by_ : Requester) (p : Nat) (cmd : BitVec 192)
  /-- HINV (R442): Host command discards every committed cached copy of a physical range. -/
  | hinv (by_ : Requester) (p : Nat) (cmd : BitVec 192)
  /-- ATOMICOP (R250): A PCI Express AtomicOp is performed at the window port. -/
  | atomicop (by_ : Requester) (op : AtomicOp) (off size : Nat) (val cmp : W64)
  /-- SET (R446): SET loads a freshly staged key and counter into a sealed stream. -/
  | set (by_ : Requester) (p i : Nat)
  /-- PRIVATE_RANGE_WRITE (R445): A write of a private range is taken unless misaligned, outside DRAM or overlapping. -/
  | privateRangeWrite (by_ : Requester) (p i : Nat) (val : BitVec 128)
  /-- IDE_KM (R443): IDE_KM messages over SPDM program IDE stream keys. -/
  | ideKm (stream : Nat) (key : BitVec 256)
  /-- IDE_INTEGRITY_FAILURE (R443): An IDE stream detecting an integrity failure goes Insecure and its TDIs move to ERROR. -/
  | ideIntegrityFailure (stream : Nat)
  /-- LOCK_INTERFACE_REQUEST (R444): TDISP request moves a TDI to CONFIG_LOCKED, freezing its configuration. -/
  | lockInterfaceRequest (p : Nat)
  /-- STOP_INTERFACE (R444): TDISP stop zeroes the private ranges and returns the TDI to CONFIG_UNLOCKED. -/
  | stopInterface (p : Nat)
  /-- FUNCTION_LEVEL_RESET (R444): A VF reset moves a locked TDI to ERROR, ending tasks and disabling queues. -/
  | functionLevelReset (p : Nat)
  /-- CHALLENGE (R452): The SPDM responder signs a CHALLENGE response with the identity key. -/
  | challenge (nonce : List Byte)
  /-- MEASUREMENTS (R452): The SPDM responder returns signed measurements. -/
  | measurements (nonce : List Byte)
  /-- SMIO_FLIT (R447): A Smio flit is received, checked by CRC and accepted or answered with a NAK. -/
  | smioFlit (port : Nat) (f : Flit)
  /-- NAK (R447): A NAK makes the sender replay from the named flit, taking the port down after 16 replays. -/
  | nak (port : Nat) (seq : BitVec 12)
  /-- SMIO_REMOTE_ACCESS (R448): An access arriving over Smio is performed at its home port as a system-scope agent. -/
  | smioRemoteAccess (op : RemoteOp) (pa size : Nat) (val cmp : W64)
  /-- SUPERVISOR_WINDOW_ACCESS (R14): The supervisor core reads or writes its core's groups' state through the on-chip map. -/
  | supervisorWindowAccess (core off size : Nat) (write : Bool) (val : W64)
  /-- RESET (R462): Power-on, PERST# or management reset brings the package up in fixed order. -/
  | reset (cause : BitVec 8)
  /-- DHCPV6_REPLY (R450): A DHCPv6 reply supplies the helper-data and image URLs. -/
  | dhcpv6Reply (urls : List (List Byte))
  /-- HELPER_DATA_FETCHED (R450): Helper data arrives over TFTP and the identity seed is reconstructed and checked. -/
  | helperDataFetched (data : List Byte)
  /-- IMAGE_FETCHED (R451): The image arrives, is verified, and the firmware is started. -/
  | imageFetched (data : List Byte)
  /-- DROOP_ALARM (R456): A supply droop stretches cycles and then halves issue on every core of the die. -/
  | droopAlarm (die : Nat)
  /-- POWER_AVERAGE (R459): Each 1 ms power average starts or ends halved issue under the package cap. -/
  | powerAverage (pkg : BitVec 16) (dies parts : List (BitVec 16))
  /-- SUPERVISOR_CORE_ACCESS (R352): The supervisor core's firmware performs a load, store, AMO or FENCE to memory, such as a park-frame write in the save area. -/
  | supervisorCoreAccess (core : Nat) (op : SupOp) (pa size : Nat) (val : W64)
  /-- LLC_EVICTION (R240): The LLC evicts a committed dirty line and writes it back to DRAM. -/
  | llcEviction (line : Nat)
  /-- UNCORRECTABLE_ERROR (R252): A line of memory acquires an uncorrectable error, so reads of it fail until the whole line is rewritten. -/
  | uncorrectableError (line : Nat)
  /-- ULTRA_ETHERNET_LINK_UP (R450): An Ultra Ethernet port gains link during boot, letting the boot ROM proceed to discovery. -/
  | ultraEthernetLinkUp (port : Nat)
  /-- BOOT_STEP_FAILURE (R450): A boot step fails (no DHCPv6 server, a TFTP fetch error, or a rejected image) and is retried, up to three times. -/
  | bootStepFailure
  /-- SMIO_PORT_RETRAIN (R447): Firmware's retraining of a downed Smio port completes and the port carries flits again. -/
  | smioPortRetrain (port : Nat)
  /-- START_INTERFACE_REQUEST (R444): A TDISP message moves a TDI from CONFIG_LOCKED to RUN. -/
  | startInterfaceRequest (p : Nat)
  /-- TDISP_ERROR (R444): A TDISP error moves a locked TDI to ERROR, ending its partition's tasks, disabling its queues and erasing its sealed stream keys. -/
  | tdispError (p : Nat)
  deriving DecidableEq, Repr

end Sys2Proof
end

