-- ==== Sys2Proof/Machine/State.lean ====
section
/-! DEFINITION. The state of the G9 package as plain data (INVENTORY.md, State): every register, table, queue and
store the spec names, the reasons a step can stop, and the state right after reset (R462). Sparse tables are lists
of (key, value) pairs with rising keys; an absent key means the entry's reset value. Fields marked MODEL'S OWN are
the model's bookkeeping and no state of the spec. -/

namespace Sys2Proof.Machine

/-- Who issued a command or a side-log entry: a group, wherever it is resident (R276, R298, R326). -/
structure Issuer where
  /-- its context at issue (its last one, once it has exited) (12 R276, 24 R430). -/
  gid : Nat := 0
  /-- its team (12 R276). -/
  key : Nat := 0
  /-- its group index (12 R276). -/
  gidx : Nat := 0
  /-- its SPAWNIDX (05 R126). -/
  sidx : BitVec 64 := 0
  deriving DecidableEq, Repr

/-- One entry of a group's lane queue (R117). -/
structure Block where
  /-- start lane word index (05 R117, R128). -/
  start : BitVec 32 := 0
  /-- block parameters k0..k14 (fifteen entries; a missing entry reads 0) (05 R117). -/
  k : List (BitVec 64) := []
  /-- captured copy of the scalar FMT (05 R117, 04 R95). -/
  fmt : BitVec 19 := 0x2044
  /-- period in which its `lgo` issued (05 R117). -/
  at_ : Nat := 0
  deriving DecidableEq, Repr

/-- One live lane path (R139). -/
structure Path where
  /-- lane PC, a lane word index (06 R139). -/
  pc : BitVec 32 := 0
  /-- active mask (06 R139). -/
  mask : BitVec 64 := 0
  /-- the path's own FMT (06 R139, R147). -/
  fmt : BitVec 19 := 0x2044
  /-- MODEL'S OWN: names the path, so that a lookahead window belongs to one path (05 R123). -/
  id : Nat := 0
  /-- lanes for which the stopped lane memory instruction is reissued on resume (11 R243). -/
  redo : Option (BitVec 64) := none
  /-- MODEL'S OWN: the farthest level reached so far by the lane load that is to be reissued (24 R435). -/
  far : Nat := 0
  /-- MODEL'S OWN: when it last issued, as the count of the group's lane instructions; 0 while it has not (06 R158). -/
  last : Nat := 0
  /-- watchpoints are ignored for its next issue (22 R399, 24 R428). -/
  noWatch : Bool := false
  deriving DecidableEq, Repr

/-- kind of a reconvergence stack entry (R142). -/
inductive EntKind where
  | joinE | pathE
  deriving DecidableEq, Repr

/-- One entry of the reconvergence stack (R142); KIND 0 (empty) is an absent entry. -/
structure StackEnt where
  /-- join entry or path entry (06 R142 KIND). -/
  kind : EntKind := .joinE
  /-- rejoin index, or lane PC of a path entry (06 R142 INDEX). -/
  index : BitVec 32 := 0
  /-- active mask at mjoin, or the path's mask (06 R142 MASK). -/
  mask : BitVec 64 := 0
  /-- lanes that have arrived (06 R142 ARRIVED). -/
  arrived : BitVec 64 := 0
  /-- saved FMT (06 R142 FMT). -/
  fmt : BitVec 19 := 0
  /-- MODEL'S OWN: path id of a path entry (05 R123). -/
  id : Nat := 0
  /-- as in Path (11 R243). -/
  redo : Option (BitVec 64) := none
  /-- MODEL'S OWN: as in Path (24 R435). -/
  far : Nat := 0
  /-- MODEL'S OWN: as in Path (06 R158). -/
  last : Nat := 0
  /-- as in Path (22 R399). -/
  noWatch : Bool := false
  deriving DecidableEq, Repr

/-- One pending write of a lane element: register v[reg] of a lane takes val. -/
structure LaneWrite where
  /-- lane register number (05 R123, R125). -/
  reg : Nat := 0
  /-- lane number (05 R123). -/
  lane : Nat := 0
  /-- value to be written (05 R125). -/
  val : BitVec 32 := 0
  /-- MODEL'S OWN: the element has its new value although the instruction is incomplete (05 R125). -/
  landed : Bool := false
  deriving DecidableEq, Repr

/-- One incomplete long-latency lane instruction (R123). -/
structure Pend where
  /-- path (its id) whose windows it bounds (05 R123). -/
  path : Nat := 0
  /-- lane instructions that may still issue before it completes (05 R123). -/
  left : Nat := 0
  /-- MODEL'S OWN: which of the group's lane instructions it is, counted from the first (05 R118, 04 R93). -/
  at_ : Nat := 0
  /-- id of the tile access it waits for; 0 for none (13 R294). -/
  acc : Nat := 0
  /-- it is a lane memory instruction (24 R436). -/
  mem : Bool := false
  /-- cycle at which it issued (24 R436). -/
  since : Nat := 0
  /-- memory request table entries it holds until its data has returned (11 R237). -/
  entries : Nat := 0
  /-- the results it writes when it completes (05 R125). -/
  writes : List LaneWrite := []
  /-- FLAGS bits its lanes raised (04 R92). -/
  flags : BitVec 7 := 0
  /-- the sampler has tagged it (24 R435). -/
  tagged : Bool := false
  deriving DecidableEq, Repr

/-- When a stream began to wait for memory request table entries (R237). -/
structure Ticket where
  /-- cycle at which it began to wait (11 R237). -/
  since : Nat := 0
  /-- MODEL'S OWN: one more than the epoch in which it last stalled for entries (11 R237). -/
  mark : Nat := 0
  deriving DecidableEq, Repr

/-- A store accepted for its port and not yet performed (R236, R237): a memory request table entry. -/
structure Posted where
  /-- port address (package physical, or 2^64 + host physical) (11 R236). -/
  pa : Nat := 0
  /-- virtual address (11 R236). -/
  va : BitVec 64 := 0
  /-- bytes (11 R236). -/
  size : Nat := 0
  /-- data, in its low bytes (11 R236). -/
  data : BitVec 64 := 0
  /-- it was buffered in an overreach: it leaves in program order (10 R232). -/
  buffered : Bool := false
  /-- MODEL'S OWN: the name of the lane path that issued it; 0: the S-stream (06 R158). -/
  path : Nat := 0
  deriving DecidableEq, Repr

/-- A store accepted from a group that has exited and not yet performed (R134, R232, R236). -/
structure Late where
  /-- context the group had (11 R236). -/
  gid : Nat := 0
  /-- its launch (05 R110). -/
  launch : Nat := 0
  /-- its team (05 R109). -/
  team : Nat := 0
  /-- the store (11 R236). -/
  store : Posted := {}
  deriving DecidableEq, Repr

/-- A batch object (R218). -/
structure Batch where
  /-- largest n with batches 1..n complete (10 R218 DONE). -/
  done : BitVec 32 := 0
  /-- number of the latest closed batch (10 R218 CLOSED). -/
  closed : BitVec 32 := 0
  /-- commands issued since the latest close (10 R218 OPEN). -/
  opn : BitVec 32 := 0
  /-- commands of closed batches not complete (10 R218 INFLIGHT). -/
  inflight : BitVec 32 := 0
  /-- commands completed with error (10 R218 ERRS). -/
  errs : BitVec 32 := 0
  /-- latest error status (10 R218 LASTERR). -/
  lasterr : BitVec 8 := 0
  /-- batch number of each command not yet complete (10 R218, 12 R269). -/
  live : List Nat := []
  deriving DecidableEq, Repr

/-- trap causes (R399). -/
inductive Cause where
  | illegal | priv | handlefree | handleowner | tilequota | mxowner | align | scratchbounds | pageload | pagestore | protect | datarr | batchahead | orphanwait | waitcycle | lenddiv | stackovf | hallmark | trapinsn | brk | watch | crittimeout | sealed | halt
  deriving DecidableEq, Repr

/-- A trap record (R398). -/
structure TrapRec where
  /-- cause (22 R398 CAUSE). -/
  cause : Cause := .illegal
  /-- advisory copy (22 R398 ADV). -/
  adv : Bool := false
  /-- no group is parked by it (22 R398 NOSTOP). -/
  nostop : Bool := false
  /-- issuer retired (22 R398 IRET). -/
  iret : Bool := false
  /-- rolled back from overreach before the stop (22 R398 OVRB). -/
  ovrb : Bool := false
  /-- the stopping instruction is a lane word (22 R398 LANE). -/
  lane : Bool := false
  /-- core at the stop (22 R398 COREID). -/
  core : Nat := 0
  /-- context at the stop (22 R398 CTXID). -/
  ctx : Nat := 0
  /-- group index (22 R398 GIDX). -/
  gidx : Nat := 0
  /-- task ID, first part (22 R398 LAUNCHID). -/
  launch : BitVec 32 := 0
  /-- task ID, second part (22 R398 TEAMIDX). -/
  team : BitVec 32 := 0
  /-- scalar PC (22 R398 SPC). -/
  spc : BitVec 64 := 0
  /-- lane word index (22 R398 LPC). -/
  lpc : BitVec 32 := 0
  /-- publications so far (22 R398 PUBCOUNT). -/
  pubcount : BitVec 32 := 0
  /-- active mask (22 R398 AMASK). -/
  amask : BitVec 64 := 0
  /-- faulting-lane mask (22 R398 FMASK). -/
  fmask : BitVec 64 := 0
  /-- address or value (22 R398 ADDR). -/
  addr : BitVec 64 := 0
  /-- STC at the stop (22 R398 STC). -/
  stc : BitVec 64 := 0
  deriving DecidableEq, Repr

/-- who answers a parked group (R405). -/
inductive Handler where
  | sup | host | nobody
  deriving DecidableEq, Repr

/-- A stop that a handler must answer (R402). -/
structure Park where
  /-- the record of the stop (22 R402). -/
  rcd : TrapRec := {}
  /-- the party whose verdict is awaited (22 R405). -/
  who : Handler := .sup
  /-- a host RESUME was taken while it waits saved (22 R418). -/
  go : Bool := false
  /-- parked without a record of its own (resumed with the record's group) (24 R430). -/
  silent : Bool := false
  /-- slot of the path that issued the stopping lane word (22 R399). -/
  slot : Nat := 0
  deriving DecidableEq, Repr

/-- A stop that has taken effect while instructions already issued still complete (R400). -/
structure Ending where
  /-- the record of the stop (22 R400). -/
  rcd : TrapRec := {}
  /-- bytes of scalar code after which the group resumes (22 R399). -/
  after : BitVec 64 := 0
  /-- as in Park (22 R399). -/
  slot : Nat := 0
  /-- as in Park (24 R430). -/
  silent : Bool := false
  /-- for a silent stop: the party that answers the record's group (24 R430). -/
  who : Handler := .sup
  deriving DecidableEq, Repr

/-- The part of a group that an overreach checkpoint saves (R229). -/
structure OverCkpt where
  /-- s0..s31 (10 R229). -/
  s : List (Nat × BitVec 64) := []
  /-- address of the wait.or (10 R231). -/
  spc : BitVec 64 := 0
  /-- S-stream FMT (10 R229). -/
  fmt : BitVec 19 := 0
  /-- FLAGS (10 R229). -/
  flags : BitVec 7 := 0
  /-- class (10 R229). -/
  cls : BitVec 2 := 2
  /-- critical count (10 R229). -/
  crit : BitVec 8 := 0
  /-- the old lanes of each v row written since entry (the shadow pool) (10 R229). -/
  v : List (Nat × List (BitVec 32)) := []
  /-- p0..p6 (10 R229). -/
  p : List (Nat × BitVec 64) := []
  /-- live-lane mask (10 R229). -/
  live : BitVec 64 := 0
  /-- return queue (10 R229). -/
  retQ : List (BitVec 64) := []
  deriving DecidableEq, Repr

/-- A group's overreach (R229-R233). -/
structure Over where
  /-- object address the overreach is bound to (10 R229). -/
  obj : BitVec 64 := 0
  /-- phase it is bound to (10 R229). -/
  phase : BitVec 32 := 0
  /-- the checkpoint (10 R229). -/
  ckpt : OverCkpt := {}
  /-- v rows whose old value is held in the shadow pool (10 R229). -/
  rows : List Nat := []
  /-- read signature (10 R230). -/
  sig : BitVec 2048 := 0
  /-- bytes in the overreach buffer, by port address (10 R230). -/
  buf : List (Nat × BitVec 8) := []
  /-- the buffered stores in program order, for the drain (10 R232). -/
  order : List Posted := []
  deriving DecidableEq, Repr

/-- What a group is blocked on (R224, R216). -/
structure Blocked where
  /-- object address; 0 for a batch (10 R224). -/
  obj : BitVec 64 := 0
  /-- 0 object, 1 copy batch, 2 matrix batch, 3 arrival held at the port (R216) (10 R224). -/
  kind : Nat := 0
  /-- phase or batch number (10 R224). -/
  n : BitVec 32 := 0
  /-- cycle at which it blocked (10 R227). -/
  since : Nat := 0
  /-- the arrival held at the port is a `barrd` (10 R216). -/
  drop : Bool := false
  /-- destination of the arrival held at the port (10 R222). -/
  dst : BitVec 5 := 0
  deriving DecidableEq, Repr

/-- an update held during a debug stop (R426). -/
inductive Upd where
  | copyDone | matDone | landed
  deriving DecidableEq, Repr

/-- One update held while its issuer is in a debug stop (R426). -/
structure Held where
  /-- which update (24 R426). -/
  kind : Upd := .copyDone
  /-- batch number of the command (24 R426). -/
  batch : Nat := 0
  /-- completion status (24 R426). -/
  status : BitVec 8 := 0
  /-- team of the barrier object (24 R426). -/
  key : Nat := 0
  /-- aperture address of the barrier object in that team (24 R426). -/
  obj : Nat := 0
  /-- landed bytes (24 R426). -/
  bytes : Nat := 0
  deriving DecidableEq, Repr

/-- One resident group context (R109, R117), keyed by 128 x COREID + CTXID. -/
structure Group where
  /-- group index in the team (05 R109 GIDX). -/
  gidx : Nat := 0
  /-- launch (05 R110 LAUNCHID). -/
  launch : Nat := 0
  /-- team index (05 R109 TEAMIDX). -/
  team : Nat := 0
  /-- spawn number; 2^64-1 for a declared group (05 R126 SPAWNIDX). -/
  spawnIdx : BitVec 64 := 0xFFFFFFFFFFFFFFFF
  /-- lanes (05 R126 LANEW). -/
  lanew : Nat := 32
  /-- lane registers allocated (08 R178). -/
  vregs : Nat := 8
  /-- register base (01 R18, 05 R126 REGBASE). -/
  rb : Nat := 0
  /-- scratchpad offset of the divergence-stack reserve (06 R142, R143). -/
  reserve : Nat := 0
  /-- scalar registers; absent entry 0 (R162: every other register holds zero) (07 R161). -/
  s : List (Nat × BitVec 64) := []
  /-- scalar PC (05 R116). -/
  spc : BitVec 64 := 0
  /-- S-stream FMT (04 R94). -/
  fmt : BitVec 19 := 0x2044
  /-- FLAGS (04 R92). -/
  flags : BitVec 7 := 0
  /-- non-critical class (05 R122, R126 PRIO). -/
  cls : BitVec 2 := 2
  /-- critical count (05 R122). -/
  crit : BitVec 8 := 0
  /-- lane registers, v[n] of lane l at key 64 n + l; zero at admission (08 R178, 01 R18). -/
  v : List (Nat × BitVec 32) := []
  /-- predicates p0..p6, zero at start (08 R180). -/
  p : List (Nat × BitVec 64) := []
  /-- live-lane mask (06 R140). -/
  live : BitVec 64 := 0
  /-- lane queue; the executing block is the head (05 R117). -/
  laneQ : List Block := []
  /-- the head block has been started (05 R117). -/
  running : Bool := false
  /-- return queue, oldest first (05 R117). -/
  retQ : List (BitVec 64) := []
  /-- MODEL'S OWN: for each return queue entry, how many lane instructions of the group had issued with its `vput` (05 R118, 04 R93). -/
  retAt : List Nat := []
  /-- path slot 0 (06 R139). -/
  slot0 : Option Path := none
  /-- path slot 1 (06 R139). -/
  slot1 : Option Path := none
  /-- reconvergence stack, top first (06 R142). -/
  stack : List StackEnt := []
  /-- incomplete long-latency lane instructions (05 R123). -/
  pend : List Pend := []
  /-- MODEL'S OWN: next path id (05 R123). -/
  nextPath : Nat := 0
  /-- MODEL'S OWN: lane instructions issued so far (the stamps of its paths) (06 R158). -/
  laneN : Nat := 0
  /-- a `vput` of the group is stalled by a full return queue (05 R130). -/
  vputFull : Bool := false
  /-- stores accepted and not yet performed, program order (11 R237). -/
  posted : List Posted := []
  /-- copy batch object (10 R218). -/
  copyB : Batch := {}
  /-- matrix batch object (10 R218). -/
  matB : Batch := {}
  /-- discarded reductions (11 R253 LOST). -/
  lost : BitVec 32 := 0
  /-- address of the latest discarded reduction (11 R253 LOSTVA). -/
  lostVa : BitVec 64 := 0
  /-- what it waits for (10 R224). -/
  blocked : Option Blocked := none
  /-- port address of its queued lock request (11 R249). -/
  lockReq : Option Nat := none
  /-- pages whose unanswered requests hold it, each with the stream that asked: 0 the S-stream, 1 + id a lane path (16 R325). -/
  pageWait : List (Nat × BitVec 64) := []
  /-- pages refused to a stream since it was held (16 R325). -/
  refused : List (Nat × BitVec 64) := []
  /-- STC of the request that began its page hold (24 R436). -/
  pageSince : Option Nat := none
  /-- the stream whose instruction waits for side-log entries or for a version, which holds the group: 0 the S-stream, 1 + id a lane path (11 R243, 07 R176). -/
  sideWait : Option Nat := none
  /-- MODEL'S OWN: a version keeps a store of the group waiting that has left its stream, which holds the group (17 R342, R343). -/
  heldVer : Bool := false
  /-- header that its stalled `cpys` has read (12 R271). -/
  cpysHdr : Option (BitVec 128) := none
  /-- overreach in progress (10 R229). -/
  orun : Option Over := none
  /-- object and phase in which it was rolled back (10 R231). -/
  noOver : Option (BitVec 64 × BitVec 32) := none
  /-- its outstanding stop (22 R402). -/
  parked : Option Park := none
  /-- a stop whose earlier instructions are still completing (22 R400). -/
  ending : Option Ending := none
  /-- a halt pending (22 R412). -/
  pendHalt : Bool := false
  /-- a pending engine-watch charge: with IRET the record that waits, else one whose ADDR is the address of the charge (24 R430, R431). -/
  pendCharge : Option TrapRec := none
  /-- EA of a refused side-log store, and the name of the lane path that issued it (0: none); PAGESTORE at the next boundary (16 R326, 06 R158). -/
  pendStore : Option (BitVec 64 × Nat) := none
  /-- its present hold on a version budget has been recorded (17 R344). -/
  stallLogged : Bool := false
  /-- watchpoints are ignored for the next issue of its S-stream (22 R399, 24 R428). -/
  noWatch : Bool := false
  /-- updates held during a debug stop, in completion order (24 R426). -/
  heldUpd : List Held := []
  /-- stopped for pre-emption (22 R414). -/
  stopping : Bool := false
  /-- MODEL'S OWN: one more than the epoch in which the S-stream last stalled (05 R119). -/
  sHeld : Nat := 0
  /-- MODEL'S OWN: one more than the epoch in which the L-stream last stalled (05 R119). -/
  lHeld : Nat := 0
  /-- MODEL'S OWN: as lHeld, for the path in slot 1 (05 R119). -/
  lHeld1 : Nat := 0
  /-- the S-stream's wait for memory request table entries (11 R237). -/
  ticketS : Ticket := {}
  /-- as ticketS, for the path in slot 0 (11 R237). -/
  ticket0 : Ticket := {}
  /-- as ticketS, for the path in slot 1 (11 R237). -/
  ticket1 : Ticket := {}
  /-- first period in which it may issue (05 R133). -/
  from_ : Nat := 0
  /-- cycle of the last S-issue (age) (05 R120). -/
  lastS : Nat := 0
  /-- cycle of the last L-issue (age) (05 R120). -/
  lastL : Nat := 0
  /-- S-stream promoted: 1 head of class, 2 ahead of every class (05 R120). -/
  promoS : Nat := 0
  /-- L-stream promoted (05 R120). -/
  promoL : Nat := 0
  /-- first slots (leader or only core, wheeler) of the runs its `talloc` waits for (13 R287). -/
  allocHold : Option (Nat × Nat) := none
  /-- 0 no curb waits; 1 its curb waits to ask; 2 + k it awaits k grants (22 R423). -/
  curbAsk : Nat := 0
  /-- cycle at which its curb asked (22 R423). -/
  curbSince : Nat := 0
  deriving DecidableEq, Repr

/-- A bound tile handle (R280). -/
structure Handle where
  /-- rows (13 R278 ROWS). -/
  rows : Nat := 0
  /-- bytes per row (13 R278 ROWB). -/
  rowb : Nat := 0
  /-- first slot on the leader (or only) core (13 R279 FIRST). -/
  first0 : Nat := 0
  /-- first slot on the wheeler (13 R279 FIRST). -/
  first1 : Nat := 0
  /-- slots per core (13 R278). -/
  nslot : Nat := 0
  /-- owner's GIDX (13 R280). -/
  owner : Nat := 0
  deriving DecidableEq, Repr

/-- what a pending tile access is (R282). -/
inductive TileOp where
  | tldW | tstR | zeroW | vget | vset | mxA | mxD | mxDrain
  deriving DecidableEq, Repr

/-- One element that a `vtget` reads (R294). -/
structure TileDst where
  /-- lane (13 R294). -/
  lane : Nat := 0
  /-- register (13 R294). -/
  reg : Nat := 0
  /-- tile byte (13 R294). -/
  off : Nat := 0
  /-- bytes; 0 reads zero (13 R294). -/
  size : Nat := 0
  deriving DecidableEq, Repr

/-- One access in slot order, not yet performed (R282). -/
structure TileAcc where
  /-- MODEL'S OWN: names the access (13 R282). -/
  id : Nat := 0
  /-- kind (13 R282). -/
  op : TileOp := .zeroW
  /-- the tile it names, as bound when it took its place (13 R283). -/
  h : Handle := {}
  /-- it writes (13 R282). -/
  wr : Bool := false
  /-- first tile byte touched (13 R282). -/
  lo : Nat := 0
  /-- tile bytes touched (13 R282). -/
  len : Nat := 0
  /-- tile bytes a `vtset` writes (13 R294). -/
  data : List (Nat × BitVec 8) := []
  /-- elements a `vtget` reads (13 R294). -/
  dst : List TileDst := []
  /-- the group whose `vtget` or `vtset` it is (13 R294). -/
  iss : Issuer := {}
  deriving DecidableEq, Repr

/-- matrix commands (R296). -/
inductive MxOp where
  | rdy | mxa | mxs | mxdr | cbld
  deriving DecidableEq, Repr

/-- One matrix command in a team's command queue (R296, R304). -/
structure MxCmd where
  /-- kind (14 R296). -/
  op : MxOp := .rdy
  /-- issuing group (14 R307). -/
  iss : Issuer := {}
  /-- cycle at which it was accepted (24 R436). -/
  since : Nat := 0
  /-- accepted: its team held the complex (14 R296). -/
  taken : Bool := false
  /-- matrix batch it joins (14 R307). -/
  batch : Nat := 0
  /-- the four quarters and their scale registers, as read when it began (14 R304). -/
  bq : List (List (BitVec 8)) := []
  /-- page it waits for (16 R325). -/
  stalled : Option (BitVec 64) := none
  /-- STC of the request that began its page hold (24 R436). -/
  stallSince : Option Nat := none
  /-- tag, for mxrdy, mxa, mxs (14 R303). -/
  tag : Nat := 0
  /-- quarter, for mxrdy (14 R302). -/
  q : Nat := 0
  /-- first register, for mxrdy (14 R302). -/
  vn : Nat := 0
  /-- D tile (14 R304). -/
  d : Handle := {}
  /-- A tile (14 R304). -/
  a : Handle := {}
  /-- FMT fixed at issue (14 R304). -/
  fmt : BitVec 19 := 0
  /-- shape record address, or codebook address (14 R312, R314). -/
  rcd : BitVec 64 := 0
  /-- shape record of an mxdr, read at acceptance (12 R259, 14 R312). -/
  shape : BitVec 512 := 0
  /-- coordinates, first register (14 R312). -/
  c0 : BitVec 64 := 0
  /-- coordinates, second register (14 R312). -/
  c1 : BitVec 64 := 0
  /-- mxdr n, or codebook number (14 R312, R314). -/
  n : Nat := 0
  /-- id of its A access in slot order (14 R304). -/
  accA : Nat := 0
  /-- id of its D access in slot order (14 R304). -/
  accD : Nat := 0
  /-- it has asked the curb controller (26 R453). -/
  asked : Bool := false
  /-- it has leave (26 R454). -/
  granted : Bool := false
  /-- it has taken its quarters (14 R298). -/
  started : Bool := false
  /-- issued before an `mxrel` of its team (14 R310). -/
  old : Bool := false
  /-- status with which it ends, once it is performed (14 R307). -/
  status : Option (BitVec 8) := none
  deriving DecidableEq, Repr

/-- One posted quarter place of a tag (R303). -/
structure Quarter where
  /-- tag (14 R303). -/
  tag : Nat := 0
  /-- place (14 R303). -/
  q : Nat := 0
  /-- posting group (14 R303). -/
  iss : Issuer := {}
  /-- first register (14 R303). -/
  vn : Nat := 0
  /-- matrix batch of the mxrdy (14 R307). -/
  batch : Nat := 0
  /-- cycle at which its mxrdy was accepted (24 R436). -/
  since : Nat := 0
  /-- posted before an `mxrel` of its team (14 R310). -/
  old : Bool := false
  /-- the quarter as read when its group was ended by END (14 R306, 22 R407). -/
  got : List (BitVec 8) := []
  deriving DecidableEq, Repr

/-- One team (task) that has been admitted and has not ended (R111, R116), keyed by LAUNCHID x 2^32 + TEAMIDX. -/
structure Team where
  /-- core that holds it, or the leader (05 R111). -/
  core : Nat := 0
  /-- it spans a tandem (01 R15). -/
  tandem : Bool := false
  /-- scratch base on the (leader) core (10 R206 SB). -/
  sb0 : Nat := 0
  /-- scratch base on the wheeler (10 R206 SB). -/
  sb1 : Nat := 0
  /-- scratch bytes per core (05 R111 SCRATCH). -/
  scratch : Nat := 0
  /-- first slot of its range on the (leader) core (13 R277). -/
  f0 : Nat := 0
  /-- first slot of its range on the wheeler (13 R277). -/
  f1 : Nat := 0
  /-- slots per core (13 R277 TILES). -/
  tiles : Nat := 0
  /-- its groups have started (05 R113). -/
  started : Bool := false
  /-- teams in its gang (05 R126 GANGN). -/
  gangn : Nat := 1
  /-- TEAMIDX of the first team of its gang (05 R113, 20 R383). -/
  gang0 : Nat := 0
  /-- team spawn count (05 R133). -/
  spawned : BitVec 64 := 0
  /-- task call count (20 R381). -/
  calls : BitVec 32 := 0
  /-- bound handles (13 R280). -/
  handles : List (Nat × Handle) := []
  /-- accesses in slot order, oldest first (13 R282). -/
  tileAccs : List TileAcc := []
  /-- MODEL'S OWN: next access id (13 R282). -/
  nextAcc : Nat := 1
  /-- command queue (14 R296). -/
  mxQ : List MxCmd := []
  /-- posted quarter places (14 R303). -/
  tags : List Quarter := []
  /-- A codebook (missing entry +0) (14 R314). -/
  cbA : List (BitVec 16) := []
  /-- B codebook (14 R314). -/
  cbB : List (BitVec 16) := []
  /-- the team has an acquisition (14 R295). -/
  acq : Bool := false
  /-- its task version (17 R334). -/
  version : Option Nat := none
  /-- publication count (17 R335). -/
  pubcount : BitVec 32 := 0
  /-- task hallmark (17 R346). -/
  hallmark : BitVec 64 := 0
  /-- ended without resuming (END): its groups have stopped (22 R407). -/
  dying : Bool := false
  /-- it is being saved or is saved: its team-window pages are not present (01 R22, 22 R414). -/
  moving : Bool := false
  /-- it is saved and holds no core (22 R414). -/
  away : Bool := false
  /-- order of admission (22 R414). -/
  admit0 : Nat := 0
  /-- (GIDX, context) of groups that exited, for charges (24 R430). -/
  retired : List (Nat × Nat) := []
  /-- logical core of a DETERMINISTIC launch (05 R115). -/
  logical : Nat := 0
  deriving DecidableEq, Repr

/-- The image of a saved team (R414 step 4); its layout is not architectural (R419). Its Team entry stays, marked away. -/
structure SavedTeam where
  /-- team key (22 R414). -/
  key : Nat := 0
  /-- groups, by old context (22 R414). -/
  groups : List (Nat × Group) := []
  /-- scratch of the (leader) core, by team offset (22 R414). -/
  bytes0 : List (Nat × BitVec 8) := []
  /-- scratch of the wheeler (22 R414). -/
  bytes1 : List (Nat × BitVec 8) := []
  /-- slot contents of the (leader) core, by team offset (22 R414, 13 R285). -/
  tiles0 : List (Nat × BitVec 8) := []
  /-- slot contents of the wheeler (22 R414). -/
  tiles1 : List (Nat × BitVec 8) := []
  /-- reserves, by old context (22 R414, 06 R142). -/
  spills : List (Nat × List (Nat × BitVec 8)) := []
  /-- park frames of its parked groups, by old context (22 R402, R418). -/
  frames : List (Nat × List (BitVec 8)) := []
  /-- image bytes in the save area (22 R414). -/
  size : Nat := 0
  /-- 4 KiB granules of the save area that hold its image, in order (22 R414, R419). -/
  granules : List Nat := []
  deriving DecidableEq, Repr

/-- engine commands (R254). -/
inductive CopyKind where
  | cpy | cpyt | cpys | tld | tst
  deriving DecidableEq, Repr

/-- One accepted copy command (R254). -/
structure CopyCmd where
  /-- MODEL'S OWN: names the command (12 R254). -/
  id : Nat := 0
  /-- kind (12 R254). -/
  kind : CopyKind := .cpy
  /-- issuing group (12 R276). -/
  iss : Issuer := {}
  /-- MODEL'S OWN: step of its issue (12 R274). -/
  at_ : Nat := 0
  /-- cycle at which the engine accepted it (24 R436). -/
  since : Nat := 0
  /-- copy batch it joins (12 R269). -/
  batch : Nat := 0
  /-- destination, or shape record address (12 R267). -/
  dst : BitVec 64 := 0
  /-- source, message, or first coordinate register (12 R267). -/
  src : BitVec 64 := 0
  /-- length, or second coordinate register (12 R267). -/
  len : BitVec 64 := 0
  /-- far end of cpyt (12 R268). -/
  far : BitVec 64 := 0
  /-- sealed stream selector (12 R271). -/
  sel : BitVec 64 := 0
  /-- message header as read at issue (12 R271). -/
  hdr : BitVec 128 := 0
  /-- barrier object address (12 R266). -/
  bar : BitVec 64 := 0
  /-- a barrier register other than s0 was named (12 R266). -/
  hasBar : Bool := false
  /-- shape record, read at acceptance (12 R259). -/
  shape : BitVec 512 := 0
  /-- tile of tld, tst (13 R290). -/
  tile : Handle := {}
  /-- id of its access in slot order (13 R290). -/
  acc : Nat := 0
  /-- bytes (tile elements) still to land: first and count (12 R273). -/
  left : List (Nat × Nat) := []
  /-- verified plaintext in engine staging (12 R271). -/
  plain : List (BitVec 8) := []
  /-- its counter has been compared and spent (12 R271). -/
  spent : Bool := false
  /-- key under which its counter was compared (25 R446). -/
  skey : BitVec 256 := 0
  /-- stream ID at that compare (25 R446). -/
  sid : BitVec 32 := 0
  /-- accepted and checked by the engine (12 R266). -/
  taken : Bool := false
  /-- leave asked (12 R255). -/
  asked : Bool := false
  /-- leave granted (12 R255). -/
  granted : Bool := false
  /-- page it waits for (12 R256). -/
  stalled : Option (BitVec 64) := none
  /-- STC of the request that began its page hold (24 R436). -/
  stallSince : Option Nat := none
  /-- status with which it ends (12 R272). -/
  status : Option (BitVec 8) := none
  deriving DecidableEq, Repr

/-- One reduction of a side-log entry (R326). -/
structure SideRed where
  /-- its effective address (16 R326). -/
  ea : Nat := 0
  /-- the operand (16 R326). -/
  val : BitVec 64 := 0
  /-- compare value of a compare-and-swap (16 R326). -/
  cmp : BitVec 64 := 0
  deriving DecidableEq, Repr

/-- One side-log entry (R326). -/
structure SideEntry where
  /-- virtual address of the granule (16 R326). -/
  va : BitVec 64 := 0
  /-- ASID (16 R326). -/
  asid : BitVec 16 := 0
  /-- byte mask (16 R326). -/
  mask : BitVec 64 := 0
  /-- data of a store (16 R326). -/
  data : BitVec 512 := 0
  /-- reduction operation; none for a store (16 R326). -/
  op : Option Nat := none
  /-- the reductions of the entry, in the order they entered (16 R326, 11 R243). -/
  reds : List SideRed := []
  /-- bytes of a reduction (16 R326). -/
  size : Nat := 0
  /-- effective address of the access (16 R326). -/
  ea : BitVec 64 := 0
  /-- issuing group (16 R326). -/
  iss : Issuer := {}
  /-- MODEL'S OWN: step of its retirement (12 R274). -/
  at_ : Nat := 0
  /-- scope of a reduction (16 R326). -/
  scope : Nat := 0
  /-- scope of a release that the store or reduction carries (16 R327, 17 R337). -/
  rel : Option Nat := none
  /-- physical line of the granule, where its page was being moved (16 R328, 18 R358). -/
  line : Option Nat := none
  /-- MODEL'S OWN: the name of the lane path that issued it; 0: the S-stream (06 R158). -/
  path : Nat := 0
  deriving DecidableEq, Repr

/-- A watchpoint (R427). -/
structure Watch where
  /-- first byte watched (24 R427 WADDR). -/
  addr : BitVec 64 := 0
  /-- armed (24 R427 EN). -/
  en : Bool := false
  /-- match reads (24 R427 RD). -/
  rd : Bool := false
  /-- match writes (24 R427 WR). -/
  wr : Bool := false
  /-- log2 of the length (24 R427 WLEN). -/
  wlen : Nat := 0
  /-- partition (24 R427 PART). -/
  part : Nat := 0
  /-- address space (24 R427 ASID). -/
  asid : BitVec 16 := 0
  /-- every ASID (24 R427 ANYASID). -/
  anyAsid : Bool := false
  /-- hits, saturating (24 R427 HITS). -/
  hits : BitVec 32 := 0
  deriving DecidableEq, Repr

/-- A line held by L1, the scalar cache or an L2 copy (R174, R238, R239). -/
structure CLine where
  /-- bytes (11 R238). -/
  data : BitVec 512 := 0
  /-- MODEL'S OWN: event count at which it was filled (11 R238). -/
  fill : Nat := 0
  deriving DecidableEq, Repr

/-- The batch objects of a group that has exited, as its context shows them until another group starts there (R17, R218). -/
structure Left where
  /-- the group (10 R218). -/
  iss : Issuer := {}
  /-- copy batch object (10 R218). -/
  copyB : Batch := {}
  /-- matrix batch object (10 R218). -/
  matB : Batch := {}
  deriving DecidableEq, Repr

/-- The supervisor hart of a core (R14, R406): an RV64 hart with I, M, A, C and Sv57, its registers in the RISC-V architecture's names. -/
structure Hart where
  /-- the firmware has been started on it (25 R450). -/
  on : Bool := false
  /-- program counter (01 R14). -/
  pc : BitVec 64 := 0
  /-- x1..x31; a missing one is zero (01 R14). -/
  x : List (Nat × BitVec 64) := []
  /-- privilege: 0 user, 1 supervisor, 3 machine (01 R14, 22 R406). -/
  priv : Nat := 3
  /-- standard CSRs by number (mstatus, mtvec, mepc, mcause, satp and the others); a missing one is zero (01 R14, 22 R406). -/
  csr : List (Nat × BitVec 64) := []
  /-- package physical address of the reservation of its LR (01 R14). -/
  resv : Option Nat := none
  /-- translations it holds, keyed as a core TLB's (01 R14). -/
  tlb : List (Nat × BitVec 64) := []
  /-- it waits in WFI (01 R14). -/
  wfi : Bool := false
  deriving DecidableEq, Repr

/-- One core (R9); absent from the table means every field at reset. -/
structure Core where
  /-- L1 lines (11 R238). -/
  l1 : List (Nat × CLine) := []
  /-- scalar cache lines (07 R174). -/
  sc : List (Nat × CLine) := []
  /-- lines held by the instruction cache (01 R14, 03 R64). -/
  ic : List (Nat × CLine) := []
  /-- engine commands, acceptance order (12 R254). -/
  copyQ : List CopyCmd := []
  /-- side log, entry order (16 R326). -/
  sideLog : List SideEntry := []
  /-- GW0..GW7 (a missing one is at reset) (24 R427). -/
  gw : List Watch := []
  /-- trap queue base (22 R406 STQBASE). -/
  stqBase : BitVec 64 := 0
  /-- records written (22 R406 STQHEAD). -/
  stqHead : BitVec 32 := 0
  /-- records consumed (22 R406 STQTAIL). -/
  stqTail : BitVec 32 := 0
  /-- for each unconsumed record, oldest first, whether it is a NOSTOP record (22 R406). -/
  stqNostop : List Bool := []
  /-- NOSTOP records waiting for room (22 R406). -/
  stqWait : List TrapRec := []
  /-- result of the latest SVERD (22 R406 SVSTAT). -/
  svstat : BitVec 2 := 0
  /-- supervisor hart (01 R14). -/
  hart : Hart := {}
  /-- trace bytes written since EN was set (24 R432 TWPTR). -/
  twptr : BitVec 64 := 0
  /-- packets dropped (24 R432 TDROP). -/
  tdrop : BitVec 32 := 0
  /-- STC of the previous packet (24 R433 DT). -/
  tlast : Nat := 0
  /-- the next packet must be preceded by a SYNC (24 R434). -/
  tsync : Bool := true
  /-- tracing stopped on this core: slice full, WRAP 0 (24 R434). -/
  tfull : Bool := false
  /-- packets dropped since the previous packet (24 R433 LOSS). -/
  tloss : BitVec 32 := 0
  /-- by QUARTER, cycle of its last L-instruction (26 R453). -/
  lastL : List (Nat × Nat) := []
  /-- by quarter, the cycle in which its scheduler may next issue an S-instruction (05 R119). -/
  freeS : List (Nat × Nat) := []
  /-- by quarter, the cycle in which its vector ALU is free again (05 R119). -/
  freeL : List (Nat × Nat) := []
  /-- grants obtained by curb: 2 copy, 16 + QUARTER lane, 32 + team key matrix (on the leader), to cycle granted (22 R423). -/
  lease : List (Nat × Nat) := []
  /-- core TLB: (ASID, page) to the leaf held (16 R320). -/
  tlb : List (Nat × BitVec 64) := []
  /-- walk-ahead TLB of the copy engine, keyed as tlb (12 R256, 16 R320). -/
  wtlb : List (Nat × BitVec 64) := []
  /-- instructions waiting for an engine place: the cycle in which the wait began, and the context (12 R254). -/
  held : List (Nat × Nat) := []
  /-- stores of exited groups not yet performed, program order of each group (11 R236, 10 R232). -/
  late : List Late := []
  /-- by context, the batch objects that the group which last stood there has left (10 R218, 01 R17). -/
  left : List (Nat × Left) := []
  deriving DecidableEq, Repr

/-- A request for curb leave (R453). -/
structure Leave where
  /-- 0 matrix, 1 copy, 2 lane (26 R453). -/
  cls : Nat := 0
  /-- TANDEM, COREID, or 4 x COREID + QUARTER (26 R453). -/
  who : Nat := 0
  /-- command asking, or context of a curb instruction, or 1 + context of a lane instruction (26 R453). -/
  id : Nat := 0
  /-- a `curb` instruction asks (22 R423). -/
  curb : Bool := false
  /-- cycle of the request (26 R454). -/
  since : Nat := 0
  deriving DecidableEq, Repr

/-- A latency monitor (R436). -/
structure Monitor where
  /-- control (COREHI resets to 0xFF) (24 R436 CTL). -/
  ctl : BitVec 64 := 0x0000FF0000000000
  /-- least value (24 R436 MIN). -/
  mn : BitVec 32 := 0
  /-- greatest value (24 R436 MAX). -/
  mx : BitVec 32 := 0
  /-- bins (24 R436 BIN). -/
  bins : List (Nat × BitVec 32) := []
  deriving DecidableEq, Repr

/-- One compute die (R9). -/
structure Die where
  /-- L2 copies of lines homed on other dies (11 R239). -/
  l2r : List (Nat × CLine) := []
  /-- error log: physical address, requester, STC (11 R252). -/
  errLog : List (Nat × Nat × Nat) := []
  /-- walk caches: (ASID, level, page) to the non-leaf entry held (16 R318, R320). -/
  walks : List (Nat × BitVec 64) := []
  /-- requests not yet granted, oldest first (26 R454). -/
  leaves : List Leave := []
  /-- die register (DRTH, GMAX, DREN, DRCNT, MAXWAIT, THROT, DPWR) (26 R460). -/
  reg : BitVec 512 := 0x10819
  /-- core clock edges lost to stretching since PLL lock (26 R456, R458). -/
  lost : Nat := 0
  /-- an alarm has been raised in the present core cycle (26 R456). -/
  alarm : Bool := false
  /-- 0: no stretch; else one more than the nominal periods of the stretch that are left, the present one among them (26 R456). -/
  stretch : Nat := 0
  /-- 0: no halving; in the j-th halved cycle 66 - j (26 R456). -/
  halve : Nat := 0
  /-- MODEL'S OWN: one more than the cycle in which the curb controller last granted (26 R454). -/
  grantAt : Nat := 0
  /-- MODEL'S OWN: cycle of the latest grant to a matrix complex (TANDEM) or a copy engine (2^16 + COREID) (26 R453, 14 R305, 12 R254). -/
  gaps : List (Nat × Nat) := []
  /-- monitors (24 R436). -/
  mons : List (Nat × Monitor) := []
  deriving DecidableEq, Repr

/-- kinds of version (R334). -/
inductive VKind where
  | task | launch | pred
  deriving DecidableEq, Repr

/-- A version line (R332). -/
structure VLine where
  /-- virtual line address (17 R332). -/
  va : BitVec 64 := 0
  /-- bytes written (17 R332). -/
  mask : BitVec 64 := 0
  /-- the 64 bytes (17 R332). -/
  data : BitVec 512 := 0
  deriving DecidableEq, Repr

/-- A live version (R332-R334). -/
structure Version where
  /-- kind (17 R334). -/
  kind : VKind := .task
  /-- team key, or LAUNCHID (17 R334). -/
  owner : Nat := 0
  /-- parent version; none is committed memory (17 R334). -/
  parent : Option Nat := none
  /-- lines, by physical line number (17 R332). -/
  lines : List (Nat × VLine) := []
  deriving DecidableEq, Repr

/-- A kernel descriptor as read at acceptance (R60). -/
structure Desc where
  /-- first scalar word (02 R60 SCODE). -/
  scode : BitVec 64 := 0
  /-- lane word 0 (02 R60 LCODE). -/
  lcode : BitVec 64 := 0
  /-- lane words (02 R60 LSIZE). -/
  lsize : Nat := 0
  /-- scalar words (02 R60 SSIZE). -/
  ssize : Nat := 1
  /-- width code (02 R60 WIDTH). -/
  width : Nat := 1
  /-- spans a tandem (02 R60 TANDEM). -/
  tandem : Bool := false
  /-- 0 CONTAINED, 1 PLAIN, 2 DETERMINISTIC (02 R60 CLASS). -/
  cls : Nat := 1
  /-- hallmark mode (02 R60 DMODE). -/
  dmode : Nat := 0
  /-- declared groups less one (02 R60 GROUPS). -/
  groups : Nat := 0
  /-- lane registers / 8 (02 R60 VREGS). -/
  vregs : Nat := 1
  /-- run-ahead cap (02 R60 AHEAD). -/
  ahead : Nat := 15
  /-- granules (02 R60 SCRATCH). -/
  scratch : Nat := 0
  /-- slot quota (02 R60 TILES). -/
  tiles : Nat := 0
  /-- preferred gang (02 R60 GANGP). -/
  gangp : Nat := 0
  /-- fallback gang (02 R60 GANGF). -/
  gangf : Nat := 0
  /-- scratch image (02 R60 SDATA). -/
  sdata : BitVec 64 := 0
  /-- image bytes (02 R60 SDSIZE). -/
  sdsize : Nat := 0
  deriving DecidableEq, Repr

/-- life of a launch. -/
inductive LState where
  | waiting | running | ended
  deriving DecidableEq, Repr

/-- One slot of a gait record (R392). -/
structure GaitSlot where
  /-- rule (20 R392 RULE). -/
  rule : Nat := 0
  /-- copy source (20 R392 SRC). -/
  src : Nat := 0
  /-- step or value before last (20 R392 VAL). -/
  val : BitVec 64 := 0
  /-- value in the latest launch (20 R392 LAST). -/
  last : BitVec 64 := 0
  deriving DecidableEq, Repr

/-- A launch that has been accepted (or predicted) and has not completed (R110, R375), keyed by LAUNCHID. -/
structure Launch where
  /-- queue (20 R372). -/
  q : Nat := 0
  /-- sequence number (20 R372 SEQ). -/
  seq : BitVec 32 := 0
  /-- partition (20 R368 PART). -/
  part : Nat := 0
  /-- descriptor address (20 R372 KERNEL). -/
  kernel : BitVec 64 := 0
  /-- descriptor (02 R60). -/
  desc : Desc := {}
  /-- grid (20 R372 GRIDX). -/
  gridx : BitVec 32 := 0
  /-- grid (20 R372 GRIDY). -/
  gridy : BitVec 32 := 0
  /-- grid (20 R372 GRIDZ). -/
  gridz : BitVec 32 := 0
  /-- interrupt wanted (20 R372 IRQ). -/
  irq : Bool := false
  /-- tag (20 R372 TAG). -/
  tag : BitVec 64 := 0
  /-- arguments (20 R372 ARG). -/
  args : List (BitVec 64) := []
  /-- dependences (20 R372 DEP). -/
  deps : List (BitVec 64) := []
  /-- translation context (16 R317). -/
  asid : BitVec 16 := 0
  /-- root table address (16 R317). -/
  root : BitVec 64 := 0
  /-- waiting, begun, ended (20 R375). -/
  st : LState := .waiting
  /-- next TEAMIDX to admit (05 R113). -/
  nextTeam : Nat := 0
  /-- first status other than OK that arose (20 R379). -/
  status : BitVec 8 := 0
  /-- no further team is admitted (05 R111). -/
  stopAdmit : Bool := false
  /-- tasks ended by a trap (20 R378 TRAPPED). -/
  trapped : BitVec 32 := 0
  /-- children that failed (20 R378 CHILDERR). -/
  childErr : BitVec 16 := 0
  /-- children not complete (20 R376). -/
  children : Nat := 0
  /-- parent LAUNCHID; 0 for a host launch (05 R110 PARENTID). -/
  parent : Nat := 0
  /-- call index (05 R110 CALLIDX). -/
  callidx : BitVec 64 := 0
  /-- page of its scratch image whose unanswered request holds admission (05 R111, 16 R325). -/
  wait : Option (BitVec 64) := none
  /-- pages of its scratch image refused (16 R325). -/
  refusedPages : List (BitVec 64) := []
  /-- the gait's slots before this prediction took its fields (20 R389). -/
  slots0 : List GaitSlot := []
  /-- launch hallmark, once it is folded (17 R346). -/
  hall : BitVec 64 := 0
  /-- a live prediction has read its log entry; the cursor advances at its confirmation (17 R347, R391). -/
  hread : Bool := false
  /-- launch hallmark of a mismatch of a live prediction, whose record is written at its confirmation (17 R348, R391). -/
  hbad : Option (BitVec 64) := none
  /-- STC at acceptance (20 R378 TACC). -/
  tacc : BitVec 64 := 0
  /-- STC of the first start (20 R378 TSTART). -/
  tstart : Option (BitVec 64) := none
  /-- MODEL'S OWN: event count at launch start, for launch-start freshness (11 R238). -/
  startTick : Nat := 0
  /-- ran as a prediction (20 R378 PRED). -/
  pred : Bool := false
  /-- prediction not yet confirmed or refuted (20 R386). -/
  live : Bool := false
  /-- launch version of a DETERMINISTIC launch (17 R334). -/
  version : Option Nat := none
  /-- prediction version of a live predicted launch (17 R334, R341). -/
  pversion : Option Nat := none
  /-- lines a live prediction has read (20 R389). -/
  reads : List Nat := []
  /-- the predicted launches it was predicted after (20 R389). -/
  chainIds : List Nat := []
  /-- the present hold of its engine writes on a version budget has been recorded (17 R342, R344). -/
  stallLogged : Bool := false
  /-- detect-only (17 R349). -/
  detonly : Bool := false
  /-- cause of a refutation that the present step must carry out; 0 none (20 R389). -/
  refute : Nat := 0
  /-- task hallmarks of ended tasks (17 R346). -/
  hmarks : List (Nat × BitVec 64) := []
  /-- serialised rerun in progress (17 R348). -/
  rerun : Bool := false
  /-- hallmark read from the log (20 R378 HEXPECT). -/
  hexpect : BitVec 64 := 0
  /-- cores (tandems, for a TANDEM kernel) of the partition at acceptance (05 R115 L). -/
  coresAtAcc : Nat := 0
  /-- order of acceptance (20 R375). -/
  order : Nat := 0
  /-- (team, GIDX) of each retired-issuer charge that holds admission (24 R430). -/
  chargeHold : List (Nat × Nat) := []
  deriving DecidableEq, Repr

/-- A launch command as read from its slot (R372). -/
structure Cmd where
  /-- KERNEL (20 R372). -/
  kernel : BitVec 64 := 0
  /-- SEQ (20 R372). -/
  seq : BitVec 32 := 0
  /-- GRIDX (20 R372). -/
  gridx : BitVec 32 := 0
  /-- GRIDY (20 R372). -/
  gridy : BitVec 32 := 0
  /-- GRIDZ (20 R372). -/
  gridz : BitVec 32 := 0
  /-- IRQ (20 R372). -/
  irq : Bool := false
  /-- TAG (20 R372). -/
  tag : BitVec 64 := 0
  /-- arguments (20 R372). -/
  args : List (BitVec 64) := []
  /-- dependences (20 R372). -/
  deps : List (BitVec 64) := []
  /-- a reserved field is non-zero (20 R374). -/
  rsvd : Bool := false
  /-- GROUPS of its descriptor plus one (for training) (20 R385). -/
  tgroups : Nat := 0
  /-- WIDTH of its descriptor (20 R385). -/
  twidth : Nat := 0
  /-- AHEAD of its descriptor (20 R385). -/
  ahead : Nat := 15
  deriving DecidableEq, Repr

/-- A queue's gait record and training window (R385, R392). -/
structure Gait where
  /-- 0 TRAINING, 1 FORMED, 2 SUSPENDED (20 R392 STATE). -/
  st : Nat := 0
  /-- pinned (20 R392 PIN). -/
  pin : Bool := false
  /-- last written by the host (20 R392 HOSTSET). -/
  hostset : Bool := false
  /-- AHEAD of the descriptor that the gait last read, from which LIMIT follows (0 while it has read none) (20 R385, R392 LIMIT). -/
  descAhead : Nat := 0
  /-- commands confirmed or trained on (20 R392 SEEN). -/
  seen : Nat := 0
  /-- next prediction (20 R392 NEXTSEQ). -/
  nextseq : BitVec 32 := 1
  /-- descriptor (20 R392 KERNEL). -/
  kernel : BitVec 64 := 0
  /-- grid (20 R392 GRIDX). -/
  gridx : BitVec 32 := 0
  /-- grid (20 R392 GRIDY). -/
  gridy : BitVec 32 := 0
  /-- grid (20 R392 GRIDZ). -/
  gridz : BitVec 32 := 0
  /-- groups per team (20 R392 TGROUPS). -/
  tgroups : Nat := 0
  /-- width code (20 R392 TWIDTH). -/
  twidth : Nat := 0
  /-- IRQ (20 R392 GIRQ). -/
  girq : Bool := false
  /-- for each of the last 16 accepted commands, how many MISMATCH or READ refutations were counted (20 R389). -/
  hist : List Nat := []
  /-- latest refutation (20 R392 LASTCAUSE). -/
  lastcause : Nat := 0
  /-- slots (a missing one is zero) (20 R392 SLOT). -/
  slots : List GaitSlot := []
  /-- training window, oldest first (20 R385). -/
  window : List Cmd := []
  /-- accepted commands still to come before a suspended gait trains again (20 R389). -/
  susp : Nat := 0
  /-- prediction stopped until the host command of this number is accepted (20 R386). -/
  halted : Option (BitVec 32) := none
  /-- a HOST refutation: no prediction starts before the next write of the record is taken (20 R389 HOST, R393). -/
  hostHold : Bool := false
  deriving DecidableEq, Repr

/-- A child launch handed to a queue and not yet accepted (R381). -/
structure Kid where
  /-- the 256 bytes of its command (20 R372, R381). -/
  cmd : BitVec 2048 := 0
  /-- parent launch (20 R381 PARENTID). -/
  parent : Nat := 0
  /-- parent team (20 R381 CALLIDX). -/
  team : Nat := 0
  /-- call index (20 R381 CALLIDX). -/
  call : Nat := 0
  deriving DecidableEq, Repr

/-- One hardware queue (R368-R371); absent means reset. -/
structure Queue where
  /-- queue record (AHEAD 2, VBUDGET 256, PBUDGET 64) (20 R368). -/
  rcd : BitVec 1024 := (0x20 ||| (256 <<< 336) ||| (64 <<< 352))
  /-- latest accepted (20 R371 LASTACC). -/
  lastacc : BitVec 32 := 0
  /-- latest with all before complete (20 R371 LASTDONE). -/
  lastdone : BitVec 32 := 0
  /-- latest doorbell (20 R371 DOORBELL). -/
  doorbell : BitVec 32 := 0
  /-- 0 IDLE, 1 RUNNING, 2 STOPPED (20 R371 STATE). -/
  st : Nat := 0
  /-- stop cause (20 R371 STOPCAUSE). -/
  cause : Nat := 0
  /-- hallmark log cursor (20 R371 HLOGCUR). -/
  hlogcur : Nat := 0
  /-- latest gait write refused (20 R371 GAITERR). -/
  gaiterr : Bool := false
  /-- completed numbers after LASTDONE (20 R371). -/
  done : List (BitVec 32) := []
  /-- numbers that completed with a status other than OK (for STRICT) (20 R375). -/
  failed : List (BitVec 32) := []
  /-- gait record (20 R392). -/
  gait : Gait := {}
  /-- completion interrupts raised (20 R372). -/
  irqs : Nat := 0
  /-- MODEL'S OWN: a commit of the present period has refuted predictions of the queue (20 R390). -/
  readRef : Bool := false
  /-- child launches handed to it, oldest first (20 R381). -/
  kids : List Kid := []
  /-- page of a descriptor whose unanswered request holds its acceptance (16 R325, 20 R374). -/
  wait : Option (BitVec 64) := none
  /-- pages refused since then (16 R325). -/
  refused : List (BitVec 64) := []
  deriving DecidableEq, Repr

/-- An unanswered page request (R324). -/
structure PageReq where
  /-- tag (16 R324 TAG). -/
  tag : BitVec 32 := 0
  /-- page (16 R324 VA). -/
  va : BitVec 64 := 0
  /-- context (16 R324 ASID). -/
  asid : BitVec 16 := 0
  /-- core (16 R324 COREID). -/
  core : Nat := 0
  /-- context (16 R324 CTXID). -/
  ctx : Nat := 0
  /-- write or atomic (16 R324 WRITE). -/
  wr : Bool := false
  /-- code fetch (16 R324 EXEC). -/
  ex : Bool := false
  /-- copy engine (16 R324 ENGINE). -/
  engine : Bool := false
  /-- STC of the request (24 R436). -/
  since : Nat := 0
  deriving DecidableEq, Repr

/-- A MIGRATE or FLIP in progress (R328, R330). -/
structure PageMove where
  /-- FLIP (16 R330). -/
  flip : Bool := false
  /-- address space (16 R321). -/
  asid : BitVec 16 := 0
  /-- first page (16 R321 VA). -/
  va : BitVec 64 := 0
  /-- pages (16 R321 NPAGES). -/
  npages : Nat := 0
  /-- new frames, one a page (16 R328). -/
  news : List Nat := []
  /-- new frame (16 R321 NEWPA). -/
  newpa : BitVec 64 := 0
  /-- old device frames, one a page (16 R328). -/
  olds : List Nat := []
  /-- the entries of the pages, as the move found them (16 R328). -/
  ptes : List (BitVec 64) := []
  /-- host-assisted: translations of its pages have been asked of the host (16 R324, R331). -/
  asked : Bool := false
  /-- READY acknowledged, host-assisted (16 R331). -/
  ready : Bool := false
  /-- SEQ of its command (16 R328). -/
  seq : BitVec 32 := 0
  deriving DecidableEq, Repr

/-- One sealed stream entry (R446). -/
structure Sealed where
  /-- key staging (25 R446 KEY). -/
  staged : BitVec 256 := 0
  /-- bytes of KEY written since the previous SET (25 R446 SET). -/
  fresh : BitVec 32 := 0
  /-- key slot (12 R270). -/
  key : BitVec 256 := 0
  /-- stream ID (25 R446 SID). -/
  sid : BitVec 32 := 0
  /-- counter taken at SET (25 R446 NEXT). -/
  nextReg : BitVec 64 := 0
  /-- next counter (12 R270). -/
  next : BitVec 64 := 0
  /-- 0 UNKEYED, 1 READY, 2 FAILED (25 R446 STATE). -/
  st : Nat := 0
  deriving DecidableEq, Repr

/-- TDISP states (R444). -/
inductive Tdi where
  | unlocked | locked | run | error
  deriving DecidableEq, Repr

/-- One partition (R382). -/
structure Partition where
  /-- partition record (WPRBLOG 20) (20 R382). -/
  rcd : BitVec 1024 := (20 <<< 88)
  /-- trap block bits 383:0: SAVEBASE, SAVESIZE, TRING, TRINGLOG, TVEC, THEAD, TTAIL, LOSTADV (22 R408). -/
  trap : BitVec 384 := 0
  /-- claim table (22 R404 CLAIM). -/
  claim : BitVec 256 := 0x0101010101010106010101010101010101010101010101010101010101010101
  /-- host command fields (block bits 767:640) (22 R408 HCMD). -/
  hcmd : BitVec 128 := 0
  /-- latest host command taken (22 R408 HDONE). -/
  hdone : BitVec 32 := 0
  /-- its status (22 R408 HSTATUS). -/
  hstatus : Nat := 0
  /-- records waiting for the host ring, STC order (22 R410). -/
  hwait : List TrapRec := []
  /-- NOSTOP records that name no group, waiting for room in the supervisor queue of its lowest core (22 R405). -/
  nwait : List TrapRec := []
  /-- saved teams in the order they were saved (22 R414). -/
  saved : List SavedTeam := []
  /-- CTXSAVE holds admission (22 R420). -/
  ctxsaved : Bool := false
  /-- a RESIZE is vacating (20 R383). -/
  resizing : Bool := false
  /-- tandems being vacated (22 R414). -/
  vacate : List Nat := []
  /-- STC at which step 1 began (22 R414). -/
  vacSince : Nat := 0
  /-- the vacating is a CTXSAVE (22 R420). -/
  vacCtx : Bool := false
  /-- tandem set the RESIZE sets (20 R383). -/
  newMask : BitVec 80 := 0
  /-- partition command block (25 R441). -/
  pcmd : BitVec 512 := 0
  /-- page command mailbox (16 R321). -/
  mailbox : BitVec 512 := 0
  /-- acknowledgement block (16 R322). -/
  ack : BitVec 512 := 0
  /-- SEQ of a SHOOT not yet acknowledged (16 R323). -/
  shoot : Option (BitVec 32) := none
  /-- MODEL'S OWN: STC at which its SEQ word was written (16 R323). -/
  shootAt : Nat := 0
  /-- page moves in progress, oldest first (16 R328, R331). -/
  moves : List PageMove := []
  /-- unanswered page requests (16 R324). -/
  reqs : List PageReq := []
  /-- host-assisted: (ASID, page) that the host has answered is not present, until its page request is answered (16 R324). -/
  noPage : List Nat := []
  /-- next page request tag (16 R324). -/
  nextTag : BitVec 32 := 0
  /-- page request records written (16 R324). -/
  prqHead : Nat := 0
  /-- version events written (17 R344). -/
  vevHead : Nat := 0
  /-- page interrupts raised (16 R322). -/
  pageIrqs : Nat := 0
  /-- trap interrupts raised (22 R408 TVEC). -/
  trapIrqs : Nat := 0
  /-- child launches not complete (20 R381). -/
  kids : Nat := 0
  /-- host memory command block (25 R442). -/
  hmem : BitVec 512 := 0
  /-- trace control (TLOG 12) (24 R432). -/
  trace : BitVec 128 := 0xC00
  /-- sampler control (24 R435). -/
  sampler : BitVec 128 := 0
  /-- sampler records written (24 R435). -/
  srec : Nat := 0
  /-- private ranges (a missing one is zero) (25 R445). -/
  priv : List (BitVec 128) := []
  /-- sealed stream table (25 R446). -/
  seals : List (Nat × Sealed) := []
  /-- TDISP state of VF p + 1 (25 R444). -/
  tdi : Tdi := .unlocked
  /-- halved issue under the power cap (26 R459). -/
  halved : Bool := false
  /-- its power averaged over 1 ms, in W (26 R459). -/
  power : Nat := 0
  deriving DecidableEq, Repr

/-- One tandem matrix complex (R295). -/
structure Complex where
  /-- team that holds it (14 R295). -/
  owner : Option Nat := none
  /-- teams waiting, FIFO, and whether each has released already (14 R295). -/
  waiters : List (Nat × Bool) := []
  /-- the owner has released; commands still to complete (14 R310). -/
  releasing : Bool := false
  deriving DecidableEq, Repr

/-- One queued lock request (R249). -/
structure LockWait where
  /-- port address (11 R249). -/
  pa : Nat := 0
  /-- 4 or 8 (11 R249). -/
  size : Nat := 0
  /-- context (11 R249). -/
  gid : Nat := 0
  /-- virtual address (11 R249). -/
  va : Nat := 0
  /-- scope (11 R249). -/
  scope : Nat := 0
  deriving DecidableEq, Repr

/-- A tagged instruction of the sampler (R435). -/
structure Tag where
  /-- context (24 R435). -/
  gid : Nat := 0
  /-- stream (24 R435). -/
  lane : Bool := false
  /-- word index (24 R435). -/
  pc : BitVec 32 := 0
  /-- farthest level reached (24 R435). -/
  level : Nat := 0
  /-- discarded (24 R435). -/
  disc : Bool := false
  /-- it has issued (24 R435). -/
  issued : Bool := false
  /-- STC at which it has written back or been discarded, once it has (24 R435 STC). -/
  stc : Option Nat := none
  deriving DecidableEq, Repr

/-- One Smio port (R447). -/
structure Port where
  /-- carries flits (25 R447). -/
  up : Bool := true
  /-- expected sequence number (25 R447). -/
  rxSeq : BitVec 12 := 0
  /-- next sequence number to send (25 R447). -/
  txSeq : BitVec 12 := 0
  /-- replay buffer: numbers sent and not acknowledged (25 R447). -/
  replay : List (BitVec 12) := []
  /-- the flit being replayed (25 R447). -/
  nak : Option (BitVec 12) := none
  /-- replays of that flit in a row (25 R447). -/
  retries : Nat := 0
  deriving DecidableEq, Repr

/-- One collective table entry (R449). -/
structure Coll where
  /-- entry (25 R449). -/
  rcd : BitVec 512 := 0
  /-- a contribution of this round differed (25 R449). -/
  bad : Bool := false
  /-- this participant has started the round (25 R449). -/
  started : Bool := false
  /-- contributions held at the root, by leaf (17 R351). -/
  contrib : List (Nat × List (BitVec 8)) := []
  /-- result not yet delivered to this participant (25 R449). -/
  result : Option (List (BitVec 8)) := none
  deriving DecidableEq, Repr

/-- Boot ROM state (R450-R452). -/
structure Boot where
  /-- stage (25 R450 STAGE). -/
  stage : Nat := 0
  /-- error (25 R450 ERR). -/
  err : Nat := 0
  /-- failed attempts (25 R450 TRIES). -/
  tries : BitVec 8 := 0
  /-- Ultra Ethernet port in use (25 R450). -/
  port : Nat := 0
  /-- link on that port (25 R450). -/
  linkUp : Bool := false
  /-- STC at which the present wait began (25 R450). -/
  since : Nat := 0
  /-- retries made at this round (25 R450). -/
  retry : Nat := 0
  /-- MAC address (25 R450). -/
  mac : BitVec 48 := 0
  /-- identity seed (25 R450). -/
  seed : BitVec 512 := 0
  /-- helper data (25 R450). -/
  helper : List (BitVec 8) := []
  /-- the two Boot File URLs (25 R450). -/
  urls : List (List (BitVec 8)) := []
  /-- image (25 R451). -/
  image : List (BitVec 8) := []
  /-- configuration block of the image (25 R451). -/
  config : List (BitVec 8) := []
  /-- security version (25 R451). -/
  svn : BitVec 64 := 0
  /-- certificate chain (25 R452). -/
  cert : List (BitVec 8) := []
  deriving DecidableEq, Repr

/-- A write performed at a port in the present step, whose consequences elsewhere (R231, R249, R389) follow at its end. -/
structure Wrote where
  /-- MODEL'S OWN: first port address (10 R231, 11 R249). -/
  pa : Nat := 0
  /-- MODEL'S OWN: bytes (10 R231). -/
  len : Nat := 0
  /-- MODEL'S OWN: the group context whose store it was; none for an engine, the host, a supervisor or a publication (10 R231). -/
  who : Option Nat := none
  /-- MODEL'S OWN: the launch it belongs to; 0 for none (20 R389). -/
  launch : Nat := 0
  /-- MODEL'S OWN: it changed committed memory (20 R389). -/
  committed : Bool := false
  /-- MODEL'S OWN: the version it changed (10 R231). -/
  ver : Option Nat := none
  /-- MODEL'S OWN: it is a publication (10 R231). -/
  pub : Bool := false
  /-- MODEL'S OWN: the G9's own write, such as a record or an accessed bit, which conflicts with no overreach (10 R231). -/
  own : Bool := false
  deriving DecidableEq, Repr

/-- The former contents of a line that engine commands in flight have written (R64). -/
structure CodePre where
  /-- the 64 bytes before those commands (03 R64). -/
  data : BitVec 512 := 0
  /-- MODEL'S OWN: the commands (03 R64). -/
  cmds : List Nat := []
  deriving DecidableEq, Repr

/-- A committed line held by the home LLC (R240). -/
structure LlcLine where
  /-- differs from DRAM (11 R240). -/
  dirty : Bool := false
  /-- the 64 bytes (11 R240). -/
  data : BitVec 512 := 0
  /-- MODEL'S OWN: bytes that the host has written in DRAM since the line became dirty (11 R240). -/
  host : BitVec 64 := 0
  deriving DecidableEq, Repr

/-- The whole package. -/
structure State where
  /-- MODEL'S OWN: steps that made progress; a stream that stalled in this epoch is not tried again in it (05 R119). -/
  epoch : Nat := 0
  /-- landed bytes counted for objects of teams that are being moved, to be counted when these have their place again (12 R273, 01 R22). -/
  landWait : List Held := []
  /-- MODEL'S OWN: writes of the present step (10 R231). -/
  wrote : List Wrote := []
  /-- MODEL'S OWN: steps taken since reset (05 R119). -/
  tick : Nat := 0
  /-- MODEL'S OWN: events that may still fall in the present period (-). -/
  burst : Nat := 0
  /-- MODEL'S OWN: periods since an event fell (-). -/
  lull : Nat := 0
  /-- MODEL'S OWN: objects (port address) with EXPECT 0 whose phase (the second number) an arrival of the present period has completed (10 R216). -/
  zero : List (Nat × Nat) := []
  /-- MODEL'S OWN: objects (team key, aperture address) at which a group was blocked by a rollback of the present step, to be tested (10 R226). -/
  tests : List (Nat × Nat) := []
  /-- MODEL'S OWN: counter of free values used (each use applies an opaque constant of Config to it and advances it) (-). -/
  fresh : Nat := 0
  /-- nominal 2.1 GHz core periods since the PLLs locked (00 R3, 26 R458). -/
  cycles : Nat := 0
  /-- core period at which STC was released from 0 (26 R458, R462). -/
  stcZero : Nat := 0
  /-- MODEL'S OWN: events still to come from outside, or the order in which internal events fall, oldest first; [] lets the machine choose (95). -/
  agenda : List Instr := []
  /-- MODEL'S OWN: context (128 x COREID + CTXID) whose instruction is being executed (05 R119). -/
  cur : Nat := 0
  /-- MODEL'S OWN: lane path slot (0 or 1) whose lane instruction is being executed (06 R141). -/
  slot : Nat := 0
  /-- memory: DRAM at package physical addresses, scratch and Casket in the on-chip map, the host-coherent window, and host memory at 2^64 + its host physical address; unlisted bytes read 0 (R462 clears and scrubs all of it; host memory DESIGN CHOICE 0) (01 R11, R17; 26 R462). -/
  mem : List Host.Cell := []
  /-- committed lines of DRAM held by the home LLC (11 R240). -/
  llc : List (Nat × LlcLine) := []
  /-- MODEL'S OWN: lines that engine commands still landing have written, as code fetches find them (03 R64). -/
  codePre : List (Nat × CodePre) := []
  /-- lines (physical line numbers) with an uncorrectable error (11 R252). -/
  badLines : List Nat := []
  /-- group contexts (05 R109). -/
  groups : List (Nat × Group) := []
  /-- teams (05 R109). -/
  teams : List (Nat × Team) := []
  /-- launches (05 R110). -/
  launches : List (Nat × Launch) := []
  /-- next LAUNCHID to try (05 R110). -/
  nextLaunch : Nat := 1
  /-- MODEL'S OWN: counter of acceptances and admissions (20 R375). -/
  nextOrder : Nat := 0
  /-- MODEL'S OWN: next engine command name (12 R254). -/
  nextCmd : Nat := 1
  /-- cores (01 R9). -/
  cores : List (Nat × Core) := []
  /-- dies (01 R9). -/
  dies : List (Nat × Die) := []
  /-- matrix complexes, by TANDEM (14 R295). -/
  complexes : List (Nat × Complex) := []
  /-- queues (20 R368). -/
  queues : List (Nat × Queue) := []
  /-- partitions (20 R382). -/
  parts : List (Nat × Partition) := []
  /-- live versions, by ID (17 R332). -/
  versions : List (Nat × Version) := []
  /-- queued lock requests, oldest first (11 R249). -/
  locks : List LockWait := []
  /-- engine watchpoints (24 R427). -/
  ew : List (Nat × Watch) := []
  /-- collective table (25 R449). -/
  coll : List (Nat × Coll) := []
  /-- Smio routing table (25 R448). -/
  routes : List (Nat × BitVec 128) := []
  /-- Smio ports (25 R447). -/
  ports : List (Nat × Port) := []
  /-- bytes returned to the other package for the latest access that arrived over Smio (25 R448). -/
  remote : List (BitVec 8) := []
  /-- tagged instruction in flight, by 4 x COREID + QUARTER (24 R435). -/
  tags : List (Nat × Tag) := []
  /-- by 4 x COREID + QUARTER, instructions of a sampled partition still to issue until its scheduler tags one (24 R435). -/
  sampleIn : List (Nat × Nat) := []
  /-- MODEL'S OWN: lines that the present instruction has accessed, and the level each access reached (24 R435, R436). -/
  reached : List (Nat × Nat) := []
  /-- package register (PCAP 2600) (26 R461). -/
  pkg : BitVec 512 := 0x0A28
  /-- boot state (25 R450). -/
  boot : Boot := {}
  /-- IDE stream keys (stream 0 the Link stream, 1 PF0, 2 + p the VF of partition p) (25 R443). -/
  ide : List (Nat × BitVec 256) := []
  /-- IDE streams in the Insecure state (25 R443). -/
  ideBad : List Nat := []
  /-- host physical base of BAR2, assigned by the host (PRESUMED reset 0) (16 R318, 25 R439). -/
  bar2 : Nat := 0
  /-- host physical base of BAR4, assigned by the host (DESIGN CHOICE reset 2^41, above BAR2) (16 R318, 25 R439). -/
  bar4 : Nat := 0x20000000000
  /-- MODEL'S OWN: the value the latest host read returned (25 R439). -/
  hostRead : BitVec 64 := 0
  /-- MODEL'S OWN: the latest host request completed with Unsupported Request (25 R439). -/
  hostUr : Bool := false
  /-- MODEL'S OWN: the value the latest supervisor read returned (01 R14). -/
  supRead : BitVec 64 := 0
  /-- the latest SPDM response (25 R452). -/
  spdm : List (BitVec 8) := []
  deriving DecidableEq, Repr

/-- Why the model stops without a next state. -/
inductive Fault where
  /-- Raised by a scalar or lane meaning when `cur` names no resident group, or `slot` no live path, so that there is
  no instruction to execute. Safe: `step` never calls a meaning there; the spec has no such situation. -/
  | noGroup
  deriving DecidableEq, Repr

/-- Why the model gives a step no meaning. -/
inductive Refusal where
  /-- Raised by an arm of `exec` whose instruction has no meaning yet. Safe. -/
  | notModelled (mnemonic : String)
  deriving DecidableEq, Repr

/-- The machine right after reset (R462): no group, team, launch, version or partition tandem exists, every memory
byte is zero, every register holds its reset value, and the boot ROM is about to run (BOOTSTAT 0, R450). -/
def State.reset : State := {}

end Sys2Proof.Machine
end

