-- ==== Sys2Proof/Machine/Tbl.lean ====
section
/-! DEFINITION. Sparse tables with rising keys, and byte memory in canonical form (a table whose absent bytes read 0
and which lists no zero byte). Byte order is decided here, once (R4). -/

namespace Sys2Proof.Machine

/-- A sparse table. -/
abbrev Tbl (α : Type) := List (Nat × α)

/-- The entry at a key. -/
def Tbl.find {α : Type} (t : Tbl α) (k : Nat) : Option α :=
  match t with
  | [] => none
  | (k', v) :: r => if k' = k then some v else Tbl.find r k

/-- The table with an entry put at a key, keys rising. -/
def Tbl.put {α : Type} (t : Tbl α) (k : Nat) (v : α) : Tbl α :=
  match t with
  | [] => [(k, v)]
  | (k', v') :: r => if k' = k then (k, v) :: r else if k < k' then (k, v) :: (k', v') :: r else (k', v') :: Tbl.put r k v

/-- The table without a key. -/
def Tbl.del {α : Type} (t : Tbl α) (k : Nat) : Tbl α :=
  match t with
  | [] => []
  | (k', v') :: r => if k' = k then Tbl.del r k else (k', v') :: Tbl.del r k

/-- The entry at a key, or the value an absent entry stands for. -/
def Tbl.get {α : Type} (t : Tbl α) (k : Nat) (dflt : α) : α := (t.find k).getD dflt

/-- The table with a key set, where an absent entry stands for dflt: writing dflt removes the entry. -/
def Tbl.set {α : Type} [DecidableEq α] (t : Tbl α) (k : Nat) (v dflt : α) : Tbl α :=
  if v = dflt then t.del k else t.put k v

/-- Keys rise strictly. -/
def Tbl.sorted {α : Type} (t : Tbl α) : Bool :=
  match t with
  | [] => true
  | (k, _) :: r => r.all (fun e => decide (k < e.1)) && Tbl.sorted r

/-- Byte memory: absent bytes read 0 (R462). -/
abbrev Memory := List Host.Cell

/-- The canonical form: addresses rise strictly and no listed byte is the 0 an unlisted one reads as. -/
def Memory.wf (m : Memory) : Bool := Tbl.sorted m && m.all (fun c => c.2 != 0)

/-- The byte at an address. -/
def Memory.byte (m : Memory) (a : Nat) : Byte := Tbl.get m a 0

/-- The memory with one byte written. -/
def Memory.setByte (m : Memory) (a : Nat) (b : Byte) : Memory := Tbl.set m a b 0

/-- Bytes a .. a+n-1 as a little-endian number (R4). -/
def Memory.read (m : Memory) (a : Nat) : Nat → Nat
  | 0 => 0
  | n + 1 => (m.byte a).toNat + 256 * Memory.read m (a + 1) n

/-- The memory with the low n bytes of v written at a, little-endian (R4). -/
def Memory.write (m : Memory) (a : Nat) : Nat → Nat → Memory
  | 0, _ => m
  | n + 1, v => Memory.write (m.setByte a (BitVec.ofNat 8 v)) (a + 1) n (v / 256)

/-- The memory with a list of bytes written at a. -/
def Memory.writeList (m : Memory) (a : Nat) : List Byte → Memory
  | [] => m
  | b :: r => Memory.writeList (m.setByte a b) (a + 1) r

/-- Bytes a .. a+n-1. -/
def Memory.readList (m : Memory) (a : Nat) : Nat → List Byte
  | 0 => []
  | n + 1 => m.byte a :: Memory.readList m (a + 1) n

/-- The memory with bytes a .. a+n-1 zero. -/
def Memory.clear (m : Memory) (a n : Nat) : Memory := m.filter (fun c => !(decide (a ≤ c.1) && decide (c.1 < a + n)))

/-- The listed bytes of a range, by offset from its start (to move a range). -/
def Memory.extract (m : Memory) (a n : Nat) : Memory :=
  (m.filter (fun c => decide (a ≤ c.1) && decide (c.1 < a + n))).map (fun c => (c.1 - a, c.2))

/-- The memory with a range replaced by bytes given by offset. -/
def Memory.restore (m : Memory) (a n : Nat) (img : Memory) : Memory :=
  img.foldl (fun m c => if c.1 < n then m.setByte (a + c.1) c.2 else m) (m.clear a n)

/-- A little-endian number from bytes (R4). -/
def ofBytes : List Byte → Nat
  | [] => 0
  | b :: r => b.toNat + 256 * ofBytes r

/-- The low n bytes of a number, little-endian (R4). -/
def toBytes : Nat → Nat → List Byte
  | 0, _ => []
  | n + 1, v => BitVec.ofNat 8 v :: toBytes n (v / 256)

/-- The entry of a list at an index, or a default. -/
def nth {α : Type} (l : List α) (i : Nat) (d : α) : α := (l[i]?).getD d

/-- The list with index i set, lengthened with d if need be. -/
def setNth {α : Type} (l : List α) (i : Nat) (d v : α) : List α :=
  match l, i with
  | [], 0 => [v]
  | [], i + 1 => d :: setNth [] i d v
  | _ :: r, 0 => v :: r
  | x :: r, i + 1 => x :: setNth r i d v

/-- The least of a list of numbers, if any. -/
def least : List Nat → Option Nat
  | [] => none
  | x :: r => match least r with
    | none => some x
    | some y => some (min x y)

end Sys2Proof.Machine
end

