-- ==== Sys2Proof/Machine/Acc.lean ====
section
/-! DEFINITION. Access to the parts of the state: every table of the package is read and written through the
functions of this file (R9, R109), and every register through one pair of them (R161, R178, R180). -/

namespace Sys2Proof.Machine

/-- What a meaning answers. -/
abbrev Res := Host.Outcome State Fault Refusal

/-- The core of a context number 128 x COREID + CTXID (R9). -/
def coreOf (gid : Nat) : Nat := gid / 128
/-- The context within its core (R9). -/
def ctxOf (gid : Nat) : Nat := gid % 128
/-- QUARTER (R9). -/
def quarterOf (gid : Nat) : Nat := gid % 128 / 32
/-- The die of a core (R9). -/
def dieOf (core : Nat) : Nat := core / 20
/-- TANDEM (R9). -/
def tandemOf (core : Nat) : Nat := core / 2
/-- The key of a task: LAUNCHID and TEAMIDX (R109). -/
def keyOf (launch team : Nat) : Nat := launch * 2 ^ 32 + team

/-- A bit field of a register. -/
def fld {n : Nat} (r : BitVec n) (lo len : Nat) : Nat := bits r.toNat lo len
/-- A register with a bit field replaced. -/
def setFld {n : Nat} (r : BitVec n) (lo len v : Nat) : BitVec n := BitVec.ofNat n (setBits r.toNat lo len v)

/-- The group at a context. -/
def State.group? (s : State) (gid : Nat) : Option Group := Tbl.find s.groups gid
/-- A group put at a context. -/
def State.setGroup (s : State) (gid : Nat) (g : Group) : State := { s with groups := Tbl.put s.groups gid g }
/-- A change of one group, if it is there. -/
def State.updGroup (s : State) (gid : Nat) (f : Group → Group) : State :=
  match s.group? gid with
  | some g => s.setGroup gid (f g)
  | none => s
/-- A team. -/
def State.team? (s : State) (key : Nat) : Option Team := Tbl.find s.teams key
/-- A team put. -/
def State.setTeam (s : State) (key : Nat) (t : Team) : State := { s with teams := Tbl.put s.teams key t }
/-- A change of one team, if it is there. -/
def State.updTeam (s : State) (key : Nat) (f : Team → Team) : State :=
  match s.team? key with
  | some t => s.setTeam key (f t)
  | none => s
/-- A launch. -/
def State.launch? (s : State) (id : Nat) : Option Launch := Tbl.find s.launches id
/-- A launch put. -/
def State.setLaunch (s : State) (id : Nat) (l : Launch) : State := { s with launches := Tbl.put s.launches id l }
/-- A change of one launch, if it is there. -/
def State.updLaunch (s : State) (id : Nat) (f : Launch → Launch) : State :=
  match s.launch? id with
  | some l => s.setLaunch id (f l)
  | none => s
/-- A core. -/
def State.core (s : State) (c : Nat) : Core := Tbl.get s.cores c {}
/-- A core put. -/
def State.setCore (s : State) (c : Nat) (x : Core) : State := { s with cores := Tbl.set s.cores c x {} }
/-- A change of one core. -/
def State.updCore (s : State) (c : Nat) (f : Core → Core) : State := s.setCore c (f (s.core c))
/-- A context freed; its batch objects stay there as the group leaves them (R17, R218). -/
def State.delGroup (s : State) (gid : Nat) : State :=
  match s.group? gid with
  | none => s
  | some g =>
    let x : Left := { iss := { gid := gid, key := keyOf g.launch g.team, gidx := g.gidx, sidx := g.spawnIdx }, copyB := g.copyB, matB := g.matB }
    ({ s with groups := Tbl.del s.groups gid } : State).updCore (coreOf gid) (fun c => { c with left := Tbl.put c.left (ctxOf gid) x })
/-- A die. -/
def State.die (s : State) (d : Nat) : Die := Tbl.get s.dies d {}
/-- A die put. -/
def State.setDie (s : State) (d : Nat) (x : Die) : State := { s with dies := Tbl.set s.dies d x {} }
/-- A change of one die. -/
def State.updDie (s : State) (d : Nat) (f : Die → Die) : State := s.setDie d (f (s.die d))
/-- A matrix complex. -/
def State.complex (s : State) (t : Nat) : Complex := Tbl.get s.complexes t {}
/-- A matrix complex put. -/
def State.setComplex (s : State) (t : Nat) (x : Complex) : State := { s with complexes := Tbl.set s.complexes t x {} }
/-- A queue. -/
def State.queue (s : State) (q : Nat) : Queue := Tbl.get s.queues q {}
/-- A queue put. -/
def State.setQueue (s : State) (q : Nat) (x : Queue) : State := { s with queues := Tbl.set s.queues q x {} }
/-- A change of one queue. -/
def State.updQueue (s : State) (q : Nat) (f : Queue → Queue) : State := s.setQueue q (f (s.queue q))
/-- A partition. -/
def State.part (s : State) (p : Nat) : Partition := Tbl.get s.parts p {}
/-- A partition put. -/
def State.setPart (s : State) (p : Nat) (x : Partition) : State := { s with parts := Tbl.set s.parts p x {} }
/-- A change of one partition. -/
def State.updPart (s : State) (p : Nat) (f : Partition → Partition) : State := s.setPart p (f (s.part p))
/-- The partition that holds a core's tandem (R382). -/
def State.partOfCore (s : State) (core : Nat) : Option Nat :=
  (s.parts.find? (fun p => bit (fld p.2.rcd 0 80) (tandemOf core))).map (·.1)

/-- A free value's number, and the state in which the next one is new. -/
def State.useFresh (s : State) : Nat × State := (s.fresh, { s with fresh := s.fresh + 1 })

/-- STC: nanoseconds since it was released from 0 (R24, R458). -/
def State.stc (s : State) : Nat := ((s.cycles - s.stcZero) * 10 / 21) % 2 ^ 64

/-- Core clock edges of a core since its PLL locked: the cycles in which everything of the core is counted; a stretched cycle counts
once (R126, R457, R458). -/
def State.cyc (s : State) (core : Nat) : Nat := s.cycles - (s.die (dieOf core)).lost

/-- The task key of a group. -/
def Group.key (g : Group) : Nat := keyOf g.launch g.team
/-- A scalar register; s0 reads zero (R161). -/
def Group.reg (g : Group) (r : Reg) : W64 := if r = 0 then 0 else Tbl.get g.s r.toNat 0
/-- A scalar register written; a write to s0 is discarded (R161). -/
def Group.setReg (g : Group) (r : Reg) (v : W64) : Group :=
  if r = 0 then g else { g with s := Tbl.set g.s r.toNat v 0 }
/-- Lane register vn of a lane (R178). -/
def Group.vreg (g : Group) (n l : Nat) : W32 := Tbl.get g.v (64 * n + l) 0
/-- Lane register vn of a lane written. -/
def Group.setVreg (g : Group) (n l : Nat) (x : W32) : Group := { g with v := Tbl.set g.v (64 * n + l) x 0 }
/-- Rows that an overreaching group is about to write: the old row goes into the shadow pool at the first write of it (R229). -/
def Group.keepRows (g : Group) (rs : List Nat) : Group :=
  match g.orun with
  | none => g
  | some o =>
    let old := rs.foldl (fun (v : List (Nat × List W32)) r =>
      if v.any (fun x => x.1 == r) then v else v ++ [(r, (List.range g.lanew).map (g.vreg r))]) o.ckpt.v
    { g with orun := some { o with ckpt := { o.ckpt with v := old } } }
/-- The shadowed rows put back (R231). -/
def Group.restoreRows (g : Group) (rs : List (Nat × List W32)) : Group :=
  rs.foldl (fun g r => ((List.range r.2.length).zip r.2).foldl (fun g x => g.setVreg r.1 x.1 x.2) g) g
/-- All W lanes. -/
def lanesMask (w : Nat) : W64 := BitVec.ofNat 64 (2 ^ w - 1)
/-- A predicate; p7 reads 1 in every lane (R180). -/
def Group.pred (g : Group) (n : Nat) : W64 := if n = 7 then lanesMask g.lanew else Tbl.get g.p n 0
/-- A predicate written; a write to p7 is discarded (R180). -/
def Group.setPred (g : Group) (n : Nat) (x : W64) : Group :=
  if n = 7 then g else { g with p := Tbl.set g.p n (x &&& lanesMask g.lanew) 0 }
/-- A bit of a mask. -/
def lane (m : W64) (l : Nat) : Bool := m.getLsbD l
/-- The mask of the lanes below 64 that a test picks. -/
def maskOf (f : Nat → Bool) : W64 :=
  BitVec.ofNat 64 ((List.range 64).foldl (fun a l => if f l then a + 2 ^ l else a) 0)
/-- The lanes of a mask, ascending. -/
def lanesOf (m : W64) : List Nat := (List.range 64).filter (lane m)
/-- A path slot. -/
def Group.path? (g : Group) (slot : Nat) : Option Path := if slot = 0 then g.slot0 else g.slot1
/-- A path slot set. -/
def Group.setPath (g : Group) (slot : Nat) (p : Option Path) : Group :=
  if slot = 0 then { g with slot0 := p } else { g with slot1 := p }
/-- A path is live. -/
def Group.anyPath (g : Group) : Bool := g.slot0.isSome || g.slot1.isSome
/-- The join level: the topmost join entry (R139). -/
def Group.level (g : Group) : Option StackEnt := g.stack.find? (fun e => e.kind == .joinE)
/-- The lane queue is empty: every block has ended and no long-latency instruction is incomplete (R129). -/
def Group.laneIdle (g : Group) : Bool := g.laneQ.isEmpty && g.pend.isEmpty

/-- The contexts of a team's groups, ascending. -/
def State.groupsOf (s : State) (key : Nat) : List (Nat × Group) := s.groups.filter (fun e => e.2.key == key)
/-- The contexts of the groups on a core, ascending. -/
def State.groupsOn (s : State) (core : Nat) : List (Nat × Group) := s.groups.filter (fun e => coreOf e.1 == core)
/-- The launch of a group. -/
def State.launchOf (s : State) (g : Group) : Launch := (s.launch? g.launch).getD {}
/-- The team of a group. -/
def State.teamOf (s : State) (g : Group) : Team := (s.team? g.key).getD {}

/-- Byte i of a line. -/
def lineByte (d : BitVec 512) (i : Nat) : Byte := BitVec.ofNat 8 (d.toNat / 2 ^ (8 * i))
/-- Bytes of a line replaced from byte i. -/
def lineSet (d : BitVec 512) (i : Nat) (bs : List Byte) : BitVec 512 := setFld d (8 * i) (8 * bs.length) (ofBytes bs)
/-- The byte mask of bytes i .. i+n-1. -/
def byteMask (i n : Nat) : BitVec 64 := BitVec.ofNat 64 ((2 ^ n - 1) * 2 ^ i)

/-- Address regions of the package (R11); host memory stands at 2^64 + host physical address (R318), what lies behind the Smio routing
table at 2^65 + host physical address (R448). -/
inductive Region where
  | dram | onchip (core off : Nat) | window (off : Nat) | host (pa : Nat) | remote (pa : Nat) | none
  deriving DecidableEq, Repr

/-- The region of a port address (R11). -/
def regionOf (pa : Nat) : Region :=
  if 2 ^ 65 ≤ pa then .remote (pa - 2 ^ 65)
  else if 2 ^ 64 ≤ pa then .host (pa - 2 ^ 64)
  else if pa < 0x3000000000 then .dram
  else if 0x4000000000 ≤ pa && pa < 0x1C000000000 then .dram
  else if 0x1F000000000 ≤ pa && pa < 0x1F050000000 then .onchip ((pa - 0x1F000000000) / 0x800000) ((pa - 0x1F000000000) % 0x800000)
  else if 0x1FF00000000 ≤ pa && pa < 0x1FF00100000 then .window (pa - 0x1FF00000000)
  else .none

/-- The Smio port by which a host physical address leaves the package: that of the lowest enabled routing entry it falls in (R448). -/
def State.routeOf (s : State) (hpa : Nat) : Option Nat :=
  (s.routes.find? (fun e => bit e.2.toNat 100 && decide (fld e.2 0 64 ≤ hpa) && decide (hpa < fld e.2 0 64 + 4096 * fld e.2 64 32))).map
    (fun e => fld e.2 96 4)
/-- A Smio port. -/
def State.smio (s : State) (n : Nat) : Port := Tbl.get s.ports n {}
/-- The address of a byte of a core's on-chip window (R17). -/
def onchip (core off : Nat) : Nat := 0x1F000000000 + core * 0x800000 + off
/-- The home die of a port address (R11). -/
def homeDie (pa : Nat) : Nat :=
  match regionOf pa with
  | .dram => if pa < 0x3000000000 then pa / 0x600000000 else pa / 4096 % 8
  | .onchip core _ => dieOf core
  | _ => 0

/-- The 64-byte lines that a range touches. -/
def linesOf (a n : Nat) : List Nat := if n = 0 then [] else (List.range ((a + n - 1) / 64 - a / 64 + 1)).map (· + a / 64)

/-- The range [a, a+n) overlaps [b, b+m). -/
def overlaps (a n b m : Nat) : Bool := decide (a < b + m) && decide (b < a + n)

end Sys2Proof.Machine
end

