-- ==== Sys2Proof/Machine/Mem.lean ====
section
/-! DEFINITION. Memory at its ports (spec/01 R11-R21, spec/11, spec/16, spec/17): committed memory and its caches,
versions and publication, the on-chip map, translation, and the reads and writes that every agent makes. A write at
a port is recorded in `wrote`; what follows from it elsewhere (a rollback, a refutation, a lock grant) is done at the
end of the step (Settle.lean). -/

namespace Sys2Proof.Machine

/-- What an access answers: its value, a fault of the group, or that the stream is held; with the state it leaves. -/
inductive Rc (α : Type) where
  | ok (a : α) (s : State)
  | flt (c : Cause) (s : State)
  | hold (s : State)
  deriving DecidableEq, Repr

/-- What an access is for (R318): an atomic counts as both a read and a write. -/
inductive Rw where
  | rd | wr | amo | ex
  deriving DecidableEq, Repr

/-- The access writes. -/
def Rw.writes : Rw → Bool
  | .wr | .amo => true
  | .rd | .ex => false
/-- The access reads. -/
def Rw.reads : Rw → Bool
  | .rd | .amo => true
  | .wr | .ex => false

/-! Committed memory (R240): the home LLC's line if it holds one, else DRAM. -/

/-- A line in DRAM. -/
def State.dramLine (s : State) (n : Nat) : BitVec 512 := BitVec.ofNat 512 (Memory.read s.mem (64 * n) 64)
/-- A committed byte of device memory, as the home LLC returns it. -/
def State.comByte (s : State) (pa : Nat) : Byte :=
  match Tbl.find s.llc (pa / 64) with
  | some l => lineByte l.data (pa % 64)
  | none => Memory.byte s.mem pa
/-- A line of a page that is being migrated has its new frame on a die (R328). -/
def PageMove.brings (m : PageMove) (d n : Nat) : Bool :=
  !m.flip && (m.olds.zip m.news).any (fun f => f.1 == 64 * n / 4096 * 4096 && homeDie f.2 == d)
/-- Lines homed on a die that versions hold (R332), and those that a page move will bring there (log 87). -/
def State.dieLines (s : State) (d : Nat) : Nat :=
  let ms := s.parts.flatMap (fun p => p.2.moves)
  s.versions.foldl (fun n e => n + (e.2.lines.filter (fun l => homeDie (64 * l.1) == d || ms.any (fun m => m.brings d l.1))).length) 0
/-- The latest contents of a byte of code: what the home LLC holds written, unless the host has written it since, else DRAM (R64, R240). -/
def State.codeNow (s : State) (pa : Nat) : Byte :=
  match Tbl.find s.llc (pa / 64) with
  | some l => if l.dirty && !l.host.getLsbD (pa % 64) then lineByte l.data (pa % 64) else Memory.byte s.mem pa
  | none => Memory.byte s.mem pa

/-- A line leaves the LLC: a dirty one is written back to DRAM (R240). -/
def State.llcEvict (s : State) (n : Nat) : State :=
  match Tbl.find s.llc n with
  | none => s
  | some l =>
    { s with llc := Tbl.del s.llc n,
             mem := if l.dirty then Memory.writeList s.mem (64 * n) (toBytes 64 l.data.toNat) else s.mem }

/-- Room for one more line in the LLC of its home die, whose 384 MiB committed and version lines share (R2, R12): when it is full a
committed line leaves, which one not being architectural (log 8). -/
def State.llcRoom (s : State) (n : Nat) : State :=
  let d := homeDie (64 * n)
  let ls := s.llc.filter (fun e => homeDie (64 * e.1) == d)
  if ls.length + s.dieLines d < 6291456 then s
  else match ls[Config.victim s.tick n % ls.length]? with
    | some e => s.llcEvict e.1
    | none => s

/-- A committed line put into the LLC. -/
def State.llcPut (s : State) (n : Nat) (l : LlcLine) : State :=
  let s := if (Tbl.find s.llc n).isSome then s else s.llcRoom n
  { s with llc := Tbl.put s.llc n l }

/-- A device read of a line: the LLC fills it if absent; a clean line that DRAM no longer equals (a host write, R240)
may serve the read or be filled afresh (log 8). -/
def State.llcTouch (s : State) (n : Nat) : State :=
  match Tbl.find s.llc n with
  | none => s.llcPut n { dirty := false, data := s.dramLine n }
  | some l =>
    if l.dirty || l.data == s.dramLine n then s
    else
      let k := s.useFresh
      if Config.cacheHit k.1 then k.2 else k.2.llcPut n { dirty := false, data := s.dramLine n }

/-- A committed byte of device memory written at its home: the line becomes dirty in the LLC (R239, R240). -/
def State.comSet (s : State) (pa : Nat) (b : Byte) : State :=
  let l := (Tbl.find s.llc (pa / 64)).getD { dirty := true, data := s.dramLine (pa / 64) }
  s.llcPut (pa / 64) { dirty := true, data := lineSet l.data (pa % 64) [b], host := if l.dirty then l.host &&& ~~~ byteMask (pa % 64) 1 else 0 }

/-! The on-chip map (R17-R20). -/

/-- The group whose register rows hold a register-window offset of a core (R18). -/
def State.rowOwner (s : State) (core off : Nat) : Option (Nat × Group) :=
  (s.groupsOn core).find? (fun e => decide (e.2.rb ≤ off) && decide (off < e.2.rb + e.2.vregs * 4 * e.2.lanew))
/-- A team holds a Casket slot of a core in its range (R277). -/
def State.slotOwned (s : State) (core slot : Nat) : Bool :=
  s.teams.any (fun e => !e.2.away && (
    (e.2.core == core && decide (e.2.f0 ≤ slot) && decide (slot < e.2.f0 + e.2.tiles))
    || (e.2.tandem && e.2.core + 1 == core && decide (e.2.f1 ≤ slot) && decide (slot < e.2.f1 + e.2.tiles))))
/-- A batch object as stored (R218). -/
def Batch.word (b : Batch) : Nat :=
  b.done.toNat + b.closed.toNat * 2 ^ 32 + b.opn.toNat * 2 ^ 64 + b.inflight.toNat * 2 ^ 96 + b.errs.toNat * 2 ^ 128
  + b.lasterr.toNat * 2 ^ 160
/-- A byte of a core's window (R17, R19). -/
def State.chipByte (s : State) (core off : Nat) : Byte :=
  if off < 0x400000 then Memory.byte s.mem (Machine.onchip core off)
  else if off < 0x580000 then
    let o := off - 0x400000
    match s.rowOwner core o with
    | some (_, g) =>
      let e := (o - g.rb) / 4
      BitVec.ofNat 8 ((g.vreg (e / g.lanew) (e % g.lanew)).toNat / 2 ^ (8 * (o % 4)))
    | none => 0
  else if off < 0x700000 then
    if s.slotOwned core ((off - 0x580000) / 0x4000) then Memory.byte s.mem (Machine.onchip core off) else 0
  else if off < 0x704000 then
    let c := (off - 0x700000) / 0x80
    let x := match s.group? (128 * core + c) with
      | some g => (g.copyB, g.matB)
      | none => let y := Tbl.get (s.core core).left c {}
        (y.copyB, y.matB)
    BitVec.ofNat 8 ((if off % 0x80 < 0x40 then x.1.word else x.2.word) / 2 ^ (8 * (off % 0x40)))
  else 0
/-- A byte of a core's window written; writes to what no team owns, to batch objects and to the reserved region are
discarded (R19). -/
def State.chipSet (s : State) (core off : Nat) (b : Byte) : State :=
  if off < 0x400000 then { s with mem := Memory.setByte s.mem (Machine.onchip core off) b }
  else if off < 0x580000 then
    let o := off - 0x400000
    match s.rowOwner core o with
    | some (gid, g) =>
      let e := (o - g.rb) / 4
      let x := g.vreg (e / g.lanew) (e % g.lanew)
      s.setGroup gid (g.setVreg (e / g.lanew) (e % g.lanew) (setFld x (8 * (o % 4)) 8 b.toNat))
    | none => s
  else if off < 0x700000 && s.slotOwned core ((off - 0x580000) / 0x4000) then
    { s with mem := Memory.setByte s.mem (Machine.onchip core off) b }
  else s

/-- A byte at a port. What another package returns is its own (R448): a free value, new in every step (log 13). -/
def State.portByte (s : State) (pa : Nat) : Byte :=
  match regionOf pa with
  | .dram => s.comByte pa
  | .onchip core off => s.chipByte core off
  | .window _ => Memory.byte s.mem pa
  | .host _ => Memory.byte s.mem pa
  | .remote a => Config.remoteRead s.tick a
  | .none => 0
/-- An engine command is still landing. -/
def State.landing (s : State) (id : Nat) : Bool :=
  s.cores.any (fun c => c.2.copyQ.any (fun x => x.id == id && x.status.isNone && !(x.taken && x.left.isEmpty)))
/-- A byte of code as a fetch finds it: while an engine command that has written its line is still landing, the contents before that
command, so that every word is read whole, old or new (R64). -/
def State.codeByte (s : State) (pa : Nat) : Byte :=
  match regionOf pa with
  | .dram => match Tbl.find s.codePre (pa / 64) with
    | some x => if x.cmds.any s.landing then lineByte x.data (pa % 64) else s.codeNow pa
    | none => s.codeNow pa
  | _ => s.portByte pa
/-- A line of code as a fetch finds it. -/
def State.codeLine (s : State) (n : Nat) : BitVec 512 := BitVec.ofNat 512 (ofBytes ((List.range 64).map (fun i => s.codeByte (64 * n + i))))
/-- The lines that some writes have written in committed device memory. -/
def wroteLines (ws : List Wrote) : List Nat :=
  ((ws.filter (fun w => w.committed && regionOf w.pa == .dram)).flatMap (fun w => linesOf w.pa w.len)).eraseDups
/-- What an engine command has landed since an earlier state s0: the lines keep their former contents for fetches while it goes on (R64). -/
def State.keepCode (s s0 : State) (id : Nat) : State :=
  if !s.landing id then s
  else { s with codePre := (wroteLines (s.wrote.drop s0.wrote.length)).foldl (fun t n =>
      match (Tbl.find t n).bind (fun x => if x.cmds.any s.landing then some x else none) with
      | some x => Tbl.put t n { x with cmds := if x.cmds.contains id then x.cmds else x.cmds ++ [id] }
      | none => Tbl.put t n { data := s0.codeLine n, cmds := [id] }) s.codePre }
/-- Former contents that no command keeps any more are dropped. -/
def State.dropCode (s : State) : State :=
  if s.codePre.isEmpty then s else { s with codePre := s.codePre.filter (fun x => x.2.cmds.any s.landing) }
/-- Writes of the host and of groups to lines whose former contents are kept show there too (R64). -/
def State.patchCode (s : State) (ws : List Wrote) : State :=
  if s.codePre.isEmpty then s
  else
    let mine := ws.filter (fun w => w.committed && (w.who.isSome || w.launch == 0))
    let hit := fun (a : Nat) => mine.any (fun w => decide (w.pa ≤ a) && decide (a < w.pa + w.len))
    let patch := fun (n : Nat) (d : BitVec 512) =>
      (List.range 64).foldl (fun d i => if hit (64 * n + i) then lineSet d i [s.codeNow (64 * n + i)] else d) d
    { s with codePre := s.codePre.map (fun (x : Nat × CodePre) => (x.1, { x.2 with data := patch x.1 x.2.data })) }
/-- A byte at a port written. -/
def State.portSet (s : State) (pa : Nat) (b : Byte) : State :=
  match regionOf pa with
  | .dram => s.comSet pa b
  | .onchip core off => s.chipSet core off b
  | .window _ => { s with mem := Memory.setByte s.mem pa b }
  | .host _ => { s with mem := Memory.setByte s.mem pa b }
  | .remote _ => s
  | .none => s
/-- Bytes at a port. -/
def State.portRead (s : State) (pa : Nat) : Nat → List Byte
  | 0 => []
  | n + 1 => s.portByte pa :: State.portRead s (pa + 1) n
/-- Bytes at a port written. -/
def State.portPut (s : State) (pa : Nat) : List Byte → State
  | [] => s
  | b :: r => State.portPut (s.portSet pa b) (pa + 1) r
/-- The record of a write. -/
def State.note (s : State) (w : Wrote) : State := { s with wrote := s.wrote ++ [w] }

/-- The end of an error mark (R252): the line has been rewritten whole by one write to committed memory, namely those of the writes
recorded since the first n of the step. -/
def State.heal (s : State) (n : Nat) : State :=
  if s.badLines.isEmpty then s
  else
    let ws := (s.wrote.drop n).filter (fun w => w.committed && !w.pub)
    { s with badLines := s.badLines.filter (fun l =>
        !(List.range 64).all (fun i => ws.any (fun w => decide (w.pa ≤ 64 * l + i) && decide (64 * l + i < w.pa + w.len)))) }

/-- Bytes written at a port by an agent that is no group, in committed memory (R231). -/
def State.portWrite (s : State) (pa : Nat) (bs : List Byte) (launch : Nat := 0) (own : Bool := false) : State :=
  ((s.portPut pa bs).note { pa := pa, len := bs.length, launch := launch, committed := true, own := own }).heal s.wrote.length
/-- The address lies behind a Smio port that is down (R447). -/
def State.portDown (s : State) (pa : Nat) : Bool :=
  match regionOf pa with
  | .remote a => !((s.routeOf a).elim false (fun n => (s.smio n).up))
  | _ => false
/-- A read of a range fails: a line of it has an uncorrectable error (R252), or its Smio port is down (R447). -/
def State.bad (s : State) (pa n : Nat) : Bool := (linesOf pa n).any (fun l => s.badLines.contains l) || s.portDown pa
/-- The home die logs an uncorrectable error: address, requester, STC (R252). -/
def State.logError (s : State) (pa who : Nat) : State :=
  s.updDie (homeDie pa) (fun d => { d with errLog := d.errLog ++ [(pa, who, s.stc)] })

/-! Versions (R332-R346). -/

/-- A version and its ancestors, own version first (R334). -/
def State.chain (s : State) (v : Option Nat) : Nat → List Nat
  | 0 => []
  | k + 1 => match v with
    | none => []
    | some i => i :: (match Tbl.find s.versions i with
      | some x => State.chain s x.parent k
      | none => [])
/-- The parent of a launch's task versions (R334): its launch version, else its prediction version, else committed. -/
def Launch.taskParent (l : Launch) : Option Nat := l.version.orElse (fun _ => l.pversion)
/-- The chain along which a task reads (R334). -/
def State.chainOf (s : State) (t : Team) (l : Launch) : List Nat := s.chain (t.version.orElse (fun _ => l.taskParent)) 32
/-- A version's line, if it has one. -/
def State.vline (s : State) (v n : Nat) : Option VLine :=
  match Tbl.find s.versions v with
  | some x => Tbl.find x.lines n
  | none => none
/-- The byte a chain returns, if some version of it holds it (R334). -/
def State.chainByte? (s : State) (ch : List Nat) (pa : Nat) : Option Byte :=
  ch.findSome? (fun v => match s.vline v (pa / 64) with
    | some l => if l.mask.getLsbD (pa % 64) then some (lineByte l.data (pa % 64)) else none
    | none => none)
/-- The byte a chain returns (R334). -/
def State.chainByte (s : State) (ch : List Nat) (pa : Nat) : Byte := (s.chainByte? ch pa).getD (s.comByte pa)
/-- Some version of a chain holds a line of the location (R238). -/
def State.chainHolds (s : State) (ch : List Nat) (pa : Nat) : Bool := ch.any (fun v => (s.vline v (pa / 64)).isSome)
/-- A line as a chain reads it. -/
def State.chainLine (s : State) (ch : List Nat) (n : Nat) : BitVec 512 :=
  BitVec.ofNat 512 (ofBytes ((List.range 64).map (fun i => s.chainByte ch (64 * n + i))))
/-- Bytes written into a version: the line is copied into it when it does not hold it, and the bytes enter its mask
(R334). -/
def State.verSet (s : State) (v va pa : Nat) (b : Byte) : State :=
  match Tbl.find s.versions v with
  | none => s
  | some x =>
    let l := match Tbl.find x.lines (pa / 64) with
      | some l => l
      | none => { va := BitVec.ofNat 64 (va / 64 * 64), mask := 0, data := s.chainLine (s.chain (some v) 32) (pa / 64) }
    let l' : VLine := { l with mask := l.mask ||| byteMask (pa % 64) 1, data := lineSet l.data (pa % 64) [b] }
    let s := if (Tbl.find x.lines (pa / 64)).isSome then s else s.llcRoom (pa / 64)
    { s with versions := Tbl.put s.versions v { x with lines := Tbl.put x.lines (pa / 64) l' } }
/-- LineHash (R345). -/
def lineHash (a : W64) (d : BitVec 512) : W64 :=
  let h := (List.range 8).foldl (fun h i => (h ^^^ BitVec.ofNat 64 (fld d (64 * i) 64)) * 0x9E3779B97F4A7C15) a
  h ^^^ (h >>> 29)
/-- The sum of the hashes of a version's lines, as its owner reads them (R346). -/
def State.versionHash (s : State) (v : Nat) : W64 :=
  match Tbl.find s.versions v with
  | none => 0
  | some x => x.lines.foldl (fun h l => h + lineHash l.2.va (s.chainLine (s.chain (some v) 32) l.1)) 0
/-- The masked bytes of a line merged into committed memory or a version (R335). -/
def State.mergeLine (s : State) (parent : Option Nat) (n : Nat) (l : VLine) : State :=
  (List.range 64).foldl (fun s i =>
    if l.mask.getLsbD i then
      match parent with
      | none => s.comSet (64 * n + i) (lineByte l.data i)
      | some p => s.verSet p (l.va.toNat + i) (64 * n + i) (lineByte l.data i)
    else s) s
/-- Versions whose parent ends take its parent (R395). -/
def State.reparent (s : State) (v : Nat) (p : Option Nat) : State :=
  { s with versions := s.versions.map (fun e => (e.1, if e.2.parent = some v then { e.2 with parent := p } else e.2)) }
/-- A publication into committed memory passes the caches of the cores on which the launch's teams stand, as the stores it makes visible
have done (R173, R239): a later load there is not served from a line that was filled while the version lay over it (R175, R238). -/
def State.pubSnoop (s : State) (launch : Nat) (lines : List Nat) : State :=
  let ts := s.teams.filter (fun e => e.1 / 2 ^ 32 == launch && !e.2.away)
  let on := fun (core : Nat) => ts.any (fun e => e.2.core == core || (e.2.tandem && e.2.core + 1 == core))
  let cut := fun (t : Tbl CLine) => lines.foldl Tbl.del t
  { s with cores := s.cores.map (fun (c : Nat × Core) => if on c.1 then (c.1, { c.2 with l1 := cut c.2.l1, sc := cut c.2.sc }) else c),
           dies := s.dies.map (fun (d : Nat × Die) => if ts.any (fun e => dieOf e.2.core == d.1) then (d.1, { d.2 with l2r := cut d.2.l2r }) else d) }
/-- A publication (R335): every masked byte takes its place in the parent and the version ends; a task's count and
hallmark advance (R335, R346). -/
def State.publish (s : State) (v : Nat) : State :=
  match Tbl.find s.versions v with
  | none => s
  | some x =>
    let launch := match x.kind with
      | .task => x.owner / 2 ^ 32
      | .launch => x.owner
      | .pred => x.owner
    let h := if ((s.launch? launch).getD {}).desc.cls = 2 then s.versionHash v else 0
    let s := x.lines.foldl (fun s l => ((s.mergeLine x.parent l.1 l.2).note
      { pa := 64 * l.1, len := 64, launch := launch, committed := x.parent.isNone, ver := x.parent, pub := true })) s
    let s := if x.parent.isSome then s else { (s.pubSnoop launch (x.lines.map (·.1))) with badLines := s.badLines.filter (fun n =>
      !(Tbl.find x.lines n).any (fun l => l.mask == BitVec.allOnes 64)) }
    let s := { s with versions := Tbl.del s.versions v }
    let s := s.reparent v x.parent
    match x.kind with
    | .task => s.updTeam x.owner (fun t => { t with version := none, pubcount := t.pubcount + 1, hallmark := t.hallmark + h })
    | .launch => s.updLaunch x.owner (fun l => { l with version := none })
    | .pred => s.updLaunch x.owner (fun l => if l.pversion = some v then { l with pversion := none } else { l with version := none })
/-- The page at a device address is being moved, at its old frame's home or as the frame it moves to (R328-R330). -/
def State.frameMoving (s : State) (pa : Nat) : Bool :=
  s.parts.any (fun p => p.2.moves.any (fun m => m.olds.contains (pa / 4096 * 4096) || m.news.contains (pa / 4096 * 4096)))
/-- The publication of a version must wait: it would write committed memory in a frame of a page that is being moved, and no write is
performed there between steps 1 and 4 (R329). -/
def State.pubHeld (s : State) (v : Nat) : Bool :=
  (Tbl.find s.versions v).any (fun x => x.parent.isNone && x.lines.any (fun l => s.frameMoving (64 * l.1)))
/-- A version discarded, uncommitted (R339, R389). -/
def State.discard (s : State) (v : Nat) : State :=
  match Tbl.find s.versions v with
  | none => s
  | some x =>
    let s := { s with versions := Tbl.del s.versions v }
    match x.kind with
    | .task => s.updTeam x.owner (fun t => { t with version := none })
    | .launch => s.updLaunch x.owner (fun l => { l with version := none })
    | .pred => s.updLaunch x.owner (fun l => if l.pversion = some v then { l with pversion := none } else { l with version := none })

/-- A byte written through to DRAM, and into the line that the LLC holds (R369). -/
def State.through (s : State) (pa : Nat) (b : Byte) : State :=
  match regionOf pa with
  | .dram =>
    let s := { s with mem := Memory.setByte s.mem pa b }
    match Tbl.find s.llc (pa / 64) with
    | some l => { s with llc := Tbl.put s.llc (pa / 64) { l with data := lineSet l.data (pa % 64) [b] } }
    | none => s
  | _ => s.portSet pa b
/-- Bytes written through. -/
def State.throughAll (s : State) (pa : Nat) : List Byte → State
  | [] => s
  | b :: r => State.throughAll (s.through pa b) (pa + 1) r
/-- The partition that a private range tags a device address with (R445). -/
def State.tagOf (s : State) (pa : Nat) : Option Nat :=
  (s.parts.find? (fun p => p.2.priv.any (fun r =>
    decide (fld r 0 64 ≤ pa) && decide (pa < fld r 0 64 + fld r 64 32 * 0x200000)))).map (·.1)

/-- A record that the G9 writes for a partition may stand at an address: in device memory or host memory, in the partition's own share
of the window, and in no page tagged with another partition (R7, R382, R445). -/
def State.recordable (s : State) (part pa : Nat) : Bool :=
  match regionOf pa with
  | .dram => match s.tagOf pa with
    | some p => p == part
    | none => true
  | .window o =>
    let pr := (s.part part).rcd
    decide (fld pr 128 16 ≤ o / 4096) && decide (o / 4096 < fld pr 128 16 + fld pr 144 16)
  | .host _ => true
  | _ => false

/-- A record written by the G9 for a partition in device memory, through to DRAM, or at another port (R344, R369, R398). Where the
partition may hold no record it is dropped, so that it touches nothing of another partition (R7). -/
def State.record (s : State) (part pa n v : Nat) : State :=
  if (List.range n).all (fun i => s.recordable part (pa + i)) then
    ((s.throughAll pa (toBytes n v)).note { pa := pa, len := n, committed := true, own := true }).heal s.wrote.length
  else s

/-- A version event (R344). -/
def State.versionEvent (s : State) (p launch team event pubcount lines : Nat) : State :=
  let pr := s.part p
  let base := fld pr.rcd 256 64
  let log := fld pr.rcd 320 5
  let w := launch + team * 2 ^ 32 + event * 2 ^ 64 + pubcount * 2 ^ 96 + lines * 2 ^ 128 + s.stc * 2 ^ 192
  (s.record p (base + 32 * (pr.vevHead % 2 ^ log)) 32 w).updPart p (fun x => { x with vevHead := x.vevHead + 1 })
/-- Lines a version holds. -/
def Version.count (x : Version) : Nat := x.lines.length
/-- The launch that a version belongs to. -/
def Version.launch (x : Version) : Nat :=
  match x.kind with
  | .task => x.owner / 2 ^ 32
  | .launch => x.owner
  | .pred => x.owner
/-- Lines held by a launch's own and task versions (R342). -/
def State.launchLines (s : State) (id : Nat) : Nat :=
  s.versions.foldl (fun n e => if e.2.launch = id then n + e.2.count else n) 0
/-- All version lines. -/
def State.allLines (s : State) : Nat := s.versions.foldl (fun n e => n + e.2.count) 0
/-- The version is that of a task that has ended without resuming: nothing of it is ever published (R339). -/
def State.dead (s : State) (x : Version) : Bool := x.kind = .task && ((s.team? x.owner).getD {}).dying
/-- A forced publication of a task version, with its event (R342-R344). What a task that has been ended still writes is discarded (R339). -/
def State.force (s : State) (v event : Nat) : State :=
  match Tbl.find s.versions v with
  | none => s
  | some x =>
    if s.dead x then s.discard v
    else
    let id := x.launch
    let l := (s.launch? id).getD {}
    let s := s.publish v
    let pc := match x.kind with
      | .task => ((s.team? x.owner).getD {}).pubcount.toNat
      | .launch => 0
      | .pred => 0
    let team := match x.kind with
      | .task => x.owner % 2 ^ 32
      | .launch => 0xFFFFFFFF
      | .pred => 0xFFFFFFFF
    s.versionEvent l.part id team event pc x.count
/-- The live task version with the most lines (by `count`), at least a number, among those that a test admits (R342, R343). Of several with
equally many it is the one of the lowest version ID (log 80). -/
def State.largest (s : State) (ok : Launch → Bool) (count : Version → Nat) (min : Nat) : Option Nat :=
  (s.versions.foldl (fun (best : Option (Nat × Nat)) e =>
    if e.2.kind = .task && ok ((s.launch? e.2.launch).getD {}) && decide (min ≤ count e.2) then
      match best with
      | none => some (e.1, count e.2)
      | some b => if b.2 < count e.2 then some (e.1, count e.2) else some b
    else best) none).map (·.1)

/-- The lowest number that a table with rising keys does not use. -/
def Tbl.gap {α : Type} (k : Nat) : Tbl α → Nat
  | [] => k
  | (k', _) :: r => if k' = k then Tbl.gap (k + 1) r else k
/-- The task's version, allotted at its first versioned write (R343). -/
def State.taskVersion (s : State) (key : Nat) (l : Launch) : Rc Nat :=
  match ((s.team? key).getD {}).version with
  | some v => .ok v s
  | none =>
    let id := Tbl.gap 0 s.versions
    if id < 4096 then
      .ok id (({ s with versions := Tbl.put s.versions id { kind := .task, owner := key, parent := l.taskParent } }).updTeam key
        (fun t => { t with version := some id }))
    else match s.largest (fun l => !(l.pred && l.live)) Version.count 0 with
      | some v => .hold (if s.pubHeld v then s else s.force v 5)
      | none => .hold s
/-- A DETERMINISTIC launch becomes detect-only (R342, R349). -/
def State.detectOnly (s : State) (id event : Nat) : State :=
  let l := (s.launch? id).getD {}
  let n := match l.version with
    | some v => match Tbl.find s.versions v with
      | some x => x.count
      | none => 0
    | none => 0
  let s := match l.version with
    | some v => s.publish v
    | none => s
  (s.updLaunch id (fun l => { l with detonly := true })).versionEvent l.part id 0xFFFFFFFF event 0 n
/-- The hold of a write on a version budget is recorded, once for each hold of a group (who) or of a launch's engine writes (R342, R344).
An event of no task version counts every line of the launch, and 0 publications (log 81). -/
def State.stallEvent (s : State) (who : Option Nat) (id event : Nat) : State :=
  let l := (s.launch? id).getD {}
  let rec1 := fun (s : State) => s.versionEvent l.part id 0xFFFFFFFF event 0 (s.launchLines id)
  match who with
  | some gid => match s.group? gid with
    | some g => if g.stallLogged then s else rec1 (s.setGroup gid { g with stallLogged := true })
    | none => s
  | none => if l.stallLogged then s else rec1 (s.updLaunch id (fun l => { l with stallLogged := true }))

/-- The write of a group, or of a launch's engine, has been held on its prediction's budget, and the prediction is not decided yet: it stays
held, whatever room there is since (R342). -/
def State.stalledOn (s : State) (who : Option Nat) (l : Launch) : Bool :=
  l.pred && l.live && (match who with
    | some gid => (s.group? gid).any (·.stallLogged)
    | none => l.stallLogged)
/-- The budgets checked before a version takes a new line (R342): the version that takes it, none for committed memory, or the writer is
held. A launch that two rows name counts under its prediction's row, and a detect-only one under the row of a task version (log 79). A
publication that a page move keeps waiting holds the writer (R329). Every action is followed by another look at what the line then needs; a version that an action has published gives way to what
took its place. na, nd: the line is the na-th that one event needs, and the nd-th of its home die. -/
def State.budget (s : State) (who : Option Nat) (key v pa na nd : Nat) : Nat → Rc (Option Nat)
  | 0 => .hold s
  | k + 1 =>
    match Tbl.find s.versions v with
    | none => match ((s.launch? (key / 2 ^ 32)).getD {}).taskParent with
      | none => .ok none s
      | some w => if (s.vline w (pa / 64)).isSome then .ok (some w) s else State.budget s who key w pa na nd k
    | some x =>
      let id := x.launch
      let l := (s.launch? id).getD {}
      let q := s.queue l.q
      let onDie := decide (131072 * 16 < s.dieLines (homeDie pa) + nd)
      let full := onDie || decide (1048576 * 16 < s.allLines + na)
      let overP := decide (fld q.rcd 352 11 * 16384 < s.launchLines id + na)
      let overV := decide (fld q.rcd 336 11 * 16384 < s.launchLines id + na)
      let renew := fun (event : Nat) => if s.pubHeld v then .hold s else match (s.force v event).taskVersion key ((s.launch? id).getD {}) with
        | .ok v s => State.budget s who key v pa na nd k
        | .flt c s => .flt c s
        | .hold s => .hold s
      if x.kind = .task && decide (262144 < x.count + na) then renew 1
      else if l.pred && l.live && (overP || full || s.stalledOn who l) then .hold (s.stallEvent who id (if overP then 3 else 4))
      else if l.desc.cls = 2 && !l.detonly && (overV || full) then
        if l.version.any s.pubHeld then .hold s
        else State.budget (s.detectOnly id (if overV then 2 else 4)) who key v pa na nd k
      else if full then
        if x.kind = .task && decide (0 < x.count) then renew 4
        else match s.largest (fun l => !(l.pred && l.live) && l.desc.cls != 2)
            (fun y => if onDie then (y.lines.filter (fun e => homeDie (64 * e.1) == homeDie pa)).length else y.count) 1 with
          | some w => .hold (if s.pubHeld w then s else s.force w 4)
          | none => .hold s
      else .ok (some v) s

/-- The version that a write into a version goes to, with its line made room for (R342); none where that has become committed
memory. -/
def State.roomIn (s : State) (who : Option Nat) (key v pa na nd : Nat) : Rc (Option Nat) :=
  if (s.vline v (pa / 64)).isSome && !(who.isSome && s.stalledOn who ((s.launch? (key / 2 ^ 32)).getD {})) then .ok (some v) s
  else s.budget who key v pa na nd 6

/-- A write of a group or of an engine has been made: no version keeps the group waiting, and a later hold on a budget is recorded anew
(R344). -/
def State.unstallLog (s : State) (who : Option Nat) (id : Nat) : State :=
  match who with
  | some gid => match s.group? gid with
    | some g => if g.stallLogged || g.heldVer then s.setGroup gid { g with stallLogged := false, heldVer := false } else s
    | none => s
  | none => match s.launch? id with
    | some l => if l.stallLogged then s.setLaunch id { l with stallLogged := false } else s
    | none => s

/-! Caches (R173, R174, R238, R239). -/

/-- The line of a location in a table. -/
def cacheByte (t : Tbl CLine) (pa fresh : Nat) : Option Byte :=
  match Tbl.find t (pa / 64) with
  | some c => if fresh ≤ c.fill then some (lineByte c.data (pa % 64)) else none
  | none => none
/-- Bytes of a held line updated. -/
def cachePut (t : Tbl CLine) (pa : Nat) (bs : List Byte) : Tbl CLine :=
  match Tbl.find t (pa / 64) with
  | some c => Tbl.put t (pa / 64) { c with data := lineSet c.data (pa % 64) bs }
  | none => t
/-- A line put into a cache of a capacity (R2); in a full one it takes the place of another, which one not being architectural. -/
def cacheFill (t : Tbl CLine) (n cap pick : Nat) (c : CLine) : Tbl CLine :=
  let full := (Tbl.find t n).isNone && decide (cap ≤ t.length)
  let t := if full then (match t[pick % t.length]? with
    | some e => Tbl.del t e.1
    | none => t) else t
  Tbl.put t n c

/-- What a store by a core does to its own caches and to its die's copy (R173, R239). -/
def State.snoop (s : State) (core pa : Nat) (bs : List Byte) (committed : Bool) : State :=
  let s := s.updCore core (fun c => { c with
    l1 := Tbl.del c.l1 (pa / 64), sc := if committed then cachePut c.sc pa bs else Tbl.del c.sc (pa / 64) })
  s.updDie (dieOf core) (fun d => { d with l2r := if committed then cachePut d.l2r pa bs else Tbl.del d.l2r (pa / 64) })
/-- A line filled into L1 or the scalar cache, and into the die's copy when its home is another die. -/
def State.fill (s : State) (core pa : Nat) (scalar : Bool) : State :=
  let c : CLine := { data := BitVec.ofNat 512 (ofBytes ((List.range 64).map (fun i => s.comByte (pa / 64 * 64 + i)))), fill := s.tick }
  let pick := Config.victim s.tick (pa / 64)
  let s := s.updCore core (fun x => if scalar then { x with sc := cacheFill x.sc (pa / 64) 1024 pick c }
    else { x with l1 := cacheFill x.l1 (pa / 64) 4096 pick c })
  if homeDie pa = dieOf core then s else s.updDie (dieOf core) (fun d => { d with l2r := cacheFill d.l2r (pa / 64) 1310720 pick c })
/-- A bypass load refreshes its die's copy of a remote line (R239). -/
def State.refresh (s : State) (core pa : Nat) : State :=
  let c : CLine := { data := BitVec.ofNat 512 (ofBytes ((List.range 64).map (fun i => s.comByte (pa / 64 * 64 + i)))), fill := s.tick }
  s.updDie (dieOf core) (fun d => match Tbl.find d.l2r (pa / 64) with
    | some _ => { d with l2r := Tbl.put d.l2r (pa / 64) c }
    | none => d)

/-- How a load treats caches: bypass, the scalar cache (`sld` with q = 0), L1 (`vld` with bp = 0). -/
inductive Via where
  | bypass | scalar | l1
  deriving DecidableEq, Repr

/-- A read of device memory by a group along its chain (R174, R238, R239, R334): bytes of one line, and which cache served it: 0 none,
1 L1 or the scalar cache, 2 the die's copy. A value held in a cache since the launch began may be returned in place of the home's
(log 8). No bytes on an uncorrectable error. -/
def State.readDram (s : State) (core : Nat) (ch : List Nat) (fresh pa n : Nat) (via : Via) : (Option (List Byte) × Nat) × State :=
  let own := (List.range n).map (fun i => s.chainByte? ch (pa + i))
  if s.chainHolds ch pa then
    if s.bad pa n && own.any (·.isNone) then ((none, 0), s.logError pa core)
    else
      let s := s.llcTouch (pa / 64)
      ((some ((List.range n).map (fun i => s.chainByte ch (pa + i))), 0), s)
  else
    let s1 := s.llcTouch (pa / 64)
    let home := (List.range n).map (fun i => s1.comByte (pa + i))
    let l2 := if homeDie pa = dieOf core then none else (cacheByte (s1.die (dieOf core)).l2r pa fresh).map (fun _ =>
      (List.range n).map (fun i => ((cacheByte (s1.die (dieOf core)).l2r (pa + i) fresh).getD 0)))
    let t := match via with
      | .scalar => (s1.core core).sc
      | .l1 => (s1.core core).l1
      | .bypass => []
    let held := match cacheByte t pa fresh with
      | some _ => some ((List.range n).map (fun i => (cacheByte t (pa + i) fresh).getD 0), 1)
      | none => if via == Via.bypass then none else l2.map (fun bs => (bs, 2))
    let fromHome := fun (s : State) =>
      if s.bad pa n then ((none, 0), s.logError pa core)
      else ((some home, 0), match via with
        | .bypass => s.refresh core pa
        | .scalar => s.fill core pa true
        | .l1 => s.fill core pa false)
    match held with
    | none => fromHome s1
    | some h =>
      if h.1 = home then ((some h.1, h.2), s1)
      else
        let k := s1.useFresh
        if Config.cacheHit k.1 then ((some h.1, h.2), k.2) else fromHome k.2

/-! Writes by a group (R334, R336, R338). -/

/-- The version into which a write for a task in device memory goes, with its line made room for; none for committed memory (R275, R334,
R336, R342). wide: the write acts on the task's parent (R338). na, nd: as in `budget`. -/
def State.target (s : State) (who : Option Nat) (key pa : Nat) (wide : Bool) (na nd : Nat) : Rc (Option Nat) :=
  let l := (s.launch? (key / 2 ^ 32)).getD {}
  if l.desc.cls = 1 || wide then
    match l.taskParent with
    | some v => s.roomIn who key v pa na nd
    | none => .ok none s
  else match s.taskVersion key l with
    | .ok v s => s.roomIn who key v pa na nd
    | .flt c s => .flt c s
    | .hold s => .hold s
/-- The group whose write a version keeps waiting is held with it (R342, R343). -/
def State.holdWriter (s : State) (who : Option Nat) : State :=
  match who with
  | some gid => s.updGroup gid (fun g => { g with heldVer := true })
  | none => s
/-- Bytes written in device memory for a task, by a store of a group (who) or by an engine (R275, R334, R336): into
committed memory or into a version; a store passes the caches of its core. wide: the write acts on the task's parent (R338). -/
def State.writeFor (s : State) (core who : Option Nat) (key va pa : Nat) (bs : List Byte) (wide : Bool) : Rc Unit :=
  let id := key / 2 ^ 32
  let snoop := fun (s : State) (c : Bool) => match core with
    | some k => s.snoop k pa bs c
    | none => s
  match s.target who key pa wide 1 1 with
  | .ok (some v) s =>
    let s := (List.range bs.length).foldl (fun s i => s.verSet v (va + i) (pa + i) (nth bs i 0)) s
    .ok () (((snoop s false).note { pa := pa, len := bs.length, who := who, launch := id, ver := some v }).unstallLog who id)
  | .ok none s =>
    .ok () (((snoop (s.portPut pa bs) true).note { pa := pa, len := bs.length, who := who, launch := id, committed := true }).unstallLog who id)
  | .flt c s => .flt c s
  | .hold s => .hold (s.holdWriter who)

/-- Room in the parent of a task's version for the line of an atomic at tandem scope or wider (R338, R342). -/
def State.parentRoom (s : State) (who : Option Nat) (key pa : Nat) : Rc Unit :=
  match ((s.launch? (key / 2 ^ 32)).getD {}).taskParent with
  | none => .ok () s
  | some v => match s.roomIn who key v pa 1 1 with
    | .ok _ s => .ok () s
    | .flt c s => .flt c s
    | .hold s => .hold (s.holdWriter who)

/-- The masked bytes of a task version under an atomic's location move to the parent, and only those (R338). A line that has no masked byte
left is the version's no longer (log 82). -/
def State.moveBytes (s : State) (key pa n : Nat) : State :=
  match ((s.team? key).getD {}).version with
  | none => s
  | some v =>
    match Tbl.find s.versions v with
    | none => s
    | some x =>
      match Tbl.find x.lines (pa / 64) with
      | none => s
      | some l =>
        let m := l.mask &&& byteMask (pa % 64) n
        if m = 0 then s
        else
          let s := s.mergeLine x.parent (pa / 64) { l with mask := m }
          let l' : VLine := { l with mask := l.mask &&& ~~~ m }
          let ls := if l'.mask = 0 then Tbl.del x.lines (pa / 64) else Tbl.put x.lines (pa / 64) l'
          { s with versions := Tbl.put s.versions v { x with lines := ls } }

/-! The Casket's slot order (R282). -/

/-- Where bytes lo .. lo+len-1 of a tile lie: core, offset in the Casket window, length (R279). -/
def Team.tileRanges (t : Team) (h : Handle) (lo len : Nat) : List (Nat × Nat × Nat) :=
  if !t.tandem then [(t.core, h.first0 * 0x4000 + lo, len)]
  else
    let half := h.rows / 2 * h.rowb
    (if lo < half then [(t.core, h.first0 * 0x4000 + lo, min len (half - lo))] else [])
    ++ (if half < lo + len then [(t.core + 1, h.first1 * 0x4000 + (max lo half - half), lo + len - max lo half)] else [])
/-- Where a pending tile access lies. -/
def Team.accRanges (t : Team) (a : TileAcc) : List (Nat × Nat × Nat) := t.tileRanges a.h a.lo a.len
/-- Two accesses touch a byte in common, and one of them writes (R282). -/
def conflict (xs ys : List (Nat × Nat × Nat)) (wx wy : Bool) : Bool :=
  (wx || wy) && xs.any (fun x => ys.any (fun y => x.1 == y.1 && overlaps x.2.1 x.2.2 y.2.1 y.2.2))
/-- A window access of n bytes at a Casket offset of a core comes after a pending tile access (R282, R283). -/
def State.casketBusy (s : State) (core off n : Nat) (wr : Bool) : Bool :=
  s.teams.any (fun e => !e.2.away && e.2.tileAccs.any (fun a => conflict [(core, off, n)] (e.2.accRanges a) wr a.wr))
/-- A port access must wait for its turn in slot order (R282). -/
def State.portBusy (s : State) (pa n : Nat) (wr : Bool) : Bool :=
  match regionOf pa with
  | .onchip core off => decide (0x580000 ≤ off) && decide (off < 0x700000) && s.casketBusy core (off - 0x580000) n wr
  | _ => false

/-- Bytes of a store written at any port (R236, R333), from a core, for a task, by a group unless it has exited (who). -/
def State.writePort (s : State) (core : Nat) (who : Option Nat) (key va pa : Nat) (bs : List Byte) : Rc Unit :=
  match regionOf pa with
  | .dram => s.writeFor (some core) who key va pa bs false
  | _ => if s.portBusy pa bs.length true then .hold s
    else if s.portDown pa then .ok () (s.logError pa core)
    else .ok () ((s.portPut pa bs).note { pa := pa, len := bs.length, who := who, launch := key / 2 ^ 32, committed := true })

end Sys2Proof.Machine
end

