-- ==== Sys2Proof/Machine/Trace.lean ====
section
/-! DEFINITION. What the machine records of itself and no program sees: trace packets (R432-R434) and latency monitors
(R436, R437). -/

namespace Sys2Proof.Machine

/-- A group is traced: its partition's control is enabled and names its launch or every launch (R432). -/
def State.traced (s : State) (l : Launch) (launch : Nat) : Bool :=
  let c := (s.part l.part).trace
  bit c.toNat 0 && (fld c 16 32 == 0 || fld c 16 32 == launch)
/-- Bytes written to a core's slice, uncached, where its partition may hold them (R7); a full slice stops tracing unless it wraps (R432,
R434). -/
def State.traceBytes (s : State) (core base size : Nat) (wrap : Bool) : List Byte → State
  | [] => s
  | b :: r =>
    let c := s.core core
    if !wrap && decide (size ≤ c.twptr.toNat) then s.setCore core { c with tfull := true }
    else
      let a := base + c.twptr.toNat % size
      let s := if s.recordable ((s.partOfCore core).getD 16) a then s.through a b else s
      State.traceBytes (s.setCore core { c with twptr := c.twptr + 1 }) core base size wrap r
/-- A packet written; the next packet at or after each multiple of 4096 bytes is a SYNC (R434). -/
def State.packetOut (s : State) (core : Nat) (ctl : BitVec 128) (bs : List Byte) : State :=
  let size := 2 ^ fld ctl 8 5
  let at0 := (s.core core).twptr.toNat / 4096
  let s := s.traceBytes core (fld ctl 64 64 + core * size) size (bit ctl.toNat 1) bs
  s.updCore core (fun c => { c with tlast := s.stc, tsync := c.tsync || c.twptr.toNat / 4096 != at0 })
/-- The word index of a scalar PC (R433). -/
def wordIndex (l : Launch) (pc : W64) : Nat := (pc.toNat + 2 ^ 64 - l.desc.scode.toNat) % 2 ^ 64 / 4
/-- A SYNC packet: every traced group resident on the core (R433, R434). When it crosses a multiple of 4096 bytes itself, another
is due. -/
def State.syncPacket (s : State) (core : Nat) (ctl : BitVec 128) : State :=
  let gs := (s.groupsOn core).filter (fun e => s.traced (s.launchOf e.2) e.2.launch)
  let lpc := fun (p : Option Path) => match p with
    | some p => p.pc.toNat
    | none => 0
  let ents := gs.flatMap (fun e =>
    toBytes 4 (ctxOf e.1 + (e.2.slot0.isSome.toNat + 2 * e.2.slot1.isSome.toNat) * 2 ^ 8)
    ++ toBytes 4 (wordIndex (s.launchOf e.2) e.2.spc) ++ toBytes 4 (lpc e.2.slot0) ++ toBytes 4 (lpc e.2.slot1))
  (s.updCore core (fun c => { c with tsync := false })).packetOut core ctl (toBytes 4 0x0F ++ toBytes 4 gs.length ++ toBytes 8 s.stc ++ ents)

/-- Tracing starts on some cores of a partition: nothing has been written, and each writes a SYNC (R432, R434). -/
def State.traceStart (s : State) (ctl : BitVec 128) (cores : List Nat) : State :=
  cores.foldl (fun s c => (s.updCore c (fun x =>
    { x with twptr := 0, tdrop := 0, tloss := 0, tsync := false, tfull := false, tlast := s.stc })).syncPacket c ctl) s

/-- The SYNC that is due at or after a multiple of 4096 bytes, before any other packet (R434). A SYNC may cross a multiple itself, and then
another is due; no second one does. -/
def State.syncDue (s : State) (core : Nat) (ctl : BitVec 128) : State :=
  let one := fun (s : State) => if (s.core core).tsync then s.syncPacket core ctl else s
  one (one s)
/-- A core that has dropped packets writes LOSS, then a SYNC, if room has returned, while its partition is traced (R432, R434). -/
def State.traceLoss (s : State) (core : Nat) (ctl : BitVec 128) : State :=
  let c := s.core core
  if c.tloss = 0 || c.tfull || !bit ctl.toNat 0 then s
  else
    let k := s.useFresh
    if Config.traceRoom k.1 then
      (((k.2.syncDue core ctl).packetOut core ctl (toBytes 4 0x0E ++ toBytes 4 c.tloss.toNat)).updCore core (fun c => { c with tloss := 0 })).syncPacket core ctl
    else k.2

/-- The cores that owe a LOSS look for room again (R434). -/
def State.traceRetry (s : State) : State :=
  (s.cores.filter (fun e => e.2.tloss != 0)).foldl (fun s e =>
    match s.partOfCore e.1 with
    | some p => s.traceLoss e.1 (s.part p).trace
    | none => s) s

/-- A packet of a group (R433, R434): a core that cannot take it drops it whole and counts it. -/
def State.packet (s : State) (gid : Nat) (g : Group) (ty : Nat) (payload : List Byte) : State :=
  let core := coreOf gid
  let l := s.launchOf g
  if s.traced l g.launch && !(s.core core).tfull then
    let ctl := (s.part l.part).trace
    let s := s.traceLoss core ctl
    let k := s.useFresh
    let s := k.2
    if (s.core core).tloss != 0 || !Config.traceRoom k.1 then
      s.updCore core (fun c => { c with tdrop := if c.tdrop = 0xFFFFFFFF then c.tdrop else c.tdrop + 1, tloss := c.tloss + 1 })
    else
      let s := if !(s.core core).tsync && decide (0xFFFF < s.stc - (s.core core).tlast) then s.syncPacket core ctl else s
      let s := s.syncDue core ctl
      s.packetOut core ctl (toBytes 2 (ty + ctxOf gid * 2 ^ 8) ++ toBytes 2 (s.stc - (s.core core).tlast) ++ payload)
  else s

/-- SBR: the target of a taken branch, jump, call or return (R433). -/
def State.traceBranch (s : State) (gid : Nat) (g : Group) (target : W64) : State :=
  s.packet gid g 1 (toBytes 4 (wordIndex (s.launchOf g) target))
/-- LPATH: 0 block start, 1 split, 2 merge, 3 path retire, 4 `lkill`; the path as it continues (R433). -/
def State.tracePath (s : State) (gid : Nat) (g : Group) (ev : Nat) (pc : W32) (mask : W64) : State :=
  s.packet gid g 2 (toBytes 4 ev ++ toBytes 4 pc.toNat ++ toBytes 8 mask.toNat)

/-- The bin of a recorded value (R437). -/
def monitorBin (ev v : Nat) : Nat := if ev = 7 then v % 16 else if v < 2 then 0 else min 15 (Nat.log2 v)
/-- A monitor counts the event (R436). -/
def Monitor.counts (m : Monitor) (core part ev : Nat) : Bool :=
  let c := m.ctl.toNat
  bit c 0 && !bit c 1 && bits c 8 4 == ev && (bit c 20 || bits c 16 4 == part)
  && decide (bits c 32 8 ≤ core) && decide (core ≤ bits c 40 8)
/-- A value recorded (R437). -/
def Monitor.record (m : Monitor) (ev v : Nat) : Monitor :=
  let v := min v 0xFFFFFFFF
  let b := monitorBin ev v
  let n := Tbl.get m.bins b 0
  { m with mn := (if v < m.mn.toNat then BitVec.ofNat 32 v else m.mn), mx := (if m.mx.toNat < v then BitVec.ofNat 32 v else m.mx),
           bins := Tbl.set m.bins b (if n = 0xFFFFFFFF then n else n + 1) 0 }
/-- A value recorded by every monitor of a core's die that counts it (R436, R437). -/
def State.monitor (s : State) (core part ev v : Nat) : State :=
  let d := s.die (dieOf core)
  if d.mons.any (fun m => m.2.counts core part ev) then
    s.setDie (dieOf core) { d with mons := d.mons.map (fun m => (m.1, if m.2.counts core part ev then m.2.record ev v else m.2)) }
  else s
/-- A latency or level that is not architectural, recorded (R3, R436). -/
def State.monitorFree (s : State) (core part ev : Nat) : State :=
  if (s.die (dieOf core)).mons.any (fun m => m.2.counts core part ev) then
    let k := s.useFresh
    k.2.monitor core part ev (Config.latency k.1)
  else s

/-! Levels (R435, R436): 0 none, 1 L1, 2 L2, 3 remote L2, 4 LLC, 5 stacked DRAM, 6 LPDDR 6, 7 host, 8 scratch port, 9 host window. -/

/-- Something watches the levels that accesses of a core reach. -/
def State.observed (s : State) (core : Nat) : Bool :=
  !s.tags.isEmpty || !s.sampleIn.isEmpty || !(s.die (dieOf core)).mons.isEmpty

/-- The level of an access that is served at its port (R435). Whether the home's L2 or its LLC served a line that the LLC holds is not
architectural (R3). -/
def State.portLevel (s : State) (core pa : Nat) : Nat × State :=
  match regionOf pa with
  | .dram =>
    if (Tbl.find s.llc (pa / 64)).isNone && !s.versions.any (fun v => (Tbl.find v.2.lines (pa / 64)).isSome) then
      (if pa < 0x3000000000 then 5 else 6, s)
    else
      let k := s.useFresh
      (if Config.cacheHit k.1 then (if homeDie pa = dieOf core then 2 else 3) else 4, k.2)
  | .onchip _ _ => (8, s)
  | .window _ => (9, s)
  | .host _ => (7, s)
  | .remote _ => (7, s)
  | .none => (0, s)

/-- The level of an access that its port would serve, where something watches. -/
def State.levelAt (s : State) (core pa : Nat) : Nat × State := if s.observed core then s.portLevel core pa else (0, s)
/-- The level that an access has reached is noted for the sampler and the monitors. -/
def State.reachAt (s : State) (core pa level : Nat) : State :=
  if s.observed core then { s with reached := s.reached ++ [(pa / 64, level)] } else s
/-- An access served at its port is noted. -/
def State.reach (s : State) (core pa : Nat) : State :=
  let r := s.levelAt core pa
  r.2.reachAt core pa r.1

/-- How far a level lies: the scratch port before every other, the window after every other (log 56). -/
def levelRank (n : Nat) : Nat := if n = 8 then 1 else if n = 0 then 0 else n + 1

/-- The farthest of some levels; 0 for none. -/
def farthest (ls : List (Nat × Nat)) : Nat := ls.foldl (fun m x => if levelRank m < levelRank x.2 then x.2 else m) 0

/-- Event 7 for the granules that a lane load has read since the first n notes (R436): each once. -/
def State.monitorLevels (s : State) (core part n : Nat) : State :=
  let ls := s.reached.drop n
  ((ls.map (·.1)).eraseDups).foldl (fun s l => s.monitor core part 7 (farthest (ls.filter (fun x => x.1 == l)))) s

end Sys2Proof.Machine
end

