-- ==== Sys2Proof/Machine/Trans.lean ====
section
/-! DEFINITION. Where an address leads (spec/10 R205-R208, spec/01 R21-R22, spec/12 R258, spec/16): the scratch
aperture, team windows, and the Sv57 walk with its TLB, A and D bits, page requests and page moves. -/

namespace Sys2Proof.Machine

/-- First address of the scratch aperture (R205). -/
def aperture : Nat := 0x00FFFF0000000000
/-- First address of the team windows (R258). -/
def teamWin : Nat := 0x00FFE00000000000

/-- Where an access goes. -/
inductive Loc where
  | port (pa : Nat)
  | flt (c : Cause)
  /-- the page is not present (R324), or a team window is being moved (R22) -/
  | missing
  /-- the page is being moved and the access must wait or enter the side log (R328) -/
  | moving
  | hold
  deriving DecidableEq, Repr

/-- The address lies in the scratch aperture (R205). -/
def inAperture (va : Nat) : Bool := decide (aperture ≤ va) && decide (va < aperture + 0x800000)
/-- The address lies in the team windows (R258). -/
def inTeamWin (va : Nat) : Bool := decide (teamWin ≤ va) && decide (va < teamWin + 2 ^ 44)

/-- The port of n bytes at an aperture offset, for a group on a core (R205, R206, R208). -/
def scratchLoc (t : Team) (o n : Nat) : Loc :=
  if o < 0x400000 then
    if o + n ≤ t.scratch then .port (onchip t.core (t.sb0 + o)) else .flt .scratchbounds
  else if t.tandem && o - 0x400000 + n ≤ t.scratch then .port (onchip (t.core + 1) (t.sb1 + (o - 0x400000)))
  else .flt .scratchbounds

/-- A slot of a team's range is bound on the leader (0) or the wheeler (1) (R277, R283). -/
def Team.slotBound (t : Team) (half j : Nat) : Bool :=
  t.handles.any (fun h =>
    let f := if half = 0 then h.2.first0 - t.f0 else h.2.first1 - t.f1
    decide (f ≤ j) && decide (j < f + h.2.nslot))
/-- The port of n bytes through a team window (R21, R258). A command of a team that is being saved must finish first (R276), so it
reaches the windows of the teams that are saved with it (inside). -/
def State.windowLoc (s : State) (launch va n : Nat) (inside : Bool := false) : Loc :=
  let ti := (va - teamWin) / 0x1000000
  let o := (va - teamWin) % 0x1000000
  match s.team? (keyOf launch ti) with
  | none => .flt .protect
  | some t =>
    let half := o / 0x800000
    let r := o % 0x800000
    let core := t.core + half
    if half = 1 && !t.tandem then .flt .protect
    else if t.moving && !(inside && !t.away) then .missing
    else if r < 0x400000 then
      if r + n ≤ t.scratch then .port (onchip core ((if half = 0 then t.sb0 else t.sb1) + r)) else .flt .protect
    else if r < 0x580000 then
      match s.rowOwner core (r - 0x400000) with
      | some (_, g) =>
        if g.launch = launch && g.team = ti && r - 0x400000 + n ≤ g.rb + g.vregs * 4 * g.lanew then .port (onchip core r)
        else .flt .protect
      | none => .flt .protect
    else if r < 0x700000 then
      let j := (r - 0x580000) / 0x4000
      if j < t.tiles && t.slotBound half j && (r - 0x580000) % 0x4000 + n ≤ 0x4000 then
        .port (onchip core (0x580000 + ((if half = 0 then t.f0 else t.f1) + j) * 0x4000 + (r - 0x580000) % 0x4000))
      else .flt .protect
    else .flt .protect

/-- The place of a host physical address (R318): device memory through BAR2, another package by the Smio
routing table (R448), the window through BAR4, else host memory; none where BAR2 refuses it. -/
def State.place (s : State) (hpa : Nat) : Option Nat :=
  if s.bar2 ≤ hpa && hpa < s.bar2 + 2 ^ 41 then
    let o := hpa - s.bar2
    match regionOf o with
    | .dram => some o
    | _ => none
  else if (s.routeOf hpa).isSome then some (2 ^ 65 + hpa)
  else if s.bar4 ≤ hpa && hpa < s.bar4 + 2 ^ 20 then some (0x1FF00000000 + (hpa - s.bar4))
  else some (2 ^ 64 + hpa)
/-- A page-table entry read at its place; an unreachable one reads 0, not valid. -/
def State.pteAt (s : State) (hpa : Nat) : Nat :=
  match s.place hpa with
  | some pa => ofBytes (s.portRead pa 8)
  | none => 0

/-- The outcome of a walk (R318): the leaf entry, its address and level; a V = 0 entry; or a malformed one. -/
inductive Walk where
  | leaf (pte pteAddr level : Nat)
  | missing
  | bad
  /-- a translation has been asked of the host (R324) -/
  | asked
  deriving DecidableEq, Repr

/-- The key of a non-leaf entry in a die's walk caches (R318, R320). -/
def walkKey (asid va k : Nat) : Nat := (asid * 8 + k) * 2 ^ 52 + va % 2 ^ 57 / 2 ^ (12 + 9 * k)

/-- A non-leaf entry: valid, and no R, W or X (R318). -/
def isPointer (e : Nat) : Bool := bit e 0 && !bit e 1 && !bit e 2 && !bit e 3

/-- The entry that a walk finds at an address: a held non-leaf entry may serve in place of one that has changed since, until a
shootdown (R320); a non-leaf entry found is held. -/
def State.walkEntry (s : State) (die asid va k a : Nat) : Nat × State :=
  let e := s.pteAt a
  let key := walkKey asid va k
  let keep := fun (s : State) =>
    if isPointer e then s.updDie die (fun d => { d with walks := Tbl.put d.walks key (BitVec.ofNat 64 e) }) else s
  match Tbl.find (s.die die).walks key with
  | none => (e, keep s)
  | some h =>
    if h.toNat = e then (e, s)
    else if Config.tlbHit s.tick (2 ^ 80 + key) then (h.toNat, s)
    else (e, keep s)

/-- The Sv57 walk from a table at a level (R318), by the translation unit of a die. In a non-leaf entry D, A and U are reserved (the
Sv57 scheme). Order 2 comes before order 3: a malformed entry is remembered while the walk goes on. -/
def State.walk (s : State) (die asid va : Nat) (bad : Bool) (table : Nat) : Nat → Walk × State
  | 0 => (.bad, s)
  | k + 1 =>
    let a := table + 8 * bits va (12 + 9 * k) 9
    let r := s.walkEntry die asid va k a
    let e := r.1
    let ppn := bits e 10 44
    if !bit e 0 then (.missing, r.2)
    else
      let bad := bad || bits e 54 10 != 0
      if isPointer e then
        if k = 0 then (.bad, r.2) else State.walk r.2 die asid va (bad || bit e 4 || bits e 6 2 != 0) (ppn * 4096) k
      else if bad || (bit e 2 && !bit e 1) || ppn % 2 ^ (9 * k) != 0 then (.bad, r.2)
      else (.leaf e a k, r.2)

/-- The host physical address under a leaf (R318). -/
def leafAddr (pte level va : Nat) : Nat := bits pte 10 44 * 4096 + va % 2 ^ (12 + 9 * level)
/-- Order 4 of R318. -/
def permitted (pte : Nat) (rw : Rw) : Bool :=
  bit pte 4 && (match rw with
    | .rd => bit pte 1
    | .wr => bit pte 2
    | .amo => bit pte 1 && bit pte 2
    | .ex => bit pte 3)

/-- The TLB key of a page (R320). -/
def tlbKey (asid va : Nat) : Nat := asid * 2 ^ 52 + bits va 12 52
/-- The TLB key under which a leaf is held: one with G = 1 carries no ASID and serves every address space (R318, R320). -/
def leafKey (asid va pte : Nat) : Nat := if bit pte 5 then tlbKey 0x10000 va else tlbKey asid va
/-- A leaf as the TLB holds it: the entry with its level in bits 56:54. -/
def tlbLeaf (pte level : Nat) : W64 := BitVec.ofNat 64 (setBits pte 54 3 level)
/-- Equal but for the A and D bits. -/
def sameLeaf (a b : W64) : Bool := a ||| 0xC0 == b ||| 0xC0

/-- The TLB that serves an access: the core TLB, or the copy engine's walk-ahead TLB (R256, R320). -/
def Core.tlbOf (c : Core) (eng : Bool) : Tbl W64 := if eng then c.wtlb else c.tlb

/-- A leaf held in a TLB of a core (R320). -/
def State.holdLeaf (s : State) (core : Nat) (eng : Bool) (key : Nat) (leaf : W64) : State :=
  s.updCore core (fun c => if eng then { c with wtlb := Tbl.put c.wtlb key leaf } else { c with tlb := Tbl.put c.tlb key leaf })

/-- The leaf under which an access is made (R318, R320): a held translation serves until a shootdown, and the walk may
be made afresh (log 8). In host-assisted mode only held translations exist, the answers of ATS Translation Requests; a page that the
host has answered is not present is so until the page request that it leads to is answered (R324). The answer carries the entry's
own address when a walk found it. -/
def State.leafFor (s : State) (core : Nat) (l : Launch) (va need : Nat) (eng : Bool) : Walk × State :=
  let t := (s.core core).tlbOf eng
  let held := (Tbl.find t (tlbKey l.asid.toNat va)).orElse (fun _ => Tbl.find t (tlbKey 0x10000 va))
  let ofHeld := fun (h : W64) => Walk.leaf (setBits h.toNat 54 3 0) 0 (fld h 54 3)
  if fld (s.part l.part).rcd 80 1 = 1 then
    match held with
    | some h => (ofHeld h, s)
    | none => (if (s.part l.part).noPage.contains (tlbKey l.asid.toNat va) then .missing else .asked, s)
  else
    let w := s.walk (dieOf core) l.asid.toNat va false l.root.toNat 5
    match held with
    | none => w
    | some h =>
      let agree := match w.1 with
        | .leaf e _ k => sameLeaf h (tlbLeaf e k)
        | _ => false
      if agree || h.toNat &&& need != need then w
      else (if Config.tlbHit s.tick (tlbKey l.asid.toNat va) then ofHeld h else w.1, w.2)

/-- The port may be reached by accesses of a partition: its own share of the window (R382), and no page tagged with
another partition (R445). -/
def State.reachable (s : State) (part pa : Nat) (rw : Rw) : Bool :=
  match regionOf pa with
  | .window o =>
    let pr := (s.part part).rcd
    rw != .ex && decide (fld pr 128 16 ≤ o / 4096) && decide (o / 4096 < fld pr 128 16 + fld pr 144 16)
  | .remote _ => rw != .ex
  | .dram => s.recordable part pa
  | _ => true

/-- Translation of one access (R317-R319, R382): the port, and, when the access is about to be performed (touch), A and D
set, but for a table that a stale entry names in memory of another partition (R7). A predicted launch's updates wait for confirmation
(R319, R387). -/
def State.translate (s : State) (core : Nat) (l : Launch) (va : Nat) (rw : Rw) (touch : Bool) (eng : Bool := false) : Loc × State :=
  let prot := Loc.flt (if rw = .ex then .illegal else .protect)
  let top := bits va 56 8
  if top != 0 && top != 0xFF then (prot, s)
  else
    let need := 0x40 + (if rw.writes then 0x80 else 0)
    match s.leafFor core l va need eng with
    | (.missing, s) => (.missing, s)
    | (.bad, s) => (prot, s)
    | (.asked, s) => (.hold, s)
    | (.leaf e a k, s) =>
      if !permitted e rw then (prot, s)
      else match s.place (leafAddr e k va) with
        | none => (prot, s)
        | some pa =>
          if !s.reachable l.part pa rw then (prot, s)
          else
            let pred := l.pred && l.live
            let outside := match regionOf pa with
              | .host _ => true
              | .remote _ => true
              | .window _ => rw.writes
              | _ => false
            if pred && outside then (.hold, s)
            else if rw.writes && s.frameMoving pa then (.moving, s)
            else if e &&& need = need || a = 0 then
              (.port pa, s.holdLeaf core eng (leafKey l.asid.toNat va e) (tlbLeaf e k))
            else if pred then (.hold, s)
            else if !touch then (.port pa, s)
            else
              let s := match s.place a with
                | some p => if (List.range 8).all (fun i => s.recordable l.part (p + i)) then s.portWrite p (toBytes 8 (e ||| need)) 0 true else s
                | none => s
              (.port pa, s.holdLeaf core eng (leafKey l.asid.toNat va e) (tlbLeaf (e ||| need) k))

/-- The place of an address whatever may be done there: the port under its leaf (R251, R271). -/
def State.frameOf (s : State) (core : Nat) (l : Launch) (va : Nat) (eng : Bool) : Loc × State :=
  let top := bits va 56 8
  if top != 0 && top != 0xFF then (.flt .protect, s)
  else match s.leafFor core l va 0 eng with
    | (.missing, s) => (.missing, s)
    | (.bad, s) => (.flt .protect, s)
    | (.asked, s) => (.hold, s)
    | (.leaf e _ k, s) => match s.place (leafAddr e k va) with
      | none => (.flt .protect, s)
      | some pa => (.port pa, s)
/-- Where n bytes at an address lead for a group on a core (R171, R236). eng: through the walk-ahead TLB (R271). -/
def State.locate (s : State) (gid : Nat) (g : Group) (va n : Nat) (rw : Rw) (touch : Bool) (eng : Bool := false) : Loc × State :=
  if inAperture va then (scratchLoc (s.teamOf g) (va - aperture) n, s)
  else if inTeamWin va then (s.windowLoc g.launch va n, s)
  else s.translate (coreOf gid) (s.launchOf g) va rw touch eng

/-- A page request (R324): one record per core and page, and the page interrupt; or, host-assisted, one request group per page. -/
def State.requestPage (s : State) (core ctx : Nat) (l : Launch) (va : Nat) (rw : Rw) (engine : Bool) : State :=
  let p := s.part l.part
  let page := BitVec.ofNat 64 (va / 4096 * 4096)
  let assisted := fld p.rcd 80 1 = 1
  if p.reqs.any (fun r => r.va == page && r.asid == l.asid && (assisted || r.core == core)) then s
  else
    let r : PageReq :=
      { tag := p.nextTag, va := page, asid := l.asid, core := core, ctx := (if engine then 0 else ctx), wr := rw.writes,
        ex := rw == .ex, engine := engine, since := s.stc }
    let p' := { p with reqs := p.reqs ++ [r], nextTag := p.nextTag + 1 }
    if assisted then s.setPart l.part p'
    else
      let w := page.toNat + l.asid.toNat * 2 ^ 64 + r.wr.toNat * 2 ^ 80 + r.ex.toNat * 2 ^ 81 + r.tag.toNat * 2 ^ 96
        + core * 2 ^ 128 + r.ctx * 2 ^ 136 + engine.toNat * 2 ^ 143 + s.stc * 2 ^ 192
      (s.record l.part (fld p.rcd 160 64 + 32 * (p.prqHead % 2 ^ fld p.rcd 224 5)) 32 w).setPart l.part
        { p' with prqHead := p.prqHead + 1, pageIrqs := p.pageIrqs + 1 }

end Sys2Proof.Machine
end

