-- ==== Sys2Proof/Machine/Access.lean ====
section
/-! DEFINITION. The accesses of a group (spec/07 R171-R177, spec/10 R230-R233, spec/11 R236-R249, spec/16 R325-R327):
their checks, loads, stores, atomics, the side log and the overreach buffer. -/

namespace Sys2Proof.Machine

/-! Watchpoints (R427, R428). -/

/-- A watchpoint matches an access (R427). -/
def Watch.hit (w : Watch) (part : Nat) (asid : BitVec 16) (va n : Nat) (rd wr : Bool) : Bool :=
  w.en && ((w.rd && rd) || (w.wr && wr)) && w.part == part && (w.anyAsid || w.asid == asid)
  && overlaps w.addr.toNat (2 ^ w.wlen) va n
/-! The streams of a group are numbered 0 for the S-stream, 1 and 2 for the paths in slots 0 and 1. -/

/-- A stream's name among the pages that hold the group: 0, or 1 + the id of its path. -/
def Group.streamId (g : Group) (k : Nat) : Nat := if k = 0 then 0 else ((g.path? (k - 1)).map (fun p => p.id + 1)).getD 0
/-- Watchpoints are ignored for the stream's next issue (R399, R428). -/
def Group.unwatched (g : Group) (k : Nat) : Bool := if k = 0 then g.noWatch else (g.path? (k - 1)).elim false (·.noWatch)
/-- A page has been refused to the stream since it was held on it (R325). -/
def Group.refusedTo (g : Group) (k va : Nat) : Bool := g.refused.contains (g.streamId k, BitVec.ofNat 64 (va / 4096 * 4096))
/-- A group watchpoint of the core matches an access of a stream of the group (R428). -/
def State.gwHit (s : State) (gid : Nat) (g : Group) (k : Nat) (va n : Nat) (rw : Rw) : Bool :=
  let l := s.launchOf g
  !g.unwatched k && (s.core (coreOf gid)).gw.any (fun w => w.hit l.part l.asid va n rw.reads rw.writes)
/-- A hit counted, saturating (R427). -/
def Watch.count (w : Watch) : Watch := { w with hits := if w.hits = 0xFFFFFFFF then w.hits else w.hits + 1 }
/-- HITS of every matching group watchpoint counts the hit (R428). -/
def State.gwCount (s : State) (gid : Nat) (g : Group) (va n : Nat) (rw : Rw) : State :=
  let l := s.launchOf g
  s.updCore (coreOf gid) (fun c => { c with
    gw := c.gw.map (fun w => if w.hit l.part l.asid va n rw.reads rw.writes then w.count else w) })

/-! Checks before an access (R176, R243). -/

/-- The page of an address. -/
def pageOf (va : Nat) : W64 := BitVec.ofNat 64 (va / 4096 * 4096)
/-- What the checks of an access find. -/
inductive Chk where
  | pass
  | missing
  | moving
  | hold
  | flt (c : Cause)
  deriving DecidableEq, Repr

/-- The checks of one aligned access of a stream after ALIGN, in the order of R176; a store on a page that is not present is still
checked for WATCH (R243). A register region of a team window that was re-mapped while the access waited is refused (R22). -/
def State.check (s : State) (gid : Nat) (g : Group) (k : Nat) (va n : Nat) (rw : Rw) : Chk × State :=
  if inTeamWin va && g.refusedTo k va then (.flt .protect, s) else
  let r := s.locate gid g va n rw false
  let watch := fun (c : Chk) => if s.gwHit gid g k va n rw then Chk.flt .watch else c
  match r.1 with
  | .flt c => (.flt c, r.2)
  | .hold => (.hold, r.2)
  | .missing => (if rw = .wr then watch .missing else .missing, r.2)
  | .moving => (watch .moving, r.2)
  | .port _ => (watch .pass, r.2)

/-! Overreach (R229-R233). -/

/-- Granules in the overreach buffers of a core (R230). -/
def State.overGranules (s : State) (core : Nat) : Nat :=
  (s.groupsOn core).foldl (fun n e => match e.2.orun with
    | some o => n + ((o.buf.map (fun c => c.1 / 64)).eraseDups).length
    | none => n) 0
/-- A granule enters the read signature (R230). -/
def Over.read (o : Over) (pa n : Nat) : Over :=
  { o with sig := (linesOf pa n).foldl (fun s l => s ||| (1 <<< (Config.sigBit l).toNat)) o.sig }
/-- A granule may have been read, as the signature tells (R231). -/
def Over.mayHaveRead (o : Over) (line : Nat) : Bool := o.sig.getLsbD (Config.sigBit line).toNat
/-- Buffered bytes over those read (R230). -/
def Over.overlay (o : Over) (pa : Nat) (bs : List Byte) : List Byte :=
  (List.range bs.length).map (fun i => (Tbl.find o.buf (pa + i)).getD (nth bs i 0))
/-- Stores of the group stand in an overreach buffer: they are performed when the phase has completed (R230, R232). -/
def Group.buffering (g : Group) : Bool := g.orun.elim false (fun o => !o.order.isEmpty)
/-- Bytes put into the buffer. -/
def bufPut (buf : List (Nat × Byte)) (pa : Nat) : List Byte → List (Nat × Byte)
  | [] => buf
  | b :: r => bufPut (Tbl.put buf pa b) (pa + 1) r
/-- A store of an overreaching group: into the buffer, or held when it has no free entry (R230, R233). -/
def State.overStore (s : State) (gid : Nat) (o : Over) (path va pa : Nat) (bs : List Byte) : Rc Unit :=
  let held := (linesOf pa bs.length).all (fun l => o.buf.any (fun c => c.1 / 64 == l))
  if !held && decide (2048 ≤ s.overGranules (coreOf gid)) then .hold s
  else
    let o' : Over := { o with buf := bufPut o.buf pa bs,
                              order := o.order ++ [{ pa := pa, va := BitVec.ofNat 64 va, size := bs.length, data := BitVec.ofNat 64 (ofBytes bs), path := path }] }
    .ok () (s.updGroup gid (fun g => { g with orun := some o' }))

/-! The side log (R326, R327). -/

/-- A group as the issuer of what outlives its context (R276, R298, R326). -/
def Group.issuer (g : Group) (gid : Nat) : Issuer := { gid := gid, key := g.key, gidx := g.gidx, sidx := g.spawnIdx }
/-- The group is that issuer. -/
def Group.issued (g : Group) (i : Issuer) : Bool := i.key == g.key && i.gidx == g.gidx && i.sidx == g.spawnIdx
/-- The live group that an issuer names, wherever it is now. -/
def State.issuer? (s : State) (i : Issuer) : Option (Nat × Group) := s.groups.find? (fun e => e.2.issued i)
/-- Side-log entries of an issuer. -/
def State.sideBy (s : State) (i : Issuer) : List SideEntry :=
  s.cores.flatMap (fun c => c.2.sideLog.filter (fun e => e.iss.key == i.key && e.iss.gidx == i.gidx && e.iss.sidx == i.sidx))
/-- Side-log entries of a group. -/
def State.sideOf (s : State) (gid : Nat) (g : Group) : List SideEntry := s.sideBy (g.issuer gid)
/-- A side-log entry on any core whose bytes overlap a range of an address space, or, where it stands for a store to a frame that is being
moved, the range's port under whatever address (R176, R328). -/
def State.sideOverlap (s : State) (asid : BitVec 16) (va pa n : Nat) : Bool :=
  s.cores.any (fun c => c.2.sideLog.any (fun e => (List.range n).any (fun i =>
    (e.asid == asid && e.va.toNat / 64 == (va + i) / 64 && e.mask.getLsbD ((va + i) % 64))
    || (e.line == some ((pa + i) / 64) && e.mask.getLsbD ((pa + i) % 64)))))
/-- A core's side log has entries on a page that is present and at rest again: they replay before any held access of the core to the page
resumes (R326). -/
def State.sidePage (s : State) (core : Nat) (asid : BitVec 16) (va pa : Nat) : Bool :=
  !s.frameMoving pa && (s.core core).sideLog.any (fun e => e.asid == asid && e.va.toNat / 4096 == va / 4096)
/-- A port at which a group's accesses keep their program order: for writes the host-coherent window (R250), and another package (R448). -/
def ordPort (pa : Nat) (wr : Bool) : Bool :=
  match regionOf pa with
  | .window _ => wr
  | .remote _ => true
  | _ => false
/-- An issuer has entries in a side log that earlier instructions made: they may be for such a port (R250, R358). -/
def State.sideEarlier (s : State) (i : Issuer) (at_ : Nat) : Bool := (s.sideBy i).any (fun e => decide (e.at_ < at_))
/-- An access of a group at a port (wr: a write) must wait for side-log entries: for an overlapping one anywhere (R327, R328), on a page that
is present and at rest again for those of its core on that page (R326), and at a port with program order for the group's own. -/
def State.sideBlocks (s : State) (gid : Nat) (g : Group) (va pa n : Nat) (wr : Bool) : Bool :=
  let l := s.launchOf g
  s.sideOverlap l.asid va pa n || s.sidePage (coreOf gid) l.asid va pa || (ordPort pa wr && s.sideEarlier (g.issuer gid) s.tick)
/-- An instruction of a stream holds its whole group (R176, R342). -/
def State.holdGroup (s : State) (gid k : Nat) : State := s.updGroup gid (fun g => { g with sideWait := some (g.streamId k) })
/-- A side-log entry that the same instruction has made for the granule: another of its lanes shares it (R243). -/
def State.sideJoins (s : State) (i : Issuer) (va : Nat) (op : Option Nat) (e : SideEntry) : Bool :=
  e.at_ == s.tick && e.iss == i && e.va.toNat / 64 == va / 64 && e.op == op
/-- The frame line of an entry's granule, where its page is present and being moved (R328). -/
def State.sideLine (s : State) (core : Nat) (l : Launch) (va : Nat) : Option Nat :=
  if inTeamWin va then none
  else match (s.frameOf core l va false).1 with
    | .port pa => if s.frameMoving pa then some (pa / 64) else none
    | _ => none
/-- A store or reduction on a page that is not present put into the side log of its core, one entry for each granule that its
instruction touches (R243, R326); held when the log is full. op: the reduction, or none. rel: the scope of a release it carries, which
takes effect with its replay (R335). -/
def State.sidePut (s : State) (gid : Nat) (g : Group) (va : Nat) (bs : List Byte) (op : Option Nat) (scope : Nat) (cmp : Nat)
    (rel : Option Nat) (path : Nat) : Rc Unit :=
  let c := s.core (coreOf gid)
  let i := g.issuer gid
  let red : SideRed := { ea := va, val := BitVec.ofNat 64 (ofBytes bs), cmp := BitVec.ofNat 64 cmp }
  let put := fun (e : SideEntry) =>
    { e with mask := e.mask ||| byteMask (va % 64) bs.length, data := if op.isNone then lineSet e.data (va % 64) bs else e.data,
             reds := if op.isNone then e.reds else e.reds ++ [red] }
  if c.sideLog.any (s.sideJoins i va op) then
    .ok () (s.setCore (coreOf gid) { c with sideLog := c.sideLog.map (fun e => if s.sideJoins i va op e then put e else e) })
  else if 256 ≤ c.sideLog.length then .hold s
  else
    let e : SideEntry :=
      { va := BitVec.ofNat 64 (va / 64 * 64), asid := (s.launchOf g).asid, mask := 0, data := 0, op := op, size := bs.length,
        ea := BitVec.ofNat 64 va, iss := i, at_ := s.tick, scope := scope, rel := rel, path := path,
        line := s.sideLine (coreOf gid) (s.launchOf g) va }
    .ok () (s.setCore (coreOf gid) { c with sideLog := c.sideLog ++ [put e] })
/-- The side log of a group's core has not the entries that its stream's instruction needs: the instruction waits, and the whole group
with it (R176, R243). -/
def State.sideHold (s : State) (gid k n : Nat) : State :=
  if 256 < (s.core (coreOf gid)).sideLog.length + n then s.holdGroup gid k else s

/-! Locks (R249). -/

/-- The critical count raised, at most 255, or lowered, at least 0 (R122). -/
def Group.critStep (g : Group) (up : Bool) : Group :=
  { g with crit := if up then (if g.crit = 255 then 255 else g.crit + 1) else (if g.crit = 0 then 0 else g.crit - 1) }
/-- The next scalar instruction is due (R160); watchpoints count again (R399), and what held the stream is over. -/
def Group.advance (g : Group) : Group :=
  { g with spc := g.spc + 4, noWatch := false, sideWait := none, refused := g.refused.filter (fun x => x.1 != 0) }
/-- A scalar instruction has issued: the group changed and advanced. -/
def State.done (s : State) (gid : Nat) (f : Group → Group) : State := s.updGroup gid (fun g => (f g).advance)
/-- An acquire of a group (R247, R239): at device or system scope every copy of a remote line that the die holds is
discarded. Later accesses are performed after it, since each is performed at its issue. -/
def State.acquire (s : State) (gid : Nat) (scope : Scope) : State :=
  if 4 ≤ scope.code then s.updDie (dieOf (coreOf gid)) (fun d => { d with l2r := [] }) else s

/-- The holder code (R249). -/
def holder (gid : Nat) : Nat := 1 + gid
/-- Where a lock of a scope acts in the chain of a group's task (R338): the task's own version, or its parent. Two
requests are for one word when these and the port agree. -/
def lockView (g : Group) (scope : Nat) : Option Nat := if 2 ≤ scope then none else some g.key
/-- The old value at a port under a read-modify-write of a task at a scope (R338). -/
def State.rmwRead (s : State) (key pa n : Nat) (wide : Bool) : Nat :=
  match regionOf pa with
  | .dram =>
    let l := (s.launch? (key / 2 ^ 32)).getD {}
    let own := s.chainOf ((s.team? key).getD {}) l
    let ch := if wide then s.chain l.taskParent 32 else own
    -- bytes of the task's own version move to its parent with a wide atomic
    let mine := if wide then (match ((s.team? key).getD {}).version with
      | some v => [v]
      | none => []) ++ ch else ch
    ofBytes ((List.range n).map (fun i => s.chainByte mine (pa + i)))
  | _ => ofBytes (s.portRead pa n)
/-- The write of a read-modify-write at a port, from a core, for a task (R246, R338): the new value given by f; at tandem scope or wider
the task's bytes under the location move to the parent first. The old value is answered. -/
def State.rmwPut (s : State) (core : Nat) (who : Option Nat) (key va pa n : Nat) (wide : Bool) (f : Nat → Nat) : Rc Nat :=
  let m := s.rmwRead key pa n wide
  match regionOf pa with
  | .dram =>
    let put := fun (s : State) => match (s.llcTouch (pa / 64)).writeFor (some core) who key va pa (toBytes n (f m)) wide with
      | .ok _ s => Rc.ok m s
      | .flt c s => .flt c s
      | .hold s => .hold s
    if wide then
      match s.parentRoom who key pa with
      | .ok _ s => put (s.moveBytes key pa n)
      | .flt c s => .flt c s
      | .hold s => .hold s
    else put s
  | _ => match s.writePort core who key va pa (toBytes n (f m)) with
    | .ok _ s => .ok m s
    | .flt c s => .flt c s
    | .hold s => .hold s
/-- A request tried at its port: granted when the word is zero, with the holder code written (R249). -/
def State.tryLock (s : State) (x : LockWait) : Bool × State :=
  match s.group? x.gid with
  | none => (false, s)
  | some g =>
    let wide := decide (2 ≤ x.scope)
    if s.bad x.pa x.size || s.rmwRead g.key x.pa x.size wide != 0 then (false, s)
    else match s.rmwPut (coreOf x.gid) (some x.gid) g.key x.va x.pa x.size wide (fun _ => holder x.gid) with
      | .ok _ s => (true, s)
      | .flt _ s => (false, s)
      | .hold s => (false, s)
/-- A lock granted: the instruction completes (R249). -/
def State.granted (s : State) (x : LockWait) : State :=
  let s := (s.acquire x.gid ((Scope.ofCode? x.scope).getD .sys)).updGroup x.gid (fun g => { (g.critStep true) with lockReq := none })
  { s.done x.gid id with locks := s.locks.erase x }
/-- Queued requests tried, oldest first: a word that is zero goes to its oldest request (R249). -/
def State.grantLocks (s : State) (tried : List (Nat × Option Nat)) : List LockWait → State
  | [] => s
  | x :: r =>
    let key := (x.pa, lockView ((s.group? x.gid).getD {}) x.scope)
    if tried.contains key then State.grantLocks s tried r
    else
      let t := s.tryLock x
      State.grantLocks (if t.1 then t.2.granted x else t.2) (tried ++ [key]) r
/-- Queued lock requests tried at their ports, but for those whose page is being moved (R249, R328). -/
def State.grantAll (s : State) : State :=
  if s.locks.isEmpty then s else s.grantLocks [] (s.locks.filter (fun x => !s.frameMoving x.pa))
/-- A write has been performed: a lock word that it leaves at zero goes to its oldest request at once (R249). -/
def Rc.grant {α : Type} (r : Rc α) : Rc α :=
  match r with
  | .ok a s => .ok a s.grantAll
  | .flt c s => .flt c s
  | .hold s => .hold s

/-! Stores in flight (R237). -/

/-- A store accepted earlier must be performed before an access of n bytes at a port (wr: a write): they overlap (R175), the earlier one
left an overreach, which precedes every later store (R232), both are writes to the host-coherent window (R250), or both go to one
remote package (R448). -/
def State.precedes (s : State) (q : Posted) (pa n : Nat) (wr : Bool) : Bool :=
  overlaps q.pa q.size pa n || (wr && q.buffered)
  || (match regionOf q.pa, regionOf pa with
    | .window _, .window _ => wr
    | .remote a, .remote b => s.routeOf a == s.routeOf b
    | _, _ => false)
/-- The stores of a list that must be performed before an access, each with those before it that it awaits, in program order. -/
def State.earlier (s : State) (ps : List Posted) (pa n : Nat) (wr : Bool) : List Posted :=
  ps.foldr (fun q acc => if s.precedes q pa n wr || acc.any (fun x => s.precedes q x.pa x.size true) then q :: acc else acc) []
/-- A posted store performed at its port (R236). One that left an overreach while its page is being moved retires into the side log
(R328). -/
def State.performPosted (s : State) (gid : Nat) (p : Posted) : Rc Unit :=
  match s.group? gid with
  | none => .ok () s
  | some g =>
    let g' := { g with posted := g.posted.erase p }
    let s' := s.setGroup gid g'
    let back := fun (s : State) => s.updGroup gid (fun x => { x with posted := g.posted })
    let r := if p.buffered && s.frameMoving p.pa then s'.sidePut gid g' p.va.toNat (toBytes p.size p.data.toNat) none 0 0 none p.path
      else (s'.writePort (coreOf gid) (some gid) g.key p.va.toNat p.pa (toBytes p.size p.data.toNat)).grant
    match r with
    | .ok _ s' => .ok () s'
    | .flt c s' => .flt c (back s')
    | .hold s' => .hold (back s')
/-- Posted stores performed in order. -/
def State.performAll (s : State) (gid : Nat) : List Posted → Rc Unit
  | [] => .ok () s
  | p :: r => match s.performPosted gid p with
    | .ok _ s => State.performAll s gid r
    | .flt c s => .flt c s
    | .hold s => .hold s
/-- Every posted store of a group performed (R247). -/
def State.drain (s : State) (gid : Nat) : Rc Unit :=
  match s.group? gid with
  | some g => s.performAll gid g.posted
  | none => .ok () s
/-- The posted stores that an access must find performed (R175, R232, R250, R448). -/
def State.drainFor (s : State) (gid pa n : Nat) (wr : Bool) : Rc Unit :=
  match s.group? gid with
  | some g => s.performAll gid (s.earlier g.posted pa n wr)
  | none => .ok () s
/-- A store or reduction retires into the side log of its core: behind the group's stores that left an overreach, and those that overlap it
(R175, R232). -/
def State.sideLog (s : State) (gid : Nat) (g : Group) (va : Nat) (bs : List Byte) (op : Option Nat) (scope : Nat) (cmp : Nat)
    (rel : Option Nat) (path : Nat) : Rc Unit :=
  let first := fun (q : Posted) => q.buffered || overlaps q.va.toNat q.size va bs.length
  let ps := (((s.group? gid).map (·.posted)).getD []).foldr (fun q acc => if first q || acc.any (fun x => s.precedes q x.pa x.size true) then q :: acc else acc) []
  match s.performAll gid ps with
  | .ok _ s => s.sidePut gid g va bs op scope cmp rel path
  | .flt c s => .flt c s
  | .hold s => .hold s
/-- A store of a group that has exited performed at its port (R236, R367). -/
def State.performLate (s : State) (core : Nat) (x : Late) : State :=
  match s.writePort core none (keyOf x.launch x.team) x.store.va.toNat x.store.pa (toBytes x.store.size x.store.data.toNat) with
  | .ok _ s => (s.updCore core (fun c => { c with late := c.late.erase x })).grantAll
  | .flt _ s => s
  | .hold s => s
/-- The stores that a group leaves when its context is freed (R134, R236). -/
def State.leaveLate (s : State) (gid : Nat) : State :=
  match s.group? gid with
  | none => s
  | some g => s.updCore (coreOf gid) (fun c =>
      { c with late := c.late ++ g.posted.map (fun p => { gid := gid, launch := g.launch, team := g.team, store := p }) })
/-- Entries of the memory request table that a group holds (R237): its stores in flight, but for those that overreach buffered, its queued lock request, and its lane loads and
returning lane atomics whose data has not returned. -/
def Group.tableHeld (g : Group) : Nat :=
  (g.posted.filter (fun p => !p.buffered)).length + (if g.lockReq.isSome then 1 else 0) + g.pend.foldl (fun n x => n + x.entries) 0
/-- Memory request table entries in use on a core, and by one group (R237). -/
def State.tableUsed (s : State) (core : Nat) : Nat :=
  (s.groupsOn core).foldl (fun n e => n + e.2.tableHeld) ((s.core core).late.filter (fun x => !x.store.buffered)).length
/-- Free entries. -/
def State.tableFree (s : State) (core : Nat) : Nat := 2048 - s.tableUsed core
/-- The wait for entries of a stream: 0 the S-stream, 1 and 2 the paths in slots 0 and 1. -/
def Group.ticket (g : Group) : Nat → Ticket
  | 0 => g.ticketS
  | 1 => g.ticket0
  | _ => g.ticket1
/-- The mark of the last stall of a stream. -/
def Group.heldMark (g : Group) : Nat → Nat
  | 0 => g.sHeld
  | 1 => g.lHeld
  | _ => g.lHeld1
/-- The stream's instruction waits for entries: its last stall was for them. -/
def Group.waitsForEntries (g : Group) (k : Nat) : Bool :=
  g.parked.isNone && (g.ticket k).mark != 0 && (g.ticket k).mark == g.heldMark k
/-- When a stream began to wait, then its context, then its S-stream first (R237). -/
def Group.waitKey (g : Group) (gid k now : Nat) : Nat :=
  (if g.waitsForEntries k then (g.ticket k).since else now) * 1024 + ctxOf gid * 4 + k
/-- A stream's instruction finds the n entries it needs free, and no instruction of the core began to wait for entries earlier (R237). -/
def State.tableRoom (s : State) (gid k n : Nat) : Bool :=
  let now := ((s.group? gid).getD {}).waitKey gid k (s.cyc (coreOf gid))
  decide (n ≤ s.tableFree (coreOf gid)) && !(s.groupsOn (coreOf gid)).any (fun e => [0, 1, 2].any (fun j =>
    (e.1 != gid || j != k) && e.2.waitsForEntries j && decide (e.2.waitKey e.1 j (s.cyc (coreOf gid)) < now)))
/-- A stream's instruction waits for entries (R237, R119). -/
def State.tableWait (s : State) (gid k : Nat) : State :=
  s.updGroup gid (fun g =>
    let t : Ticket := { since := if g.waitsForEntries k then (g.ticket k).since else s.cyc (coreOf gid), mark := s.epoch + 1 }
    match k with
    | 0 => { g with ticketS := t }
    | 1 => { g with ticket0 := t }
    | _ => { g with ticket1 := t })

/-! Loads (R172, R174, R242). -/

/-- A page request, but none for a team window that is being moved (R22, R324). -/
def State.askPage (s : State) (gid : Nat) (g : Group) (va : Nat) (rw : Rw) : State :=
  if inTeamWin va then s else s.requestPage (coreOf gid) (ctxOf gid) (s.launchOf g) va rw false
/-- A stream's group is held on a page until its request is answered, or its team window re-mapped (R22, R325). -/
def State.holdOnPage (s : State) (gid : Nat) (g : Group) (k va : Nat) (rw : Rw) : State :=
  let x := (g.streamId k, pageOf va)
  (s.askPage gid g va rw).updGroup gid (fun g =>
    { g with pageWait := (if g.pageWait.contains x then g.pageWait else g.pageWait ++ [x]), pageSince := g.pageSince.orElse (fun _ => if inTeamWin va then none else some s.stc) })
/-- A live prediction remembers the lines of device memory that it has read (R389). -/
def State.markRead (s : State) (g : Group) (pa n : Nat) : State :=
  let l := s.launchOf g
  if l.pred && l.live && regionOf pa == .dram then
    s.updLaunch g.launch (fun l => { l with reads := (linesOf pa n).foldl (fun r x => if r.contains x then r else x :: r) l.reads })
  else s
/-- The bytes a load of a group returns at a port (R174, R238, R230, R334); a fault DATAERR on an uncorrectable error. -/
def State.loadPort (s : State) (gid : Nat) (g : Group) (pa n : Nat) (via : Via) : Rc (List Byte) :=
  match s.drainFor gid pa n false with
  | .flt c s => .flt c s
  | .hold s => .hold s
  | .ok _ s =>
    let core := coreOf gid
    let l := s.launchOf g
    let mix := fun (bs : List Byte) (s : State) =>
      match g.orun with
      | some o => Rc.ok (o.overlay pa bs) (s.updGroup gid (fun g => { g with orun := some (o.read pa n) }))
      | none => Rc.ok bs s
    match regionOf pa with
    | .dram =>
      let lv := s.levelAt core pa
      match lv.2.readDram core (s.chainOf (s.teamOf g) l) l.startTick pa n via with
      | ((some bs, served), s) => mix bs ((s.markRead g pa n).reachAt core pa (if served = 0 then lv.1 else served))
      | ((none, _), s) => .flt .datarr s
    | _ => if s.portBusy pa n false then .hold s else if s.bad pa n then .flt .datarr (s.logError pa core)
      else mix (s.portRead pa n) (s.reach core pa)
/-- An access of a stream that side-log entries keep waiting, as they stand once the stores that it follows have been performed: it holds
its group (R176). -/
def State.afterSide {α : Type} (s : State) (gid : Nat) (g : Group) (k va pa n : Nat) (wr : Bool) (f : State → Rc α) : Rc α :=
  if s.sideBlocks gid g va pa n wr then .hold (s.holdGroup gid k)
  else match s.drainFor gid pa n wr with
    | .ok _ s => if s.sideBlocks gid g va pa n wr then .hold (s.holdGroup gid k) else f s
    | .flt c s => .flt c s
    | .hold s => .hold s
/-- A load of a stream of a group whose checks have passed. -/
def State.load (s : State) (gid : Nat) (g : Group) (k va n : Nat) (via : Via) : Rc (List Byte) :=
  match s.locate gid g va n .rd true with
  | (.port pa, s) => s.afterSide gid g k va pa n false (fun s => s.loadPort gid g pa n via)
  | (_, s) => .hold s

/-! Stores (R173, R242). -/

/-- A store that overreach or a full buffer keeps from the window (R233). -/
def overBars (pa : Nat) : Bool :=
  match regionOf pa with
  | .window _ => true
  | _ => false
/-- A store of a stream of a group whose checks have passed: performed at its port now. rel: the scope of a release that it carries. -/
def State.store (s : State) (gid : Nat) (g : Group) (k va : Nat) (bs : List Byte) (rel : Option Nat) : Rc Unit :=
  match s.locate gid g va bs.length .wr true with
  | (.port pa, s) => s.afterSide gid g k va pa bs.length true fun s => match g.orun with
    | some o => if overBars pa then .hold s else s.overStore gid o (g.streamId k) va pa bs
    | none => ((s.reach (coreOf gid) pa).writePort (coreOf gid) (some gid) g.key va pa bs).grant
  | (.missing, s) => if g.orun.isSome then .hold s else (s.askPage gid g va .wr).sideLog gid g va bs none 0 0 rel (g.streamId k)
  | (.moving, s) => if g.orun.isSome then .hold s else s.sideLog gid g va bs none 0 0 rel (g.streamId k)
  | (_, s) => .hold s
/-- A store of the S-stream, accepted for its port and performed there later (R173, R237): ACCESS_PERFORMED_AT_PORT. One that retires
into the side log needs a free table entry too, and frees it at once. -/
def State.post (s : State) (gid : Nat) (g : Group) (va : Nat) (bs : List Byte) : Rc Unit :=
  let side := fun (s : State) =>
    if g.orun.isSome then .hold s
    else if !s.tableRoom gid 0 1 then .hold (s.tableWait gid 0)
    else match s.sideLog gid g va bs none 0 0 none 0 with
      | .ok _ s => .ok () s
      | .flt c s => .flt c s
      | .hold s => .hold (s.sideHold gid 0 1)
  match s.locate gid g va bs.length .wr true with
  | (.port pa, s) =>
    if s.sideBlocks gid g va pa bs.length true then .hold (s.holdGroup gid 0)
    else match g.orun with
    | some o => if overBars pa then .hold s else s.overStore gid o 0 va pa bs
    | none =>
      if !s.tableRoom gid 0 1 then .hold (s.tableWait gid 0)
      else .ok () ((s.reach (coreOf gid) pa).updGroup gid (fun g => { g with posted := g.posted ++
        [{ pa := pa, va := BitVec.ofNat 64 va, size := bs.length, data := BitVec.ofNat 64 (ofBytes bs) }] }))
  | (.missing, s) => side (s.askPage gid g va .wr)
  | (.moving, s) => side s
  | (_, s) => .hold s

/-! Atomics (R246, R338). -/

/-- The value an atomic writes (R246): operation 0-8 and 10, w bits, old value m, operand b. -/
def amoValue (op w m b : Nat) : Nat :=
  let sm := sextNat m w
  let sb := sextNat b w
  match op with
  | 0 => (m + b) % 2 ^ w
  | 1 => m &&& b
  | 2 => m ||| b
  | 3 => m ^^^ b
  | 4 => if sm < sb then m else b
  | 5 => if sm < sb then b else m
  | 6 => min m b
  | 7 => max m b
  | 8 => b
  | 10 => (convert .f32 .rne false (addVal .rne (FT.f32.val m) (FT.f32.val b)).1).1
  | _ => m

/-- A read-modify-write of n bytes at a port by a group (R246): the old value, the new one given by f; DATAERR when an
uncorrectable error is met. Scope places it in the chain (R338). -/
def State.rmw (s : State) (gid : Nat) (g : Group) (k va pa n : Nat) (scope : Scope) (f : Nat → Nat) : Rc Nat :=
  match s.drainFor gid pa n true with
  | .flt c s => .flt c s
  | .hold s => .hold s
  | .ok _ s =>
    match g.orun with
    | some o =>
      if overBars pa then .hold s
      else match s.loadPort gid g pa n .bypass with
      | .ok bs s =>
        let m := ofBytes bs
        match s.overStore gid (match (s.group? gid).bind (·.orun) with
            | some o' => o'
            | none => o) (g.streamId k) va pa (toBytes n (f m)) with
        | .ok _ s => .ok m s
        | .flt c s => .flt c s
        | .hold s => .hold s
      | .flt c s => .flt c s
      | .hold s => .hold s
    | none =>
      if s.bad pa n then .flt .datarr (s.logError pa (coreOf gid))
      else (((s.reach (coreOf gid) pa).markRead g pa n).rmwPut (coreOf gid) (some gid) g.key va pa n (decide (2 ≤ scope.code)) f).grant
/-- A reduction met an uncorrectable error, or its replay failed: discarded and counted (R252, R326). -/
def State.lostReduction (s : State) (gid va : Nat) : State :=
  s.updGroup gid (fun g => { g with lost := g.lost + 1, lostVa := BitVec.ofNat 64 va })

/-! Releases and acquires (R247, R337, R327). -/

/-- What a release waits for (R247, R327): the group's earlier accesses are performed first, side-log entries included
at team scope or wider, and a publication that it causes must be possible now (R329). Held while it waits. -/
def State.releaseWait (s : State) (gid : Nat) (g : Group) (scope : Scope) : Rc Unit :=
  match s.drain gid with
  | .ok _ s =>
    if (decide (1 ≤ scope.code) && !(s.sideOf gid g).isEmpty) || (decide (3 ≤ scope.code) && (s.teamOf g).version.any s.pubHeld) then .hold s
    else .ok () s
  | .flt c s => .flt c s
  | .hold s => .hold s
/-- Every earlier access of the group has been performed, its side-log entries included (R253, R327); held until then. -/
def State.allPerformed (s : State) (gid : Nat) (g : Group) : Rc Unit := s.releaseWait gid g .team
/-- The scope of a release that an access takes into the side log with it (R335). -/
def carried (o : Order) (sc : Scope) : Option Nat := if o.releases then some sc.code else none
/-- The publication of a release at gang scope or wider (R337). -/
def State.publishAt (s : State) (g : Group) (scope : Scope) : State :=
  if 3 ≤ scope.code then
    match (s.teamOf g).version with
    | some v => s.publish v
    | none => s
  else s
/-- A release that stores nothing itself: `fence`, `barr`, `flush` (R337). -/
def State.release (s : State) (gid : Nat) (g : Group) (scope : Scope) : Rc Unit :=
  match s.releaseWait gid g scope with
  | .ok _ s => .ok () (s.publishAt g scope)
  | .flt c s => .flt c s
  | .hold s => .hold s
end Sys2Proof.Machine
end

