-- ==== Sys2Proof/Machine/Ops.lean ====
section
/-! DEFINITION. Stopping a group, which is how this hardware takes an exception, and letting it go on (spec/22 R398-R413);
and the frames in which every scalar and lane meaning is written (R119, R123, R139). -/

namespace Sys2Proof.Machine

/-- The code of a cause (R399). -/
def Cause.code : Cause → Nat
  | .illegal => 1 | .priv => 2 | .handlefree => 3 | .handleowner => 4 | .tilequota => 5 | .mxowner => 6 | .align => 7
  | .scratchbounds => 8 | .pageload => 9 | .pagestore => 10 | .protect => 11 | .datarr => 12 | .batchahead => 13
  | .orphanwait => 14 | .waitcycle => 15 | .lenddiv => 16 | .stackovf => 17 | .hallmark => 18 | .trapinsn => 19 | .brk => 20
  | .watch => 21 | .crittimeout => 22 | .sealed => 23 | .halt => 24

/-- A trap record's 512 bits (R398). -/
def TrapRec.word (r : TrapRec) : Nat :=
  r.cause.code + r.adv.toNat * 2 ^ 8 + r.nostop.toNat * 2 ^ 9 + r.iret.toNat * 2 ^ 10 + r.ovrb.toNat * 2 ^ 11
  + r.lane.toNat * 2 ^ 12 + r.core % 256 * 2 ^ 16 + r.ctx % 128 * 2 ^ 24 + r.gidx % 64 * 2 ^ 32 + r.launch.toNat * 2 ^ 64
  + r.team.toNat * 2 ^ 96 + r.spc.toNat * 2 ^ 128 + r.lpc.toNat * 2 ^ 192 + r.pubcount.toNat * 2 ^ 224 + r.amask.toNat * 2 ^ 256
  + r.fmask.toNat * 2 ^ 320 + r.addr.toNat * 2 ^ 384 + r.stc.toNat * 2 ^ 448

/-- The part of a park frame that a path slot fills (R403). -/
def slotWord (p : Option Path) : Nat :=
  match p with
  | some p => p.pc.toNat + 2 ^ 32 + p.mask.toNat * 2 ^ 64
  | none => 0
/-- The FMT of a path slot (R403). -/
def slotFmt (p : Option Path) : Nat :=
  match p with
  | some p => p.fmt.toNat
  | none => 0
/-- A park frame's 4096 bits (R403). -/
def Group.frame (g : Group) : Nat :=
  (List.range 32).foldl (fun n i => n + (g.reg (BitVec.ofNat 5 i)).toNat * 2 ^ (64 * i)) 0
  + g.spc.toNat * 2 ^ 2048 + g.fmt.toNat * 2 ^ 2112 + g.flags.toNat * 2 ^ 2144
  + (List.range 7).foldl (fun n i => n + (g.pred i).toNat * 2 ^ (2176 + 64 * i)) 0
  + g.cls.toNat * 2 ^ 2624 + g.crit.toNat * 2 ^ 2632 + g.live.toNat * 2 ^ 2688
  + slotWord g.slot0 * 2 ^ 2752 + slotWord g.slot1 * 2 ^ 2880 + slotFmt g.slot0 * 2 ^ 3008 + slotFmt g.slot1 * 2 ^ 3040
  + g.laneQ.length * 2 ^ 3072 + g.retQ.length * 2 ^ 3080

/-- A path slot reloaded (R403): its mask is taken with the live-lane mask. -/
def loadSlot (g : Group) (old : Option Path) (w f : Nat) : Option Path :=
  if bit w 32 then
    let p : Path := old.getD { id := g.nextPath }
    let pc := BitVec.ofNat 32 (bits w 0 32)
    some { p with pc := pc, mask := BitVec.ofNat 64 (bits w 64 64) &&& g.live, fmt := BitVec.ofNat 19 f,
                  redo := (if pc = p.pc then p.redo else none), far := (if pc = p.pc then p.far else 0), noWatch := pc == p.pc && p.noWatch }
  else none
/-- The RW fields of a park frame reloaded (R403). -/
def Group.reload (g : Group) (w : Nat) : Group :=
  let g := { g with
    s := (List.range 31).foldl (fun t i => Tbl.set t (i + 1) (BitVec.ofNat 64 (bits w (64 * (i + 1)) 64)) 0) [],
    spc := BitVec.ofNat 64 (bits w 2048 64), fmt := BitVec.ofNat 19 (bits w 2112 19), flags := BitVec.ofNat 7 (bits w 2144 7),
    p := (List.range 7).foldl (fun t i => Tbl.set t i (BitVec.ofNat 64 (bits w (2176 + 64 * i) 64) &&& lanesMask g.lanew) 0) [],
    cls := (if bits w 2624 2 = 0 then 2 else BitVec.ofNat 2 (bits w 2624 2)), crit := BitVec.ofNat 8 (bits w 2632 8),
    live := BitVec.ofNat 64 (bits w 2688 64) &&& lanesMask g.lanew }
  let n0 := g.slot0.isNone && bit w (2752 + 32)
  let s0 := loadSlot g g.slot0 (bits w 2752 128) (bits w 3008 19)
  let g := { g with slot0 := s0, nextPath := if n0 then g.nextPath + 1 else g.nextPath }
  let n1 := g.slot1.isNone && bit w (2880 + 32)
  let s1 := loadSlot g g.slot1 (bits w 2880 128) (bits w 3040 19)
  { g with slot1 := s1, nextPath := if n1 then g.nextPath + 1 else g.nextPath }

/-- A stack entry's 512 bits (R142). -/
def StackEnt.word (e : StackEnt) : Nat :=
  (match e.kind with
    | .joinE => 1
    | .pathE => 2) + e.index.toNat * 2 ^ 32 + e.mask.toNat * 2 ^ 64 + e.arrived.toNat * 2 ^ 128 + e.fmt.toNat * 2 ^ 192
/-- The reserve of a group, as the on-chip map shows it (R142, R143). -/
def reserveAt (gid : Nat) (g : Group) : Nat := onchip (coreOf gid) g.reserve
/-- The whole stack laid in the group's reserve, entries above the top reading KIND 0 (R142). -/
def State.spillStack (s : State) (gid : Nat) (g : Group) : State :=
  let a := reserveAt gid g
  let bs := g.stack.reverse.flatMap (fun e => toBytes 64 e.word)
  { s with mem := Memory.writeList (Memory.clear s.mem a 4096) a bs }
/-- An entry of the reserve is invalid: KIND is 3, or a reserved field is not zero (R142). -/
def badEnt (w : Nat) : Bool := bits w 0 2 = 3 || bits w 2 30 != 0 || bits w 211 301 != 0
/-- An entry read back from the reserve: none where it is invalid (R142). -/
def readEnt (old : Option StackEnt) (w : Nat) : Option StackEnt :=
  let kind := bits w 0 2
  if badEnt w then none
  else
    let k : EntKind := if kind = 1 then .joinE else .pathE
    let i := BitVec.ofNat 32 (bits w 32 32)
    let same := match old with
      | some o => o.kind == k && o.index == i
      | none => false
    let o := old.getD {}
    some { kind := k, index := i, mask := BitVec.ofNat 64 (bits w 64 64), arrived := BitVec.ofNat 64 (bits w 128 64),
           fmt := BitVec.ofNat 19 (bits w 192 19), redo := (if same then o.redo else none), far := (if same then o.far else 0), last := o.last, noWatch := same && o.noWatch }
/-- The stack read back from the reserve, bottom first, up to the first empty entry; none where an entry is invalid, one above the top
too (R142). -/
def State.readStack (s : State) (a : Nat) (old : List StackEnt) : Nat → Option (List StackEnt)
  | 0 => some []
  | k + 1 =>
    let w := ofBytes (Memory.readList s.mem a 64)
    if badEnt w then none
    else if bits w 0 2 = 0 then (State.readStack s (a + 64) [] k).map (fun _ => [])
    else match readEnt old.head? w, State.readStack s (a + 64) old.tail k with
      | some e, some r => some (e :: r)
      | _, _ => none
/-- A stack read back takes the place of the group's (R142): no window is open, and every path entry gets a name of its own (R141). -/
def Group.setStack (g : Group) (es : List StackEnt) : Group :=
  { g with stack := (es.zipIdx g.nextPath).map (fun x => { x.1 with id := x.2 }), nextPath := g.nextPath + es.length }

/-! Paths and the reconvergence stack (R139-R146). -/

/-- A path placed in a free slot. -/
def Group.place (g : Group) (p : Path) : Group := if g.slot0.isNone then { g with slot0 := some p } else { g with slot1 := some p }
/-- A new path placed in a free slot, with a name of its own. -/
def Group.placeNew (g : Group) (p : Path) : Group :=
  { (g.place { p with id := g.nextPath }) with nextPath := g.nextPath + 1 }
/-- A path as an entry (R142). -/
def Path.entry (p : Path) : StackEnt :=
  { kind := .pathE, index := p.pc, mask := p.mask, arrived := 0, fmt := p.fmt, id := p.id, redo := p.redo, far := p.far, last := p.last,
    noWatch := p.noWatch }
/-- The current block ends: its entry leaves the lane queue (R117, R153). -/
def Group.endBlock (g : Group) : Group :=
  { g with laneQ := g.laneQ.tail, running := false, slot0 := none, slot1 := none, stack := [] }
/-- The loop of `Resolve` (R144); every turn pops an entry. -/
def Group.resolveLoop (g : Group) : Nat → Group
  | 0 => g
  | k + 1 =>
    match g.stack with
    | [] => g
    | e :: r =>
      match e.kind with
      | .pathE =>
        if g.slot0.isSome && g.slot1.isSome then g
        else
          let m := e.mask &&& g.live
          let g := { g with stack := r }
          if m = 0 then Group.resolveLoop g k
          else Group.resolveLoop (g.place { pc := e.index, mask := m, fmt := e.fmt, id := e.id, redo := e.redo, far := e.far, last := e.last,
                                               noWatch := e.noWatch }) k
      | .joinE =>
        if g.anyPath then g
        else
          let m := e.arrived &&& g.live
          let g := { g with stack := r }
          if m = 0 then Group.resolveLoop g k
          else Group.resolveLoop (g.placeNew { pc := e.index + 1, mask := m, fmt := e.fmt }) k
/-- `Resolve` (R144), and the end of the block when no path is live and the stack is empty. -/
def Group.resolve (g : Group) : Group :=
  let g := g.resolveLoop (g.stack.length + 1)
  if !g.anyPath && g.stack.isEmpty then g.endBlock else g
/-- `Retire` (R144). -/
def Group.retire (g : Group) (slot : Nat) : Group := (g.setPath slot none).resolve
/-- The live path of a stream's name: 1 + its id. -/
def Group.pathNamed (g : Group) (k : Nat) : Option Path :=
  if (g.slot0.map (fun p => p.id + 1)) = some k then g.slot0 else if (g.slot1.map (fun p => p.id + 1)) = some k then g.slot1 else none
/-- The path that a stop which no lane instruction has caused names (R158): of the live paths the one that issued last; the one in slot 0
where neither has issued since it was created (log 57). -/
def Group.lastPath (g : Group) : Option Path :=
  match g.slot0, g.slot1 with
  | some p, some q => if p.last < q.last then some q else some p
  | some p, none => some p
  | none, q => q
/-- The paths of a group whose state has been reloaded (R140, R144): with no live lane the block ends at once; a path left without a lane
retires, and where no path is live the stack is resolved. -/
def Group.repath (g : Group) : Group :=
  if !g.running then g
  else if g.live = 0 then g.endBlock
  else
    let keep := fun (p : Option Path) => p.bind (fun p => if p.mask = 0 then none else some p)
    let g' := { g with slot0 := keep g.slot0, slot1 := keep g.slot1 }
    if g'.slot0.isSome == g.slot0.isSome && g'.slot1.isSome == g.slot1.isSome && g.anyPath then g else g'.resolve

/-- Where the park frame of a context lies (R402). -/
def State.frameAt (s : State) (part gid : Nat) : Nat := fld (s.part part).trap 0 64 + 512 * gid
/-- The entry of a cause in a claim table: DEV, HOST, EXCL (R404). -/
def Partition.claims (p : Partition) (c : Cause) : Bool × Bool × Bool :=
  let e := fld p.claim (8 * c.code) 8
  (bit e 0, bit e 1, bit e 2)

/-- Who answers a stop, and whether the host gets an advisory copy (R405). -/
def route (e : Bool × Bool × Bool) : Handler × Bool :=
  match e with
  | (true, false, _) => (.sup, false)
  | (false, true, false) => (.host, false)
  | (true, true, false) => (.sup, true)
  | (_, true, true) => (.host, false)
  | (false, false, _) => (.nobody, true)

/-- A record written to the host trap ring (R410): dropped if advisory and the ring is full, else it waits. -/
def State.toHost (s : State) (part : Nat) (r : TrapRec) : State :=
  let p := s.part part
  let size := 2 ^ fld p.trap 192 5
  let head := BitVec.ofNat 32 (fld p.trap 256 32)
  let tail := BitVec.ofNat 32 (fld p.trap 288 32)
  if (head - tail).toNat < size && p.hwait.isEmpty then
    let s := s.record part (fld p.trap 128 64 + 64 * (head.toNat % size)) 64 r.word
    s.updPart part (fun p => { p with trap := setFld p.trap 256 32 (head.toNat + 1), trapIrqs := p.trapIrqs + 1 })
  else if r.adv then
    let n := fld p.trap 320 32
    s.setPart part { p with trap := setFld p.trap 320 32 (if n = 0xFFFFFFFF then n else n + 1) }
  else s.setPart part { p with hwait := p.hwait ++ [r] }
/-- A NOSTOP record finds 128 unconsumed ones in a core's queue, or others that wait (R406). -/
def Core.stqFull (c : Core) : Bool := decide (128 ≤ (c.stqNostop.filter id).length) || !c.stqWait.isEmpty
/-- A record written to a core's supervisor trap queue (R406); a NOSTOP record beyond 128 unconsumed ones waits. -/
def State.toSup (s : State) (core : Nat) (r : TrapRec) : State :=
  let c := s.core core
  if r.nostop && c.stqFull then s.setCore core { c with stqWait := c.stqWait ++ [r] }
  else
    (s.record ((s.partOfCore core).getD 16) (c.stqBase.toNat + 64 * (c.stqHead.toNat % 256)) 64 r.word).updCore core
      (fun c => { c with stqHead := c.stqHead + 1, stqNostop := c.stqNostop ++ [r.nostop] })
/-- The lowest core of a partition, if it has a tandem (R405). -/
def Partition.lowCore (p : Partition) : Option Nat :=
  ((List.range 80).find? (fun t => bit p.rcd.toNat t)).map (2 * ·)
/-- The NOSTOP records of a partition that name no group and wait: each goes to the lowest core of the partition once its queue has room,
or to the host while the partition holds no tandem (R405). -/
def State.unnamed (s : State) (part : Nat) : List TrapRec → State
  | [] => s
  | r :: rest =>
    let drop := fun (s : State) => s.updPart part (fun p => { p with nwait := p.nwait.tail })
    match (s.part part).lowCore with
    | none => State.unnamed (drop (s.toHost part { r with adv := false })) part rest
    | some c => if (s.core c).stqFull then s else State.unnamed (drop (s.toSup c r)) part rest
/-- A NOSTOP record goes to every party whose claim bit is set (R405); named: it names a group. -/
def State.recordEvent (s : State) (part : Nat) (r : TrapRec) (named : Bool) : State :=
  let e := (s.part part).claims r.cause
  let r := { r with nostop := true }
  let r := if named then r else { r with core := 0xFF, ctx := 0, gidx := 0 }
  let s := if e.2.1 then s.toHost part r else s
  if !e.1 then s
  else if named then s.toSup r.core r
  else
    let s := s.updPart part (fun p => { p with nwait := p.nwait ++ [r] })
    s.unnamed part (s.part part).nwait

/-- The record of a stop of a group (R398, R158): the path is the one that issued the stopping lane word, else the live
path that issued last. -/
def State.stopRecord (s : State) (gid : Nat) (g : Group) (cause : Cause) (lane : Bool) : TrapRec :=
  let p := if lane then g.path? s.slot else g.lastPath
  { cause := cause, lane := lane, core := coreOf gid, ctx := ctxOf gid, gidx := g.gidx, launch := BitVec.ofNat 32 g.launch,
    team := BitVec.ofNat 32 g.team, spc := g.spc, lpc := (p.map (·.pc)).getD 0, amask := (p.map (·.mask)).getD 0,
    pubcount := (s.teamOf g).pubcount, stc := BitVec.ofNat 64 s.stc }

/-- The results of a long-latency instruction written (R125, R92). -/
def Group.complete (g : Group) (x : Pend) : Group :=
  let g := (g.keepRows ((x.writes.filter (fun w => !w.landed)).map (·.reg)))
  let g := x.writes.foldl (fun g w => if !w.landed && w.reg < g.vregs then g.setVreg w.reg w.lane w.val else g) g
  { g with flags := g.flags ||| x.flags, pend := g.pend.erase x }
/-- Some elements of an incomplete instruction's result written before it completes (R125): those the argument picks. -/
def Group.landEarly1 (pick : Nat → Nat → Bool) (g : Group) (x : Pend) : Group :=
  let now := x.writes.filter (fun w => !w.landed && pick w.reg w.lane)
  let g := g.keepRows (now.map (·.reg))
  let g := now.foldl (fun g w => if w.reg < g.vregs then g.setVreg w.reg w.lane w.val else g) g
  { g with pend := g.pend ++ [{ x with writes := x.writes.map (fun w => { w with landed := w.landed || pick w.reg w.lane }) }] }
/-- The same for every incomplete instruction of the group, in the order they issued. -/
def Group.landEarly (pick : Nat → Nat → Bool) (g : Group) : Group :=
  g.pend.foldl (Group.landEarly1 pick) { g with pend := [] }
/-- A lane instruction is about to read and write registers while long-latency instructions of its group are incomplete: of each element
they write, it finds the old value or the new one (R125, log 53). -/
def State.landEarly (s : State) (gid : Nat) : State :=
  match s.group? gid with
  | none => s
  | some g =>
    if g.pend.all (fun x => x.writes.all (·.landed)) then s
    else { (s.setGroup gid (g.landEarly (Config.earlyWrite s.fresh))) with fresh := s.fresh + 1 }
/-- A long-latency instruction of a group completes, and is monitored when it is a lane memory instruction (R125, R436). -/
def State.completes (s : State) (gid : Nat) (x : Pend) : State :=
  match s.group? gid with
  | none => s
  | some g =>
    let s := s.setGroup gid (g.complete x)
    if x.mem then s.monitor (coreOf gid) (s.launchOf g).part 1 (s.cyc (coreOf gid) - x.since) else s
/-- The instructions of a group that have issued complete (R400), but for those that await a tile access and stores that must wait. -/
def State.settleIssued (s : State) (gid : Nat) : State :=
  let s := match s.group? gid with
    | none => s
    | some g => (g.pend.filter (fun (x : Pend) => x.acc == 0)).foldl (fun (s : State) (x : Pend) => s.completes gid x) s
  match s.drain gid with
  | .ok _ s => s
  | .flt _ s => s
  | .hold s => s

/-- An object's 512 bits at its port (R212). -/
def State.obj (s : State) (pa : Nat) : Nat := ofBytes (s.portRead pa 64)
/-- PHASE. -/
def oPhase (w : Nat) : Nat := bits w 0 32
/-- OVR. -/
def oOvr (w : Nat) : Bool := bit w 32
/-- BYTES. -/
def oBytes (w : Nat) : Bool := bit w 33
/-- TDM. -/
def oTdm (w : Nat) : Bool := bit w 34
/-- DROPS. -/
def oDrops (w : Nat) : Nat := bits w 48 16
/-- EXPECT. -/
def oExpect (w : Nat) : Nat := bits w 64 32
/-- ARRIVED. -/
def oArrived (w : Nat) : Nat := bits w 96 32
/-- XBYTES. -/
def oXbytes (w : Nat) : Nat := bits w 128 64
/-- LANDED. -/
def oLanded (w : Nat) : Nat := bits w 192 64
/-- An object written by the G9; reserved bits are written as zero (R212). -/
def State.setObj (s : State) (pa w : Nat) : State := s.portPut pa (toBytes 64 (setBits w 35 13 0))
/-- A group placed on a core's object as a waiter: its bit in WAITERS (R16, R212). -/
def waiterBit (t : Team) (gid : Nat) : Nat := ctxOf gid + (if t.tandem && coreOf gid != t.core then 128 else 0)

/-- A group's bit of WAITERS of the object at an aperture address of its team set or cleared (R16, R212). -/
def State.setWaiter (s : State) (t : Team) (obj : W64) (gid : Nat) (on : Bool) : State :=
  match scratchLoc t (obj.toNat - aperture) 64 with
  | .port pa => s.setObj pa (setBits (s.obj pa) (256 + waiterBit t gid) 1 on.toNat)
  | _ => s

/-- A group that stops leaves the queues in which its stalled instruction waited (R249, R254, R455). -/
def State.leaveWaits (s : State) (gid : Nat) : State :=
  let s := { s with locks := s.locks.filter (fun x => x.gid != gid) }
  let s := s.updCore (coreOf gid) (fun c => { c with held := c.held.filter (fun x => x.2 != ctxOf gid) })
  s.updDie (dieOf (coreOf gid)) (fun d => { d with leaves := d.leaves.filter (fun x => !(x.curb && x.id == gid) && !(x.cls == 2 && !x.curb && x.id == gid + 1)) })
/-- What a stalled or waiting instruction of a group has set down is forgotten: it is issued afresh. -/
def Group.forgetWaits (g : Group) : Group :=
  { g with blocked := none, lockReq := none, pageWait := [], refused := [], pageSince := none, sideWait := none, heldVer := false, cpysHdr := none, curbAsk := 0,
           vputFull := false, allocHold := none }
/-- The instructions in flight of a group are discarded, and with them a tagged one, before its write-back (R435). -/
def State.discTags (s : State) (gid : Nat) : State :=
  if (s.group? gid).elim false (fun g => g.pend.any (·.tagged)) then
    { s with tags := s.tags.map (fun e => if e.2.gid == gid then (e.1, { e.2 with disc := true }) else e) }
  else s

/-- A rollback (R231): the buffer is dropped, the checkpoint and the shadowed rows restored, lane instructions in flight
discarded, and the group blocked at its `wait.or` as a plain `wait`, listed in WAITERS. The object is tested at the end of the step
(R226). -/
def State.rollback (s : State) (gid : Nat) : State :=
  match s.group? gid with
  | none => s
  | some g =>
    match g.orun with
    | none => s
    | some o =>
      let c := o.ckpt
      let g' := { (g.restoreRows c.v).forgetWaits with
        s := c.s, spc := c.spc, fmt := c.fmt, flags := c.flags, cls := c.cls, crit := c.crit, p := c.p, live := c.live,
        retQ := c.retQ, retAt := c.retQ.map (fun _ => 0), laneQ := [], running := false, slot0 := none, slot1 := none, stack := [], pend := [], orun := none,
        noOver := some (o.obj, o.phase), blocked := some { obj := o.obj, kind := 0, n := o.phase, since := s.cyc (coreOf gid) } }
      let s := (((s.leaveWaits gid).discTags gid).setGroup gid g').setWaiter (s.teamOf g) o.obj gid true
      { s with tests := s.tests ++ [(g.key, o.obj.toNat)] }

/-- The WAITERS bit of a group blocked on an object cleared (R224). -/
def State.clearWaiter (s : State) (gid : Nat) : State :=
  match s.group? gid with
  | none => s
  | some g =>
    match g.blocked with
    | none => s
    | some b =>
      if b.kind ≠ 0 then s else s.setWaiter (s.teamOf g) b.obj gid false
/-- The bytes of a posted quarter, and of its scale register (R302), as its group's registers hold them. -/
def State.quarterBytes (s : State) (q : Quarter) : List Byte :=
  if !q.got.isEmpty then q.got
  else match s.issuer? q.iss with
  | none => []
  | some (_, g) => (List.range (256 / g.lanew + 1)).flatMap (fun r =>
      (List.range g.lanew).flatMap (fun l => toBytes 4 (g.vreg (q.vn + r) l).toNat))
/-- A group of a task that ends leaves its core (R407 END): what it has issued is completed first; of its stores not yet performed those
to device memory go with the version of a contained task (R339). -/
def State.endGroup (s : State) (gid : Nat) : State :=
  let s := ((s.leaveWaits gid).settleIssued gid).discTags gid
  let s := s.updGroup gid (fun g =>
    if (s.launchOf g).desc.cls = 1 then g
    else { g with posted := g.posted.filter (fun p => match regionOf p.pa with
      | .dram => false
      | _ => true) })
  (s.leaveLate gid).delGroup gid
/-- A task ends without resuming (R407 END, R339): its groups stop, its unpublished version is discarded and it counts
as trapped; the team ends when its commands have (R116, R276), posted quarters being read at the latest now (R306). Commands that were saved with it (R298) end with it. -/
def State.endTask (s : State) (key : Nat) : State :=
  match s.team? key with
  | none => s
  | some _ =>
    let gs := s.groupsOf key
    let s := s.updTeam key (fun t =>
      let t := if t.away then { t with away := false, moving := false, mxQ := [], tags := [], tileAccs := [] } else t
      { t with dying := true, handles := [], tags := t.tags.map (fun q => { q with got := s.quarterBytes q }),
               retired := t.retired ++ gs.map (fun e => (e.2.gidx, e.1)) })
    let s := s.updPart ((s.launch? (key / 2 ^ 32)).getD {}).part (fun p => { p with saved := p.saved.filter (fun x => x.key != key) })
    let s := gs.foldl (fun s e => s.endGroup e.1) s
    let s := match (s.team? key).bind (·.version) with
      | some v => s.discard v
      | none => s
    s.updLaunch (key / 2 ^ 32) (fun l => { l with trapped := l.trapped + 1 })

/-- A group is parked and its frame written (R402), and the stop traced (R433). spill: its stack is laid in its reserve (R142). -/
def State.freeze (s : State) (gid : Nat) (g : Group) (after : W64) (p : Park) (spill : Bool) : State :=
  let g' := { g.forgetWaits with spc := g.spc + after, ending := none, parked := some p }
  let s := ((s.clearWaiter gid).leaveWaits gid).setGroup gid g'
  let s := if spill then s.spillStack gid g' else s
  let part := (s.launchOf g).part
  (s.record part (s.frameAt part gid) 512 g'.frame).packet gid g 4 (toBytes 4 p.rcd.cause.code)
/-- A group is parked on a stop and its frame written; the record goes where the claim table sends it (R402, R405). TAKING
AN EXCEPTION: every fault, trap, breakpoint, halt and watch of a group comes here. after: bytes of scalar code after
which the group resumes (R399); slot: the path that issued the stopping lane word. -/
def State.park (s : State) (gid : Nat) (g : Group) (r : TrapRec) (after : W64) (slot : Nat) (spill : Bool := true) : State :=
  let part := (s.launchOf g).part
  let w := route ((s.part part).claims r.cause)
  let s := s.freeze gid g after { rcd := r, who := w.1, slot := slot } spill
  let s := match w.1 with
    | .sup => s.toSup (coreOf gid) r
    | .host => s.toHost part r
    | .nobody => s
  let s := if w.2 then s.toHost part { r with adv := true } else s
  match w.1 with
  | .nobody => s.endTask g.key
  | .sup => s
  | .host => s
/-- A stop whose instructions have all completed parks its group (R400): with its own record, or without one under that of another
group (R430). -/
def State.parkEnding (s : State) (gid : Nat) (g : Group) (e : Ending) : State :=
  if e.silent then s.freeze gid g e.after { rcd := e.rcd, who := e.who, silent := true, slot := e.slot } true
  else s.park gid g e.rcd e.after e.slot
/-- The group is stopped: parked, or about to be once what it has issued is complete (R400, R402). -/
def Group.stopped (g : Group) : Bool := g.parked.isSome || g.ending.isSome
/-- A stop takes effect on both streams of a group (R400): its waiting instruction is given up, and it parks as soon as every
instruction that it has issued is complete. A group has at most one outstanding stop (R401). -/
def State.endWith (s : State) (gid : Nat) (e : Ending) : State :=
  match s.group? gid with
  | none => s
  | some g =>
    if g.stopped then s
    else
      let s := ((s.clearWaiter gid).leaveWaits gid).setGroup gid g.forgetWaits
      let s := s.settleIssued gid
      match s.group? gid with
      | none => s
      | some g => if g.pend.isEmpty && g.posted.isEmpty then s.parkEnding gid g e else s.setGroup gid { g with ending := some e }
/-- The groups whose stop awaited instructions that are now complete park (R400). -/
def State.parkReady (s : State) : State :=
  (s.groups.filter (fun e => e.2.ending.isSome)).foldl (fun s x => match s.group? x.1 with
    | some g => (match g.ending with
      | some e => if g.pend.isEmpty && g.posted.isEmpty then s.parkEnding x.1 g e else s
      | none => s)
    | none => s) s

/-- A stop raised by an instruction of the group (R400, R401, R234, R413): a group in overreach is rolled back and the
stop discarded; a task of a predicted launch refutes its prediction and is not parked; otherwise the group stops. -/
def State.stop (s : State) (gid : Nat) (r : TrapRec) (after : W64 := 0) : State :=
  match s.group? gid with
  | none => s
  | some g =>
    let l := s.launchOf g
    if g.orun.isSome then s.rollback gid
    else if l.pred && l.live then s.updLaunch g.launch (fun l => { l with refute := 4 })
    else s.endWith gid { rcd := r, after := after, slot := s.slot }
/-- A stop that no instruction in overreach has raised (R234): a halt, a pre-emption, an engine-watch charge (R411, R429), a refused
side-log store (R326). An overreaching group rolls back first, and the record names its `wait.or` with OVRB. The path is the one that
issued the store, where that still lives (k its stream's name; 0: no lane word's), else the live path that issued last (R158). -/
def State.stopAsync (s : State) (gid : Nat) (cause : Cause) (addr : W64) (k : Nat) : State :=
  match s.group? gid with
  | none => s
  | some g =>
    let ovrb := g.orun.isSome
    let s := s.rollback gid
    match s.group? gid with
    | none => s
    | some g =>
      let r := { s.stopRecord gid g cause false with addr := addr, ovrb := ovrb }
      s.stop gid (match g.pathNamed k with
        | some p => { r with lpc := p.pc, amask := p.mask }
        | none => r)

/-- Who answers a stop of a cause in a partition (R405). -/
def State.whoAnswers (s : State) (part : Nat) (c : Cause) : Handler := (route ((s.part part).claims c)).1
/-- A group stops under the record of another group, without one of its own (R430). -/
def State.parkSilent (s : State) (gid : Nat) (r : TrapRec) (who : Handler) : State :=
  (s.rollback gid).endWith gid { rcd := r, who := who, silent := true }
/-- Every other live group of the team of an issuer that has exited, or of its launch where no group of the team is left, stops under the
record that a group takes (R430). -/
def State.silence (s : State) (gid : Nat) (r : TrapRec) : State :=
  let key := keyOf r.launch.toNat r.team.toNat
  let mine := fun (g : Group) => if s.groups.any (fun e => e.2.key == key) then g.key == key else g.launch == r.launch.toNat
  let who := s.whoAnswers ((s.launch? r.launch.toNat).getD {}).part r.cause
  (s.groups.filter (fun e => e.1 != gid && mine e.2)).foldl (fun s e => s.parkSilent e.1 r who) s
/-- A charge delivered to a group (R429-R431): it stops with cause WATCH, and the record is its own, or that of an issuer that has
exited, under which every other group that the charge falls on stops too. -/
def State.chargeStop (s : State) (gid : Nat) (r : TrapRec) : State :=
  if r.iret then ((s.rollback gid).stop gid { r with stc := BitVec.ofNat 64 s.stc }).silence gid r else s.stopAsync gid .watch r.addr 0
/-- Watchpoints are ignored for the next issue of the stream that a watchpoint stopped (R399, R428). -/
def Group.unwatch (g : Group) (k : Park) : Group :=
  if k.rcd.cause = .watch && !k.rcd.iret then
    if k.rcd.lane then g.setPath k.slot ((g.path? k.slot).map (fun p => { p with noWatch := true })) else { g with noWatch := true }
  else g
/-- A group that may issue again has a halt or a charge pending: it stops before its first instruction (R412, R431). -/
def State.deliver (s : State) (gid : Nat) : State :=
  match s.group? gid with
  | none => s
  | some g =>
    if g.pendHalt then (s.setGroup gid { g with pendHalt := false }).stopAsync gid .halt 0 0
    else match g.pendCharge with
      | some r => (s.setGroup gid { g with pendCharge := none }).chargeStop gid r
      | none => s
/-- RETURNING (R407 RESUME, R399, R412, R431): the frame and the stack are reloaded and the group may issue again; an invalid entry of
the stack, a pending halt or a pending charge stops it before its first instruction. -/
def State.resume (s : State) (gid : Nat) : State :=
  match s.group? gid with
  | none => s
  | some g =>
    match g.parked with
    | none => s
    | some k =>
      let w := ofBytes (s.portRead (s.frameAt (s.launchOf g).part gid) 512)
      let now := s.cyc (coreOf gid)
      let g' := { ((g.reload w).unwatch k) with parked := none, lastS := now, lastL := now, promoS := 0, promoL := 0 }
      match s.readStack (reserveAt gid g) g.stack.reverse 64 with
      | none =>
        -- the entries stay as the supervisor left them
        let s := s.setGroup gid g'
        s.park gid g' (s.stopRecord gid g' .illegal false) 0 0 false
      | some es => (s.setGroup gid (g'.setStack es.reverse).repath).deliver gid

/-- A stop of the kinds whose updates are held (R426). -/
def Cause.debug : Cause → Bool
  | .brk | .watch | .halt => true
  | _ => false
/-- The group is in a debug stop (R426). -/
def Group.debugStop (g : Group) : Bool :=
  match g.parked, g.ending with
  | some k, _ => k.rcd.cause.debug
  | none, some e => e.rcd.cause.debug
  | none, none => false

/-! Frames of the meanings. -/

/-- A scalar meaning: the group that issues. -/
def scalar (s : State) (k : Nat → Group → Res) : Res :=
  match s.group? s.cur with
  | some g => k s.cur g
  | none => .fault .noGroup
/-- A write that a version keeps waiting holds its whole group, but for the stream whose instruction it is (R342, R343). -/
def Group.heldBy (g : Group) (k : Nat) : Group := if g.heldVer then { g with heldVer := false, sideWait := some (g.streamId k) } else g
/-- The S-stream is held at its instruction (R119). -/
def State.stallS (s : State) : Res := .next (s.updGroup s.cur (fun g => { (g.heldBy 0) with sHeld := s.epoch + 1 }))
/-- The L-stream is held at its instruction (R119). -/
def State.stallL (s : State) : Res := .next (s.updGroup s.cur (fun g =>
  let g := g.heldBy (1 + s.slot)
  if s.slot = 0 then { g with lHeld := s.epoch + 1 } else { g with lHeld1 := s.epoch + 1 }))
/-- A scalar instruction stops its group before itself (R400). -/
def State.trapS (s : State) (gid : Nat) (g : Group) (cause : Cause) (addr : W64) : Res :=
  .next (s.stop gid { s.stopRecord gid g cause false with addr := addr })
/-- A lane instruction stops its group before itself (R400), with the faulting-lane mask. -/
def State.trapL (s : State) (gid : Nat) (g : Group) (cause : Cause) (addr fmask : W64) : Res :=
  .next (s.stop gid { s.stopRecord gid g cause true with addr := addr, fmask := fmask })
/-- An instruction that stalls an overreaching group (R233). -/
def settled (s : State) (g : Group) (k : Res) : Res := if g.orun.isSome then s.stallS else k
/-- A scalar instruction whose one effect is a register result. -/
def setResult (s : State) (d : Reg) (f : Group → W64) : Res :=
  scalar s (fun gid g => .next (s.done gid (fun _ => g.setReg d (f g))))
/-- What a stalling operation answers in a scalar meaning. -/
def Rc.intoS {α : Type} (r : Rc α) (gid : Nat) (g : Group) (addr : W64) (k : α → State → Res) : Res :=
  match r with
  | .ok a s => k a s
  | .flt c s => s.trapS gid g c addr
  | .hold s => s.stallS

/-- One lane instruction of a path counted against its windows (R123). -/
def Group.count (g : Group) (id : Nat) : Group :=
  { g with pend := g.pend.map (fun x => if x.path = id then { x with left := x.left - 1 } else x) }
/-- The lane instruction of the path in a slot has issued (R158): watchpoints count again (R399), and what held the stream is over. -/
def Group.issuedPath (g : Group) (p : Path) : Path := { p with redo := none, far := 0, noWatch := false, last := g.laneN + 1 }
/-- What a lane instruction of a path leaves in its group. -/
def Group.laneIssued (g : Group) (p : Path) : Group :=
  { (g.count p.id) with laneN := g.laneN + 1, sideWait := none, refused := g.refused.filter (fun x => x.1 != p.id + 1) }
/-- The path in a slot goes to its next word (R144). -/
def Group.stepPath (g : Group) (slot : Nat) (p : Path) : Group :=
  (g.laneIssued p).setPath slot (some { g.issuedPath p with pc := p.pc + 1 })
/-- Rows that an overreaching group would write for the first time (R229). -/
def Group.newRows (g : Group) (rows : List Nat) : List Nat :=
  match g.orun with
  | some o => rows.filter (fun r => !o.rows.contains r)
  | none => []
/-- Bytes of the shadow pool in use on a core (R229). -/
def State.shadowUsed (s : State) (core : Nat) : Nat :=
  (s.groupsOn core).foldl (fun n e => match e.2.orun with
    | some o => n + o.rows.length * 4 * e.2.lanew
    | none => n) 0
/-- Rows of the shadow pool taken for the first writes of an overreaching group (R229, R233), whose old values go there when they are
written (Group.keepRows): none when it has no room. -/
def State.shadow (s : State) (gid : Nat) (g : Group) (rows : List Nat) : Option Group :=
  let new := g.newRows rows
  if new.isEmpty then some g
  else if s.shadowUsed (coreOf gid) + new.length * 4 * g.lanew ≤ 196608 then
    some { g with orun := g.orun.map (fun o => { o with rows := o.rows ++ new }) }
  else none

/-- The lanes of a path that act: its active mask with the live-lane mask (R140), and on a reissue the faulting lanes
(R243). -/
def Group.active (g : Group) (p : Path) : W64 :=
  match p.redo with
  | some m => p.mask &&& g.live &&& m
  | none => p.mask &&& g.live
/-- The guard of a lane word over all lanes (R73). -/
def Group.guard (g : Group) (w : LaneWord) : W64 := if w.gn then ~~~ (g.pred w.gp.toNat) else g.pred w.gp.toNat
/-- A lane word with no v result. -/
def noRows : Group → Path → List Nat := fun _ _ => []
/-- The v rows of a lane word's result that it writes: none without a participant (R73, R124). -/
def rowsIn (w : LaneWord) (rows : List Nat) : Group → Path → List Nat :=
  fun g p => if g.active p &&& g.guard w = 0 then [] else rows
/-- A lane meaning: the group, and the path that issues, inside every window (R123). ctl: it waits for every
long-latency instruction of its path. rows: the v rows it writes (R229). -/
def laneOp (s : State) (ctl : Bool) (rows : Group → Path → List Nat) (k : Nat → Group → Path → Res) : Res :=
  match s.group? s.cur with
  | none => .fault .noGroup
  | some g =>
    match g.path? s.slot with
    | none => .fault .noGroup
    | some p =>
      if g.pend.any (fun x => x.path == p.id && (ctl || x.left == 0)) then s.stallL
      else match s.shadow s.cur g (rows g p) with
        | some g' => k s.cur g' p
        | none => s.stallL

end Sys2Proof.Machine
end

