-- ==== Sys2Proof/Machine/Barrier.lean ====
section
/-! DEFINITION. Barrier objects, batch objects, waits and overreach entry (spec/10 R212-R233). -/

namespace Sys2Proof.Machine

/-- Phase n of the object has completed (R224). -/
def phaseDone (w n : Nat) : Bool :=
  let d := (oPhase w + 2 ^ 32 - n % 2 ^ 32) % 2 ^ 32
  decide (1 ≤ d) && decide (d < 2 ^ 31)

/-- An object as a team names it: the team, the aperture address, and the port. -/
structure ObjRef where
  key : Nat
  va : Nat
  pa : Nat
  deriving DecidableEq, Repr

/-- The group of a team behind a bit of WAITERS (R16). -/
def waiterOf (t : Team) (b : Nat) : Nat :=
  if t.tandem then 128 * t.core + b else 128 * t.core + b % 128
/-- The end of an overreach whose phase completed without conflict (R232): its buffered stores are accepted for their ports, to be
performed in program order, after the completion and before every later store of the group. -/
def State.endOver (s : State) (gid : Nat) : State :=
  s.updGroup gid (fun g => match g.orun with
    | none => g
    | some o => { g with orun := none, posted := g.posted ++ o.order.map (fun p => { p with buffered := true }) })
/-- A write conflicts with the overreach of a group (R231): any write by another agent to a granule that its signature holds, but none of
the G9's own, such as a record or an accessed bit; a publication only when it merges into committed memory or into a version of the group's chain. -/
def State.conflicts (s : State) (w : Wrote) (gid : Nat) (g : Group) : Bool :=
  match g.orun with
  | none => false
  | some o =>
    w.who != some gid && !w.own
    && (!w.pub || w.committed || w.ver.elim false (fun v => (s.chainOf (s.teamOf g) (s.launchOf g)).contains v))
    && (linesOf w.pa w.len).any o.mayHaveRead
/-- A group's WAITERS bit cleared and its block lifted, when it is saved (R224, R417). -/
def State.unblock (s : State) (gid : Nat) : State := (s.clearWaiter gid).updGroup gid (fun g => { g with blocked := none })
/-- Groups whose overreach is bound to the object and whose phase has now completed leave it (R232); one that a write of the
step before the completion conflicts with rolls back (R231), and reissues its `wait`, which the phase satisfies. -/
def State.endOvers (s : State) (o : ObjRef) (w : Nat) : State :=
  let ws := s.wrote
  ((s.groupsOf o.key).filter (fun e => match e.2.orun with
    | some r => r.obj.toNat == o.va && phaseDone w r.phase.toNat
    | none => false)).foldl
    (fun s e => if ws.any (fun w => s.conflicts w e.1 e.2) then (s.rollback e.1).unblock e.1 else s.endOver e.1) s
/-- One arrival counted: ARRIVED, and DROPS for a drop (R216). An object whose EXPECT is 0 takes it without adding it. -/
def countArrival (w : Nat) (drop : Bool) : Nat :=
  let w := if oExpect w = 0 then w else setBits w 96 32 (oArrived w + 1)
  if drop then setBits w 48 16 (min 0xFFFF (oDrops w + 1)) else w
/-- The condition of Complete (R215). -/
def canComplete (w : Nat) : Bool := oArrived w == oExpect w && (!oBytes w || oLanded w == oXbytes w)
/-- The object after a phase has completed (R215). -/
def completed (w : Nat) : Nat :=
  let e := if oExpect w ≤ oDrops w then 0 else oExpect w - oDrops w
  (oPhase w + 1) % 2 ^ 32 + bits w 32 3 * 2 ^ 32 + e * 2 ^ 64
/-- The arrivals held at the object's port, in the order of R216: plain ones before drops, by bit. -/
def State.heldAt (s : State) (o : ObjRef) : List (Nat × Group) :=
  let all := (s.groupsOf o.key).filter (fun e => match e.2.blocked with
    | some b => b.kind == 3 && b.obj.toNat == o.va
    | none => false)
  all.filter (fun e => match e.2.blocked with
    | some b => !b.drop
    | none => false) ++ all.filter (fun e => match e.2.blocked with
    | some b => b.drop
    | none => false)
/-- Held arrivals counted in the new phase until one must be held again (R216); each answers its `barr`. -/
def State.admitHeld (s : State) (o : ObjRef) : List (Nat × Group) → State
  | [] => s
  | (gid, g) :: r =>
    let w := s.obj o.pa
    match g.blocked with
    | none => State.admitHeld s o r
    | some b =>
      if oExpect w ≠ 0 && oArrived w = oExpect w then s
      else
        let s := s.setObj o.pa (countArrival w b.drop)
        let s := s.done gid (fun g => { (g.setReg b.dst (BitVec.ofNat 64 (oPhase w))) with blocked := none })
        State.admitHeld s o r
/-- The group is blocked in a `wait` on the object (R226). -/
def Group.blockedOn (g : Group) (va : Nat) : Bool :=
  match g.blocked with
  | some b => b.kind == 0 && b.obj.toNat == va
  | none => false
/-- A blocked group wakes; how long it was blocked is monitored (R224, R436). -/
def State.rouse (s : State) (gid : Nat) (g : Group) (b : Blocked) : State :=
  (s.setGroup gid { g with blocked := none }).monitor (coreOf gid) (s.launchOf g).part 6 (s.cyc (coreOf gid) - b.since)
/-- A group of the object's team that is blocked on it wakes, and checks its own wait again (R224); a bit of WAITERS that stands for no
such group wakes none (R7). -/
def State.wake (s : State) (o : ObjRef) (gid : Nat) : State :=
  match s.group? gid with
  | none => s
  | some g => match g.blocked with
    | none => s
    | some b =>
      if g.key == o.key && g.blockedOn o.va then s.rouse gid g b else s
/-- Complete (R215): at most one phase. The groups listed in WAITERS wake, and each checks its own wait again. -/
def State.complete1 (s : State) (o : ObjRef) : State :=
  let w := s.obj o.pa
  if canComplete w then
    let t := (s.team? o.key).getD {}
    let w' := completed w
    let s := s.setObj o.pa w'
    let s := ((List.range 256).filter (fun b => bit w (256 + b))).foldl (fun s b => s.wake o (waiterOf t b)) s
    (s.endOvers o w').admitHeld o (s.heldAt o)
  else s
/-- Complete, evaluated after an update, and again after arrivals that were held and count now (R215, R216). -/
def State.evaluateN (s : State) (o : ObjRef) : Nat → State
  | 0 => s
  | k + 1 =>
    let s1 := s.complete1 o
    if (s1.heldAt o).length < (s.heldAt o).length then State.evaluateN s1 o k else s1
/-- Complete, evaluated after an update (R215). -/
def State.evaluate (s : State) (o : ObjRef) : State := s.evaluateN o ((s.heldAt o).length + 1)

/-- The checks of an object operand (R220): its port, or the cause. -/
def State.objCheck (s : State) (gid : Nat) (g : Group) (va : Nat) (rw : Rw) : Except Cause ObjRef :=
  let t := s.teamOf g
  if va % 64 ≠ 0 then .error .align
  else if !inAperture va then .error .scratchbounds
  else match scratchLoc t (va - aperture) 64 with
    | .port pa =>
      let holder := if va - aperture < 0x400000 then t.core else t.core + 1
      if coreOf gid ≠ holder && !oTdm (s.obj pa) then .error .scratchbounds
      else if s.gwHit gid g 0 va 64 rw then .error .watch
      else .ok { key := g.key, va := va, pa := pa }
    | .flt c => .error c
    | _ => .error .scratchbounds
/-- The team and aperture address of the object that an address of a launch's team names: through its own aperture, or
through a team window (R266). -/
def objName (key va : Nat) : Option (Nat × Nat) :=
  if inAperture va then some (key, va)
  else if inTeamWin va then
    let o := (va - teamWin) % 0x1000000
    if o % 0x800000 < 0x400000 then
      some (keyOf (key / 2 ^ 32) ((va - teamWin) / 0x1000000), aperture + o / 0x800000 * 0x400000 + o % 0x800000)
    else none
  else none
/-- A copy that names the object is outstanding (R226). -/
def State.copyNames (s : State) (o : ObjRef) : Bool :=
  s.cores.any (fun c => c.2.copyQ.any (fun x => x.hasBar && objName x.iss.key x.bar.toNat == some (o.key, o.va)))
/-- The group may use the object (R214). -/
def mayUse (t : Team) (o : ObjRef) (w gid : Nat) : Bool :=
  oTdm w || coreOf gid == (if o.va - aperture < 0x400000 then t.core else t.core + 1)
/-- ORPHANWAIT raised in groups, in ascending bit order, each with its own record (R221, R226). -/
def State.orphan (s : State) (va : Nat) (gids : List Nat) : State :=
  gids.foldl (fun s gid => match s.group? gid with
    | some g => s.stop gid { s.stopRecord gid g .orphanwait false with addr := BitVec.ofNat 64 va }
    | none => s) s
/-- The test of R226: no live party can complete the object's phase; every group blocked on it faults ORPHANWAIT. -/
def State.orphanTest (s : State) (o : ObjRef) : State :=
  let w := s.obj o.pa
  let t := (s.team? o.key).getD {}
  let gs := s.groupsOf o.key
  let able := (gs.filter (fun e => mayUse t o w e.1 && !e.2.blockedOn o.va)).length
  if oArrived w + able < oExpect w && !s.copyNames o then
    s.orphan o.va ((gs.filter (fun e => e.2.blockedOn o.va)).map (·.1))
  else s
/-- The objects at which a rollback of the step has blocked a group are tested (R226). -/
def State.runTests (s : State) : State :=
  s.tests.foldl (fun s x => match scratchLoc ((s.team? x.1).getD {}) (x.2 - aperture) 64 with
    | .port pa => s.orphanTest { key := x.1, va := x.2, pa := pa }
    | _ => s) { s with tests := [] }
/-- A group listed in WAITERS and blocked on the object (R224). -/
def State.block (s : State) (gid : Nat) (g : Group) (o : ObjRef) (n : W32) : State :=
  let t := s.teamOf g
  let s := s.setObj o.pa (setBits (s.obj o.pa) (256 + waiterBit t gid) 1 1)
  let bl : Blocked := { obj := BitVec.ofNat 64 o.va, kind := 0, n := n, since := s.cyc (coreOf gid) }
  (s.updGroup gid (fun g => { g with blocked := some bl })).orphanTest o

/-- `binit` (R221): the whole object written, then Complete; the groups whose bits it clears fault ORPHANWAIT. -/
def execBinit (a b : Reg) (f : BitVec 3) (s : State) : Res :=
  scalar s fun gid g => settled s g <|
    match s.objCheck gid g (g.reg a).toNat .amo with
    | .error c => (if c = .watch then s.gwCount gid g (g.reg a).toNat 64 .amo else s).trapS gid g c (g.reg a)
    | .ok o =>
      let old := s.obj o.pa
      let t := s.teamOf g
      let s := s.setObj o.pa (f.toNat * 2 ^ 32 + (g.reg b).toNat % 2 ^ 32 * 2 ^ 64)
      let s := s.done gid id
      let listed := ((List.range 256).filter (fun b => bit old (256 + b))).map (waiterOf t)
      .next ((s.orphan o.va (listed.filter (fun x => (s.group? x).elim false (fun h => h.key == o.key && h.blockedOn o.va)))).evaluate o)
/-- `barr` and `barrd` (R216, R222): one arrival, a release at team scope; it is held while the phase can take no more. -/
def arrive (d a : Reg) (drop : Bool) (s : State) : Res :=
  scalar s fun gid g => settled s g <|
    match s.objCheck gid g (g.reg a).toNat .amo with
    | .error c => (if c = .watch then s.gwCount gid g (g.reg a).toNat 64 .amo else s).trapS gid g c (g.reg a)
    | .ok o => (s.releaseWait gid g .team).intoS gid g (g.reg a) fun _ s =>
      let w := s.obj o.pa
      if oExpect w ≠ 0 && oArrived w = oExpect w then
        let bl : Blocked := { obj := BitVec.ofNat 64 o.va, kind := 3, n := 0, since := s.cyc (coreOf gid), drop := drop, dst := d }
        .next ((s.updGroup gid (fun g => { g with blocked := some bl })).orphanTest o)
      else
        let n := oPhase w
        let last := (n + 2 ^ 32 - 1) % 2 ^ 32
        if oExpect w = 0 && s.zero.contains (o.pa, last) then
          -- an arrival of the same cycle has completed the phase of an object with EXPECT 0; both are applied together (R216)
          .next (s.done gid (fun g => g.setReg d (BitVec.ofNat 64 last)))
        else
          let s := s.setObj o.pa (countArrival w drop)
          let t := (s.done gid (fun g => g.setReg d (BitVec.ofNat 64 n))).evaluate o
          .next (if oExpect w = 0 && oPhase (t.obj o.pa) != n then { t with zero := t.zero ++ [(o.pa, n)] } else t)
/-- `barr` (R222). -/
def execBarr (d a : Reg) (s : State) : Res := arrive d a false s
/-- `barrd` (R222). -/
def execBarrd (d a : Reg) (s : State) : Res := arrive d a true s
/-- `bexp` (R223). -/
def execBexp (a b : Reg) (s : State) : Res :=
  scalar s fun gid g => settled s g <|
    match s.objCheck gid g (g.reg a).toNat .amo with
    | .error c => (if c = .watch then s.gwCount gid g (g.reg a).toNat 64 .amo else s).trapS gid g c (g.reg a)
    | .ok o =>
      let w := s.obj o.pa
      .next (((s.setObj o.pa (setBits w 128 64 (oXbytes w + (g.reg b).toNat))).done gid id).evaluate o)

/-- The group's batch object of a kind (R218). -/
def Group.batch (g : Group) (k : WaitKind) : Batch := if k == .matrix then g.matB else g.copyB
/-- The batch number has not been closed (R224). -/
def Batch.ahead (b : Batch) (n : W32) : Bool :=
  let d := (n - b.closed).toNat
  decide (1 ≤ d) && decide (d < 2 ^ 31)
/-- Batch n is done (R224). -/
def Batch.past (b : Batch) (n : W32) : Bool := decide ((b.done - n).toNat < 2 ^ 31)
/-- The checkpoint of a group (R229); the v rows join it when they are first written. -/
def Group.checkpoint (g : Group) : OverCkpt :=
  { s := g.s, spc := g.spc, fmt := g.fmt, flags := g.flags, cls := g.cls, crit := g.crit, p := g.p, live := g.live,
    retQ := g.retQ }
/-- `wait` (R224, R229). For a watchpoint it is an atomic, as `binit`, `barr`, `barrd` and `bexp` are, and `btest` is a read (log 58). -/
def execWait (a b : Reg) (kind : WaitKind) (s : State) : Res :=
  scalar s fun gid g => settled s g <|
    let n : W32 := (g.reg b).setWidth 32
    if kind == .copy || kind == .matrix then
      let bo := g.batch kind
      if bo.ahead n then s.trapS gid g .batchahead 0
      else if bo.past n then .next (s.done gid id)
      else
        let bl : Blocked := { obj := 0, kind := (if kind == .matrix then 2 else 1), n := n, since := s.cyc (coreOf gid) }
        .next (s.setGroup gid { g with blocked := some bl })
    else match s.objCheck gid g (g.reg a).toNat .amo with
      | .error c => (if c = .watch then s.gwCount gid g (g.reg a).toNat 64 .amo else s).trapS gid g c (g.reg a)
      | .ok o =>
        let w := s.obj o.pa
        if phaseDone w n.toNat then .next (s.done gid (fun g => { g with noOver := none }))
        else if kind == .objOr && oOvr w && g.noOver != some (g.reg a, n) then
          if !g.laneIdle then (if g.vputFull then s.trapS gid g .orphanwait 0 else s.stallS)
          else if s.shadowUsed (coreOf gid) + 4 * g.lanew ≤ 196608 then
            .next (s.done gid (fun g => { g with orun := some { obj := g.reg a, phase := n, ckpt := g.checkpoint } }))
          else .next (s.block gid g o n)
        else .next (s.block gid g o n)
/-- `btest` (R225). -/
def execBtest (d a b : Reg) (kind : WaitKind) (s : State) : Res :=
  scalar s fun gid g =>
    let n : W32 := (g.reg b).setWidth 32
    if kind == .copy || kind == .matrix then
      let bo := g.batch kind
      let ahead := bo.ahead n
      .next (s.done gid (fun _ => g.setReg d (BitVec.ofNat 64
        ((!ahead && bo.past n).toNat + ahead.toNat * 2 + bo.done.toNat * 2 ^ 32))))
    else match s.objCheck gid g (g.reg a).toNat .rd with
      | .error c => (if c = .watch then s.gwCount gid g (g.reg a).toNat 64 .rd else s).trapS gid g c (g.reg a)
      | .ok o =>
        let w := s.obj o.pa
        .next (s.done gid (fun _ => g.setReg d (BitVec.ofNat 64 ((phaseDone w n.toNat).toNat + oPhase w * 2 ^ 32))))

end Sys2Proof.Machine
end

