-- ==== Sys2Proof/Machine/Charge.lean ====
section
/-! DEFINITION. Engine watchpoints and the charges they make (spec/24 R429-R431). -/

namespace Sys2Proof.Machine

/-- A charge waits at a group until the end of the core cycle, so that a watchpoint of its own or a HALT of that cycle comes first, or,
where the group is stopped already or being moved, until it goes on (R431); of several the first. -/
def Group.keepCharge (g : Group) (r : TrapRec) : Group := { g with pendCharge := g.pendCharge.orElse (fun _ => some r) }
/-- Groups by rising (TEAMIDX, GIDX). -/
def sortGroups (gs : List (Nat × Group)) : List (Nat × Group) :=
  gs.mergeSort (fun a b => decide (a.2.team * 64 + a.2.gidx ≤ b.2.team * 64 + b.2.gidx))
/-- A group of a saved team stops under a charge as soon as it is resident again (R430): the one of a given TEAMIDX and GIDX with the
record, every other without. -/
def Group.chargeSaved (g : Group) (first : Nat × Nat) (r : TrapRec) (who : Handler) : Group :=
  if (g.team, g.gidx) = first then
    if g.stopped then g.keepCharge r else { g with ending := some { rcd := r } }
  else if g.stopped then g
  else { g with ending := some { rcd := r, who := who, silent := true } }
/-- The groups of a partition, saved ones too, whose team a test picks by its key, by rising (TEAMIDX, GIDX): the first takes a charge that
falls on all of them (R430). -/
def State.chargeable (s : State) (part : Nat) (ok : Nat → Bool) : List (Nat × Group) :=
  sortGroups (s.groups.filter (fun e => ok e.2.key) ++ (s.part part).saved.flatMap (fun x => if ok x.key then x.groups else []))
/-- A charge falls on the teams of a partition that a test picks by their keys (R430): the group of lowest (TEAMIDX, GIDX) takes the record,
at the end of the cycle where it goes on, and the others stop when it does; where it stands already the others stop at once, and a charge
that finds one pending there changes nothing (R431). -/
def State.chargeAmong (s : State) (part : Nat) (ok : Nat → Bool) (r : TrapRec) (x : Group) : State :=
  if x.pendCharge.isSome then s
  else
    let first := (x.team, x.gidx)
    let who := s.whoAnswers part r.cause
    let s := s.updPart part (fun p => { p with saved := p.saved.map (fun y =>
      if ok y.key then { y with groups := y.groups.map (fun e => (e.1, e.2.chargeSaved first r who)) } else y) })
    let live := sortGroups (s.groups.filter (fun e => ok e.2.key))
    let here := live.any (fun e => (e.2.team, e.2.gidx) == first && !e.2.stopped && !e.2.stopping)
    live.foldl (fun s e => if (e.2.team, e.2.gidx) = first then s.updGroup e.1 (·.keepCharge r)
      else if here then s else s.parkSilent e.1 r who) s
/-- A charge whose issuer has exited (R430) falls on its team, else on its launch, whose admission it holds, else on nobody: then its
record parks no group. -/
def State.chargeRetired (s : State) (i : Issuer) (cause : Cause) (addr : W64) : State :=
  let launch := i.key / 2 ^ 32
  let part := ((s.launch? launch).getD {}).part
  let r : TrapRec := { cause := cause, iret := true, core := coreOf i.gid, ctx := ctxOf i.gid, gidx := i.gidx,
                       launch := BitVec.ofNat 32 launch, team := BitVec.ofNat 32 (i.key % 2 ^ 32),
                       pubcount := ((s.team? i.key).getD {}).pubcount, addr := addr, stc := BitVec.ofNat 64 s.stc }
  match s.chargeable part (· == i.key) with
  | x :: _ => s.chargeAmong part (· == i.key) r x.2
  | [] =>
    let h := (i.key % 2 ^ 32, i.gidx)
    let hold := fun (s : State) => s.updLaunch launch (fun l => { l with chargeHold := if l.chargeHold.contains h then l.chargeHold else l.chargeHold ++ [h] })
    match s.chargeable part (fun k => k / 2 ^ 32 == launch) with
    | x :: _ => if x.2.pendCharge.isSome then s else (hold s).chargeAmong part (fun k => k / 2 ^ 32 == launch) r x.2
    | [] => (hold s).recordEvent part r false
/-- A stop charged to a task of a live prediction refutes it instead (R413, R431). -/
def State.chargeTo (s : State) (i : Issuer) (live : Nat → State) (gone : State) : State :=
  let launch := i.key / 2 ^ 32
  let l := (s.launch? launch).getD {}
  if l.pred && l.live then s.updLaunch launch (fun l => { l with refute := if l.refute = 0 then 4 else l.refute })
  else match s.issuer? i with
    | some (gid, _) => live gid
    | none => gone
/-- A charge delivered to the issuer, its team or its launch (R429-R431). -/
def State.charge (s : State) (i : Issuer) (addr : W64) : State :=
  let away := s.parts.any (fun p => p.2.saved.any (fun x => x.groups.any (fun y => y.2.issued i)))
  let saved := { s with parts := s.parts.map (fun (p : Nat × Partition) => (p.1, { p.2 with saved := p.2.saved.map (fun (x : SavedTeam) =>
    { x with groups := x.groups.map (fun (e : Nat × Group) =>
      if e.2.issued i then (e.1, e.2.keepCharge { cause := .watch, addr := addr }) else e) }) })) }
  s.chargeTo i (fun gid => s.updGroup gid (·.keepCharge { cause := .watch, addr := addr })) (if away then saved else s.chargeRetired i .watch addr)
/-- A write of an engine command: HITS of every engine watchpoint that matches it, and one charge, with the first byte that matches
(R429). -/
def State.engineWatch (s : State) (i : Issuer) (va n : Nat) : State :=
  let l := (s.launch? (i.key / 2 ^ 32)).getD {}
  let hit := fun (w : Nat × Watch) => w.2.hit l.part l.asid va n false true
  match least ((s.ew.filter hit).map (fun w => max va w.2.addr.toNat)) with
  | none => s
  | some a =>
    { s with ew := s.ew.map (fun (w : Nat × Watch) => (w.1, if hit w then w.2.count else w.2)) }.charge i (BitVec.ofNat 64 a)

end Sys2Proof.Machine
end

