-- ==== Sys2Proof/Machine/Engine.lean ====
section
/-! DEFINITION. What the copy engines and the matrix complex share (spec/10 R217-R218, spec/12 R254-R257, R272-R276, spec/24
R426, spec/26 R453): batches, landed bytes, leave, and accesses at ports by engines. -/

namespace Sys2Proof.Machine

/-! Batches (R218, R269). -/

/-- DONE as the commands still incomplete give it: they are listed in issue order, so the first is of the earliest batch. -/
def Batch.renew (b : Batch) : Batch :=
  { b with done := match b.live with
    | [] => b.closed
    | n :: _ => BitVec.ofNat 32 n - 1 }
/-- The number of the open batch. -/
def Batch.next (b : Batch) : Nat := (b.closed + 1).toNat
/-- A command issued (R266): its batch number is `next`. -/
def Batch.issue (b : Batch) : Batch := { b with opn := b.opn + 1, live := b.live ++ [b.next] }
/-- The open commands closed (R269). -/
def Batch.close (b : Batch) : Batch :=
  ({ b with closed := b.closed + 1, opn := 0,
            inflight := b.inflight + BitVec.ofNat 32 (b.live.filter (· == b.next)).length } : Batch).renew
/-- A command of batch n completed with a status (R218, R272). -/
def Batch.finish (b : Batch) (n : Nat) (status : BitVec 8) : Batch :=
  let b := { b with live := b.live.erase n, inflight := if n = b.next then b.inflight else b.inflight - 1 }
  (if status = 0 then b else { b with errs := b.errs + 1, lasterr := status }).renew
/-- A group's batch object of a class changed. -/
def Group.updBatch (g : Group) (matrix : Bool) (f : Batch → Batch) : Group :=
  if matrix then { g with matB := f g.matB } else { g with copyB := f g.copyB }
/-- The same of the objects that a group has left. -/
def Left.updBatch (x : Left) (matrix : Bool) (f : Batch → Batch) : Left :=
  if matrix then { x with matB := f x.matB } else { x with copyB := f x.copyB }
/-- A group blocked on a batch that is now done wakes (R218, R224). -/
def State.wakeBatch (s : State) (gid : Nat) : State :=
  match s.group? gid with
  | none => s
  | some g => match g.blocked with
    | none => s
    | some b =>
      if (b.kind = 1 && g.copyB.past b.n) || (b.kind = 2 && g.matB.past b.n) then s.rouse gid g b else s
/-- A completion counted in a group's batch object. -/
def State.applyDone (s : State) (gid : Nat) (matrix : Bool) (n : Nat) (status : BitVec 8) : State :=
  (s.updGroup gid (fun g => g.updBatch matrix (fun b => b.finish n status))).wakeBatch gid
/-- A completion, held while the issuer is in a debug stop (R426). -/
def State.batchDone (s : State) (i : Issuer) (matrix : Bool) (n : Nat) (status : BitVec 8) : State :=
  match s.issuer? i with
  | none =>
    -- the objects stay behind at the context of a group that has exited (R134, R218)
    s.updCore (coreOf i.gid) (fun c => { c with left := c.left.map (fun (e : Nat × Left) =>
      if e.2.iss == i then (e.1, e.2.updBatch matrix (fun b => b.finish n status)) else e) })
  | some (gid, g) =>
    if g.debugStop then
      s.setGroup gid { g with heldUpd := g.heldUpd ++ [{ kind := if matrix then .matDone else .copyDone, batch := n, status := status }] }
    else s.applyDone gid matrix n status

/-! Landed bytes (R217, R273). -/

/-- The object a copy names, at its port on the team's present cores. -/
def State.objAt (s : State) (key va : Nat) : Option ObjRef :=
  match s.team? key with
  | none => none
  | some t => if t.away then none else match scratchLoc t (va - aperture) 64 with
    | .port pa => some { key := key, va := va, pa := pa }
    | _ => none
/-- Landed bytes wait until the team of their object has its place again (R22, R273). -/
def State.waitLanded (s : State) (key va n : Nat) : State :=
  { s with landWait := s.landWait ++ [{ kind := .landed, key := key, obj := va, bytes := n }] }
/-- Bytes added to LANDED, and Complete (R215, R217); they wait while the team of the object is saved. -/
def State.applyLanded (s : State) (key va n : Nat) : State :=
  match s.objAt key va with
  | none => if (s.team? key).elim false (·.away) then s.waitLanded key va n else s
  | some o => let w := s.obj o.pa
    (s.setObj o.pa (setBits w 192 64 (oLanded w + n))).evaluate o
/-- Landed bytes counted, or held while the issuer is in a debug stop (R426). -/
def State.landed (s : State) (i : Issuer) (key va n : Nat) : State :=
  if n = 0 then s
  else match s.issuer? i with
    | some (gid, g) =>
      if g.debugStop then s.setGroup gid { g with heldUpd := g.heldUpd ++ [{ kind := .landed, key := key, obj := va, bytes := n }] }
      else s.applyLanded key va n
    | none => s.applyLanded key va n
/-- The updates held during a debug stop applied, in the order the commands completed (R426); landed bytes of another team's object wait while
that team is being moved (R22). -/
def State.releaseHeld (s : State) (gid : Nat) : State :=
  match s.group? gid with
  | none => s
  | some g => g.heldUpd.foldl (fun s h => match h.kind with
      | .copyDone => s.applyDone gid false h.batch h.status
      | .matDone => s.applyDone gid true h.batch h.status
      | .landed =>
        if h.key != g.key && (s.team? h.key).elim false (·.moving) then s.waitLanded h.key h.obj h.bytes
        else s.applyLanded h.key h.obj h.bytes) (s.setGroup gid { g with heldUpd := [] })

/-! Leave (R25, R453, R455). -/

/-- A lease that `curb` obtained covers an operation that begins now (R423, R453): it is used up. key: 2 copy,
16 + QUARTER lane, 32 + team key matrix (on the leader). -/
def State.useLease (s : State) (core key : Nat) : Bool × State :=
  let c := s.core core
  match Tbl.find c.lease key with
  | none => (false, s)
  | some at_ => (decide (s.cyc core - at_ ≤ 256), s.setCore core { c with lease := Tbl.del c.lease key })
/-- A requester may ask for leave in a cycle: it has no request outstanding (R453), and what the latest grant to a complex or an engine let
begin, an operation or the bytes of a copy, has taken its time (log 88). -/
def Die.mayAsk (d : Die) (cls who now : Nat) : Bool :=
  !d.leaves.any (fun x => x.cls == cls && x.who == who) && (cls == 2 || decide (Tbl.get d.gaps (cls * 65536 + who) 0 ≤ now))
/-- A request for leave, one at most outstanding for each requester (R453). curb: a `curb` asks. -/
def State.askLeave (s : State) (die cls who id : Nat) (curb : Bool := false) : State :=
  s.updDie die (fun d =>
    if d.mayAsk cls who (s.cyc (20 * die)) then
      { d with leaves := d.leaves ++ [{ cls := cls, who := who, id := id, curb := curb, since := s.cyc (20 * die) }] }
    else d)

/-! Accesses by engines (R256, R257, R275). -/

/-- What an engine access meets: done, a status, a page it must wait for, or a wait of another kind. -/
inductive Eng (α : Type) where
  | ok (a : α) (s : State)
  | fail (status : BitVec 8) (s : State)
  | page (va : Nat) (rw : Rw) (s : State)
  | wait (s : State)
  deriving DecidableEq, Repr
/-- One engine step after another. -/
def Eng.bind {α β : Type} (e : Eng α) (k : α → State → Eng β) : Eng β :=
  match e with
  | .ok a s => k a s
  | .fail c s => .fail c s
  | .page va rw s => .page va rw s
  | .wait s => .wait s

/-- PROTECT, SCRATCHBOUNDS, DATAERR, PAGEFAULT, BADSHAPE, BOUNDS, TAGFAIL, REPLAY, SEALFAILED (R272). -/
def stProtect : BitVec 8 := 1
@[inherit_doc stProtect] def stScratch : BitVec 8 := 2
@[inherit_doc stProtect] def stData : BitVec 8 := 3
@[inherit_doc stProtect] def stPage : BitVec 8 := 4
@[inherit_doc stProtect] def stShape : BitVec 8 := 5
@[inherit_doc stProtect] def stBounds : BitVec 8 := 6
@[inherit_doc stProtect] def stTag : BitVec 8 := 7
@[inherit_doc stProtect] def stReplay : BitVec 8 := 8
@[inherit_doc stProtect] def stSealed : BitVec 8 := 9

/-- The port of n bytes for an engine of a core acting for a team (R256, R257), through its walk-ahead TLB. Side-log entries on the page go
first (R326). -/
def State.engPort (s : State) (core key va n : Nat) (rw : Rw) : Eng Nat :=
  let l := (s.launch? (key / 2 ^ 32)).getD {}
  let r := if inAperture va then (scratchLoc ((s.team? key).getD {}) (va - aperture) n, s)
    else if inTeamWin va then (s.windowLoc (key / 2 ^ 32) va n ((s.team? key).getD {}).moving, s)
    else s.translate core l va rw true true
  match r.1 with
  | .port pa => if !inAperture va && !inTeamWin va && r.2.sidePage core l.asid va pa then .wait r.2 else .ok pa r.2
  | .flt c => .fail (if c = .scratchbounds then stScratch else stProtect) r.2
  | .missing => .page va rw r.2
  | .moving => .wait r.2
  | .hold => .wait r.2
/-- One byte read by an engine at its port, along the task's chain (R257, R275). -/
def State.engRead1 (s : State) (core key va : Nat) : Eng Byte :=
  (s.engPort core key va 1 .rd).bind fun pa s =>
    if s.portBusy pa 1 false then .wait s
    else match regionOf pa with
      | .dram =>
        let l := (s.launch? (key / 2 ^ 32)).getD {}
        let ch := s.chainOf ((s.team? key).getD {}) l
        if s.bad pa 1 && (s.chainByte? ch pa).isNone then .fail stData (s.logError pa core)
        else
          let s := s.llcTouch (pa / 64)
          let s := if l.pred && l.live then s.updLaunch (key / 2 ^ 32)
              (fun l => { l with reads := if l.reads.contains (pa / 64) then l.reads else pa / 64 :: l.reads }) else s
          .ok (s.chainByte ch pa) s
      | _ => if s.bad pa 1 then .fail stData (s.logError pa core) else .ok (s.portByte pa) s
/-- Bytes read by an engine. -/
def State.engRead (s : State) (core key va : Nat) : Nat → Eng (List Byte)
  | 0 => .ok [] s
  | n + 1 => (s.engRead1 core key (va % 2 ^ 64)).bind fun b s =>
      (State.engRead s core key (va + 1) n).bind fun r s => .ok (b :: r) s
/-- One byte written by an engine at its port, versioned as its issuer's stores are (R275). -/
def State.engWrite1 (s : State) (core key va : Nat) (b : Byte) : Eng Unit :=
  (s.engPort core key va 1 .wr).bind fun pa s =>
    if s.portBusy pa 1 true then .wait s
    else match regionOf pa with
      | .dram => match s.writeFor none none key va pa [b] false with
        | .ok _ s => .ok () s
        | .flt _ s => .fail stData s
        | .hold s => .wait s
      | _ => if s.portDown pa then .fail stData (s.logError pa core)
        else .ok () ((s.portPut pa [b]).note { pa := pa, len := 1, launch := key / 2 ^ 32, committed := true })
/-- Every byte of a range can be written now. -/
def State.engRoom (s : State) (core key va : Nat) : Nat → Eng Unit
  | 0 => .ok () s
  | n + 1 => (s.engPort core key (va % 2 ^ 64) 1 .wr).bind fun pa s =>
      if s.portBusy pa 1 true then .wait s else State.engRoom s core key (va + 1) n
/-- Bytes written, each already found writable. -/
def State.engPut (s : State) (core key va : Nat) : List Byte → Eng Unit
  | [] => .ok () s
  | b :: r => (s.engWrite1 core key (va % 2 ^ 64) b).bind fun _ s => State.engPut s core key (va + 1) r
/-- Bytes written by an engine: all of them, or none until all can be; a lock word that they leave at zero is granted (R249). -/
def State.engWrite (s : State) (core key va : Nat) (bs : List Byte) : Eng Unit :=
  (s.engRoom core key va bs.length).bind fun _ s => (s.engPut core key va bs).bind fun _ s => .ok () s.grantAll
/-- The page request of an engine that stalls (R256, R324); none for a team window that is being moved (R22). -/
def State.engAsk (s : State) (core key va : Nat) (rw : Rw) : State :=
  if inTeamWin va then s else s.requestPage core 0 ((s.launch? (key / 2 ^ 32)).getD {}) va rw true
/-- A page hold of a team's command has ended: it is tried again (R436). -/
def State.pageOver (s : State) (core key : Nat) (since : Option Nat) : State :=
  match since with
  | some t => s.monitor core ((s.launch? (key / 2 ^ 32)).getD {}).part 8 (s.stc - t)
  | none => s

/-! Shape records (R259-R264). -/

/-- SIZEd, STRIDEd, TILEd of a record (R259). -/
def shSize (w : BitVec 512) (d : Nat) : Nat := fld w (96 + 24 * d) 24
@[inherit_doc shSize] def shStride (w : BitVec 512) (d : Nat) : Int := (BitVec.ofNat 32 (fld w (216 + 32 * d) 32)).toInt
@[inherit_doc shSize] def shTile (w : BitVec 512) (d : Nat) : Nat := fld w (376 + 12 * d) 12
/-- The element type of a record. -/
def shTy (w : BitVec 512) : Ty := Ty.ofCode (fld w 64 4)
/-- CONV, OOBPAD, STORE. -/
def shConv (w : BitVec 512) : Bool := bit w.toNat 80
@[inherit_doc shConv] def shPad (w : BitVec 512) : Bool := bit w.toNat 81
@[inherit_doc shConv] def shStore (w : BitVec 512) : Bool := bit w.toNat 82
/-- Bytes of an element, one for a pair of q4x8 codes (R260). -/
def tyElem : Ty → Nat
  | .i32 | .n32 | .f32 => 4
  | .f16 | .bf16 | .f16x2 | .bf16x2 | .i16x2 | .n16x2 => 2
  | .i8x4 | .n8x4 | .e4m3x4 | .e5m2x4 | .q4x8 => 1
  | .i64 | .n64 => 8
/-- A coordinate of a tile command (R262). -/
def coord (a b : W64) (d : Nat) : Int :=
  match d with
  | 0 => (BitVec.ofNat 32 (fld a 0 32)).toInt
  | 1 => (BitVec.ofNat 32 (fld a 32 32)).toInt
  | d => (BitVec.ofNat 16 (fld b (16 * (d - 2)) 16)).toInt
/-- Units of the far end: elements, or pairs of q4x8 codes (R264). -/
def shUnits (w : BitVec 512) (t : Ty) : Nat :=
  if shConv w then shTile w 0 * shTile w 1
  else (if t = .q4x8 then shTile w 0 / 2 else shTile w 0) * shTile w 1 * shTile w 2 * shTile w 3 * shTile w 4
/-- The faults of a record (R261). store: the command heeds STORE (R268, R290). -/
def badShape (w : BitVec 512) (a b : W64) (store : Bool) : Bool :=
  let k := fld w 436 24
  let ks := (List.range 6).map (fun i => fld w (436 + 4 * i) 4)
  let t := shTy w
  decide (fld w 0 64 % 64 ≠ 0) || fld w 68 12 != 0 || fld w 83 13 != 0 || fld w 460 4 != 0 || fld w 496 16 != 0
  || (List.range 5).any (fun d => shSize w d == 0 || shTile w d == 0)
  || decide (2 ^ 24 < shUnits w t * tyElem t)
  || (if shConv w then ks.any (· == 0) || shTile w 3 != 1 || shTile w 4 != 1 || shSize w 4 != 1 || (store && shStore w) || t == .q4x8
      else k != 0)
  || (t == .q4x8 && (shSize w 0 % 2 == 1 || shTile w 0 % 2 == 1 || coord a b 0 % 2 != 0))
/-- The coordinates leave the region where they may not (R262, R263). -/
def outOfBounds (w : BitVec 512) (a b : W64) : Bool :=
  if shConv w then decide (coord a b 0 < 0) || decide (coord a b 1 < 0)
  else !shPad w && (List.range 5).any (fun d => decide (coord a b d < 0) || decide ((shSize w d : Int) < coord a b d + shTile w d))
/-- The region address of unit e of the far end; none where it is OUT (R262-R264). -/
def regionAddr (w : BitVec 512) (a b : W64) (e : Nat) : Option Nat :=
  let base : Int := fld w 0 64
  if shConv w then
    let i := e / shTile w 0
    let j := e % shTile w 0
    let J := (coord a b 0).toNat + j
    let ch := J % shSize w 0
    let q := J / shSize w 0
    let kx := q % fld w 436 4
    let ky := q / fld w 436 4
    let P := (coord a b 1).toNat + i
    let x : Int := coord a b 2 + P % shTile w 2 * fld w 444 4 + kx * fld w 452 4
    let y : Int := coord a b 3 + P / shTile w 2 * fld w 448 4 + ky * fld w 456 4
    let z := coord a b 4
    if fld w 440 4 ≤ ky || x < 0 || (shSize w 1 : Int) ≤ x || y < 0 || (shSize w 2 : Int) ≤ y || z < 0 || (shSize w 3 : Int) ≤ z then none
    else some ((base + ch * shStride w 0 + x * shStride w 1 + y * shStride w 2 + z * shStride w 3) % 2 ^ 64).toNat
  else
    let pair := shTy w == .q4x8
    let n0 := if pair then shTile w 0 / 2 else shTile w 0
    let t : Nat → Nat := fun d => match d with
      | 0 => (if pair then 2 else 1) * (e % n0)
      | 1 => e / n0 % shTile w 1
      | 2 => e / (n0 * shTile w 1) % shTile w 2
      | 3 => e / (n0 * shTile w 1 * shTile w 2) % shTile w 3
      | _ => e / (n0 * shTile w 1 * shTile w 2 * shTile w 3)
    let x : Nat → Int := fun d => coord a b d + t d
    if (List.range 5).any (fun d => decide (x d < 0) || decide ((shSize w d : Int) ≤ x d)) then none
    else some ((base + (if pair then x 0 / 2 else x 0) * shStride w 0 + x 1 * shStride w 1 + x 2 * shStride w 2
      + x 3 * shStride w 3 + x 4 * shStride w 4) % 2 ^ 64).toNat
/-- The bytes of a padding unit (R259, R260). -/
def padBytes (w : BitVec 512) : List Byte :=
  let p := fld w 464 32
  match shTy w with
  | .q4x8 => [BitVec.ofNat 8 (p % 16 * 17)]
  | .i64 => toBytes 8 (sextNat p 32 % 2 ^ 64).toNat
  | t => toBytes (tyElem t) p
/-- The bytes of a shape record as its 512 bits. -/
def shapeOf (bs : List Byte) : BitVec 512 := BitVec.ofNat 512 (ofBytes bs)

end Sys2Proof.Machine
end

