-- ==== Sys2Proof/Machine/Placement.lean ====
section
/-! DEFINITION. Where groups and teams find room on a core (spec/05 R111, R133): contexts, register rows, scratch and Casket
slots. -/

namespace Sys2Proof.Machine

/-- A choice that is not architectural among candidates (R111, log 14): the only one, or one that Config picks. -/
def State.pick {α : Type} (s : State) (xs : List α) : Option α × State :=
  match xs with
  | [] => (none, s)
  | [x] => (some x, s)
  | x :: r =>
    let k := s.useFresh
    ((x :: r)[Config.placeChoice k.1 % (r.length + 1)]?, k.2)

/-- A used range of a core's storage: first byte (or slot) and length. -/
abbrev Span := Nat × Nat
/-- Nothing used overlaps a range. -/
def freeSpan (used : List Span) (a n : Nat) : Bool := used.all (fun u => n == 0 || u.2 == 0 || !overlaps a n u.1 u.2)
/-- The positions, multiples of an alignment, at which n fits in a capacity. -/
def positions (cap align n : Nat) (used : List Span) : List Nat :=
  if cap < n then [] else ((List.range ((cap - n) / align + 1)).map (· * align)).filter (fun a => freeSpan used a n)

/-- Bytes of register rows of a group (R111, R178). -/
def rowBytes (vregs lanew : Nat) : Nat := 4 * lanew * vregs
/-- Register rows in use on a core. -/
def State.rowsUsed (s : State) (core : Nat) : List Span := (s.groupsOn core).map (fun e => (e.2.rb, rowBytes e.2.vregs e.2.lanew))
/-- A team holds the core. -/
def Team.holds (t : Team) (core : Nat) : Bool := !t.away && (t.core == core || (t.tandem && t.core + 1 == core))
/-- Scratch in use on a core: team ranges and group reserves (R111, R206). -/
def State.scratchUsed (s : State) (core : Nat) : List Span :=
  ((s.teams.filter (fun e => e.2.holds core)).map (fun e => (if e.2.core = core then e.2.sb0 else e.2.sb1, e.2.scratch)))
  ++ (s.groupsOn core).map (fun e => (e.2.reserve, 4096))
/-- Casket slots in use on a core (R277). -/
def State.slotsUsed (s : State) (core : Nat) : List Span :=
  (s.teams.filter (fun e => e.2.holds core)).map (fun e => (if e.2.core = core then e.2.f0 else e.2.f1, e.2.tiles))
/-- Register file bytes of a core (R9, R111). -/
def rowCap : Nat := 0x180000
/-- Scratch bytes of a core. -/
def scratchCap : Nat := 0x400000
/-- Casket slots of a core. -/
def slotCap : Nat := 96

/-- The context of the next group on a core whose contexts `used` are taken (R111): the quarter with the fewest, the lowest of
equals, and its lowest free context. -/
def nextCtx (used : List Nat) : Option Nat :=
  let count := fun q => (used.filter (fun c => c / 32 == q)).length
  let best := (List.range 4).foldl (fun (b : Nat) q => if count q < count b then q else b) 0
  ((List.range 32).map (· + 32 * best)).find? (fun c => !used.contains c)
/-- Contexts in use on a core. -/
def State.ctxUsed (s : State) (core : Nat) : List Nat := (s.groupsOn core).map (fun e => ctxOf e.1)
/-- A group as it starts (R126, R133, R162): registers zero, FMT and class at their start values. -/
def newGroup (gidx launch team lanew vregs rb reserve cycles : Nat) (pc : W64) (regs : Tbl W64) : Group :=
  { gidx := gidx, launch := launch, team := team, lanew := lanew, vregs := vregs, rb := rb, reserve := reserve, s := regs, spc := pc,
    live := lanesMask lanew, lastS := cycles, lastL := cycles }
/-- Lanes of a width code (R60). -/
def widthLanes (code : Nat) : Nat := if code = 0 then 16 else if code = 1 then 32 else 64

/-! The room a team needs (R111), and the places that give it. -/

/-- What a team needs: for each group, in order, whether it goes to the leader (0) or the wheeler (1). -/
structure Need where
  tandem : Bool := false
  halves : List Nat := []
  vregs : Nat := 8
  lanew : Nat := 32
  scratch : Nat := 0
  tiles : Nat := 0
  deriving DecidableEq, Repr
/-- Groups of a need on a half. -/
def Need.count (n : Need) (half : Nat) : Nat := (n.halves.filter (· == half)).length
/-- Bytes of rows of one group. -/
def Need.rows (n : Need) : Nat := rowBytes n.vregs n.lanew
/-- n blocks of a size laid at the lowest free positions; none where they do not fit. -/
def packLow (cap align size : Nat) (used : List Span) : Nat → Option (List Nat)
  | 0 => some []
  | k + 1 => match (positions cap align size used).head? with
    | none => none
    | some a => (packLow cap align size ((a, size) :: used) k).map (a :: ·)
/-- b ranges of scratch and r reserves of groups fit beside what is used. -/
def scratchFits (n : Need) (used : List Span) (b r : Nat) : Bool :=
  match packLow scratchCap 4096 n.scratch used b with
  | none => false
  | some as => (packLow scratchCap 4096 4096 (as.map (fun a => (a, n.scratch)) ++ used) r).isSome
/-- The groups, rows, scratch and slots of one half of each of m teams fit on a core together (R111, R113). -/
def State.halfFits (s : State) (n : Need) (m half core : Nat) : Bool :=
  let k := m * n.count half
  decide ((s.ctxUsed core).length + k ≤ 128)
  && (packLow rowCap (32 * n.lanew) n.rows (s.rowsUsed core) k).isSome
  && scratchFits n (s.scratchUsed core) m k
  && (packLow slotCap 1 n.tiles (s.slotsUsed core) m).isSome
/-- m teams fit together on a core, or on the tandem of a leader. -/
def State.fitsMany (s : State) (n : Need) (m core : Nat) : Bool :=
  s.halfFits n m 0 core && (!n.tandem || s.halfFits n m 1 (core + 1))
/-- A team fits on a core, or on the tandem of a leader. -/
def State.fits (s : State) (n : Need) (core : Nat) : Bool := s.fitsMany n 1 core
/-- The most teams, of up to a number, that fit together on a core or tandem. -/
def State.capacity (s : State) (n : Need) (core : Nat) : Nat → Nat
  | 0 => 0
  | m + 1 => if s.fitsMany n (m + 1) core then m + 1 else State.capacity s n core m
/-- The contexts that groups take one after another (R111). -/
def takeCtxs (core : Nat) (u0 u1 : List Nat) : List Nat → List Nat
  | [] => []
  | h :: r =>
    match nextCtx (if h = 0 then u0 else u1) with
    | none => []
    | some c => c :: takeCtxs core (if h = 0 then c :: u0 else u0) (if h = 0 then u1 else c :: u1) r
/-- k blocks picked one after another, each so that what is still to come fits: ok asks it of the blocks left and the ranges used. -/
def State.pickBlocks (s : State) (cap align size : Nat) (ok : Nat → List Span → Bool) (used : List Span) : Nat → List Nat × State
  | 0 => ([], s)
  | k + 1 =>
    let x := s.pick ((positions cap align size used).filter (fun a => ok k ((a, size) :: used)))
    match x.1 with
    | none => ([], x.2)
    | some a =>
      let r := x.2.pickBlocks cap align size ok ((a, size) :: used) k
      (a :: r.1, r.2)
/-- A range picked so that what is still to come fits; a range of nothing lies at 0. -/
def State.pickSpan (s : State) (cap align size : Nat) (ok : List Span → Bool) (used : List Span) : Nat × State :=
  if size = 0 then (0, s)
  else
    let x := s.pick ((positions cap align size used).filter (fun a => ok ((a, size) :: used)))
    (x.1.getD 0, x.2)
/-- Rows, scratch, reserves and slots of one half. -/
structure HalfPlace where
  rbs : List Nat := []
  sb : Nat := 0
  reserves : List Nat := []
  f : Nat := 0
  deriving DecidableEq, Repr
/-- A place for one half of a team on a core where it fits, with `more` teams of the same need that are to follow it there (R113). -/
def State.halfPlace (s : State) (n : Need) (more half core : Nat) : HalfPlace × State :=
  let k := n.count half
  let su := s.scratchUsed core
  let r := s.pickBlocks rowCap (32 * n.lanew) n.rows (fun i u => (packLow rowCap (32 * n.lanew) n.rows u (i + more * k)).isSome)
    (s.rowsUsed core) k
  let b := r.2.pickSpan scratchCap 4096 n.scratch (fun u => scratchFits n u more (k + more * k)) su
  let v := b.2.pickBlocks scratchCap 4096 4096 (fun i u => scratchFits n u more (i + more * k)) ((b.1, n.scratch) :: su) k
  let f := v.2.pickSpan slotCap 1 n.tiles (fun u => (packLow slotCap 1 n.tiles u more).isSome) (s.slotsUsed core)
  ({ rbs := r.1, sb := b.1, reserves := v.1, f := f.1 }, f.2)
/-- Two lists dealt out again by half. -/
def dealOut (a b : List Nat) : List Nat → List Nat
  | [] => []
  | h :: r => if h = 0 then a.headD 0 :: dealOut a.tail b r else b.headD 0 :: dealOut a b.tail r
/-- A place for a team on a core (or leader) where it fits, with `more` teams that are to follow it there. -/
def State.teamPlace (s : State) (n : Need) (more core : Nat) : Place × State :=
  let a := s.halfPlace n more 0 core
  let b := if n.tandem then a.2.halfPlace n more 1 (core + 1) else ({}, a.2)
  ({ core := core, sb0 := a.1.sb, sb1 := b.1.sb, f0 := a.1.f, f1 := b.1.f,
     ctxs := takeCtxs core (s.ctxUsed core) (s.ctxUsed (core + 1)) n.halves,
     rbs := dealOut a.1.rbs b.1.rbs n.halves, reserves := dealOut a.1.reserves b.1.reserves n.halves }, b.2)
/-- Blocks fit where they are put, one beside another. -/
def blocksOk (cap align size : Nat) (used : List Span) : List Nat → Bool
  | [] => true
  | a :: r => a % align == 0 && decide (a + size ≤ cap) && freeSpan used a size && blocksOk cap align size ((a, size) :: used) r
/-- The entries of a list that belong to a half. -/
def ofHalf (half : Nat) (hs xs : List Nat) : List Nat := ((hs.zip xs).filter (fun e => e.1 == half)).map (·.2)
/-- One half of a given place is sound. -/
def State.halfOk (s : State) (n : Need) (half core sb f : Nat) (p : Place) : Bool :=
  blocksOk rowCap (32 * n.lanew) n.rows (s.rowsUsed core) (ofHalf half n.halves p.rbs)
  && blocksOk scratchCap 4096 n.scratch (s.scratchUsed core) [sb]
  && blocksOk scratchCap 4096 4096 ((sb, n.scratch) :: s.scratchUsed core) (ofHalf half n.halves p.reserves)
  && blocksOk slotCap 1 n.tiles (s.slotsUsed core) [f]
/-- A given place is one at which every reservation of R111 can be met. -/
def State.placeOk (s : State) (n : Need) (p : Place) : Bool :=
  p.ctxs == takeCtxs p.core (s.ctxUsed p.core) (s.ctxUsed (p.core + 1)) n.halves && p.ctxs.length == n.halves.length
  && p.rbs.length == n.halves.length && p.reserves.length == n.halves.length
  && s.halfOk n 0 p.core p.sb0 p.f0 p && (!n.tandem || s.halfOk n 1 (p.core + 1) p.sb1 p.f1 p)

end Sys2Proof.Machine
end

