-- ==== Sys2Proof/Machine/GroupCtl.lean ====
section
/-! DEFINITION. Creating and retiring groups, trace markers and device-side launches (spec/05 R133-R137, spec/20 R380-R381). -/

namespace Sys2Proof.Machine

/-- The lowest spawned index that no live group of a team holds (R109, R133); none when all 32 are alive. -/
def State.spawnIndex (s : State) (key : Nat) : Option Nat :=
  (List.range 32).find? (fun j => !(s.groupsOf key).any (fun e => e.2.gidx == 32 + j))
/-- The registers that a spawned group starts with: s8..s15 of its creator (R133). -/
def Group.spawnRegs (g : Group) : Tbl W64 :=
  (List.range 8).foldl (fun t i => Tbl.set t (8 + i) (g.reg (BitVec.ofNat 5 (8 + i))) 0) []
/-- A group created by `spawn` at a context, rows and reserve found (R133). -/
def State.spawnAt (s : State) (core ctx j rb reserve : Nat) (g : Group) (pc : W64) : State :=
  let t := s.teamOf g
  let n := { (newGroup (32 + j) g.launch g.team g.lanew g.vregs rb reserve (s.cyc core) pc g.spawnRegs) with from_ := s.cycles + 1, spawnIdx := t.spawned }
  let s := (s.setGroup (128 * core + ctx) n).setTeam g.key { t with spawned := t.spawned + 1 }
  { s with mem := Memory.clear s.mem (onchip core reserve) 4096 }
/-- `spawn` (R133): a group on the caller's own core, or status 1 (no group or context) or 2 (no rows or reserve). -/
def execSpawn (d a : Reg) (s : State) : Res :=
  scalar s fun gid g => settled s g <|
    let core := coreOf gid
    let status := fun (n : W64) => (.next (s.done gid (fun g => g.setReg d n)) : Res)
    match s.spawnIndex g.key, nextCtx (s.ctxUsed core) with
    | some j, some ctx =>
      let rows := positions rowCap (32 * g.lanew) (rowBytes g.vregs g.lanew) (s.rowsUsed core)
      let res := positions scratchCap 4096 4096 (s.scratchUsed core)
      if rows.isEmpty || res.isEmpty then status 2
      else (s.releaseWait gid g .team).intoS gid g 0 fun _ s =>
        let x := s.pick rows
        let y := x.2.pick res
        let s := y.2.spawnAt core ctx j (x.1.getD 0) (y.1.getD 0) g (g.reg a)
        .next (s.done gid (fun g => g.setReg d 0))
    | _, _ => status 1

/-- Objects on which groups of a team are blocked in `wait`. -/
def State.waitedObjs (s : State) (key : Nat) : List Nat :=
  ((s.groupsOf key).filterMap (fun e => match e.2.blocked with
    | some b => if b.kind = 0 then some b.obj.toNat else none
    | none => none)).eraseDups
/-- The objects of a team tested again after one of its parties has gone (R226). -/
def State.retest (s : State) (key : Nat) : State :=
  (s.waitedObjs key).foldl (fun s va => match s.objAt key va with
    | some o => s.orphanTest o
    | none => s) s
/-- A group retired (R134, R283): its context, rows and reserve are freed and the handles it owns become free; stores accepted from it are
performed later (R236, R367). -/
def State.retire (s : State) (gid : Nat) (g : Group) : State :=
  let s := ((s.leaveWaits gid).leaveLate gid).delGroup gid
  let s := s.updTeam g.key (fun t => { t with
    handles := t.handles.filter (fun h => h.2.owner != g.gidx), retired := t.retired ++ [(g.gidx, gid)] })
  s.retest g.key
/-- `exit` (R134): it waits for the lane queue to empty and, for the quarters the group has posted, to be taken (R306); a group that a charge
has reached stops before it (R429). -/
def execExit (s : State) : Res :=
  scalar s fun gid g => settled s g <|
    if !g.laneIdle || g.pendCharge.isSome || (s.teamOf g).tags.any (fun q => g.issued q.iss) then s.stallS
    else .next (s.retire gid g)
/-- `mark` (R137, R433): a marker of its register and n. -/
def execMark (a : Reg) (n : BitVec 10) (s : State) : Res :=
  scalar s fun gid g =>
    .next ((s.packet gid g 3 (toBytes 2 n.toNat ++ toBytes 2 0 ++ toBytes 8 (g.reg a).toNat)).done gid id)

/-- Checks of the four lines of a command (R176): the first that does not pass. -/
def State.checkLines (s : State) (gid : Nat) (g : Group) (va : Nat) : Nat → (Chk × Nat) × State
  | 0 => ((.pass, va), s)
  | k + 1 => match s.check gid g 0 va 64 .rd with
    | (.pass, s) => State.checkLines s gid g ((va + 64) % 2 ^ 64) k
    | (c, s) => ((c, va), s)
/-- The lines of a command read at their ports. -/
def State.readLines (s : State) (gid : Nat) (g : Group) (va : Nat) : Nat → Rc (List Byte)
  | 0 => .ok [] s
  | k + 1 => match s.load gid g 0 va 64 .bypass with
    | .ok bs s => match State.readLines s gid g ((va + 64) % 2 ^ 64) k with
      | .ok r s => .ok (bs ++ r) s
      | .flt c s => .flt c s
      | .hold s => .hold s
    | .flt c s => .flt c s
    | .hold s => .hold s
/-- Child launches of a partition that have not completed (R381). -/
def State.childCount (s : State) (part : Nat) : Nat :=
  (s.launches.filter (fun e => e.2.part == part && e.2.parent != 0)).length
  + s.queues.foldl (fun n q => if fld q.2.rcd 8 4 = part then n + q.2.kids.length else n) 0
/-- A child launch handed to its queue (R381). -/
def State.addKid (s : State) (q : Nat) (gid : Nat) (g : Group) (bs : List Byte) (d : Reg) : State :=
  let call := (s.teamOf g).calls
  let k : Kid := { cmd := BitVec.ofNat 2048 (ofBytes bs), parent := g.launch, team := g.team, call := call.toNat }
  let s := s.updQueue q (fun x => { x with kids := x.kids ++ [k] })
  let s := s.updLaunch g.launch (fun l => { l with children := l.children + 1 })
  let s := s.updTeam g.key (fun t => { t with calls := t.calls + 1 })
  s.done gid (fun g => g.setReg d 0)
/-- `dlaunch` (R381). Its command is read before the release that it begins with takes effect, so that a fault of the read leaves nothing
of the instruction (R8); the group reads the same bytes after it. -/
def execDlaunch (d a b : Reg) (s : State) : Res :=
  scalar s fun gid g => settled s g <|
    let l := s.launchOf g
    let ea := g.reg a
    let q := if b = 0 then l.q else (g.reg b).toNat % 2 ^ 14
    let status := fun (n : W64) => (.next (s.done gid (fun g => g.setReg d n)) : Res)
    let Q := s.queue q
    if ea.toNat % 64 ≠ 0 then s.trapS gid g .align ea
    else if (b != 0 && fld (g.reg b) 14 50 != 0) || fld Q.rcd 0 1 != 1 || fld Q.rcd 8 4 != l.part then status 2
    else if 1024 ≤ s.childCount l.part then status 1
    else (s.releaseWait gid g .dev).intoS gid g ea fun _ s =>
      match s.checkLines gid g ea.toNat 4 with
      | ((.flt c, va), s) => (if c = .watch then s.gwCount gid g va 64 .rd else s).trapS gid g c (BitVec.ofNat 64 va)
      | ((.missing, va), s) =>
        if g.refusedTo 0 va then s.trapS gid g .pageload (BitVec.ofNat 64 va) else (s.holdOnPage gid g 0 va .rd).stallS
      | ((.moving, _), s) => s.stallS
      | ((.hold, _), s) => s.stallS
      | ((.pass, _), s) => (s.readLines gid g ea.toNat 4).intoS gid g ea fun bs s => .next ((s.publishAt g .dev).addKid q gid g bs d)

end Sys2Proof.Machine
end

