-- ==== Sys2Proof/Machine/Outrider.lean ====
section
/-! DEFINITION. The Outrider (spec/20 R385-R396): training, rules, comparison with host commands, refutation and
confirmation; and what a launch leaves behind when it is torn down. -/

namespace Sys2Proof.Machine

/-! Values and rules (R385, R392). -/

/-- The 17 slot values of a command: ARG0..ARG15 and TAG. -/
def Cmd.vals (c : Cmd) : List W64 := (List.range 16).map (fun i => nth c.args i 0) ++ [c.tag]
/-- The rule of slot j over three commands, oldest first; none where no rule holds (R385). -/
def slotRule (a b c : List W64) (j : Nat) : Option GaitSlot :=
  let v1 := nth a j 0
  let v2 := nth b j 0
  let v3 := nth c j 0
  if v1 = v2 && v2 = v3 then some { rule := 0, last := v3 }
  else if v2 - v1 = v3 - v2 then some { rule := 1, val := v3 - v2, last := v3 }
  else if v1 = v3 then some { rule := 2, val := v2, last := v3 }
  else ((List.range 17).find? (fun k => k != j && v2 == nth a k 0 && v3 == nth b k 0)).map
    (fun k => { rule := 3, src := k, last := v3 })
/-- The next value of a slot. -/
def slotNext (slots : List GaitSlot) (x : GaitSlot) : W64 :=
  match x.rule with
  | 0 => x.last
  | 1 => x.last + x.val
  | 2 => x.val
  | _ => (nth slots x.src {}).last
/-- All 17 slots, a missing one being zero. -/
def Gait.all (g : Gait) : List GaitSlot := (List.range 17).map (fun i => nth g.slots i {})
/-- The values that the gait gives the next launch. -/
def Gait.next (g : Gait) : List W64 := g.all.map (slotNext g.all)
/-- The slots once a launch has taken values (R392 LAST, VAL). -/
def Gait.took (g : Gait) (vs : List W64) : Gait :=
  { g with slots := (List.range 17).map (fun i =>
      let x := nth g.slots i {}
      { x with val := (if x.rule = 2 then x.last else x.val), last := nth vs i 0 }) }
/-- The effective limit (R385). -/
def effLimit (queueAhead descAhead : Nat) : Nat := min queueAhead (if descAhead = 15 then 8 else descAhead)
/-- AHEAD of a queue. -/
def Queue.ahead (q : Queue) : Nat := fld q.rcd 4 4
/-- The gait formed from a full window, if every condition holds (R385). -/
def Gait.form (g : Gait) (ahead : Nat) : Gait :=
  match g.window with
  | [a, b, c] =>
    let same := fun (x : Cmd) => x.kernel == c.kernel && x.gridx == c.gridx && x.gridy == c.gridy && x.gridz == c.gridz
      && x.irq == c.irq && x.tgroups == c.tgroups && x.twidth == c.twidth
    let rules := (List.range 17).map (slotRule a.vals b.vals c.vals)
    if g.st = 0 && effLimit ahead c.ahead != 0 && same a && same b && rules.all Option.isSome then
      { g with st := 1, hostset := false, seen := 3, kernel := c.kernel, gridx := c.gridx, gridy := c.gridy, gridz := c.gridz,
               tgroups := c.tgroups, twidth := c.twidth, girq := c.irq, descAhead := c.ahead,
               slots := rules.filterMap id }
    else g
  | _ => g
/-- A command enters the training window, which keeps the last three; one with a dependence empties it (R385). -/
def Gait.enter (g : Gait) (c : Cmd) (deps : Bool) : Gait :=
  { g with window := if deps then [] else (g.window ++ [c]).drop ((g.window.length + 1) - 3) }
/-- A valid dependence (R372). -/
def Cmd.hasDeps (c : Cmd) : Bool := c.deps.any (fun d => bit d.toNat 63)
/-- Two commands agree field by field, and there is no dependence (R388). -/
def Cmd.same (p c : Cmd) : Bool :=
  p.kernel == c.kernel && p.seq == c.seq && p.gridx == c.gridx && p.gridy == c.gridy && p.gridz == c.gridz && p.irq == c.irq
  && p.vals == c.vals && !c.hasDeps
/-- The command that the gait gives a sequence number (R386). -/
def Gait.predict (g : Gait) (seq : W32) : Cmd :=
  let v := g.next
  { kernel := g.kernel, seq := seq, gridx := g.gridx, gridy := g.gridy, gridz := g.gridz, irq := g.girq,
    tag := nth v 16 0, args := v.take 16 }
/-- A launch's fields as a command. -/
def Launch.cmd (l : Launch) : Cmd :=
  { kernel := l.kernel, seq := l.seq, gridx := l.gridx, gridy := l.gridy, gridz := l.gridz, irq := l.irq, tag := l.tag, args := l.args,
    deps := l.deps }

/-! Tearing a launch down. -/

/-- The complex released by a team that is gone (R310). -/
def State.dropComplex (s : State) (key : Nat) : State :=
  { s with complexes := s.complexes.map (fun (e : Nat × Complex) =>
      let w := e.2.waiters.filter (fun x => x.1 != key)
      if e.2.owner = some key then
        match w with
        | [] => (e.1, {})
        | (k, rel) :: r => (e.1, { owner := some k, waiters := r, releasing := rel })
      else (e.1, { e.2 with waiters := w })) }
/-- Every trace of a launch's teams removed at once (R389): groups, teams, commands, side-log entries, leaves and children. -/
def State.killTeams (s : State) (id : Nat) : State :=
  let mine := fun (key : Nat) => key / 2 ^ 32 == id
  let s := (s.groups.filter (fun e => e.2.launch == id)).foldl (fun s e => ((s.leaveWaits e.1).discTags e.1).delGroup e.1) s
  let s := { s with cores := s.cores.map (fun (c : Nat × Core) => (c.1, { c.2 with
      copyQ := c.2.copyQ.filter (fun x => !mine x.iss.key), sideLog := c.2.sideLog.filter (fun x => !mine x.iss.key),
      late := c.2.late.filter (fun x => x.launch != id) })) }
  let keys := (s.teams.filter (fun e => mine e.1)).map (·.1)
  let s := keys.foldl (fun s k => ({ s with teams := Tbl.del s.teams k, landWait := s.landWait.filter (fun h => h.key != k) }).dropComplex k) s
  let s := { s with parts := s.parts.map (fun (p : Nat × Partition) => (p.1, { p.2 with saved := p.2.saved.filter (fun x => !mine x.key) })) }
  let s := (s.versions.filter (fun e => e.2.launch == id)).foldl (fun s e => s.discard e.1) s
  { s with queues := s.queues.map (fun (q : Nat × Queue) => (q.1, { q.2 with kids := q.2.kids.filter (fun k => k.parent != id) })) }

/-! Refutation (R389, R396). -/

/-- Live predictions of a queue, by rising sequence number from LASTACC + 1. -/
def State.livePreds (s : State) (q : Nat) : List (Nat × Launch) :=
  let base := (s.queue q).lastacc
  (s.launches.filter (fun e => e.2.q == q && e.2.pred && e.2.live)).mergeSort
    (fun a b => decide ((a.2.seq - base).toNat ≤ (b.2.seq - base).toNat))
/-- Live predictions of the package (R386). -/
def State.liveCount (s : State) : Nat := (s.launches.filter (fun e => e.2.pred && e.2.live)).length
/-- MISMATCH and READ refutations among the last 16 accepted commands (R389, R392 REFUTES). -/
def Gait.refutes (g : Gait) : Nat := g.hist.foldl (· + ·) 0
/-- A refutation counted against the latest accepted command; the second among 16 suspends a gait that is not pinned (R389). -/
def Gait.count (g : Gait) : Gait :=
  let g := { g with hist := match g.hist with
    | [] => [1]
    | n :: r => (n + 1) :: r }
  if 2 ≤ g.refutes && !g.pin then { g with st := 2, susp := 256 } else g
/-- A prediction and every later one of its queue refuted, with their causes (R389, R396). -/
def State.refute (s : State) (id cause : Nat) : State :=
  match s.launch? id with
  | none => s
  | some l =>
    if !(l.pred && l.live) then s
    else
      let gone := (s.livePreds l.q).filter (fun e => decide ((e.2.seq - l.seq).toNat < 2 ^ 31))
      let s := gone.reverse.foldl (fun s e => { (s.killTeams e.1) with launches := Tbl.del (s.killTeams e.1).launches e.1 }) s
      s.updQueue l.q (fun q =>
        let g := { q.gait with slots := l.slots0, nextseq := l.seq, lastcause := cause }
        { q with gait := if cause = 1 || cause = 2 then g.count else g, readRef := q.readRef || cause = 2 })
/-- Refutations marked during a step carried out, lowest LAUNCHID first (R389). -/
def State.refuteMarked (s : State) : State :=
  (s.launches.filter (fun e => e.2.refute != 0)).foldl (fun s e => s.refute e.1 e.2.refute) s

/-! The hallmark log cursor and the HALLMARK record (R347, R348). -/

/-- HLOGCUR advanced by one, wrapping at the ring size (R347). -/
def Queue.nextLog (q : Queue) : Queue := { q with hlogcur := (q.hlogcur + 1) % 2 ^ fld q.rcd 320 5 }
/-- The HALLMARK record (R348, R405). -/
def State.hallmarkRecord (s : State) (id : Nat) (l : Launch) (h : W64) : State :=
  s.recordEvent l.part { cause := .hallmark, launch := BitVec.ofNat 32 id, team := 0xFFFFFFFF, addr := h,
                         stc := BitVec.ofNat 64 s.stc } false

/-! Confirmation (R388, R395). -/

/-- A prediction confirmed: its version publishes into its parent, and what it held back may go on. -/
def State.confirm (s : State) (id : Nat) : State :=
  match s.launch? id with
  | none => s
  | some l =>
    let s := match l.pversion with
      | some v => s.publish v
      | none => s
    let s := s.updLaunch id (fun l => { l with live := false, tacc := BitVec.ofNat 64 s.stc, pversion := none, reads := [],
                                                 order := s.nextOrder })
    let s := { s with nextOrder := s.nextOrder + 1 }
    let s := if l.hread then s.updQueue l.q Queue.nextLog else s
    match l.hbad with
    | some h => s.hallmarkRecord id l h
    | none => s

/-! What an accepted host command does to its queue's gait (R385, R388). -/

/-- The gait retrained with a command as the only entry of its window, unless it is pinned (R388, R392). -/
def Gait.retrain (g : Gait) (c : Cmd) : Gait :=
  if g.pin then (g.took c.vals).enter c c.hasDeps
  else ({ g with st := (if g.st = 1 then 0 else g.st), window := [] }).enter c c.hasDeps
/-- One more accepted command (R389): the record of refutations shifts, and a suspended gait counts down. -/
def Gait.tick (g : Gait) (seq : W32) : Gait :=
  let g := { g with hist := (0 :: g.hist).take 16, halted := if g.halted = some seq then none else g.halted }
  if g.st = 2 then (if g.susp ≤ 1 then { g with susp := 0, st := 0 } else { g with susp := g.susp - 1 }) else g
/-- A confirmation or a match counted, saturating (R392 SEEN). -/
def Gait.saw (g : Gait) : Gait := { g with seen := min 15 (g.seen + 1) }
/-- The gait after a command without a live prediction (R385, R388). -/
def Gait.train (g : Gait) (c : Cmd) (ahead : Nat) : Gait :=
  if g.st = 1 then
    if (g.predict c.seq).same c then ((g.took c.vals).saw).enter c c.hasDeps else g.retrain c
  else (g.enter c c.hasDeps).form ahead
/-- An accepted host command meets its queue's gait: the prediction it confirms, if it does (R385, R388). -/
def State.meetGait (s : State) (q : Nat) (c : Cmd) (refused : Bool) : Option Nat × State :=
  let s := s.updQueue q (fun x => { x with gait := x.gait.tick c.seq })
  match (s.livePreds q).find? (fun e => e.2.seq == c.seq) with
  | some (id, l) =>
    if l.cmd.same c then
      if refused then
        let s := s.refute id 9
        (none, s.updQueue q (fun x => { x with gait := { ((x.gait.took c.vals).enter c c.hasDeps) with nextseq := c.seq + 1 } }))
      else (some id, s.updQueue q (fun x => { x with gait := x.gait.saw.enter c c.hasDeps }))
    else
      let s := s.refute id 1
      (none, s.updQueue q (fun x => { x with gait := { (x.gait.retrain c) with nextseq := c.seq + 1 } }))
  | none =>
    (none, s.updQueue q (fun x => { x with gait := { (x.gait.train c x.ahead) with nextseq := c.seq + 1 } }))

/-! The gait record as the host reads and writes it (R392, R393). -/

/-- A slot entry's 192 bits. -/
def GaitSlot.word (x : GaitSlot) : Nat := x.rule + x.src * 2 ^ 8 + x.val.toNat * 2 ^ 64 + x.last.toNat * 2 ^ 128
/-- The gait record's 4096 bits (R392). -/
def State.gaitWord (s : State) (q : Nat) : Nat :=
  let Q := s.queue q
  let g := Q.gait
  q + g.st * 2 ^ 16 + g.pin.toNat * 2 ^ 18 + g.hostset.toNat * 2 ^ 19 + effLimit Q.ahead g.descAhead * 2 ^ 20 + g.seen * 2 ^ 24 + g.nextseq.toNat * 2 ^ 32
  + g.kernel.toNat * 2 ^ 64 + g.gridx.toNat * 2 ^ 128 + g.gridy.toNat * 2 ^ 160 + g.gridz.toNat * 2 ^ 192 + g.tgroups * 2 ^ 224
  + g.twidth * 2 ^ 230 + g.girq.toNat * 2 ^ 232 + min 255 g.refutes * 2 ^ 240 + g.lastcause * 2 ^ 248
  + (s.livePreds q).length * 2 ^ 256
  + ((List.range 17).foldl (fun n i => n + (nth g.slots i {}).word * 2 ^ (512 + 192 * i)) 0)
/-- A slot entry read back; none where it is invalid (R392). -/
def slotOf (i w : Nat) : Option GaitSlot :=
  let rule := bits w 0 3
  let src := bits w 8 5
  let val := BitVec.ofNat 64 (bits w 64 64)
  let bad := decide (3 < rule) || bits w 3 5 != 0 || bits w 13 51 != 0
    || (if rule = 3 then decide (16 < src) || src == i else src != 0) || ((rule = 0 || rule = 3) && val != 0)
  if bad then none else some { rule := rule, src := src, val := val, last := BitVec.ofNat 64 (bits w 128 64) }
/-- A gait record taken whole (R393); none where a field is invalid or a reserved bit is set. -/
def Gait.write (g : Gait) (w : BitVec 4096) (lastacc : W32) : Option Gait :=
  let n := w.toNat
  let slots := (List.range 17).map (fun i => slotOf i (bits n (512 + 192 * i) 192))
  let st := bits n 16 2
  if st = 3 || bits n 14 2 != 0 || bits n 28 4 != 0 || bits n 224 6 = 0 || 32 < bits n 224 6 || bits n 230 2 = 3 || bits n 233 7 != 0
      || bits n 264 248 != 0 || bits n 3776 320 != 0 || slots.any Option.isNone then none
  else some { g with
    st := st, pin := bit n 18, hostset := true, seen := 0, descAhead := 0, nextseq := lastacc + 1, kernel := BitVec.ofNat 64 (bits n 64 64),
    gridx := BitVec.ofNat 32 (bits n 128 32), gridy := BitVec.ofNat 32 (bits n 160 32), gridz := BitVec.ofNat 32 (bits n 192 32),
    tgroups := bits n 224 6, twidth := bits n 230 2, girq := bit n 232, slots := slots.filterMap id,
    susp := (if st = 2 then 256 else 0), halted := none, hostHold := false }

end Sys2Proof.Machine
end

