-- ==== Sys2Proof/Machine/Queue.lean ====
section
/-! DEFINITION. Queues (spec/20 R368-R381): the queue record, doorbells, cancels, acceptance and completion of launches, and
the start of predictions (R386). -/

namespace Sys2Proof.Machine

/-! Who may write (R439, R440). -/

/-- The boot has ended: before, BAR0 serves only BOOTSTAT, and BAR2 and BAR4 nothing (R450). -/
def State.served (s : State) : Bool := s.boot.stage == 6
/-- The requester is PF0, once the boot has ended. -/
def State.mayPf (s : State) (r : Requester) : Bool := s.served && r.vf.isNone
/-- The requester reaches partition p's control block for the fields a VF may write. -/
def State.mayPart (s : State) (r : Requester) (p : Nat) : Bool :=
  s.served && decide (p < 16) && (match r.vf with
    | none => true
    | some v => v == p)
/-- PART of a queue. -/
def Queue.part (q : Queue) : Nat := fld q.rcd 8 4
/-- EN of a queue. -/
def Queue.en (q : Queue) : Bool := bit q.rcd.toNat 0
/-- SERIAL. -/
def Queue.serial (q : Queue) : Bool := bit q.rcd.toNat 1
/-- PRIO. -/
def Queue.prio (q : Queue) : Nat := fld q.rcd 2 2
/-- The requester reaches a queue's page. -/
def State.mayQueue (s : State) (r : Requester) (q : Nat) : Bool := decide (q < 16384) && s.mayPart r (s.queue q).part
/-- Some queue of a partition is enabled (R382, R408). -/
def State.partEnabled (s : State) (p : Nat) : Bool := s.queues.any (fun q => q.2.en && q.2.part == p)

/-! Reads past the caches (R369). -/

/-- The address of a ring or log: package physical, or a host bus address, which is host memory (R368, R369). -/
def rawAddr (dev : Bool) (addr : Nat) : Nat := if dev then addr else 2 ^ 64 + addr
/-- Bytes as the G9 reads a ring or log: device memory at DRAM, everything else at its port; none where it cannot. -/
def State.rawRead (s : State) (dev : Bool) (addr n : Nat) : Option (List Byte) :=
  let pa := rawAddr dev addr
  match regionOf pa, regionOf (pa + n - 1) with
  | .none, _ => none
  | _, .none => none
  | .dram, _ => if s.bad pa n then none else some (Memory.readList s.mem pa n)
  | _, _ => if s.bad pa n then none else some (s.portRead pa n)
/-- A record written to a ring or log of a partition, through to DRAM in device memory (R369). -/
def State.rawWrite (s : State) (part : Nat) (dev : Bool) (addr n v : Nat) : State :=
  match regionOf (rawAddr dev addr) with
  | .none => s
  | _ => s.record part (rawAddr dev addr) n v

/-! Completion (R376, R378). -/

/-- LASTDONE and the list of later completed numbers, once one more number has completed (R371). -/
def advanceDone (last : W32) (done : List W32) : Nat → W32 × List W32
  | 0 => (last, done)
  | k + 1 => if done.contains (last + 1) then advanceDone (last + 1) (done.filter (· != last + 1)) k else (last, done)
/-- A host command completed with a status: its completion record (R378), LASTDONE and the interrupt. -/
def State.complete (s : State) (q : Nat) (c : Cmd) (id : Nat) (l : Launch) (status : BitVec 8) (hallmark : W64) : State :=
  let Q := s.queue q
  let now := BitVec.ofNat 64 s.stc
  let w := c.seq.toNat + status.toNat * 2 ^ 32 + l.pred.toNat * 2 ^ 40 + l.detonly.toNat * 2 ^ 41 + l.childErr.toNat * 2 ^ 48
    + id * 2 ^ 64 + l.trapped.toNat * 2 ^ 96 + l.tacc.toNat * 2 ^ 128 + (l.tstart.getD l.tacc).toNat * 2 ^ 192 + now.toNat * 2 ^ 256
    + hallmark.toNat * 2 ^ 320 + l.hexpect.toNat * 2 ^ 384 + c.tag.toNat * 2 ^ 448
  let s := s.rawWrite Q.part (bit Q.rcd.toNat 13) (fld Q.rcd 192 64 + 64 * (c.seq.toNat % 2 ^ fld Q.rcd 24 5)) 64 w
  s.updQueue q (fun x =>
    let d := advanceDone x.lastdone (x.done ++ [c.seq]) (x.done.length + 1)
    let old := x.failed.filter (· != c.seq)
    let bad := if status = 0 then old else old ++ [c.seq]
    { x with lastdone := d.1, done := d.2, failed := bad, irqs := x.irqs + c.irq.toNat })
/-- A child launch completed (R381): its parent counts it. -/
def State.childDone (s : State) (parent : Nat) (failed : Bool) : State :=
  s.updLaunch parent (fun l =>
    let e := if failed && l.childErr != 0xFFFF then l.childErr + 1 else l.childErr
    { l with children := l.children - 1, childErr := e })
/-- a is after b (R373). -/
def seqAfter (a b : W32) : Bool := decide (1 ≤ (a - b).toNat) && decide ((a - b).toNat < 2 ^ 31)
/-- A queue with no host launch left is IDLE, once it has no command to fetch (R370, R371); one that has stopped stays so while it is
enabled, and keeps its STOPCAUSE when it is disabled, until EN is set again (log 85). -/
def State.idleQueue (s : State) (q : Nat) : State :=
  let Q := s.queue q
  if (Q.en && (Q.st = 2 || seqAfter Q.doorbell Q.lastacc))
      || s.launches.any (fun e => e.2.q == q && e.2.parent == 0 && !(e.2.pred && e.2.live)) then s
  else s.setQueue q { Q with st := 0 }

/-! Enabling and disabling (R370). -/

/-- A record that may be enabled (R368, R370). -/
def validRecord (w : BitVec 1024) : Bool :=
  let log := fun (at_ lo hi : Nat) => decide (lo ≤ fld w at_ 5) && decide (fld w at_ 5 ≤ hi)
  let al := fun (at_ : Nat) => fld w at_ 12 == 0
  decide (fld w 4 4 ≤ 8) && log 16 4 16 && log 24 4 16 && al 64 && al 128 && al 192 && al 256
  && (fld w 256 64 == 0 || log 320 4 20) && decide (16 ≤ fld w 336 11) && decide (fld w 336 11 ≤ 1024)
  && decide (1 ≤ fld w 352 11) && decide (fld w 352 11 ≤ 1024)
/-- The partition has a save area (R370, R408). -/
def Partition.hasSave (p : Partition) : Bool := fld p.trap 0 64 != 0 && decide (0xA00000 ≤ fld p.trap 64 64)
/-- QUEUE_ENABLE (R370). -/
def execQueueEnable (by_ : Requester) (q : Nat) (s : State) : Res :=
  let Q := s.queue q
  if !s.mayQueue by_ q || Q.en then .next s
  else
    let Q := { Q with rcd := setFld Q.rcd 0 1 1 }
    if validRecord Q.rcd && (s.part Q.part).hasSave then
      .next (s.setQueue q { Q with lastacc := 0, lastdone := 0, doorbell := 0, hlogcur := 0, st := 0, cause := 0, done := [], failed := [],
                                   gait := {}, wait := none, refused := [] })
    else .next (s.setQueue q { Q with st := 2, cause := 3 })
/-- A queue disabled: fetching stops, and live predictions are refuted with CANCEL (R370). -/
def State.disable (s : State) (q : Nat) : State :=
  if !(s.queue q).en then s
  else
    let s := match s.livePreds q with
      | (id, _) :: _ => s.refute id 7
      | [] => s
    (s.updQueue q (fun x => { x with rcd := setFld x.rcd 0 1 0, wait := none, refused := [] })).idleQueue q
/-- QUEUE_DISABLE (R370). -/
def execQueueDisable (by_ : Requester) (q : Nat) (s : State) : Res := .next (if s.mayQueue by_ q then s.disable q else s)
/-- DOORBELL (R373): a value not after LASTACC is ignored; one that is restarts a queue stopped with BADSEQ or RINGERR. -/
def execDoorbell (by_ : Requester) (q : Nat) (val : W32) (s : State) : Res :=
  let Q := s.queue q
  if !s.mayQueue by_ q || !Q.en || !seqAfter val Q.lastacc || (Q.st = 2 && Q.cause = 3) then .next s
  else .next (s.setQueue q { Q with doorbell := val, st := 1, cause := 0 })

/-! Cancelling (R377). -/

/-- A status other than OK that arises is kept if it is the first (R379). -/
def Launch.fail (l : Launch) (status : BitVec 8) : Launch := if l.status = 0 then { l with status := status } else l
/-- Every task of a launch that still runs ends without resuming. -/
def State.endTasks (s : State) (ok : Nat → Bool) : State :=
  (s.teams.filter (fun e => ok e.1 && !e.2.dying)).foldl (fun s e => s.endTask e.1) s
/-- A launch cancelled: its running tasks end and it admits no team (R377). -/
def State.cancelLaunch (s : State) (id : Nat) : State :=
  (s.updLaunch id (fun l => { (l.fail 8) with stopAdmit := true })).endTasks (fun k => k / 2 ^ 32 == id)
/-- CANCEL (R377). -/
def execCancel (by_ : Requester) (q : Nat) (val : W32) (s : State) : Res :=
  if !s.mayQueue by_ q then .next s
  else match s.launches.find? (fun e => e.2.q == q && e.2.seq == val && e.2.parent == 0 && !(e.2.pred && e.2.live)) with
    | some (id, _) => .next (s.cancelLaunch id)
    | none => .next s

/-! Descriptors (R60, R61, R112). -/

/-- A kernel descriptor's fields; none where it has a fault (R61). SDATA that is no multiple of 64 is not taken as one (log 64). -/
def descOf (kernel : Nat) (w : BitVec 512) : Option Desc :=
  let cls := fld w 195 2
  let dm := fld w 197 2
  let ahead := fld w 216 4
  let gp := fld w 256 16
  let gf := fld w 272 16
  let bad := kernel % 64 != 0 || fld w 0 6 != 0 || fld w 64 6 != 0 || fld w 160 32 == 0 || fld w 192 2 == 3 || cls == 3 || dm == 3
    || (cls != 2 && dm != 0) || fld w 199 1 != 0 || fld w 205 3 != 0 || fld w 213 3 != 0 || fld w 220 4 != 0 || fld w 235 5 != 0
    || fld w 247 9 != 0 || fld w 288 32 != 0 || fld w 416 96 != 0
    || decide (fld w 208 5 < 1) || decide (30 < fld w 208 5) || (decide (9 ≤ ahead) && decide (ahead ≤ 14))
    || decide (1024 < fld w 224 11) || decide (96 < fld w 240 7) || decide (fld w 224 11 * 4096 < fld w 384 32)
    || (gp != 0xFFFF && decide (gp < gf))
  if bad then none
  else some
    { scode := BitVec.ofNat 64 (fld w 0 64), lcode := BitVec.ofNat 64 (fld w 64 64), lsize := fld w 128 32, ssize := fld w 160 32,
      width := fld w 192 2, tandem := bit w.toNat 194, cls := cls, dmode := dm, groups := fld w 200 5, vregs := fld w 208 5, ahead := ahead,
      scratch := fld w 224 11, tiles := fld w 240 7, gangp := gp, gangf := gf, sdata := BitVec.ofNat 64 (fld w 320 64), sdsize := fld w 384 32 }
/-- Declared groups of a kernel on the leader (or only) core, and on the wheeler (R111). -/
def Desc.split (d : Desc) : Nat × Nat :=
  let n := d.groups + 1
  if d.tandem then ((n + 1) / 2, n / 2) else (n, 0)
/-- Teams that fit at once on an empty core that takes n groups of each (R111). -/
def Desc.coreFits (d : Desc) (n : Nat) : Nat :=
  let rows := n * rowBytes (8 * d.vregs) (widthLanes d.width)
  let by_ := fun (cap need : Nat) => if need = 0 then 0x10000 else cap / need
  min (min (by_ 128 n) (by_ rowCap rows)) (min (by_ 1024 (d.scratch + n)) (by_ slotCap d.tiles))
/-- Teams that fit at once on an empty tandem (R112). -/
def Desc.tandemFits (d : Desc) : Nat :=
  if d.tandem then min (d.coreFits d.split.1) (d.coreFits d.split.2) else 2 * d.coreFits d.split.1
/-- Tandems of a partition, ascending. -/
def Partition.tandems (p : Partition) : List Nat := (List.range 80).filter (fun t => bit p.rcd.toNat t)
/-- NOFIT at acceptance (R112). -/
def noFit (d : Desc) (teamN tandems : Nat) : Bool :=
  let room := d.tandemFits * tandems
  d.tandemFits == 0
  || (if d.gangp = 0xFFFF then decide (room < teamN)
      else d.gangp != 0 && decide (room < d.gangp) && (d.gangf == 0 || decide (room < d.gangf)))

/-! Acceptance (R110, R373, R374, R381). -/

/-- LAUNCHIDs that may not be assigned (R110): live launches, and trap records not yet consumed. -/
def State.usedIds (s : State) : List Nat :=
  s.launches.map (·.1)
  ++ s.cores.flatMap (fun c =>
      (List.range (c.2.stqHead - c.2.stqTail).toNat).map (fun i =>
        ofBytes (s.portRead (c.2.stqBase.toNat + 64 * ((c.2.stqTail.toNat + i) % 256) + 8) 4))
      ++ c.2.stqWait.map (·.launch.toNat))
  ++ s.parts.flatMap (fun p =>
      let head := BitVec.ofNat 32 (fld p.2.trap 256 32)
      let tail := BitVec.ofNat 32 (fld p.2.trap 288 32)
      (List.range (head - tail).toNat).map (fun i =>
        ofBytes (s.portRead (fld p.2.trap 128 64 + 64 * ((tail.toNat + i) % 2 ^ fld p.2.trap 192 5) + 8) 4))
      ++ (p.2.hwait ++ p.2.nwait).map (·.launch.toNat))
/-- The next LAUNCHID after 2^32 - 1 is 1 (R110). -/
def nextId (n : Nat) : Nat := if 0xFFFFFFFF ≤ n then 1 else n + 1
/-- The first number at or after n that is not used. -/
def freeId (used : List Nat) (n : Nat) : Nat → Nat
  | 0 => n
  | k + 1 => if used.contains n then freeId used (nextId n) k else n
/-- A LAUNCHID taken (R110). -/
def State.takeId (s : State) : Nat × State :=
  let used := s.usedIds
  let id := freeId used s.nextLaunch (used.length + 1)
  (id, { s with nextLaunch := nextId id })
/-- A launch command's fields (R372). -/
def cmdOf (w : BitVec 2048) (child : Bool) : Cmd :=
  let deps := (List.range 4).map (fun i => BitVec.ofNat 64 (fld w (1536 + 64 * i) 64))
  { kernel := BitVec.ofNat 64 (fld w 0 64), seq := BitVec.ofNat 32 (fld w 64 32), gridx := BitVec.ofNat 32 (fld w 96 32),
    gridy := BitVec.ofNat 32 (fld w 128 32), gridz := BitVec.ofNat 32 (fld w 160 32), irq := bit w.toNat 192,
    tag := BitVec.ofNat 64 (fld w 256 64), args := (List.range 16).map (fun i => BitVec.ofNat 64 (fld w (512 + 64 * i) 64)),
    deps := if child then [] else deps,
    rsvd := fld w 193 63 != 0 || fld w 320 192 != 0 || fld w 1792 256 != 0 || (!child && deps.any (fun d => fld d 46 16 != 0)) }
/-- Teams of a command. -/
def Cmd.teamN (c : Cmd) : Nat := c.gridx.toNat * c.gridy.toNat * c.gridz.toNat
/-- A dependence that may not be accepted (R374). -/
def State.badDep (s : State) (q : Nat) (seq : W32) (d : W64) : Bool :=
  let dq := fld d 32 14
  let ds := BitVec.ofNat 32 (fld d 0 32)
  bit d.toNat 63 && (!(s.queue dq).en || (dq == q && !seqAfter seq ds))
/-- A launch as a command describes it (R375). -/
def newLaunch (q part : Nat) (c : Cmd) (d : Desc) (asid : BitVec 16) (root : W64) (tandems order : Nat) (now : W64) : Launch :=
  { q := q, seq := c.seq, part := part, kernel := c.kernel, desc := d, gridx := c.gridx, gridy := c.gridy, gridz := c.gridz, irq := c.irq,
    tag := c.tag, args := c.args, deps := c.deps, asid := asid, root := root, tacc := now, order := order,
    coresAtAcc := if d.tandem then tandems else 2 * tandems }
/-- What the reading of a descriptor gives: the descriptor (none where it has a fault) and its bits, a status, a page to wait for, or a
wait. -/
inductive DescRead where
  | ok (d : Option Desc) (w : BitVec 512)
  | fail (status : BitVec 8)
  | page (va : Nat)
  | wait
  deriving DecidableEq, Repr
/-- The status of a launch for a failed engine read (R379). -/
def readStatus (st : BitVec 8) : BitVec 8 := if st = stData then 0xC else if st = stPage then 0xA else 0xB
/-- A kernel descriptor read in a launch's context (R60, R61); the launch stands at number 0 for the reading. -/
def State.readDesc (s : State) (l : Launch) : DescRead × State :=
  let core := ((s.part l.part).lowCore).getD 0
  match (s.setLaunch 0 l).engRead core 0 l.kernel.toNat 64 with
  | .ok bs s => (.ok (descOf l.kernel.toNat (shapeOf bs)) (shapeOf bs), { s with launches := Tbl.del s.launches 0 })
  | .fail st s => (.fail (readStatus st), { s with launches := Tbl.del s.launches 0 })
  | .page va _ s => (.page va, { s with launches := Tbl.del s.launches 0 })
  | .wait s => (.wait, { s with launches := Tbl.del s.launches 0 })
/-- The status with which a command is refused; 0 when it is accepted (R374). Where several hold, the order here is the model's
choice (log 64). -/
def State.refusal (s : State) (q part : Nat) (c : Cmd) (r : DescRead) : BitVec 8 :=
  if c.rsvd || 2 ^ 32 - 1 < c.teamN then 3
  else if c.deps.any (s.badDep q c.seq) then 4
  else match r with
    | .ok none _ => 2
    | .fail st => st
    | .ok (some d) _ => if noFit d c.teamN (s.part part).tandems.length then 1 else 0
    | .page _ => 0
    | .wait => 0
/-- A launch version for a DETERMINISTIC launch (R343); the parent is its prediction version, or committed memory. -/
def State.launchVersion (s : State) (id : Nat) (l : Launch) : State :=
  if l.desc.cls = 2 then
    let v := Tbl.gap 0 s.versions
    ({ s with versions := Tbl.put s.versions v { kind := .launch, owner := id, parent := l.pversion } }).updLaunch id
      (fun l => { l with version := some v })
  else s
/-- A version ID is free if the launch needs one; where none is, acceptance waits, which R343 leaves open (log 65). -/
def State.idFree (s : State) (d : Option Desc) : Bool :=
  match d with
  | some d => d.cls != 2 || decide (Tbl.gap 0 s.versions < 4096)
  | none => true
/-- An accepted launch enters the machine. -/
def State.enter (s : State) (l : Launch) : State :=
  let r := s.takeId
  ({ r.2 with nextOrder := r.2.nextOrder + 1 }.setLaunch r.1 l).launchVersion r.1 l
/-- Training data of a command (R385): the team shape and AHEAD of its descriptor; of one that cannot be read the spec says nothing, and the
model takes GROUPS and WIDTH 0 and AHEAD 15, as the command holds them (log 84). -/
def Cmd.shape (c : Cmd) (r : DescRead) : Cmd :=
  match r with
  | .ok _ w => { c with tgroups := fld w 200 5 + 1, twidth := fld w 192 2, ahead := fld w 216 4 }
  | _ => c
/-- A host command whose descriptor has been read is accepted or refused, and LASTACC advances (R373, R374, R385, R388). -/
def State.acceptHost (s : State) (q : Nat) (c : Cmd) (l : Launch) (r : DescRead) : State :=
  let status := s.refusal q l.part c r
  let s := s.updQueue q (fun x => { x with lastacc := c.seq, wait := none, refused := [] })
  let m := s.meetGait q (c.shape r) (status != 0)
  match m.1 with
  | some id => m.2.confirm id
  | none =>
    if status = 0 then match r with
      | .ok (some d) _ => m.2.enter { l with desc := d, coresAtAcc := (if d.tandem then l.coresAtAcc / 2 else l.coresAtAcc) }
      | _ => m.2
    else (m.2.complete q c 0 l status 0).idleQueue q
/-- A child accepted or refused (R381). -/
def State.acceptChild (s : State) (q : Nat) (k : Kid) (c : Cmd) (l : Launch) (r : DescRead) : State :=
  let status := s.refusal q l.part c r
  let s := s.updQueue q (fun x => { x with kids := x.kids.erase k, wait := none, refused := [] })
  if status = 0 then match r with
    | .ok (some d) _ => s.enter { l with desc := d, coresAtAcc := (if d.tandem then l.coresAtAcc / 2 else l.coresAtAcc) }
    | _ => s
  else s.childDone k.parent true
/-- A queue stopped (R373). -/
def State.stopQueue (s : State) (q cause : Nat) : State := s.updQueue q (fun x => { x with st := 2, cause := cause })
/-- Acceptance waits for a page of the descriptor, or fails on a refused one (R325); it also waits for a version ID (log 65). -/
def State.withDesc (s : State) (q : Nat) (l : Launch) (k : DescRead → State → State) : State :=
  let r := s.readDesc l
  match r.1 with
  | .page va =>
    if (s.queue q).refused.contains (pageOf va) then k (.fail 0xA) r.2
    else
      let core := ((s.part l.part).lowCore).getD 0
      (r.2.requestPage core 0 l va .rd true).updQueue q (fun x => { x with wait := some (pageOf va) })
  | .wait => r.2
  | .ok d w => if s.idFree d then k (.ok d w) r.2 else s
  | .fail st => k (.fail st) r.2
/-- A child precedes another of one parent: by (TEAMIDX, CALLIDX) (R381). -/
def Kid.before (x y : Kid) : Bool := x.parent == y.parent && decide (x.team * 2 ^ 32 + x.call < y.team * 2 ^ 32 + y.call)
/-- Children that no queue has accepted yet. -/
def State.allKids (s : State) : List Kid := s.queues.flatMap (fun q => q.2.kids)
/-- The children that may be accepted now (R381): a prediction's wait for confirmation, a DETERMINISTIC parent's until every
team of it has ended, then in ascending (TEAMIDX, CALLIDX), whichever queues they were handed to. -/
def State.readyKid (s : State) (q : Nat) : Option Kid :=
  let ok := fun (k : Kid) =>
    let l := (s.launch? k.parent).getD {}
    !(l.pred && l.live) && (l.desc.cls != 2 || (!s.teams.any (fun e => e.1 / 2 ^ 32 == k.parent)
      && !s.parts.any (fun p => p.2.saved.any (fun x => x.key / 2 ^ 32 == k.parent)) && (decide (l.gridx.toNat * l.gridy.toNat * l.gridz.toNat ≤ l.nextTeam) || l.stopAdmit)
      && !s.allKids.any (fun y => y.before k)))
  (s.queue q).kids.find? ok
/-- LAUNCH_ACCEPT (R373, R374, R381): the next child, or the command of LASTACC + 1. A confirmation and a commit that conflicts with the
prediction come in this order within a cycle (R390): once a commit of the cycle has refuted predictions of the queue, the acceptance falls
in a later one. A confirmation waits while a page move keeps its publication waiting (R329). -/
def execLaunchAccept (q : Nat) (s : State) : Res :=
  let Q := s.queue q
  let n := Q.lastacc + 1
  let tandems := (s.part Q.part).tandems.length
  let now := BitVec.ofNat 64 s.stc
  if Q.wait.isSome || Q.readRef then .next s
  else match s.readyKid q with
    | some k =>
      let c := cmdOf k.cmd true
      let p := (s.launch? k.parent).getD {}
      let l := { (newLaunch q Q.part c {} p.asid p.root tandems s.nextOrder now) with
                 parent := k.parent, callidx := BitVec.ofNat 64 (k.call + k.team * 2 ^ 32) }
      .next (s.withDesc q l (fun r s => s.acceptChild q k c l r))
    | none =>
      if !Q.en || Q.st != 1 || !seqAfter Q.doorbell Q.lastacc
        || (s.livePreds q).any (fun e => e.2.seq == n && e.2.pversion.any s.pubHeld) then .next s
      else match s.rawRead (bit Q.rcd.toNat 12) (fld Q.rcd 128 64 + 256 * (n.toNat % 2 ^ fld Q.rcd 16 5)) 256 with
        | none => .next (s.stopQueue q 2)
        | some bs =>
          let c := cmdOf (BitVec.ofNat 2048 (ofBytes bs)) false
          if c.seq ≠ n then .next (s.stopQueue q 1)
          else
            let l := newLaunch q Q.part c {} (BitVec.ofNat 16 (fld Q.rcd 32 16)) (BitVec.ofNat 64 (fld Q.rcd 64 64)) tandems s.nextOrder now
            .next (s.withDesc q l (fun r s => s.acceptHost q c l r))

/-! Starting (R375, R386). -/

/-- Number n of a queue has completed (R375). -/
def Queue.completed (q : Queue) (n : W32) : Bool := decide ((q.lastdone - n).toNat < 2 ^ 31) || q.done.contains n
/-- Every team of a launch has been admitted, or none will be. -/
def Launch.admitted (l : Launch) : Bool := decide (l.gridx.toNat * l.gridy.toNat * l.gridz.toNat ≤ l.nextTeam) || l.stopAdmit
/-- The launch of number n has let the next one of its queue go on: ended in a SERIAL queue, all admitted in an OVERLAP queue
(R375, R386). -/
def State.lets (s : State) (q : Nat) (n : W32) : Bool :=
  let Q := s.queue q
  Q.completed n || (match s.launches.find? (fun e => e.2.q == q && e.2.seq == n && e.2.parent == 0) with
    | some (_, l) => if Q.serial then l.pred && l.live && l.st == .ended else l.st != .waiting && l.admitted
    | none => false)
/-- Every dependence is met (R375). -/
def State.depsMet (s : State) (l : Launch) : Bool :=
  l.deps.all (fun d => !bit d.toNat 63 || decide (((s.queue (fld d 32 14)).lastdone - BitVec.ofNat 32 (fld d 0 32)).toNat < 2 ^ 31))
/-- A STRICT dependence names a launch that failed (R375). -/
def State.depFailed (s : State) (l : Launch) : Bool :=
  l.deps.any (fun d => bit d.toNat 63 && bit d.toNat 62 && (s.queue (fld d 32 14)).failed.contains (BitVec.ofNat 32 (fld d 0 32)))
/-- A launch begins (R375, R377): a zero-team launch begins at once. -/
def State.begin (s : State) (id : Nat) (l : Launch) : State :=
  s.setLaunch id { l with st := .running,
                          tstart := (if l.gridx.toNat * l.gridy.toNat * l.gridz.toNat = 0 && l.status = 0 then some (BitVec.ofNat 64 s.stc) else l.tstart) }
/-- LAUNCH_START (R375). -/
def execLaunchStart (launch : Nat) (s : State) : Res :=
  .next (match s.launch? launch with
    | none => s
    | some l =>
      if l.st != .waiting then s
      else if l.parent != 0 then s.begin launch l
      else if s.depsMet l && s.lets l.q (l.seq - 1) then
        if s.depFailed l then s.begin launch { (l.fail 9) with stopAdmit := true } else s.begin launch l
      else s)
/-- The next prediction of a queue (R386): whether it starts, and the state. -/
def State.predictNext (s : State) (q : Nat) : Bool × State :=
  let Q := s.queue q
  let g := Q.gait
  let seq := g.nextseq
  let j := (seq - Q.lastacc).toNat
  if !Q.en || g.st != 1 || g.halted.isSome || g.hostHold || 64 ≤ s.liveCount || 4096 < s.versions.length + 64
      || !s.lets q (seq - 1) || Q.ahead < j then (false, s)
  else
    let c := g.predict seq
    let l := { (newLaunch q Q.part c {} (BitVec.ofNat 16 (fld Q.rcd 32 16)) (BitVec.ofNat 64 (fld Q.rcd 64 64))
        (s.part Q.part).tandems.length s.nextOrder 0) with pred := true, live := true, slots0 := g.all }
    let r := s.readDesc l
    let halt := (false, s.updQueue q (fun x => { x with gait := { g with halted := some seq } }))
    match r.1 with
    | .ok (some d) _ =>
      if noFit d c.teamN (s.part Q.part).tandems.length || 2 ^ 32 - 1 < c.teamN then halt
      else
        let s := r.2.updQueue q (fun x => { x with gait := { x.gait with descAhead := d.ahead } })
        if effLimit Q.ahead d.ahead < j then (false, s)
        else
          let before := (s.livePreds q).getLast?
          let v := Tbl.gap 0 s.versions
          let x := s.takeId
          let s := { x.2 with versions := Tbl.put x.2.versions v { kind := .pred, owner := x.1, parent := before.bind (fun e => e.2.pversion) },
                              nextOrder := x.2.nextOrder + 1 }
          let l := { l with desc := d, coresAtAcc := (if d.tandem then l.coresAtAcc / 2 else l.coresAtAcc), pversion := some v,
                            chainIds := match before with
                              | some e => e.2.chainIds ++ [e.1]
                              | none => [] }
          let s := (s.begin x.1 l).launchVersion x.1 l
          (true, s.updQueue q (fun x => { x with gait := { (x.gait.took c.vals) with nextseq := seq + 1 } }))
    | _ => halt
/-- PREDICTION_START (R386): between queues that qualify together, in ascending queue number. -/
def execPredictionStart (q : Nat) (s : State) : Res :=
  .next (if s.queues.any (fun e => decide (e.1 < q) && (s.predictNext e.1).1) then s else (s.predictNext q).2)
/-- GAIT_RECORD_WRITE (R393). -/
def execGaitRecordWrite (by_ : Requester) (q : Nat) (rec_ : BitVec 4096) (s : State) : Res :=
  if !s.mayQueue by_ q then .next s
  else match s.livePreds q with
    | (id, _) :: _ =>
      .next ((s.refute id 5).updQueue q (fun x => { x with gaiterr := true, gait := { x.gait with hostHold := true } }))
    | [] => match (s.queue q).gait.write rec_ (s.queue q).lastacc with
      | some g => .next (s.updQueue q (fun x => { x with gaiterr := false, gait := g }))
      | none => .next (s.updQueue q (fun x => { x with gaiterr := true }))
/-- A queue's status block (R371). -/
def Queue.statusWord (q : Queue) : Nat :=
  q.lastacc.toNat + q.lastdone.toNat * 2 ^ 32 + q.doorbell.toNat * 2 ^ 64 + q.st * 2 ^ 96 + q.cause * 2 ^ 104 + q.hlogcur * 2 ^ 128
  + q.gaiterr.toNat * 2 ^ 160

end Sys2Proof.Machine
end

