-- ==== Sys2Proof/Machine/Admit.lean ====
section
/-! DEFINITION. The distributor (spec/05 R111-R115, spec/20 R375): the admission of teams and gangs. -/

namespace Sys2Proof.Machine

/-- The number of teams of a launch (R372). -/
def Launch.teams (l : Launch) : Nat := l.gridx.toNat * l.gridy.toNat * l.gridz.toNat
/-- What a team of a kernel needs (R111): groups with odd GIDX of a tandem kernel go to the wheeler. -/
def Desc.need (d : Desc) : Need :=
  { tandem := d.tandem, halves := (List.range (d.groups + 1)).map (fun i => if d.tandem then i % 2 else 0), vregs := 8 * d.vregs,
    lanew := widthLanes d.width, scratch := d.scratch * 4096, tiles := d.tiles }
/-- The cores of a tandem that a kernel may take: both, or the leader for the whole tandem. -/
def unitsOf (tandem : Bool) (t : Nat) : List Nat := if tandem then [2 * t] else [2 * t, 2 * t + 1]
/-- Tandems of a partition that are not being vacated. -/
def Partition.open_ (p : Partition) : List Nat := p.tandems.filter (fun t => !p.vacate.contains t)
/-- The core to which a DETERMINISTIC launch binds a team (R115), folded onto what the partition holds now. -/
def State.boundCore (s : State) (l : Launch) (team : Nat) : Option Nat :=
  let us := (s.part l.part).open_.flatMap (unitsOf l.desc.tandem)
  let i := if l.rerun then 0 else team % max 1 l.coresAtAcc
  us[i % us.length]?
/-- The cores that may take a team (R111, R115). -/
def State.unitsFor (s : State) (l : Launch) (team : Nat) : List Nat :=
  if l.desc.cls = 2 then (s.boundCore l team).toList else (s.part l.part).open_.flatMap (unitsOf l.desc.tandem)

/-- The registers with which declared groups start (R162). -/
def Launch.startRegs (l : Launch) : Tbl W64 :=
  (List.range 16).foldl (fun t i => Tbl.set t (1 + i) (nth l.args i 0) 0) []
/-- Scratch of one core as a team finds it (R207, R44): zero but for the image. -/
def State.layScratch (s : State) (core sb size : Nat) (image : List Byte) : State :=
  { s with mem := Memory.writeList (Memory.clear s.mem (onchip core sb) size) (onchip core sb) image }
/-- Casket slots of one core as a team finds them: zero (R284). -/
def State.laySlots (s : State) (core f tiles : Nat) : State :=
  { s with mem := Memory.clear s.mem (onchip core (0x580000 + f * 0x4000)) (tiles * 0x4000) }
/-- A team admitted at a place: its reservations made, its scratch and slots laid, its declared groups started (R111, R162). A launch
begins when its first team is admitted (R238). -/
def State.startTeam (s : State) (id : Nat) (l : Launch) (team gangn : Nat) (p : Place) (image : List Byte) : State :=
  let n := l.desc.need
  let t : Team := { core := p.core, tandem := n.tandem, sb0 := p.sb0, sb1 := p.sb1, scratch := n.scratch, f0 := p.f0, f1 := p.f1,
                    tiles := n.tiles, started := true, gangn := gangn, gang0 := (if gangn = 1 then team else l.nextTeam), admit0 := s.nextOrder, logical := team % max 1 l.coresAtAcc }
  let s := ({ s with nextOrder := s.nextOrder + 1 }.setTeam (keyOf id team) t).layScratch p.core p.sb0 n.scratch image
  let s := s.laySlots p.core p.f0 n.tiles
  let s := if n.tandem then (s.layScratch (p.core + 1) p.sb1 n.scratch image).laySlots (p.core + 1) p.f1 n.tiles else s
  let s := (List.range n.halves.length).foldl (fun s i =>
    let core := p.core + nth n.halves i 0
    let g := newGroup i id team n.lanew n.vregs (nth p.rbs i 0) (nth p.reserves i 0) (s.cyc core) l.desc.scode l.startRegs
    let s := s.setGroup (128 * core + nth p.ctxs i 0) g
    { s with mem := Memory.clear s.mem (onchip core g.reserve) 4096 }) s
  s.updLaunch id (fun l =>
    let st := l.tstart.getD (BitVec.ofNat 64 s.stc)
    { l with nextTeam := team + 1, tstart := some st, startTick := if l.tstart.isNone then s.tick else l.startTick })
/-- A team admitted on a core where it fits, with `more` teams of the launch that are to follow it there. -/
def State.admitOn (s : State) (id : Nat) (l : Launch) (team gangn more : Nat) (image : List Byte) (core : Nat) : State :=
  let x := s.teamPlace l.desc.need more core
  x.2.startTeam id l team gangn x.1 image
/-- One team admitted on some core that takes it. -/
def State.admitOne (s : State) (id : Nat) (l : Launch) (image : List Byte) : Option State :=
  let x := s.pick ((s.unitsFor l l.nextTeam).filter (s.fits l.desc.need))
  x.1.map (fun core => x.2.admitOn id l l.nextTeam 1 0 image core)
/-- The teams of a gang admitted one after another, each on the core given for it. -/
def State.admitAll (s : State) (id : Nat) (l : Launch) (team gangn : Nat) (image : List Byte) : List Nat → State
  | [] => s
  | core :: r => State.admitAll (s.admitOn id l team gangn (r.filter (· == core)).length image core) id l (team + 1) gangn image r
/-- n teams dealt out to cores of given capacities, each to some core with room, so that in the end no tandem of the run is empty (R113,
log 14). -/
def State.deal (s : State) (caps : List (Nat × Nat)) (empty : List Nat) : Nat → List Nat × State
  | 0 => ([], s)
  | n + 1 =>
    let x := s.pick ((caps.filter (fun c => c.2 != 0 && (empty.contains (tandemOf c.1) || decide (empty.length ≤ n)))).map (·.1))
    match x.1 with
    | none => ([], x.2)
    | some c =>
      let r := x.2.deal (caps.map (fun y => if y.1 = c then (c, y.2 - 1) else y)) (empty.filter (· != tandemOf c)) n
      (c :: r.1, r.2)
/-- The contiguous runs of a list of tandems (R113). -/
def runsOf (ts : List Nat) : List (List Nat) :=
  (List.range ts.length).flatMap (fun i => (List.range (ts.length - i)).map (fun m => (ts.drop i).take (m + 1)))
/-- The capacities of the cores of a run, up to n teams each. -/
def State.runCaps (s : State) (d : Desc) (n : Nat) (run : List Nat) : List (Nat × Nat) :=
  (run.flatMap (unitsOf d.tandem)).map (fun c => (c, s.capacity d.need c (min n 128)))
/-- A gang of n teams can stand along a run, every tandem of it taking one at least (R113). -/
def State.runFits (s : State) (d : Desc) (n : Nat) (run : List Nat) : Bool :=
  let caps := s.runCaps d n run
  decide (run.length ≤ n) && decide (n ≤ caps.foldl (fun a c => a + c.2) 0)
  && run.all (fun t => caps.any (fun c => tandemOf c.1 == t && c.2 != 0))
/-- A gang of n teams admitted whole, or not (R113); in a DETERMINISTIC launch each team on the core to which it is bound (R115). -/
def State.admitGang (s : State) (id : Nat) (l : Launch) (image : List Byte) (n : Nat) : Option State :=
  if l.desc.cls = 2 then
    let cores := (List.range n).filterMap (fun i => s.boundCore l (l.nextTeam + i))
    if cores.length = n && cores.eraseDups.all (fun c => s.fitsMany l.desc.need (cores.filter (· == c)).length c) then
      some (s.admitAll id l l.nextTeam n image cores)
    else none
  else
    let p := s.part l.part
    let ts := if p.vacate.isEmpty then p.tandems else p.open_
    let x := s.pick ((runsOf ts).filter (s.runFits l.desc n))
    x.1.map (fun run =>
      let y := x.2.deal (s.runCaps l.desc n run) run n
      y.2.admitAll id l l.nextTeam n image y.1)
/-- The next team or gang of a launch admitted, if it can be now (R111, R113, R114, R348). -/
def State.admitNext (s : State) (id : Nat) (l : Launch) (image : List Byte) : Option State :=
  let d := l.desc
  let left := l.teams - l.nextTeam
  if l.rerun then
    if s.teams.any (fun e => e.1 / 2 ^ 32 == id) then none else s.admitOne id l image
  else if d.gangp = 0 then s.admitOne id l image
  else if d.gangp = 0xFFFF then s.admitGang id l image l.teams
  else (s.admitGang id l image (min d.gangp left)).orElse (fun _ =>
    if d.gangf = 0 then none else s.admitGang id l image (min d.gangf left))
/-- A launch has a team waiting for admission (R375). -/
def Launch.waiting (l : Launch) : Bool := l.st == .running && decide (l.nextTeam < l.teams) && !l.stopAdmit
/-- A prediction not yet confirmed. -/
def Launch.predicted (l : Launch) : Bool := l.pred && l.live
/-- Launch a comes before b in the distributor's order (R375): by PRIO, then by acceptance; predictions, which no command has
accepted yet, follow. -/
def State.ahead (s : State) (a b : Launch) : Bool :=
  let pa := (s.queue a.q).prio
  let pb := (s.queue b.q).prio
  decide (pb < pa) || (pa == pb && (if a.predicted = b.predicted then decide (a.order < b.order) else b.predicted))
/-- A launch that the host has submitted, and no prediction of one (R110, R386). -/
def Launch.byHost (l : Launch) : Bool := l.parent == 0 && !l.predicted
/-- A prediction that waits for host launches of its partition (R386). -/
def State.behindHost (s : State) (l : Launch) : Bool :=
  l.predicted && s.launches.any (fun e => e.2.part == l.part && e.2.waiting && e.2.byHost
    && decide ((s.queue l.q).prio ≤ (s.queue e.2.q).prio))
/-- A child of a DETERMINISTIC parent waits for the children of the parent that come before it (R381). -/
def State.behindChild (s : State) (l : Launch) : Bool :=
  l.parent != 0 && ((s.launch? l.parent).getD {}).desc.cls == 2
  && (s.launches.any (fun e => e.2.parent == l.parent && decide (e.2.callidx.toNat < l.callidx.toNat) && !e.2.admitted)
    || s.allKids.any (fun k => k.parent == l.parent && decide (k.team * 2 ^ 32 + k.call < l.callidx.toNat)))
/-- The distributor may admit a launch's next team now (R114, R375, R386, R414, R420, R430). -/
def State.mayAdmit (s : State) (id : Nat) (l : Launch) : Bool :=
  let p := s.part l.part
  let others := s.launches.filter (fun e => e.1 != id && e.2.part == l.part && e.2.waiting)
  l.waiting && l.wait.isNone && l.chargeHold.isEmpty && !p.ctxsaved && p.saved.isEmpty
  && others.all (fun e => !s.ahead e.2 l
      || s.behindHost e.2 || s.behindChild e.2 || (e.2.desc.gangp != 0xFFFF && (e.2.wait.isSome || !e.2.chargeHold.isEmpty || (s.admitNext e.1 e.2 []).isNone)))
  && !s.behindHost l && !s.behindChild l
/-- The youngest prediction of a partition with resident teams, refuted with ROOM for a host launch that cannot be admitted
(R386). -/
def State.makeRoom (s : State) (l : Launch) : State :=
  if !l.byHost then s
  else match ((s.launches.filter (fun e => e.2.part == l.part && e.2.pred && e.2.live
      && s.teams.any (fun t => t.1 / 2 ^ 32 == e.1))).mergeSort (fun a b => decide (a.2.order ≤ b.2.order))).getLast? with
    | some (id, _) => s.refute id 6
    | none => s
/-- The scratch image of a launch, read afresh (R111). -/
def State.readImage (s : State) (id : Nat) (l : Launch) : Eng (List Byte) :=
  s.engRead (((s.part l.part).lowCore).getD 0) (keyOf id l.nextTeam) l.desc.sdata.toNat l.desc.sdsize
/-- The read of a scratch image failed (R111, R389). -/
def State.imageFailed (s : State) (id : Nat) (l : Launch) (status : BitVec 8) : State :=
  if l.pred && l.live then s.refute id 4
  else s.updLaunch id (fun l => { (l.fail status) with stopAdmit := true })
/-- The next team admitted with its image: at a given place if every reservation can be met there, else where the distributor
chooses. -/
def State.admitAt (s : State) (id : Nat) (l : Launch) (place : Place) (image : List Byte) : Option State :=
  if l.desc.gangp = 0 && (!l.rerun || !s.teams.any (fun e => e.1 / 2 ^ 32 == id)) && (s.unitsFor l l.nextTeam).contains place.core
      && s.placeOk l.desc.need place then
    some (s.startTeam id l l.nextTeam 1 place image)
  else s.admitNext id l image
/-- TEAM_ADMISSION (R111). -/
def execTeamAdmission (launch : Nat) (place : Place) (s : State) : Res :=
  .next (match s.launch? launch with
    | none => s
    | some l =>
      if !s.mayAdmit launch l then s
      else if (s.admitAt launch l place []).isNone then s.makeRoom l
      else match s.readImage launch l with
        | .ok image s => ((s.launch? launch).bind (fun l => s.admitAt launch l place image)).getD s
        | .fail st s => s.imageFailed launch l (readStatus st)
        | .page va _ s =>
          if l.refusedPages.contains (pageOf va) then s.imageFailed launch l 0xA
          else
            let core := ((s.part l.part).lowCore).getD 0
            (s.requestPage core 0 l va .rd true).updLaunch launch (fun l => { l with wait := some (pageOf va) })
        | .wait s => s)

end Sys2Proof.Machine
end

