-- ==== Sys2Proof/Machine/Alu.lean ====
section
/-! DEFINITION. The scalar integer ALU and the immediate forms (spec/07 R165-R169). -/

namespace Sys2Proof.Machine

/-- One bits among the low n (R166). -/
def oneBits (x : Nat) : Nat → Nat
  | 0 => 0
  | n + 1 => x % 2 + oneBits (x / 2) n
/-- Zero bits from bit 0 up, n when there is no one bit (R166). -/
def trailingZeros (x : Nat) : Nat → Nat
  | 0 => 0
  | n + 1 => if x % 2 = 1 then 0 else 1 + trailingZeros (x / 2) n
/-- Zero bits from bit n-1 down, n when there is no one bit (R166). -/
def leadingZeros (x : Nat) : Nat → Nat
  | 0 => 0
  | n + 1 => if x / 2 ^ n % 2 = 1 then 0 else 1 + leadingZeros x n
/-- Signed quotient, truncating toward zero, with the fixed cases of R167. -/
def divSigned (a b : W64) : W64 := if b = 0 then 0xFFFFFFFFFFFFFFFF else BitVec.ofInt 64 (a.toInt.tdiv b.toInt)
/-- Signed remainder with the sign of the dividend, with the fixed cases of R167. -/
def remSigned (a b : W64) : W64 := if b = 0 then a else BitVec.ofInt 64 (a.toInt.tmod b.toInt)

/-- `add`: a + b (R166). -/
def execAdd (d a b : Reg) (s : State) : Res := setResult s d fun g =>
  let a := g.reg a
  let b := g.reg b
  a + b

/-- `sub`: a - b (R166). -/
def execSub (d a b : Reg) (s : State) : Res := setResult s d fun g =>
  let a := g.reg a
  let b := g.reg b
  a - b

/-- `mul`: bits 63:0 of the product (R166). -/
def execMul (d a b : Reg) (s : State) : Res := setResult s d fun g =>
  let a := g.reg a
  let b := g.reg b
  a * b

/-- `mulh`: bits 127:64 of the exact signed product (R166). -/
def execMulh (d a b : Reg) (s : State) : Res := setResult s d fun g =>
  let a := g.reg a
  let b := g.reg b
  BitVec.ofInt 64 (a.toInt * b.toInt / 2 ^ 64)

/-- `mulhn`: bits 127:64 of the exact unsigned product (R166). -/
def execMulhn (d a b : Reg) (s : State) : Res := setResult s d fun g =>
  let a := g.reg a
  let b := g.reg b
  BitVec.ofNat 64 (a.toNat * b.toNat / 2 ^ 64)

/-- `div` (R167). -/
def execDiv (d a b : Reg) (s : State) : Res := setResult s d fun g =>
  let a := g.reg a
  let b := g.reg b
  divSigned a b

/-- `divn` (R167). -/
def execDivn (d a b : Reg) (s : State) : Res := setResult s d fun g =>
  let a := g.reg a
  let b := g.reg b
  if b = 0 then 0xFFFFFFFFFFFFFFFF else BitVec.ofNat 64 (a.toNat / b.toNat)

/-- `rem` (R167). -/
def execRem (d a b : Reg) (s : State) : Res := setResult s d fun g =>
  let a := g.reg a
  let b := g.reg b
  remSigned a b

/-- `remn` (R167). -/
def execRemn (d a b : Reg) (s : State) : Res := setResult s d fun g =>
  let a := g.reg a
  let b := g.reg b
  if b = 0 then a else BitVec.ofNat 64 (a.toNat % b.toNat)

/-- `and` (R166). -/
def execAnd (d a b : Reg) (s : State) : Res := setResult s d fun g =>
  let a := g.reg a
  let b := g.reg b
  a &&& b

/-- `or` (R166). -/
def execOr (d a b : Reg) (s : State) : Res := setResult s d fun g =>
  let a := g.reg a
  let b := g.reg b
  a ||| b

/-- `xor` (R166). -/
def execXor (d a b : Reg) (s : State) : Res := setResult s d fun g =>
  let a := g.reg a
  let b := g.reg b
  a ^^^ b

/-- `shl`: by b[5:0] (R166). -/
def execShl (d a b : Reg) (s : State) : Res := setResult s d fun g =>
  let a := g.reg a
  let b := g.reg b
  a <<< (b.toNat % 64)

/-- `shr`: by b[5:0], filling with zero (R166). -/
def execShr (d a b : Reg) (s : State) : Res := setResult s d fun g =>
  let a := g.reg a
  let b := g.reg b
  a >>> (b.toNat % 64)

/-- `sra`: by b[5:0], filling with a[63] (R166). -/
def execSra (d a b : Reg) (s : State) : Res := setResult s d fun g =>
  let a := g.reg a
  let b := g.reg b
  a.sshiftRight (b.toNat % 64)

/-- `min`, signed (R166). -/
def execMin (d a b : Reg) (s : State) : Res := setResult s d fun g =>
  let a := g.reg a
  let b := g.reg b
  if a.toInt < b.toInt then a else b

/-- `max`, signed (R166). -/
def execMax (d a b : Reg) (s : State) : Res := setResult s d fun g =>
  let a := g.reg a
  let b := g.reg b
  if a.toInt < b.toInt then b else a

/-- `minn`, unsigned (R166). -/
def execMinn (d a b : Reg) (s : State) : Res := setResult s d fun g =>
  let a := g.reg a
  let b := g.reg b
  if a.toNat < b.toNat then a else b

/-- `maxn`, unsigned (R166). -/
def execMaxn (d a b : Reg) (s : State) : Res := setResult s d fun g =>
  let a := g.reg a
  let b := g.reg b
  if a.toNat < b.toNat then b else a

/-- `slt` (R166). -/
def execSlt (d a b : Reg) (s : State) : Res := setResult s d fun g =>
  let a := g.reg a
  let b := g.reg b
  if a.toInt < b.toInt then 1 else 0

/-- `sltn` (R166). -/
def execSltn (d a b : Reg) (s : State) : Res := setResult s d fun g =>
  let a := g.reg a
  let b := g.reg b
  if a.toNat < b.toNat then 1 else 0

/-- `seq` (R166). -/
def execSeq (d a b : Reg) (s : State) : Res := setResult s d fun g =>
  let a := g.reg a
  let b := g.reg b
  if a = b then 1 else 0

/-- `sne` (R166). -/
def execSne (d a b : Reg) (s : State) : Res := setResult s d fun g =>
  let a := g.reg a
  let b := g.reg b
  if a = b then 0 else 1

/-- `clz`; 64 when a = 0 (R166). -/
def execClz (d a : Reg) (s : State) : Res := setResult s d fun g =>
  let a := g.reg a
  BitVec.ofNat 64 (leadingZeros a.toNat 64)

/-- `ctz`; 64 when a = 0 (R166). -/
def execCtz (d a : Reg) (s : State) : Res := setResult s d fun g =>
  let a := g.reg a
  BitVec.ofNat 64 (trailingZeros a.toNat 64)

/-- `popc` (R166). -/
def execPopc (d a : Reg) (s : State) : Res := setResult s d fun g =>
  let a := g.reg a
  BitVec.ofNat 64 (oneBits a.toNat 64)

/-- `sext.b` (R166). -/
def execSextB (d a : Reg) (s : State) : Res := setResult s d fun g =>
  let a := g.reg a
  (a.setWidth 8).signExtend 64

/-- `sext.h` (R166). -/
def execSextH (d a : Reg) (s : State) : Res := setResult s d fun g =>
  let a := g.reg a
  (a.setWidth 16).signExtend 64

/-- `sext.w` (R166). -/
def execSextW (d a : Reg) (s : State) : Res := setResult s d fun g =>
  let a := g.reg a
  (a.setWidth 32).signExtend 64

/-- `zext.b` (R166). -/
def execZextB (d a : Reg) (s : State) : Res := setResult s d fun g =>
  let a := g.reg a
  (a.setWidth 8).setWidth 64

/-- `zext.h` (R166). -/
def execZextH (d a : Reg) (s : State) : Res := setResult s d fun g =>
  let a := g.reg a
  (a.setWidth 16).setWidth 64

/-- `zext.w` (R166). -/
def execZextW (d a : Reg) (s : State) : Res := setResult s d fun g =>
  let a := g.reg a
  (a.setWidth 32).setWidth 64

/-- `addi`: plus Sext(imm16) (R169). -/
def execAddi (d a : Reg) (imm : BitVec 16) (s : State) : Res := setResult s d fun g =>
  let a := g.reg a
  a + imm.signExtend 64

/-- `andi`: and Zext(imm16) (R169). -/
def execAndi (d a : Reg) (imm : BitVec 16) (s : State) : Res := setResult s d fun g =>
  let a := g.reg a
  a &&& imm.setWidth 64

/-- `ori`: or Zext(imm16) (R169). -/
def execOri (d a : Reg) (imm : BitVec 16) (s : State) : Res := setResult s d fun g =>
  let a := g.reg a
  a ||| imm.setWidth 64

/-- `xori`: xor Zext(imm16) (R169). -/
def execXori (d a : Reg) (imm : BitVec 16) (s : State) : Res := setResult s d fun g =>
  let a := g.reg a
  a ^^^ imm.setWidth 64

/-- `shli` (R169). -/
def execShli (d a : Reg) (n : BitVec 6) (s : State) : Res := setResult s d fun g =>
  let a := g.reg a
  a <<< n.toNat

/-- `shri`, zero fill (R169). -/
def execShri (d a : Reg) (n : BitVec 6) (s : State) : Res := setResult s d fun g =>
  let a := g.reg a
  a >>> n.toNat

/-- `srai`, filling with a[63] (R169). -/
def execSrai (d a : Reg) (n : BitVec 6) (s : State) : Res := setResult s d fun g =>
  let a := g.reg a
  a.sshiftRight n.toNat

/-- `slti` (R169). -/
def execSlti (d a : Reg) (imm : BitVec 16) (s : State) : Res := setResult s d fun g =>
  let a := g.reg a
  if a.toInt < imm.toInt then 1 else 0

/-- `lih`: Sext(imm16 << 16, 32) (R169). -/
def execLih (d : Reg) (imm : BitVec 16) (s : State) : Res := setResult s d fun _ =>
  ((imm.setWidth 32) <<< 16).signExtend 64

/-- `lhh`: plus Sext(imm16) << 32 (R169). -/
def execLhh (d a : Reg) (imm : BitVec 16) (s : State) : Res := setResult s d fun g =>
  let a := g.reg a
  a + (imm.signExtend 64) <<< 32

/-- `lhx`: plus Sext(imm16) << 48 (R169). -/
def execLhx (d a : Reg) (imm : BitVec 16) (s : State) : Res := setResult s d fun g =>
  let a := g.reg a
  a + (imm.signExtend 64) <<< 48

end Sys2Proof.Machine
end

