-- ==== Sys2Proof/WellFormed.lean ====
section
/-! DEFINITION. Which instructions have an encoding (R68-R81, R100-R108, R182-R201, R210, R241, R245, R293), and which
of those are legal for a group with given resources (R63, R70, R74, R78, R81). A word that fails either check is
ILLEGAL (R82). Events have no encoding and are well-formed as they stand. -/

namespace Sys2Proof

/-- A lane register code that names a v register (R74). -/
def RegCode.isV (c : BitVec 8) : Bool := decide (c.toNat < 0xF0)
/-- A lane register code that names a block parameter (R74). -/
def RegCode.isK (c : BitVec 8) : Bool := decide (0xF0 ≤ c.toNat) && decide (c.toNat < 0xFF)
/-- The code of vz (R74). -/
def RegCode.isZ (c : BitVec 8) : Bool := c == 0xFF
/-- An even v code, or no v code. -/
def RegCode.even (c : BitVec 8) : Bool := !RegCode.isV c || c.toNat % 2 == 0
/-- A code that a result may go to: a v code or vz (R74). -/
def RegCode.dst (c : BitVec 8) : Bool := RegCode.isV c || RegCode.isZ c

/-- i64 and n64 name register pairs (R74, R84). -/
def Ty.wide : Ty → Bool
  | .i64 | .n64 => true
  | _ => false

/-- A float type (R86). -/
def Ty.isFloat : Ty → Bool
  | .f32 | .f16 | .bf16 | .f16x2 | .bf16x2 | .e4m3x4 | .e5m2x4 => true
  | _ => false

/-- The number of elements in a register (R84). -/
def Ty.elems : Ty → Nat
  | .i32 | .n32 | .f32 | .f16 | .bf16 | .i64 | .n64 => 1
  | .f16x2 | .bf16x2 | .i16x2 | .n16x2 => 2
  | .i8x4 | .n8x4 | .e4m3x4 | .e5m2x4 => 4
  | .q4x8 => 8

/-- md[43], immediate b (R73). -/
def LaneWord.immB (w : LaneWord) : Bool := w.md.toNat / 8 % 2 == 1
/-- md[42], negate a. -/
def LaneWord.negA (w : LaneWord) : Bool := w.md.toNat / 4 % 2 == 1
/-- md[41], negate b. -/
def LaneWord.negB (w : LaneWord) : Bool := w.md.toNat / 2 % 2 == 1
/-- md[40], saturate. -/
def LaneWord.sat (w : LaneWord) : Bool := w.md.toNat % 2 == 1
/-- The guard is p7, not negated. -/
def LaneWord.p7 (w : LaneWord) : Bool := !w.gn && w.gp == 7
/-- No md bit outside the accepted ones, and not both md[43] and md[41] (R76, R182). -/
def LaneWord.mdOk (w : LaneWord) (mask : Nat) : Bool :=
  w.md.toNat &&& (15 - mask) == 0 && !(w.immB && w.negB)
/-- A source field of the instruction's type: pairs are even (R74). -/
def LaneWord.src (w : LaneWord) (c : BitVec 8) : Bool := !w.ty.wide || RegCode.even c

/-- The common frame of VINT and VFP words (R183, R187): types, md bits, lookahead, and which of a, b, c are used. -/
def LaneWord.frame (w : LaneWord) (tys : List Ty) (mask : Nat) (ll a b c : Bool) : Bool :=
  tys.contains w.ty && w.mdOk mask && (ll || w.la == 0) && RegCode.dst w.vd && w.src w.vd
  && (if a then w.src w.va else w.va == 0)
  && (if b then (if w.immB then w.vb == 0 else w.src w.vb && w.x32 == 0) else w.vb == 0 && w.x32 == 0)
  && (if c then w.src w.vc else w.vc == 0)

/-- Type set A of R184. -/
def tysA : List Ty := [.i32, .n32, .i16x2, .n16x2, .i8x4, .n8x4, .i64, .n64]
/-- Type set B of R184. -/
def tysB : List Ty := [.i32, .n32, .i64, .n64]
/-- The float types of R187. -/
def tysF : List Ty := [.f32, .f16, .bf16, .f16x2, .bf16x2]

/-- The bit-field of `vbfe` and `vbfi`: lsb x32[5:0], width x32[13:8], every other bit zero (R186). -/
def LaneWord.fieldOk (w : LaneWord) : Bool :=
  let l := w.x32.toNat % 64
  let n := w.x32.toNat / 256 % 64
  w.x32.toNat == l + 256 * n && decide (1 ≤ n) && decide (n ≤ 32) && decide (l + n ≤ 32)

/-- The words of `vbfe` (b = false) and `vbfi` (b = true). -/
def LaneWord.bfOk (w : LaneWord) (b : Bool) : Bool :=
  [Ty.i32, .n32].contains w.ty && w.md == 0 && w.la == 0 && RegCode.dst w.vd && w.vc == 0 && (b || w.vb == 0) && w.fieldOk

/-- A VCMP word (R79, R193): both destinations differ unless p7. -/
def LaneWord.cmpOk (w : LaneWord) (tys : List Ty) (mask : Nat) : Bool :=
  let p1 := w.vd.toNat / 32
  let p2 := w.vd.toNat / 4 % 8
  w.vd.toNat % 4 == 0 && (p1 != p2 || p1 == 7) && tys.contains w.ty && w.mdOk mask && w.la == 0 && w.vc == 0
  && w.src w.va && (if w.immB then w.vb == 0 else w.src w.vb && w.x32 == 0)

/-- A PLOG word (R79). -/
def LaneWord.plogOk (w : LaneWord) : Bool :=
  w.vd.toNat % 32 == 0 && w.va.toNat % 32 == 0 && w.vb.toNat % 32 == 0 && w.vc == 0 && w.ty == .i32 && w.md == 0
  && w.la == 0 && w.x32 == 0

/-- The source type code x32[3:0] of a conversion (R100). -/
def LaneWord.srcTy (w : LaneWord) : Ty := Ty.ofCode (w.x32.toNat % 16)

/-- Source and destination lie in one class of R84, C1 and C1w counting as one, and differ (R102). -/
def cvtPair (s d : Ty) : Bool := s != d && s.elems == d.elems && s != .q4x8 && d != .q4x8

/-- md of a conversion that may saturate: md[40] only, and not for a float source with an integer destination (R102). -/
def LaneWord.cvtMd (w : LaneWord) (s d : Ty) : Bool := w.mdOk 1 && !(w.sat && s.isFloat && !d.isFloat)

/-- A register pair field of a given type. -/
def pairOk (t : Ty) (c : BitVec 8) : Bool := !t.wide || RegCode.even c

/-- A `vcvt` word (R102). -/
def LaneWord.vcvtOk (w : LaneWord) : Bool :=
  cvtPair w.srcTy w.ty && w.cvtMd w.srcTy w.ty && w.la == 0 && RegCode.dst w.vd && pairOk w.ty w.vd && pairOk w.srcTy w.va
  && w.vb == 0 && w.vc == 0 && w.x32.toNat / 16 == 0

/-- A `vpack` word (R103). -/
def LaneWord.vpackOk (w : LaneWord) : Bool :=
  ((w.srcTy.elems == 1 && !w.srcTy.wide && w.ty.elems == 2) || (w.srcTy.elems == 2 && w.ty.elems == 4))
  && w.cvtMd w.srcTy w.ty && w.la == 0 && RegCode.dst w.vd && w.vc == 0 && w.x32.toNat / 16 == 0

/-- A `vunpack` word (R104). -/
def LaneWord.vunpackOk (w : LaneWord) : Bool :=
  let r := w.srcTy.elems / w.ty.elems
  (r == 2 || r == 4 || r == 8) && decide (w.x32.toNat / 16 % 8 < r) && w.x32.toNat / 128 == 0
  && (w.srcTy != .q4x8 || [Ty.n8x4, .n16x2, .n32].contains w.ty) && !w.srcTy.wide && !w.ty.wide
  && w.md == 0 && w.la == 0 && RegCode.dst w.vd && w.vb == 0 && w.vc == 0

/-- A `vquant` word (R105, R101). -/
def LaneWord.vquantOk (w : LaneWord) : Bool :=
  [Ty.e4m3x4, .e5m2x4, .i8x4].contains w.ty && [Ty.f32, .f16x2, .bf16x2].contains w.srcTy && w.x32.toNat / 16 == 0
  && w.md == 0 && RegCode.dst w.vd && RegCode.isV w.va && w.vb == 0 && RegCode.dst w.vc

/-- A `vdeq` word (R106, R108). -/
def LaneWord.vdeqOk (w : LaneWord) : Bool :=
  [Ty.q4x8, .e4m3x4, .e5m2x4, .i8x4].contains w.srcTy && [Ty.f32, .bf16x2, .f16x2].contains w.ty
  && (if w.srcTy == .q4x8 then decide (w.x32.toNat / 16 % 16 ≤ 11) else w.x32.toNat / 16 % 16 == 0) && w.x32.toNat / 256 == 0
  && w.cvtMd w.srcTy w.ty && w.la == 0 && RegCode.dst w.vd && w.vc == 0

/-- A `vscale` word (R107). -/
def LaneWord.vscaleOk (w : LaneWord) : Bool :=
  [Ty.f32, .f16, .bf16, .f16x2, .bf16x2, .e4m3x4, .e5m2x4].contains w.ty && w.mdOk 1 && w.la == 0 && RegCode.dst w.vd
  && w.vc == 0 && w.x32 == 0

/-- The types of the plain moves: 0 for a register, 14 for a pair (R195). -/
def tysM : List Ty := [.i32, .i64]

/-- A VMOV word whose b operand is a register or the immediate (vsel, vshfl), with vc checked by the caller. -/
def LaneWord.movB (w : LaneWord) (ll pairB : Bool) : Bool :=
  tysM.contains w.ty && w.mdOk 8 && (ll || w.la == 0) && RegCode.dst w.vd && w.src w.vd && w.src w.va
  && (if w.immB then w.vb == 0 else (!pairB || w.src w.vb) && w.x32 == 0)

/-- A `vred` or `vscan` word (R78, R199). -/
def LaneWord.redOk (w : LaneWord) (scan : Bool) : Bool :=
  let op := w.vc.toNat % 16
  decide (op ≤ 8) && w.vc.toNat / 32 == 0 && (scan || w.vc.toNat / 16 == 0)
  && (if 6 ≤ op then w.ty == .f32 else tysB.contains w.ty)
  && w.md == 0 && w.x32 == 0 && w.vb == 0 && RegCode.dst w.vd && w.src w.vd && w.src w.va

/-- The vc sub-fields of a VMEM word (R80): bp allowed or not, the orders allowed, scope. -/
def LaneWord.memVc (w : LaneWord) (bp : Bool) (ords : List Nat) (scopes : Bool) : Bool :=
  w.vc.toNat % 4 == 0 && (bp || w.vc.toNat / 128 == 0) && ords.contains (w.vc.toNat / 32 % 4)
  && (if scopes then decide (w.vc.toNat / 4 % 8 ≤ 5) else w.vc.toNat / 4 % 8 == 0)

/-- Base and index of `vld`, `vst`, `vrdm` (R241). -/
def LaneWord.memAddr (w : LaneWord) : Bool := RegCode.even w.va && RegCode.dst w.vb && w.md == 0 && w.src w.vd

/-- A `vamo` word (R80, R245). -/
def LaneWord.vamoOk (w : LaneWord) : Bool :=
  let op := w.x32.toNat % 32
  decide (op ≤ 10) && decide (w.x32.toNat / 128 % 8 ≤ 5) && w.x32.toNat / 1024 == 0
  && (if op == 10 then w.ty == .f32 else tysB.contains w.ty) && w.md == 0 && RegCode.dst w.vd && w.src w.vd
  && RegCode.even w.va && w.src w.vb && (if op == 9 then w.src w.vc else w.vc == 0)

/-- A `vtget` or `vtset` word (R80, R293). -/
def LaneWord.tileOk (w : LaneWord) : Bool :=
  !RegCode.isV w.va && w.vb == 0 && w.vc == 0 && w.md == 0 && w.src w.vd
  && w.x32.toNat / 64 % 4 == 0 && w.x32.toNat / 262144 == 0

/-- The fields that every LCTL word leaves zero (R81). -/
def LaneWord.lctl (w : LaneWord) : Bool :=
  w.vd == 0 && w.va == 0 && w.vb == 0 && w.vc == 0 && w.ty == .i32 && w.md == 0 && w.la == 0

/-- The special register codes (R126). -/
def specialCode (c : Nat) : Bool := decide (c ≤ 0x14)

/-- The instruction has an encoding. -/
def Instr.wellFormed : Instr → Bool
  | .lgo _ b n => decide (n.toNat ≤ 15) && decide (b.toNat + n.toNat ≤ 32)
  | .setprio n => decide (1 ≤ n.toNat) && decide (n.toNat ≤ 3)
  | .crit n => decide (n.toNat ≤ 1)
  | .srd _ c => specialCode c.toNat
  | .swr _ c => specialCode c.toNat
  | .tld _ _ b => decide (b.toNat ≤ 30)
  | .tst _ _ b => decide (b.toNat ≤ 30)
  | .mxrdy _ _ vn => RegCode.isV vn
  | .mxa hd ha _ => hd != ha
  | .mxs hd ha _ => hd != ha
  | .mxdr _ _ b n => decide (b.toNat ≤ 30) && decide (n.toNat ≤ 3)
  | .cbld _ n => decide (n.toNat ≤ 1)
  | .cpyt _ _ b _ => decide (b.toNat ≤ 30)
  | .bclose _ n => decide (n.toNat ≤ 1)
  | .wait a _ k => k == .obj || k == .objOr || a == 0
  | .btest _ a _ k => k == .obj || (k != .objOr && a == 0)
  | .scas _ _ b _ _ _ => decide (b.toNat ≤ 30)
  | .sldo _ _ o _ _ => o == .rlx || o == .acq
  | .ssto _ _ o _ _ => o == .rlx || o == .rel
  | .sredAdd _ _ o _ _ => o == .rlx || o == .rel
  | .sredAnd _ _ o _ _ => o == .rlx || o == .rel
  | .sredOr _ _ o _ _ => o == .rlx || o == .rel
  | .sredXor _ _ o _ _ => o == .rlx || o == .rel
  | .sredMin _ _ o _ _ => o == .rlx || o == .rel
  | .sredMax _ _ o _ _ => o == .rlx || o == .rel
  | .sredMinn _ _ o _ _ => o == .rlx || o == .rel
  | .sredMaxn _ _ o _ _ => o == .rlx || o == .rel
  | .sredFadd _ _ o _ => o == .rlx || o == .rel
  | .fence o _ => o != .rlx
  | .vstat _ n => decide (n.toNat ≤ 2)
  | .curb _ n => decide (n.toNat ≤ 3)
  | .vadd w => w.frame tysA 9 false true true false
  | .vsub w => w.frame tysA 9 false true true false
  | .vmul w => w.frame tysA 9 false true true false
  | .vmulh w => w.frame tysA 8 false true true false
  | .vmad w => w.frame tysA 9 false true true true
  | .vmin w => w.frame tysA 8 false true true false
  | .vmax w => w.frame tysA 8 false true true false
  | .vabs w => w.frame tysA 1 false true false false
  | .vneg w => w.frame tysA 1 false true false false
  | .vand w => w.frame tysB 8 false true true false
  | .vor w => w.frame tysB 8 false true true false
  | .vxor w => w.frame tysB 8 false true true false
  | .vnot w => w.frame tysB 0 false true false false
  | .vshl w => w.frame tysA 8 false true true false
  | .vshr w => w.frame tysA 8 false true true false
  | .vsra w => w.frame tysA 8 false true true false
  | .vbfe w => w.bfOk false
  | .vbfi w => w.bfOk true
  | .vpopc w => w.frame tysB 0 false true false false
  | .vclz w => w.frame tysB 0 false true false false
  | .vbrev w => w.frame tysB 0 false true false false
  | .vfadd w => w.frame tysF 15 false true true false
  | .vfsub w => w.frame tysF 15 false true true false
  | .vfmul w => w.frame tysF 15 false true true false
  | .vffma w => w.frame tysF 15 false true true true
  | .vfmin w => w.frame tysF 14 false true true false
  | .vfmax w => w.frame tysF 14 false true true false
  | .vfdiv w => w.frame tysF 15 true true true false
  | .vrcp w => w.frame [.f32] 5 true true false false
  | .vrsq w => w.frame [.f32] 4 true true false false
  | .vsqrt w => w.frame tysF 4 true true false false
  | .vexp2 w => w.frame [.f32] 5 true true false false
  | .vlog2 w => w.frame [.f32] 4 true true false false
  | .vsin w => w.frame [.f32] 4 true true false false
  | .vcos w => w.frame [.f32] 4 true true false false
  | .vfrnd w => w.frame tysF 4 false true false false
  | .vfcls w => w.frame tysF 0 false true false false
  | .vcmp cc w => cc != .un && cc != .ord && w.cmpOk tysB 8
  | .vfcmp _ w => w.cmpOk [.f32, .f16, .bf16] 14
  | .pand w => w.plogOk
  | .por w => w.plogOk
  | .pxor w => w.plogOk
  | .pandn w => w.plogOk
  | .vcvt w => w.vcvtOk
  | .vquant w => w.vquantOk
  | .vdeq w => w.vdeqOk
  | .vpack w => w.vpackOk
  | .vunpack w => w.vunpackOk
  | .vscale w => w.vscaleOk
  | .vmov w => w.frame tysM 0 false true false false
  | .vmovk w => w.ty == .i32 && w.md == 0 && w.la == 0 && RegCode.dst w.vd && RegCode.even w.vd && RegCode.isK w.va && w.vb == 0 && w.vc == 0 && w.x32 == 0
  | .vmovi w => w.md == 0 && w.la == 0 && RegCode.dst w.vd && w.src w.vd && w.va == 0 && w.vb == 0 && w.vc == 0
  | .vsel w => w.movB false true && w.vc.toNat % 32 == 0
  | .vshfl w => w.movB true false && w.vc.toNat / 4 == 0
  | .vbcast w => tysM.contains w.ty && w.md == 0 && RegCode.dst w.vd && w.src w.vd && w.src w.va && w.vb == 0 && w.vc == 0 && w.x32.toNat / 64 == 0
  | .vballot w => tysM.contains w.ty && w.md == 0 && RegCode.dst w.vd && w.src w.vd && w.va.toNat % 32 == 0 && w.vb == 0 && w.vc == 0 && w.x32 == 0
  | .vred w => w.redOk false
  | .vscan w => w.redOk true
  | .vput w => tysB.contains w.ty && w.md == 0 && w.la == 0 && w.vd == 0 && w.src w.va && w.vb == 0 && w.vc == 0 && w.x32 == 0
  | .vspec w => w.ty == .i32 && w.md == 0 && w.la == 0 && RegCode.dst w.vd && w.va == 0 && w.vb == 0 && w.vc == 0 && decide (w.x32.toNat ≤ 9)
  | .vld w => w.memVc true [0] false && w.memAddr && RegCode.dst w.vd
  | .vst w => w.memVc false [0, 2] true && w.memAddr && RegCode.dst w.vd
  | .vlds w => w.vc == 0 && w.md == 0 && RegCode.dst w.vd && w.src w.vd
  | .vsts w => w.vc == 0 && w.md == 0 && RegCode.isV w.vd && w.src w.vd
  | .vamo w => w.vamoOk
  | .vrdm w => w.memVc false [0, 1] true && w.memAddr && RegCode.dst w.vd
  | .vtget w => w.tileOk && RegCode.dst w.vd
  | .vtset w => w.tileOk && RegCode.isV w.vd
  | .lbra w => w.lctl
  | .mjoin w => w.lctl && w.p7
  | .join w => w.lctl && w.p7 && w.x32 == 0
  | .lend w => w.lctl && w.p7 && w.x32 == 0
  | .lkill w => w.lctl && w.x32 == 0
  | .lfmt w => w.lctl && w.p7 && decide (w.x32.toNat < 2 ^ 19)
  | .lnop w => w.lctl && w.p7 && w.x32 == 0
  | .lbrk w => w.lctl && decide (w.x32.toNat < 2 ^ 16)
  | _ => true

/-- The first register and the count of registers of an operand field: a v code names `n` registers from it. -/
def fits (vregs : Nat) (c : BitVec 8) (n : Nat) : Bool := !RegCode.isV c || decide (c.toNat + n ≤ vregs)

/-- Registers that an operand of a type takes: a pair for the 64-bit types. -/
def Ty.regs (t : Ty) : Nat := if t.wide then 2 else 1

/-- Every v register that a plain a, b, c, d word names lies in the allocation (R74). -/
def LaneWord.fitsAll (w : LaneWord) (vregs : Nat) : Bool :=
  let n := w.ty.regs
  fits vregs w.vd n && fits vregs w.va n && fits vregs w.vb n && fits vregs w.vc n

/-- The lane instruction (or `mxrdy`) is legal for a group with `vregs` lane registers and `lanew` lanes running code
of `lsize` lane words (R63, R70, R74, R78, R81, R101). Unused fields are 0x00 and name v0, which is always allocated. -/
def Instr.legalIn (vregs lanew lsize : Nat) : Instr → Bool
  | .mxrdy _ _ vn => decide (vn.toNat + 1024 / (4 * lanew) + 1 ≤ vregs)
  | .vcmp _ w => fits vregs w.va w.ty.regs && fits vregs w.vb w.ty.regs
  | .vfcmp _ w => fits vregs w.va w.ty.regs && fits vregs w.vb w.ty.regs
  | .pand _ => true
  | .por _ => true
  | .pxor _ => true
  | .pandn _ => true
  | .vcvt w => fits vregs w.vd w.ty.regs && fits vregs w.va w.srcTy.regs
  | .vquant w => fits vregs w.vd 8 && fits vregs w.va (32 / w.srcTy.elems) && fits vregs w.vc 1
  | .vdeq w => fits vregs w.vd (w.srcTy.elems / w.ty.elems) && fits vregs w.va 1 && fits vregs w.vb 1
  | .vmovk w => fits vregs w.vd 2
  | .vsel w => fits vregs w.vd w.ty.regs && fits vregs w.va w.ty.regs && fits vregs w.vb w.ty.regs
  | .vshfl w => fits vregs w.vd w.ty.regs && fits vregs w.va w.ty.regs && fits vregs w.vb 1
  | .vbcast w => fits vregs w.vd w.ty.regs && fits vregs w.va w.ty.regs && decide (w.x32.toNat < lanew)
  | .vballot w => fits vregs w.vd w.ty.regs
  | .vred w => fits vregs w.vd w.ty.regs && fits vregs w.va w.ty.regs
  | .vscan w => fits vregs w.vd w.ty.regs && fits vregs w.va w.ty.regs
  | .vld w => fits vregs w.vd w.ty.regs && fits vregs w.va 2 && fits vregs w.vb 1
  | .vst w => fits vregs w.vd w.ty.regs && fits vregs w.va 2 && fits vregs w.vb 1
  | .vrdm w => fits vregs w.vd w.ty.regs && fits vregs w.va 2 && fits vregs w.vb 1
  | .vlds w => fits vregs w.vd w.ty.regs && fits vregs w.va 1 && fits vregs w.vb 1
  | .vsts w => fits vregs w.vd w.ty.regs && fits vregs w.va 1 && fits vregs w.vb 1
  | .vamo w => fits vregs w.vd w.ty.regs && fits vregs w.va 2 && fits vregs w.vb w.ty.regs && fits vregs w.vc w.ty.regs
  | .vtget w => fits vregs w.vd w.ty.regs
  | .vtset w => fits vregs w.vd w.ty.regs
  | .lbra w => decide (w.x32.toNat < lsize)
  | .mjoin w => decide (w.x32.toNat < lsize)
  | .vmovi w => fits vregs w.vd w.ty.regs
  | .vspec w => fits vregs w.vd 1
  | .vadd w => w.fitsAll vregs
  | .vsub w => w.fitsAll vregs
  | .vmul w => w.fitsAll vregs
  | .vmulh w => w.fitsAll vregs
  | .vmad w => w.fitsAll vregs
  | .vmin w => w.fitsAll vregs
  | .vmax w => w.fitsAll vregs
  | .vabs w => w.fitsAll vregs
  | .vneg w => w.fitsAll vregs
  | .vand w => w.fitsAll vregs
  | .vor w => w.fitsAll vregs
  | .vxor w => w.fitsAll vregs
  | .vnot w => w.fitsAll vregs
  | .vshl w => w.fitsAll vregs
  | .vshr w => w.fitsAll vregs
  | .vsra w => w.fitsAll vregs
  | .vbfe w => w.fitsAll vregs
  | .vbfi w => w.fitsAll vregs
  | .vpopc w => w.fitsAll vregs
  | .vclz w => w.fitsAll vregs
  | .vbrev w => w.fitsAll vregs
  | .vfadd w => w.fitsAll vregs
  | .vfsub w => w.fitsAll vregs
  | .vfmul w => w.fitsAll vregs
  | .vffma w => w.fitsAll vregs
  | .vfmin w => w.fitsAll vregs
  | .vfmax w => w.fitsAll vregs
  | .vfdiv w => w.fitsAll vregs
  | .vrcp w => w.fitsAll vregs
  | .vrsq w => w.fitsAll vregs
  | .vsqrt w => w.fitsAll vregs
  | .vexp2 w => w.fitsAll vregs
  | .vlog2 w => w.fitsAll vregs
  | .vsin w => w.fitsAll vregs
  | .vcos w => w.fitsAll vregs
  | .vfrnd w => w.fitsAll vregs
  | .vfcls w => w.fitsAll vregs
  | .vpack w => w.fitsAll vregs
  | .vunpack w => w.fitsAll vregs
  | .vscale w => fits vregs w.vd 1 && fits vregs w.va 1 && fits vregs w.vb 1
  | .vmov w => w.fitsAll vregs
  | .vput w => fits vregs w.va w.ty.regs
  | _ => true

end Sys2Proof
end

