-- ==== Sys2Proof/Machine/Operands.lean ====
section
/-! DEFINITION. Operands of lane words (spec/03 R73-R76, spec/04 R84-R85, spec/08 R178-R182): registers, block
parameters, immediates and elements, and the frames that write results in each participating lane. -/

namespace Sys2Proof.Machine

/-- Bits of an element (R84). -/
def tyBits : Ty → Nat
  | .i32 | .n32 | .f32 => 32
  | .f16 | .bf16 | .f16x2 | .bf16x2 | .i16x2 | .n16x2 => 16
  | .i8x4 | .n8x4 | .e4m3x4 | .e5m2x4 => 8
  | .q4x8 => 4
  | .i64 | .n64 => 64
/-- Two's complement types (R85). -/
def tySigned : Ty → Bool
  | .i32 | .i16x2 | .i8x4 | .i64 => true
  | _ => false
/-- The float format of a float type (R86). -/
def tyFloat : Ty → Option FT
  | .f32 => some .f32
  | .f16 | .f16x2 => some .f16
  | .bf16 | .bf16x2 => some .bf16
  | .e4m3x4 => some .e4m3
  | .e5m2x4 => some .e5m2
  | _ => none
/-- Bytes that a memory access of a type moves (R210, R241). -/
def tyBytes : Ty → Nat
  | .f16 | .bf16 => 2
  | .i64 | .n64 => 8
  | _ => 4

/-- A block parameter of the executing block; a missing entry is 0 (R128, R179). -/
def Group.param (g : Group) (n : Nat) : W64 :=
  match g.laneQ with
  | b :: _ => nth b.k n 0
  | [] => 0
/-- A register field read as one 32-bit register (R74, R179). -/
def Group.read32 (g : Group) (c : BitVec 8) (l : Nat) : Nat :=
  if RegCode.isV c then (g.vreg c.toNat l).toNat
  else if RegCode.isK c then (g.param (c.toNat - 0xF0)).toNat % 2 ^ 32
  else 0
/-- A register field read as a pair (R74, R84, R179). -/
def Group.read64 (g : Group) (c : BitVec 8) (l : Nat) : Nat :=
  if RegCode.isV c then (g.vreg c.toNat l).toNat + (g.vreg (c.toNat + 1) l).toNat * 2 ^ 32
  else if RegCode.isK c then (g.param (c.toNat - 0xF0)).toNat
  else 0
/-- A register field read for a type (R74). -/
def Group.readTy (g : Group) (t : Ty) (c : BitVec 8) (l : Nat) : Nat := if t.wide then g.read64 c l else g.read32 c l
/-- The immediate b (R76, R182): x32 as the assembler replicated it; sign- or zero-extended for the 64-bit types. -/
def immRaw (t : Ty) (x : W32) : Nat :=
  match t with
  | .i64 => (x.signExtend 64).toNat
  | _ => x.toNat
/-- The b operand (R76). -/
def Group.readB (g : Group) (w : LaneWord) (l : Nat) : Nat := if w.immB then immRaw w.ty w.x32 else g.readTy w.ty w.vb l
/-- Element e of a register's bits (R84). -/
def elem (t : Ty) (raw e : Nat) : Nat := bits raw (tyBits t * e) (tyBits t)
/-- Elements put together (R84); bits above them are zero. -/
def packElems (t : Ty) (xs : List Nat) : Nat := xs.foldr (fun x acc => x % 2 ^ tyBits t + acc * 2 ^ tyBits t) 0
/-- The writes of a result to a destination field; a write to vz is discarded (R74, R179). -/
def resultWrites (t : Ty) (c : BitVec 8) (l raw : Nat) : List LaneWrite :=
  if RegCode.isV c then
    if t.wide then
      [{ reg := c.toNat, lane := l, val := BitVec.ofNat 32 raw }, { reg := c.toNat + 1, lane := l, val := BitVec.ofNat 32 (raw / 2 ^ 32) }]
    else [{ reg := c.toNat, lane := l, val := BitVec.ofNat 32 raw }]
  else []
/-- Results written to lane registers. -/
def Group.apply (g : Group) (ws : List LaneWrite) : Group := ws.foldl (fun g w => g.setVreg w.reg w.lane w.val) (g.keepRows (ws.map (·.reg)))
/-- The v rows that a destination field of n registers covers. -/
def rowsOf (c : BitVec 8) (n : Nat) : List Nat := if RegCode.isV c then (List.range n).map (· + c.toNat) else []

/-- The writes and flags of every participant (R181). -/
def lanesResult (ls : List Nat) (f : Nat → List LaneWrite × Flags) : List LaneWrite × Flags :=
  ls.foldl (fun a l => let r := f l; (a.1 ++ r.1, a.2 ||| r.2)) ([], fl0)
/-- A short-latency lane instruction: each participant's result from the registers as they were (R181); FLAGS gains
the bits raised (R92). -/
def laneShort (s : State) (w : LaneWord) (rows : List Nat) (f : Group → Path → Nat → List LaneWrite × Flags) : Res :=
  laneOp s false (rowsIn w rows) fun gid g p =>
    let r := lanesResult (lanesOf (g.active p &&& g.guard w)) (f g p)
    let g' := (g.apply r.1).stepPath s.slot p
    .next (s.setGroup gid { g' with flags := g'.flags ||| r.2 })
/-- A long-latency instruction issued with its results to be written at completion (R123, R125); with no participant it
completes at once (R124). -/
def Group.issueLL (g : Group) (slot : Nat) (p : Path) (w : LaneWord) (none_ : Bool) (r : List LaneWrite × Flags)
    (mem : Bool := false) (since : Nat := 0) (acc : Nat := 0) (entries : Nat := 0) : Group :=
  let g := g.stepPath slot p
  if none_ then g
  else
    let x : Pend := {
      path := p.id, left := w.la.toNat, at_ := g.laneN, writes := r.1, flags := r.2, mem := mem, since := since, acc := acc, entries := entries }
    { g with pend := g.pend ++ [x] }
/-- A long-latency lane instruction that computes from registers alone (R197). -/
def laneLong (s : State) (w : LaneWord) (rows : List Nat) (f : Group → Path → W64 → Nat → List LaneWrite × Flags) : Res :=
  laneOp s false (rowsIn w rows) fun gid g p =>
    let part := g.active p &&& g.guard w
    .next (s.setGroup gid (g.issueLL s.slot p w (part == 0) (lanesResult (lanesOf part) (f g p part))))

end Sys2Proof.Machine
end

