-- ==== Sys2Proof/Machine/Tile.lean ====
section
/-! DEFINITION. Casket slots, tile handles, the scoreboard and the tile instructions but for the engine moves (spec/13
R277-R294). -/

namespace Sys2Proof.Machine

/-- The bytes per core and slots per core of a shape word that is valid for the team (R278). -/
structure Geometry where
  rows : Nat
  rowb : Nat
  slots : Nat
  deriving DecidableEq, Repr
/-- A shape word read (R278); none where it is invalid. -/
def geometry (t : Team) (w : W64) : Option Geometry :=
  let rows := fld w 0 13
  let rowb := fld w 16 13
  let b := (if t.tandem then rows / 2 else rows) * rowb
  if fld w 13 3 ≠ 0 || fld w 29 35 ≠ 0 || rows = 0 || 4096 < rows || rowb = 0 || 4096 < rowb || rowb % 16 ≠ 0
      || (t.tandem && rows % 2 == 1) || 262144 < b then none
  else some { rows := rows, rowb := rowb, slots := (b + 16383) / 16384 }
/-- Bytes of a tile. -/
def Handle.bytes (h : Handle) : Nat := h.rows * h.rowb

/-- A pending access touches slot j of the team's range on the leader (0) or the wheeler (1). -/
def Team.slotPending (t : Team) (half j : Nat) : Bool :=
  let base := if half = 0 then t.f0 else t.f1
  t.tileAccs.any (fun a => conflict [(t.core + half, (base + j) * 0x4000, 0x4000)] (t.accRanges a) true true)
/-- Slot j is draining (R277). -/
def Team.slotDraining (t : Team) (half j : Nat) : Bool := !t.slotBound half j && t.slotPending half j
/-- Slot j is free (R277). -/
def Team.slotFree (t : Team) (half j : Nat) : Bool := !t.slotBound half j && !t.slotPending half j
/-- The lowest run of n consecutive slots that a test admits. -/
def lowestRun (n tiles : Nat) (ok : Nat → Bool) : Option Nat :=
  (List.range tiles).find? (fun f => decide (f + n ≤ tiles) && (List.range n).all (fun i => ok (f + i)))
/-- The run that `talloc` chooses on a core (R287). -/
def Team.chooseRun (t : Team) (half n : Nat) : Option Nat :=
  (lowestRun n t.tiles (t.slotFree half)).orElse (fun _ => lowestRun n t.tiles (fun j => !t.slotBound half j))
/-- Every slot of a run is free. -/
def Team.runFree (t : Team) (half f n : Nat) : Bool := (List.range n).all (fun i => t.slotFree half (f + i))

/-- Orders 2 and 3 of R281 for one handle. -/
def Team.handleCheck (t : Team) (g : Group) (h : Hnd) : Except Cause Handle :=
  match Tbl.find t.handles h.toNat with
  | none => .error .handlefree
  | some x => if x.owner = g.gidx then .ok x else .error .handleowner
/-- A scalar tile meaning: it stalls an overreaching group (R233), and its handle is checked (R281). -/
def tileOp (s : State) (h : Hnd) (k : Nat → Group → Team → Handle → Res) : Res :=
  scalar s fun gid g => settled s g <|
    match (s.teamOf g).handleCheck g h with
    | .error c => s.trapS gid g c (h.setWidth 64)
    | .ok x => k gid g (s.teamOf g) x
/-- An access takes its place in slot order (R282): its name, and the team with it. -/
def Team.placeAcc (t : Team) (a : TileAcc) : Team :=
  { t with tileAccs := t.tileAccs ++ [{ a with id := t.nextAcc }], nextAcc := t.nextAcc + 1 }
/-- The access that touches a whole tile. -/
def wholeTile (op : TileOp) (h : Handle) (wr : Bool) : TileAcc := { op := op, h := h, wr := wr, lo := 0, len := h.bytes }
/-- The turn of an access in slot order has come (R282). -/
def Team.accReady (t : Team) (id : Nat) : Bool :=
  match t.tileAccs.find? (fun a => a.id == id) with
  | none => true
  | some a => (t.tileAccs.takeWhile (fun b => b.id != id)).all (fun b => !conflict (t.accRanges a) (t.accRanges b) a.wr b.wr)
/-- An access completed. -/
def Team.dropAcc (t : Team) (id : Nat) : Team := { t with tileAccs := t.tileAccs.filter (fun a => a.id != id) }
/-- The port of tile byte o (R279). -/
def Team.tileByteAt (t : Team) (h : Handle) (o : Nat) : Nat :=
  match t.tileRanges h o 1 with
  | r :: _ => onchip r.1 (0x580000 + r.2.1)
  | [] => 0
/-- Tile bytes read. -/
def State.tileRead (s : State) (t : Team) (h : Handle) (o : Nat) : Nat → List Byte
  | 0 => []
  | n + 1 => Memory.byte s.mem (t.tileByteAt h o) :: State.tileRead s t h (o + 1) n
/-- A tile byte written by the hardware. -/
def State.tileSet (s : State) (t : Team) (h : Handle) (o : Nat) (b : Byte) : State :=
  { s with mem := Memory.setByte s.mem (t.tileByteAt h o) b }
/-- Tile bytes written. -/
def State.tileWrite (s : State) (t : Team) (h : Handle) (o : Nat) : List Byte → State
  | [] => s
  | b :: r => State.tileWrite (s.tileSet t h o b) t h (o + 1) r
/-- The writes recorded of a tile range (R231). -/
def State.noteTile (s : State) (t : Team) (h : Handle) (lo len : Nat) : State :=
  (t.tileRanges h lo len).foldl (fun s r => s.note { pa := onchip r.1 (0x580000 + r.2.1), len := r.2.2, committed := true }) s

/-- `talloc` (R287). -/
def execTalloc (h : Hnd) (a : Reg) (s : State) : Res :=
  scalar s fun gid g => settled s g <|
    let t := s.teamOf g
    let w := g.reg a
    match geometry t w with
    | none => s.trapS gid g .illegal w
    | some e =>
      let mine := match Tbl.find t.handles h.toNat with
        | some x => x.owner == g.gidx
        | none => true
      if !mine then s.trapS gid g .handleowner (h.setWidth 64)
      else
        let t := { t with handles := Tbl.del t.handles h.toNat }
        let runs := g.allocHold.orElse (fun _ =>
          match t.chooseRun 0 e.slots, (if t.tandem then t.chooseRun 1 e.slots else some 0) with
          | some x, some y => some (x, y)
          | _, _ => none)
        match runs with
        | none => s.trapS gid g .tilequota (BitVec.ofNat 64 e.slots)
        | some r =>
          if t.runFree 0 r.1 e.slots && (!t.tandem || t.runFree 1 r.2 e.slots) then
            let x : Handle := { rows := e.rows, rowb := e.rowb, first0 := t.f0 + r.1, first1 := t.f1 + r.2, nslot := e.slots, owner := g.gidx }
            .next ((s.setTeam g.key { t with handles := Tbl.put t.handles h.toNat x }).done gid (fun g => { g with allocHold := none }))
          else ((s.setTeam g.key t).updGroup gid (fun g => { g with allocHold := some r })).stallS
/-- `tgive` (R288). -/
def execTgive (h : Hnd) (a : Reg) (s : State) : Res :=
  tileOp s h fun gid g t x =>
    let dst := (g.reg a).toNat
    if (s.groupsOf g.key).any (fun e => e.2.gidx == dst) then
      .next ((s.setTeam g.key { t with handles := Tbl.put t.handles h.toNat { x with owner := dst } }).done gid id)
    else s.trapS gid g .handleowner (g.reg a)
/-- `tfree` (R289, R283). -/
def execTfree (h : Hnd) (s : State) : Res :=
  tileOp s h fun gid g t _ => .next ((s.setTeam g.key { t with handles := Tbl.del t.handles h.toNat }).done gid id)
/-- `tzero` (R291). -/
def execTzero (h : Hnd) (s : State) : Res :=
  tileOp s h fun gid g t x => .next ((s.setTeam g.key (t.placeAcc (wholeTile .zeroW x true))).done gid id)
/-- What `tinfo` answers (R292). -/
def tileInfo (t : Team) (gid : Nat) (g : Group) (h : Hnd) : W64 :=
  let half := if coreOf gid = t.core then 0 else 1
  let drain := ((List.range t.tiles).filter (t.slotDraining half)).length
  match Tbl.find t.handles h.toNat with
  | none => BitVec.ofNat 64 (drain * 2 ^ 48)
  | some x =>
    let rs := (t.tileRanges x 0 x.bytes).map (fun r => (r.1, r.2.1 / 0x4000 * 0x4000, x.nslot * 0x4000))
    let pend := (t.tileAccs.filter (fun a => conflict rs (t.accRanges a) true true)).length
    let first := if half = 0 then x.first0 else x.first1
    let base := if half = 0 then t.f0 else t.f1
    BitVec.ofNat 64 (1 + (x.owner == g.gidx).toNat * 2 + x.owner * 2 ^ 8 + min 255 pend * 2 ^ 16 + first * 2 ^ 32
      + x.nslot * 2 ^ 40 + drain * 2 ^ 48 + (first - base) * 2 ^ 56)
/-- `tinfo` (R292). -/
def execTinfo (d : Reg) (h : Hnd) (s : State) : Res :=
  scalar s fun gid g => settled s g <|
    .next (s.done gid (fun _ => g.setReg d (tileInfo (s.teamOf g) gid g h)))

/-! `vtget` and `vtset` (R293, R294). -/

/-- The row a word names (R294). -/
def tileRow (w : LaneWord) (g : Group) : Nat := (bits w.x32.toNat 8 10 + g.read32 w.va 0) % 2 ^ 32
/-- The handle a word names. -/
def tileHnd (w : LaneWord) : Hnd := w.x32.setWidth 6
/-- The frame of `vtget` and `vtset`: checks, and the access that takes its place when the word issues. -/
def laneTile (s : State) (w : LaneWord) (rows : List Nat) (acc : Group → Handle → Nat → List Nat → TileAcc) : Res :=
  laneOp s false (rowsIn w rows) fun gid g p =>
    if g.orun.isSome then s.stallL
    else
      let t := s.teamOf g
      let h := tileHnd w
      let r := tileRow w g
      let part := g.active p &&& g.guard w
      match t.handleCheck g h with
      | .error c => s.trapL gid g c (h.setWidth 64) 0
      | .ok x =>
        if x.rows ≤ r then s.trapL gid g .protect (BitVec.ofNat 64 r) 0
        else if part = 0 then .next (s.setGroup gid (g.stepPath s.slot p))
        else
          let a := { acc g x r (lanesOf part) with iss := g.issuer gid }
          .next ((s.setTeam g.key (t.placeAcc a)).setGroup gid (g.issueLL s.slot p w false ([], fl0) false 0 t.nextAcc))
/-- Lane l's element lies in the row (R294). -/
def inRow (n : Nat) (x : Handle) (l : Nat) : Bool := decide (n * (l + 1) ≤ x.rowb)
/-- The parts of a lane's destination (R294): register, offset in the element, bytes. -/
def tileParts (w : LaneWord) : List (Nat × Nat × Nat) :=
  if RegCode.isV w.vd then
    if w.ty.wide then [(w.vd.toNat, 0, 4), (w.vd.toNat + 1, 4, 4)] else [(w.vd.toNat, 0, tyBytes w.ty)]
  else []
/-- `vtget` (R294). -/
def execVtget (w : LaneWord) (s : State) : Res :=
  let n := tyBytes w.ty
  laneTile s w (rowsOf w.vd w.ty.regs) fun g x r ls =>
    { op := .vget, h := x, wr := false, lo := r * x.rowb, len := min x.rowb (n * g.lanew),
      dst := ls.flatMap (fun l => (tileParts w).map (fun q =>
        { lane := l, reg := q.1, off := r * x.rowb + n * l + q.2.1, size := if inRow n x l then q.2.2 else 0 })) }
/-- `vtset` (R294). -/
def execVtset (w : LaneWord) (s : State) : Res :=
  let n := tyBytes w.ty
  laneTile s w [] fun g x r ls =>
    { op := .vset, h := x, wr := true, lo := r * x.rowb, len := min x.rowb (n * g.lanew),
      data := (ls.filter (inRow n x)).flatMap (fun l =>
        ((List.range n).zip (toBytes n (g.readTy w.ty w.vd l))).map (fun b => (r * x.rowb + n * l + b.1, b.2))) }

/-- A group that is stopping completes what it has issued (R400, R414). -/
def Group.finishStopped (g : Group) : Group :=
  if g.ending.isSome || g.stopping then (g.pend.filter (fun x => x.acc == 0)).foldl (fun g x => g.complete x) g else g
/-- A tile access of no engine performed (R282, R291, R294). -/
def State.performAcc (s : State) (key : Nat) (t : Team) (a : TileAcc) : State :=
  let s0 := s.setTeam key (t.dropAcc a.id)
  match a.op with
  | .zeroW =>
    ({ s0 with mem := (t.accRanges a).foldl (fun m (r : Nat × Nat × Nat) => Memory.clear m (onchip r.1 (0x580000 + r.2.1)) r.2.2) s0.mem }).noteTile t a.h a.lo a.len
  | .vset =>
    let s1 := (a.data.foldl (fun s b => s.tileSet t a.h b.1 b.2) s0).noteTile t a.h a.lo a.len
    match s1.issuer? a.iss with
    | none => s1
    | some (gid, g) =>
      let g := { g with pend := g.pend.map (fun (x : Pend) => if x.acc = a.id then { x with acc := 0 } else x) }
      s1.setGroup gid g.finishStopped
  | .vget =>
    let ws := a.dst.map (fun d => ({ reg := d.reg, lane := d.lane, val := BitVec.ofNat 32 (ofBytes (s0.tileRead t a.h d.off d.size)) } : LaneWrite))
    match s0.issuer? a.iss with
    | none => s0
    | some (gid, g) =>
      let g := { g with pend := g.pend.map (fun (x : Pend) => if x.acc = a.id then { x with acc := 0, writes := ws } else x) }
      s0.setGroup gid g.finishStopped
  | .tldW => s
  | .tstR => s
  | .mxA => s
  | .mxD => s
  | .mxDrain => s
/-- TILE_ACCESS_PERFORMED (R282): an access of `tzero`, `vtget` or `vtset` performed when its turn in slot order has come;
the engines and the complex perform their own. -/
def execTileAccessPerformed (key id : Nat) (s : State) : Res :=
  .next (match s.team? key with
    | none => s
    | some t =>
      match t.tileAccs.find? (fun a => a.id == id) with
      | none => s
      | some a => if !t.away && t.accReady id then s.performAcc key t a else s)

end Sys2Proof.Machine
end

