-- ==== Sys2Proof/Machine/Copy.lean ====
section
/-! DEFINITION. The copy engines (spec/12 R254-R276), the engine moves of tiles (spec/13 R290), and the curb controller's
grants (spec/26 R454). -/

namespace Sys2Proof.Machine

/-! Issue. -/

/-- A wait for an engine place that began in cycle t, by the group of a context, comes before another (R254). -/
def placeBefore (x y : Nat × Nat) : Bool := decide (x.1 < y.1) || (x.1 == y.1 && decide (x.2 < y.2))
/-- The wait of a group for a place: the one under way, or one that begins now. -/
def Core.placeWait (c : Core) (now gid : Nat) : Nat × Nat := (c.held.find? (fun x => x.2 == ctxOf gid)).getD (now, ctxOf gid)
/-- The engine of a core has a place for the group's command; places go first to who began waiting first (R254). -/
def State.enginePlace (s : State) (gid : Nat) : Bool :=
  let c := s.core (coreOf gid)
  let me := c.placeWait (s.cyc (coreOf gid)) gid
  decide (c.copyQ.length < 256) && !c.held.any (fun x => placeBefore x me)
/-- The group waits for a place (R254). -/
def State.awaitPlace (s : State) (gid : Nat) : Res :=
  (s.updCore (coreOf gid) (fun c =>
    let x := c.placeWait (s.cyc (coreOf gid)) gid
    { c with held := if c.held.contains x then c.held else c.held ++ [x] })).stallS
/-- A command handed to the engine (R266): it joins the group's copy batch; the group's earlier accesses are performed
first (R274). -/
def State.handOver (s : State) (gid : Nat) (g : Group) (c : CopyCmd) : Res :=
  if !s.enginePlace gid then s.awaitPlace gid
  else (s.drain gid).intoS gid g 0 fun _ s =>
    let c := { c with id := s.nextCmd, iss := g.issuer gid, at_ := s.tick, batch := g.copyB.next }
    let s := (s.updCore (coreOf gid) (fun x => { x with copyQ := x.copyQ ++ [c], held := x.held.filter (fun y => y.2 != ctxOf gid) }))
    .next (({ s with nextCmd := s.nextCmd + 1 }).done gid (fun g => { g with copyB := g.copyB.issue, cpysHdr := none }))
/-- The compare of a record's address against the group watchpoints (R266, R428). -/
def watchRecord (s : State) (gid : Nat) (g : Group) (a : W64) (k : Res) : Res :=
  if s.gwHit gid g 0 a.toNat 64 .rd then (s.gwCount gid g a.toNat 64 .rd).trapS gid g .watch a else k

/-- `cpy` (R265, R267). -/
def execCpy (bar a b c : Reg) (s : State) : Res :=
  scalar s fun gid g => settled s g <|
    s.handOver gid g { kind := .cpy, dst := g.reg a, src := g.reg b, len := g.reg c, bar := g.reg bar, hasBar := bar != 0 }
/-- `cpyt` (R265, R268). -/
def execCpyt (bar a b c : Reg) (s : State) : Res :=
  scalar s fun gid g => settled s g <| watchRecord s gid g (g.reg a) <|
    s.handOver gid g { kind := .cpyt, dst := g.reg a, src := g.reg b, len := g.reg (b + 1), far := g.reg c, bar := g.reg bar, hasBar := bar != 0 }
/-- A tile move issued: its access takes its place in slot order with it (R282, R290). -/
def tileMove (s : State) (h : Hnd) (a b : Reg) (kind : CopyKind) : Res :=
  tileOp s h fun gid g _ x => watchRecord s gid g (g.reg a) <|
    if !s.enginePlace gid then s.awaitPlace gid
    else (s.drain gid).intoS gid g 0 fun _ s =>
      let acc := wholeTile (if kind == .tld then .tldW else .tstR) x (kind == .tld)
      let t := s.teamOf g
      (s.setTeam g.key (t.placeAcc acc)).handOver gid g
        { kind := kind, dst := g.reg a, src := g.reg b, len := g.reg (b + 1), tile := x, acc := t.nextAcc }
/-- `tld` (R290). -/
def execTld (h : Hnd) (a b : Reg) (s : State) : Res := tileMove s h a b .tld
/-- `tst` (R290). -/
def execTst (h : Hnd) (a b : Reg) (s : State) : Res := tileMove s h a b .tst
/-- `bclose` (R269). -/
def execBclose (d : Reg) (n : BitVec 5) (s : State) : Res :=
  scalar s fun gid g => settled s g <|
    let m := n == 1
    let g' := g.updBatch m Batch.close
    let b := if m then g'.matB else g'.copyB
    .next ((s.setGroup gid g').done gid (fun g => g.setReg d (b.closed.setWidth 64)))

/-- The first part of a sealed message's destination that is neither a device page tagged with the issuing partition, whose stream it
names, nor in the team's own scratch aperture, its allocation or not (R271 step 3, log 59); a page that is not present holds the group. What
may be done in the page is not asked here. -/
def State.sealedDst (s : State) (gid : Nat) (g : Group) (dst : Nat) : Nat → Rc (Option Nat)
  | 0 => .ok none s
  | n + 1 =>
    let va := (dst + n) % 2 ^ 64
    match State.sealedDst s gid g dst n with
    | .ok none s =>
      if n ≠ 0 && va % 4096 ≠ 0 && va ≠ aperture then .ok none s
      else if inAperture va then .ok none s
      else if inTeamWin va then .ok (some va) s
      else match s.frameOf (coreOf gid) (s.launchOf g) va true with
        | (.port pa, s) => match regionOf pa with
          | .dram => .ok (if s.tagOf pa = some (s.launchOf g).part then none else some va) s
          | _ => .ok (some va) s
        | (.flt _, s) => .ok (some va) s
        | (.missing, s) => .hold (s.holdOnPage gid g 0 va .wr)
        | (_, s) => .hold s
    | r => r
/-- The header of a message at an address that is a multiple of 16, read at its port as an `sld.bp` would (R271 step 1), and read once: a
`cpys` that stalls after it keeps what it has read. -/
def State.readHeader (s : State) (gid : Nat) (g : Group) (m : W64) (k : BitVec 128 → State → Res) : Res :=
  let va := m.toNat
  match g.cpysHdr with
  | some h => k h s
  | none =>
    if g.refusedTo 0 va then s.trapS gid g (if inTeamWin va then .protect else .pageload) m
    else match s.locate gid g va 16 .rd true true with
      | (.flt c, s) => s.trapS gid g c m
      | (.missing, s) => (s.holdOnPage gid g 0 va .rd).stallS
      | (.moving, s) => s.stallS
      | (.hold, s) => s.stallS
      | (.port pa, s) =>
        (s.afterSide gid g 0 va pa 16 false (fun s => s.loadPort gid g pa 16 .bypass)).intoS gid g m fun bs s =>
          let h := BitVec.ofNat 128 (ofBytes bs)
          k h (s.updGroup gid (fun g => { g with cpysHdr := some h }))
/-- `cpys` (R265, R271): the header read and the destination check hold the S-stream; a predicted launch waits (R275). -/
def execCpys (bar a b c : Reg) (s : State) : Res :=
  scalar s fun gid g => settled s g <|
    let l := s.launchOf g
    let m := g.reg b
    let dst := (g.reg a).toNat
    if l.pred && l.live then s.stallS
    else if m.toNat % 16 ≠ 0 then s.trapS gid g .align m
    else s.readHeader gid g m fun hdr s =>
      let give := fun (s : State) =>
        s.handOver gid g { kind := .cpys, dst := g.reg a, src := m, sel := g.reg c, hdr := hdr, bar := g.reg bar, hasBar := bar != 0 }
      let len := fld hdr 64 32
      if fld hdr 96 32 ≠ 0 || len = 0 || 65536 < len then give s
      else (s.sealedDst gid g dst len).intoS gid g (g.reg a) fun r s => match r with
        | some va => s.trapS gid g .sealed (BitVec.ofNat 64 va)
        | none => give s

/-! The engine. -/

/-- A command of a core's engine. -/
def State.cmd? (s : State) (core id : Nat) : Option CopyCmd := (s.core core).copyQ.find? (fun c => c.id == id)
/-- A command put back. -/
def State.setCmd (s : State) (core : Nat) (c : CopyCmd) : State :=
  s.updCore core (fun x => { x with copyQ := x.copyQ.map (fun y => if y.id = c.id then c else y) })
/-- The same issuer. -/
def Issuer.same (a b : Issuer) : Bool := a.key == b.key && a.gidx == b.gidx && a.sidx == b.sidx
/-- The group's accesses that the command comes after have been performed, and its earlier commands accepted (R254, R274). -/
def State.copyTurn (s : State) (core : Nat) (c : CopyCmd) : Bool :=
  ((s.core core).copyQ.takeWhile (fun y => y.id != c.id)).all (fun y => !y.iss.same c.iss || y.taken || y.status.isSome)
  && (s.sideBy c.iss).all (fun e => decide (c.at_ < e.at_))
/-- The check of the barrier address (R266). -/
def State.barCheck (s : State) (c : CopyCmd) : Eng Unit :=
  let va := c.bar.toNat
  if !c.hasBar then .ok () s
  else if va % 64 ≠ 0 then .fail stScratch s
  else if inAperture va then
    match scratchLoc ((s.team? c.iss.key).getD {}) (va - aperture) 64 with
    | .port _ => .ok () s
    | _ => .fail stScratch s
  else if inTeamWin va && (va - teamWin) % 0x800000 < 0x400000 then
    match s.windowLoc (c.iss.key / 2 ^ 32) va 64 ((s.team? c.iss.key).getD {}).moving with
    | .port _ => .ok () s
    | .missing => .page va .wr s
    | _ => .fail stProtect s
  else .fail stProtect s
/-- Bytes that the command's far end, or copy, covers (R255). -/
def CopyCmd.total (c : CopyCmd) : Nat :=
  match c.kind with
  | .cpy => c.len.toNat
  | .cpys => 0
  | .cpyt | .tld | .tst => shUnits c.shape (shTy c.shape) * tyElem (shTy c.shape)
/-- The record read and checked (R259-R264, R290): the command with its units to land. -/
def State.takeShape (s : State) (core : Nat) (c : CopyCmd) : Eng CopyCmd :=
  if c.dst.toNat % 64 ≠ 0 then .fail stShape s
  else (s.engRead core c.iss.key c.dst.toNat 64).bind fun bs s =>
    let w := shapeOf bs
    let c := { c with shape := w, taken := true, left := [(0, shUnits w (shTy w))] }
    if badShape w c.src c.len (c.kind == .cpyt) || (c.kind == .tst && shConv w) then .fail stShape s
    else if outOfBounds w c.src c.len || ((c.kind == .tld || c.kind == .tst) && decide (c.tile.bytes < c.total)) then .fail stBounds s
    else .ok c s
/-- A command accepted and checked by the engine (R254, R259, R266). -/
def State.takeCmd (s : State) (core : Nat) (c : CopyCmd) : Eng CopyCmd :=
  let c := { c with since := s.cyc core }
  (s.barCheck c).bind fun _ s => match c.kind with
    | .cpy => .ok { c with taken := true, left := if c.len = 0 then [] else [(0, c.len.toNat)] } s
    | .cpys => .ok { c with taken := true } s
    | .cpyt | .tld | .tst => s.takeShape core c
/-- A command stalls on a page, with its request (R256, R324, R436). -/
def State.stallCmd (s : State) (core : Nat) (c : CopyCmd) (va : Nat) (rw : Rw) : State :=
  (s.engAsk core c.iss.key va rw).setCmd core
    { c with stalled := some (pageOf va), stallSince := if inTeamWin va then none else some s.stc }
/-- What an engine step leaves of its command: a status, a stall on a page with its request, or a wait (R256). -/
def Eng.after (r : Eng CopyCmd) (core : Nat) (c : CopyCmd) : State :=
  match r with
  | .ok c s => s.setCmd core c
  | .fail st s => s.setCmd core { c with status := some st, taken := true, left := [] }
  | .page va rw s => s.stallCmd core c va rw
  | .wait s => s

/-- An address lies in the register window of a team window (R21). -/
def inRegWindow (va : Nat) : Bool :=
  inTeamWin va && decide (0x400000 ≤ (va - teamWin) % 0x800000) && decide ((va - teamWin) % 0x800000 < 0x580000)
/-- Bytes of a unit of a command: an element, or one byte. -/
def CopyCmd.size (c : CopyCmd) : Nat :=
  match c.kind with
  | .cpy | .cpys => 1
  | .cpyt | .tld | .tst => tyElem (shTy c.shape)
/-- Where unit e of a command is written; none for a tile, and for an element outside the region (R264, R267, R268, R290). -/
def CopyCmd.dest (c : CopyCmd) (e : Nat) : Option Nat :=
  let reg := (regionAddr c.shape c.src c.len e)
  match c.kind with
  | .cpy | .cpys => some ((c.dst.toNat + e) % 2 ^ 64)
  | .cpyt => if shStore c.shape then reg else some ((c.far.toNat + c.size * e) % 2 ^ 64)
  | .tld => none
  | .tst => reg
/-- Unit e + 1 goes on in the aligned 4-byte element of a register window in which unit e lies: the two are written together (R20). -/
def CopyCmd.joins (c : CopyCmd) (e : Nat) : Bool :=
  match c.dest e, c.dest (e + 1) with
  | some a, some b => inRegWindow a && b == a + c.size && a / 4 == b / 4
  | _, _ => false
/-- How many units from e on are written together, at most k more. -/
def CopyCmd.span (c : CopyCmd) (e : Nat) : Nat → Nat
  | 0 => 1
  | k + 1 => if c.joins e then CopyCmd.span c (e + 1) k + 1 else 1
/-- The first of the units written together with e, none before lo. -/
def CopyCmd.head (c : CopyCmd) (lo e : Nat) : Nat → Nat
  | 0 => e
  | k + 1 => if decide (lo < e) && c.joins (e - 1) then CopyCmd.head c lo (e - 1) k else e
/-- The bytes that a unit of a command carries (R267, R268, R271, R290). -/
def State.unitBytes (s : State) (core : Nat) (c : CopyCmd) (e : Nat) : Eng (List Byte) :=
  let key := c.iss.key
  let n := c.size
  let region := match regionAddr c.shape c.src c.len e with
    | none => Eng.ok (padBytes c.shape) s
    | some a => s.engRead core key a n
  match c.kind with
  | .cpy => s.engRead core key (c.src.toNat + e) 1
  | .cpys => .ok [nth c.plain e 0] s
  | .cpyt => if shStore c.shape then s.engRead core key (c.far.toNat + n * e) n else region
  | .tld => region
  | .tst => .ok (s.tileRead ((s.team? key).getD {}) c.tile (n * e) n) s
/-- The bytes of consecutive units. -/
def State.unitsBytes (s : State) (core : Nat) (c : CopyCmd) (e : Nat) : Nat → Eng (List Byte)
  | 0 => .ok [] s
  | k + 1 => (s.unitBytes core c e).bind fun a s => (State.unitsBytes s core c (e + 1) k).bind fun b s => .ok (a ++ b) s
/-- Units of a command moved from e on, the m that are written together: the bytes that count as landed. -/
def State.copyUnit (s : State) (core : Nat) (c : CopyCmd) (e m : Nat) : Eng Nat :=
  let key := c.iss.key
  match c.kind with
  | .tld => (s.unitBytes core c e).bind fun bs s =>
    let t := (s.team? key).getD {}
    .ok c.size ((s.tileWrite t c.tile (c.size * e) bs).noteTile t c.tile (c.size * e) c.size)
  | _ => match c.dest e with
    | none => .ok 0 s
    | some a => (s.unitsBytes core c e m).bind fun bs s => (s.engWrite core key a bs).bind fun _ s => .ok (c.size * m) s
/-- How a run of units ended. -/
inductive Halt where
  | more
  | fail (status : BitVec 8)
  | page (va : Nat) (rw : Rw)
  | wait
  deriving DecidableEq, Repr
/-- Units moved one after another, from e on to those before hi, at least n of them: how many, the bytes that landed, and what stopped
them. The last argument bounds the turns. -/
def State.copyRun (s : State) (core : Nat) (c : CopyCmd) (e n hi : Nat) : Nat → (Nat × Nat × Halt) × State
  | 0 => ((0, 0, .more), s)
  | k + 1 =>
    if n = 0 || hi ≤ e then ((0, 0, .more), s)
    else
      let m := min (c.span e 3) (hi - e)
      match s.copyUnit core c e m with
      | .ok b s => let r := State.copyRun s core c (e + m) (n - m) hi k
        ((r.1.1 + m, r.1.2.1 + b, r.1.2.2), r.2)
      | .fail st s => ((0, 0, .fail st), s)
      | .page va rw s => ((0, 0, .page va rw), s)
      | .wait s => ((0, 0, .wait), s)
/-- The contiguous part of what is left that begins at an offset. -/
def pieceAt (start : Nat) : List (Nat × Nat) → Option (Nat × Nat)
  | [] => none
  | (f, n) :: r => if start < n then some (f + start, n - start) else pieceAt (start - n) r
/-- What is left without a range. -/
def without (a n : Nat) (l : List (Nat × Nat)) : List (Nat × Nat) :=
  l.flatMap (fun p =>
    (if p.1 < a then [(p.1, min p.2 (a - p.1))] else [])
    ++ (if a + n < p.1 + p.2 then [(max p.1 (a + n), p.1 + p.2 - max p.1 (a + n))] else []))
/-- The range that a command whose destination is contiguous writes: its first address, and its bytes. -/
def CopyCmd.whole (c : CopyCmd) : Option (Nat × Nat) :=
  match c.kind with
  | .cpy => some (c.dst.toNat, c.len.toNat)
  | .cpys => some (c.dst.toNat, fld c.hdr 64 32)
  | .cpyt => if shStore c.shape then none else some (c.far.toNat, c.total)
  | .tld | .tst => none
/-- The end of error marks under the bytes that units e .. e+k-1 of a command have written (R252): of lines that this part has rewritten
whole, and of those that the command has by now. n: the writes recorded before the part. -/
def State.healCopy (s : State) (core : Nat) (c : CopyCmd) (e k n : Nat) : State :=
  if s.badLines.isEmpty then s
  else
    let s := s.heal n
    match c.whole with
    | none => s
    | some (a, len) =>
      let sz := c.size
      let full := (linesOf (a + sz * e) (sz * k)).filter (fun v => decide (a ≤ 64 * v) && decide (64 * v + 64 ≤ a + len)
        && c.left.all (fun p => !overlaps (a + sz * p.1) (sz * p.2) (64 * v) 64))
      let done := full.filterMap (fun v => match s.engPort core c.iss.key (64 * v) 1 .wr with
        | .ok pa _ => if s.wrote.any (fun w => w.pa / 64 == pa / 64 && w.committed) then some (pa / 64) else none
        | _ => none)
      { s with badLines := s.badLines.filter (fun l => !done.contains l) }
/-- The virtual ranges that units e .. e+k-1 wrote, for the engine watchpoints (R429). -/
def CopyCmd.wrote (c : CopyCmd) (e k : Nat) : List (Nat × Nat) :=
  let n := tyElem (shTy c.shape)
  let elems := (List.range k).filterMap (fun i => (regionAddr c.shape c.src c.len (e + i)).map (fun a => (a, n)))
  match c.kind with
  | .cpy => [(c.dst.toNat + e, k)]
  | .cpys => [(c.dst.toNat + e, k)]
  | .cpyt => if shStore c.shape then elems else [(c.far.toNat + n * e, n * k)]
  | .tld => []
  | .tst => elems
/-- The command may move bytes: it has leave if it needs it (R255, R453), and its tile access has its turn (R282). -/
def State.mayMove (s : State) (core : Nat) (c : CopyCmd) : Bool × CopyCmd × State :=
  let turn := c.acc = 0 || ((s.team? c.iss.key).getD {}).accReady c.acc
  let away := c.hasBar && inTeamWin c.bar.toNat && (match objName c.iss.key c.bar.toNat with
    | some o => let t := (s.team? o.1).getD {}
      t.moving && (t.away || !((s.team? c.iss.key).getD {}).moving)
    | none => false)
  if !turn || away then (false, c, s)
  else if c.total ≤ 65536 || c.granted then (true, c, s)
  else
    let r := s.useLease core 2
    if r.1 then (true, { c with granted := true }, r.2.setCmd core { c with granted := true })
    else
      let c' := { c with asked := true }
      (false, c', (r.2.askLeave (dieOf core) 1 core c.id).setCmd core c')
/-- A part of a command's units lands and is counted (R267, R268, R273). -/
def State.landPart (s : State) (core : Nat) (c : CopyCmd) (start n : Nat) : State :=
  match pieceAt start c.left with
  | none => s
  | some (e0, k) =>
    let lo := ((c.left.find? (fun p => decide (p.1 ≤ e0) && decide (e0 < p.1 + p.2))).map (·.1)).getD e0
    let e := c.head lo e0 3
    let r := s.copyRun core c e (n + (e0 - e)) (e0 + k) (n + 3)
    let c' := { c with left := without e r.1.1 c.left }
    let t := match r.1.2.2 with
      | .more => r.2.setCmd core c'
      | .fail st => r.2.setCmd core { c' with status := some st, left := [] }
      | .page va rw => r.2.stallCmd core c' va rw
      | .wait => r.2.setCmd core c'
    let t := (t.healCopy core c' e r.1.1 s.wrote.length).keepCode s c.id
    let t := if c.hasBar then match objName c.iss.key c.bar.toNat with
        | some o => t.landed c.iss o.1 o.2 r.1.2.1
        | none => t
      else t
    if r.1.1 = 0 then t else (c.wrote e r.1.1).foldl (fun s w => s.engineWatch c.iss w.1 w.2) t
/-- COPY_BYTES_LANDED (R273): the engine accepts the command when its turn comes, and then lands part of it: n mod 2^32 + 1
units from the (n / 2^32)-th of those still to land. -/
def execCopyBytesLanded (core id n : Nat) (s : State) : Res :=
  .next (match s.cmd? core id with
    | none => s
    | some c =>
      if c.status.isSome || c.stalled.isSome then s
      else if c.stallSince.isSome then (s.pageOver core c.iss.key c.stallSince).setCmd core { c with stallSince := none }
      else if !c.taken then
        if s.copyTurn core c then (s.takeCmd core c).after core c else s
      else if c.left.isEmpty then s
      else
        let m := s.mayMove core c
        if m.1 then m.2.2.landPart core m.2.1 (n / 2 ^ 32 % (c.left.foldl (fun a p => a + p.2) 0)) (n % 2 ^ 32 + 1) else m.2.2)

/-- A sealed stream's state changed. -/
def State.setSeal (s : State) (p i st : Nat) : State :=
  s.updPart p (fun x => { x with seals := Tbl.put x.seals i { (Tbl.get x.seals i {}) with st := st } })
/-- The counter of a sealed message compared and spent (R271, R446). -/
def State.spendCounter (s : State) (core part : Nat) (c : CopyCmd) : State :=
  let i := fld c.sel 0 6
  let st := Tbl.get (s.part part).seals i {}
  let finish := fun (s : State) (code : BitVec 8) => s.setCmd core { c with status := some code }
  if 64 ≤ fld c.sel 0 32 || st.st = 0 || st.st = 2 then finish s stSealed
  else if fld c.hdr 96 32 ≠ 0 || fld c.hdr 64 32 = 0 || 65536 < fld c.hdr 64 32 then finish (s.setSeal part i 2) stTag
  else if fld c.hdr 0 64 ≠ st.next.toNat then finish (s.setSeal part i 2) stReplay
  else
    (s.updPart part (fun x => { x with seals := Tbl.put x.seals i { st with next := st.next + 1 } })).setCmd core
      { c with spent := true, skey := st.key, sid := st.sid }
/-- The message read, decrypted and verified into staging (R270, R271). -/
def State.openMessage (s : State) (core part : Nat) (c : CopyCmd) : State :=
  let len := fld c.hdr 64 32
  Eng.after (core := core) (c := c) <| (s.engRead core c.iss.key (c.src.toNat + 16) (len + 16)).bind fun bs s =>
    let iv := BitVec.ofNat 96 (c.sid.toNat * 2 ^ 64 + fld c.hdr 0 64)
    match Config.gcmOpen c.skey iv c.hdr (bs.take len) (BitVec.ofNat 128 (ofBytes (bs.drop len))) with
    | some p => .ok { c with plain := (p ++ List.replicate len 0).take len, left := [(0, len)] } s
    | none => .fail stTag (s.setSeal part (fld c.sel 0 6) 2)
/-- SEALED_MESSAGE (R271): the counter is compared and spent, in issue order within a group and stream; then the message is
staged, four at once. -/
def execSealedMessage (core id : Nat) (s : State) : Res :=
  .next (match s.cmd? core id with
    | none => s
    | some c =>
      if c.kind != CopyKind.cpys || !c.taken || c.status.isSome || c.stalled.isSome || !c.left.isEmpty || !c.plain.isEmpty then s
      else
        let part := ((s.launch? (c.iss.key / 2 ^ 32)).getD {}).part
        let q := (s.core core).copyQ
        if !c.spent then
          if (q.takeWhile (fun y => y.id != c.id)).all (fun y => !y.iss.same c.iss || y.kind != .cpys
              || fld y.sel 0 32 != fld c.sel 0 32 || y.spent || y.status.isSome) then s.spendCounter core part c
          else s
        else if 4 ≤ (q.filter (fun y => !y.plain.isEmpty)).length then s
        else s.openMessage core part c)
/-- A command has ended: every unit has landed, or it has a status (R272). -/
def CopyCmd.ended (c : CopyCmd) : Bool :=
  c.status.isSome || (c.taken && c.left.isEmpty && (c.kind != .cpys || !c.plain.isEmpty))
/-- COPY_COMMAND_COMPLETE (R272): the batch object counts it, its tile access leaves slot order, and the objects it named are
tested (R226, R273). -/
def execCopyCommandComplete (core id : Nat) (s : State) : Res :=
  .next (match s.cmd? core id with
    | none => s
    | some c =>
      if !c.ended then s
      else
        let s := (s.updCore core (fun x => { x with copyQ := x.copyQ.filter (fun y => y.id != id) })).dropCode
        let s := s.updDie (dieOf core) (fun d => { d with leaves := d.leaves.filter (fun x => !(x.cls == 1 && !x.curb && x.id == id)) })
        let s := s.updTeam c.iss.key (fun t => t.dropAcc c.acc)
        let s := s.batchDone c.iss false c.batch (c.status.getD 0)
        let s := s.monitor core ((s.launch? (c.iss.key / 2 ^ 32)).getD {}).part 3 (s.cyc core - c.since)
        if c.hasBar then match (objName c.iss.key c.bar.toNat).bind (fun o => s.objAt o.1 o.2) with
          | some o => s.orphanTest o
          | none => s
        else s)

/-! Curb grants (R453, R454). -/

/-- The weight of a request (R453). -/
def leaveWeight (cls : Nat) : Nat := match cls with
  | 0 => 8
  | 1 => 2
  | _ => 1
/-- The order of grants: class, then age, then TANDEM, COREID or QUARTER (R454). -/
def leaveOrder (ls : List Leave) : List Leave :=
  ls.mergeSort (fun a b => decide (a.cls < b.cls) || (a.cls == b.cls && (decide (a.since < b.since)
    || (a.since == b.since && decide (a.who ≤ b.who)))))
/-- The requests that one cycle grants: from the first, until one does not fit (R454). -/
def grantable (room : Nat) : List Leave → List Leave
  | [] => []
  | x :: r => if leaveWeight x.cls ≤ room then x :: grantable (room - leaveWeight x.cls) r else []
/-- A grant reaches its requester: an engine's command, a complex's command, or a lease for a `curb` or a quarter. -/
def State.giveLeave (s : State) (die : Nat) (x : Leave) : State :=
  let wait := s.cyc (20 * die) - x.since
  let s := s.updDie die (fun d => { d with leaves := d.leaves.erase x,
                                           gaps := if x.cls = 2 then d.gaps else Tbl.put d.gaps (x.cls * 65536 + x.who) (s.cyc (20 * die) + 32),
                                           reg := setFld d.reg 64 32 (min 0xFFFFFFFF (max (fld d.reg 64 32) wait)) })
  let core := if x.cls = 0 then 2 * x.who else if x.cls = 1 then x.who else x.who / 4
  let part := ((s.parts.find? (fun p => bit p.2.rcd.toNat (tandemOf core))).map (·.1)).getD 0
  let s := s.monitor core part 5 wait
  if x.curb then
    let gid := x.id
    let team := ((s.group? gid).map Group.key).getD 0
    let key := if x.cls = 0 then 32 + team else if x.cls = 1 then 2 else 16 + x.who % 4
    let s := s.updCore core (fun c => { c with lease := Tbl.put c.lease key (s.cyc core) })
    s.updGroup gid (fun g => { g with curbAsk := g.curbAsk - 1 })
  else if x.cls = 0 then
    { s with teams := s.teams.map (fun e => (e.1, { e.2 with mxQ := e.2.mxQ.map (fun (c : MxCmd) =>
        if (s.complex x.who).owner = some e.1 && c.asked && !c.granted then { c with granted := true } else c) })) }
  else if x.cls = 1 then
    s.updCore core (fun c => { c with copyQ := c.copyQ.map (fun y => if y.id = x.id then { y with granted := true } else y) })
  else s.updCore core (fun c => { c with lease := Tbl.put c.lease (20 + x.who % 4) (s.cyc core) })
/-- CURB_GRANT (R454): the grants of one cycle of a die's controller, which it makes once in a cycle. -/
def execCurbGrant (die : Nat) (s : State) : Res :=
  let d := s.die die
  let now := s.cyc (20 * die)
  let xs := grantable (fld d.reg 8 8) (leaveOrder (d.leaves.filter (fun x => decide (x.since < now))))
  .next (if xs.isEmpty || d.grantAt = now + 1 then s
  else xs.foldl (fun s x => s.giveLeave die x) (s.setDie die { d with grantAt := now + 1 }))

end Sys2Proof.Machine
end

