-- ==== Sys2Proof/Decode.lean ====
section
/-! DEFINITION. The decoder and the encoder (spec/03). A word is decoded by reading its fields where R65-R81 place
them; it is accepted when the instruction so read is well-formed and its encoding is the word itself, so that no stray
bit of a reserved or unused field passes (R66, R76, R82). -/

namespace Sys2Proof

/-- Why a word is no instruction (R82). -/
inductive Reject where
  /-- no instruction has this op or op8 (R67, R78) -/
  | opcode (op : Nat)
  /-- the op or op8 has no such function (R67, R78, R79) -/
  | function (op fn : Nat)
  /-- a code field of the word has a reserved value: scope, condition or kind (R69, R72, R79) -/
  | code
  /-- a field is reserved and not zero, or outside its limits (R66, R68-R81) -/
  | field
  deriving DecidableEq, Repr

/-- Format R (R65). -/
def encR (op fn d a b : Nat) : Nat := op * 2 ^ 26 + d * 2 ^ 21 + a * 2 ^ 16 + b * 2 ^ 11 + fn
/-- Formats I and B (R65). -/
def encI (op d a imm : Nat) : Nat := op * 2 ^ 26 + d * 2 ^ 21 + a * 2 ^ 16 + imm
/-- Format M (R65). -/
def encM (op d a sz q off : Nat) : Nat := op * 2 ^ 26 + d * 2 ^ 21 + a * 2 ^ 16 + sz * 2 ^ 14 + q * 2 ^ 12 + off
/-- Format J (R65). -/
def encJ (op off : Nat) : Nat := op * 2 ^ 26 + off
/-- Format E (R65). -/
def encE (op fn d a b c : Nat) : Nat := op * 2 ^ 26 + d * 2 ^ 21 + a * 2 ^ 16 + b * 2 ^ 11 + c * 2 ^ 6 + fn
/-- Format E with imm10 in sb and sc (R69). -/
def encE10 (op fn d a imm : Nat) : Nat := op * 2 ^ 26 + d * 2 ^ 21 + a * 2 ^ 16 + imm * 2 ^ 6 + fn
/-- Format H; lo holds bits 9:0 (R65). -/
def encH (op fn hx hy lo : Nat) : Nat := op * 2 ^ 26 + fn * 2 ^ 22 + hx * 2 ^ 16 + hy * 2 ^ 10 + lo
/-- Format A (R65). -/
def encA (fn d a b : Nat) (o : Order) (sc : Scope) (w : Bool) : Nat :=
  0x1E * 2 ^ 26 + fn * 2 ^ 21 + d * 2 ^ 16 + a * 2 ^ 11 + b * 2 ^ 6 + o.code * 2 ^ 4 + sc.code * 2 + w.toNat
/-- A lane word (R73). -/
def encL (op fn : Nat) (w : LaneWord) : Nat :=
  op * 2 ^ 88 + w.gn.toNat * 2 ^ 87 + w.gp.toNat * 2 ^ 84 + w.la.toNat * 2 ^ 80 + w.vd.toNat * 2 ^ 72
  + w.va.toNat * 2 ^ 64 + w.vb.toNat * 2 ^ 56 + w.vc.toNat * 2 ^ 48 + w.ty.code * 2 ^ 44 + w.md.toNat * 2 ^ 40
  + fn * 2 ^ 32 + w.x32.toNat

/-- The word of an instruction: a 32-bit scalar word, a 96-bit lane word (R65, R73); 0, which is no instruction, for an
event, which has none. -/
def encode : Instr → Nat
  | .add d a b => encR 1 0 d.toNat a.toNat b.toNat
  | .sub d a b => encR 1 1 d.toNat a.toNat b.toNat
  | .mul d a b => encR 1 2 d.toNat a.toNat b.toNat
  | .mulh d a b => encR 1 3 d.toNat a.toNat b.toNat
  | .mulhn d a b => encR 1 4 d.toNat a.toNat b.toNat
  | .div d a b => encR 1 5 d.toNat a.toNat b.toNat
  | .divn d a b => encR 1 6 d.toNat a.toNat b.toNat
  | .rem d a b => encR 1 7 d.toNat a.toNat b.toNat
  | .remn d a b => encR 1 8 d.toNat a.toNat b.toNat
  | .and d a b => encR 1 9 d.toNat a.toNat b.toNat
  | .or d a b => encR 1 10 d.toNat a.toNat b.toNat
  | .xor d a b => encR 1 11 d.toNat a.toNat b.toNat
  | .shl d a b => encR 1 12 d.toNat a.toNat b.toNat
  | .shr d a b => encR 1 13 d.toNat a.toNat b.toNat
  | .sra d a b => encR 1 14 d.toNat a.toNat b.toNat
  | .min d a b => encR 1 15 d.toNat a.toNat b.toNat
  | .max d a b => encR 1 16 d.toNat a.toNat b.toNat
  | .minn d a b => encR 1 17 d.toNat a.toNat b.toNat
  | .maxn d a b => encR 1 18 d.toNat a.toNat b.toNat
  | .slt d a b => encR 1 19 d.toNat a.toNat b.toNat
  | .sltn d a b => encR 1 20 d.toNat a.toNat b.toNat
  | .seq d a b => encR 1 21 d.toNat a.toNat b.toNat
  | .sne d a b => encR 1 22 d.toNat a.toNat b.toNat
  | .clz d a => encR 1 23 d.toNat a.toNat 0
  | .ctz d a => encR 1 24 d.toNat a.toNat 0
  | .popc d a => encR 1 25 d.toNat a.toNat 0
  | .sextB d a => encR 1 26 d.toNat a.toNat 0
  | .sextH d a => encR 1 27 d.toNat a.toNat 0
  | .sextW d a => encR 1 28 d.toNat a.toNat 0
  | .zextB d a => encR 1 29 d.toNat a.toNat 0
  | .zextH d a => encR 1 30 d.toNat a.toNat 0
  | .zextW d a => encR 1 31 d.toNat a.toNat 0
  | .addi d a i => encI 0x02 d.toNat a.toNat i.toNat
  | .andi d a i => encI 0x03 d.toNat a.toNat i.toNat
  | .ori d a i => encI 0x04 d.toNat a.toNat i.toNat
  | .xori d a i => encI 0x05 d.toNat a.toNat i.toNat
  | .shli d a n => encI 0x06 d.toNat a.toNat n.toNat
  | .shri d a n => encI 0x07 d.toNat a.toNat n.toNat
  | .srai d a n => encI 0x08 d.toNat a.toNat n.toNat
  | .slti d a i => encI 0x09 d.toNat a.toNat i.toNat
  | .lih d i => encI 0x0A d.toNat 0 i.toNat
  | .lhh d a i => encI 0x0B d.toNat a.toNat i.toNat
  | .lhx d a i => encI 0x0C d.toNat a.toNat i.toNat
  | .sld d a sz bp off => encM 0x0D d.toNat a.toNat sz.code bp.toNat off.toNat
  | .sst d a sz off => encM 0x0E d.toNat a.toNat sz.code 0 off.toNat
  | .beq a b off => encI 0x0F a.toNat b.toNat off.toNat
  | .bne a b off => encI 0x10 a.toNat b.toNat off.toNat
  | .blt a b off => encI 0x11 a.toNat b.toNat off.toNat
  | .bge a b off => encI 0x12 a.toNat b.toNat off.toNat
  | .bltn a b off => encI 0x13 a.toNat b.toNat off.toNat
  | .bgen a b off => encI 0x14 a.toNat b.toNat off.toNat
  | .jmp off => encJ 0x15 off.toNat
  | .call off => encJ 0x16 off.toNat
  | .jr a => encR 0x17 0 0 a.toNat 0
  | .callr a => encR 0x17 1 0 a.toNat 0
  | .ret => encR 0x17 2 0 0 0
  | .lgo a b n => encE 0x18 0 0 a.toNat b.toNat n.toNat
  | .lsync => encE 0x18 1 0 0 0 0
  | .spop d => encE 0x18 2 d.toNat 0 0 0
  | .lqd d => encE 0x18 3 d.toNat 0 0 0
  | .spawn d a => encE 0x19 0 d.toNat a.toNat 0 0
  | .exit => encE 0x19 1 0 0 0 0
  | .yield => encE 0x19 2 0 0 0 0
  | .setprio n => encE 0x19 3 0 0 0 n.toNat
  | .crit n => encE 0x19 4 0 0 0 n.toNat
  | .srd d c => encE10 0x19 5 d.toNat 0 c.toNat
  | .swr a c => encE10 0x19 6 0 a.toNat c.toNat
  | .fmt a => encE 0x19 7 0 a.toNat 0 0
  | .stime d => encE 0x19 8 d.toNat 0 0 0
  | .mark a n => encE10 0x19 9 0 a.toNat n.toNat
  | .talloc h a => encH 0x1A 0 h.toNat 0 (a.toNat * 32)
  | .tgive h a => encH 0x1A 1 h.toNat 0 (a.toNat * 32)
  | .tfree h => encH 0x1A 2 h.toNat 0 0
  | .tld h a b => encH 0x1A 3 h.toNat 0 (a.toNat * 32 + b.toNat)
  | .tst h a b => encH 0x1A 4 h.toNat 0 (a.toNat * 32 + b.toNat)
  | .tzero h => encH 0x1A 5 h.toNat 0 0
  | .tinfo d h => encH 0x1A 6 h.toNat 0 (d.toNat * 32)
  | .mxacq => encH 0x1B 0 0 0 0
  | .mxrel => encH 0x1B 1 0 0 0
  | .mxrdy t q v => encH 0x1B 2 0 t.toNat (q.toNat * 256 + v.toNat)
  | .mxa hd ha t => encH 0x1B 3 hd.toNat ha.toNat t.toNat
  | .mxs hd ha t => encH 0x1B 4 hd.toNat ha.toNat t.toNat
  | .mxdr hd a b n => encH 0x1B 5 hd.toNat n.toNat (a.toNat * 32 + b.toNat)
  | .cbld a n => encH 0x1B 6 0 n.toNat (a.toNat * 32)
  | .cpy bar a b c => encE 0x1C 0 bar.toNat a.toNat b.toNat c.toNat
  | .cpyt bar a b c => encE 0x1C 1 bar.toNat a.toNat b.toNat c.toNat
  | .cpys bar a b c => encE 0x1C 2 bar.toNat a.toNat b.toNat c.toNat
  | .bclose d n => encE 0x1C 3 d.toNat 0 0 n.toNat
  | .binit a b f => encE 0x1D 0 0 a.toNat b.toNat f.toNat
  | .barr d a => encE 0x1D 1 d.toNat a.toNat 0 0
  | .barrd d a => encE 0x1D 2 d.toNat a.toNat 0 0
  | .bexp a b => encE 0x1D 3 0 a.toNat b.toNat 0
  | .wait a b k => encE 0x1D 4 0 a.toNat b.toNat k.code
  | .btest d a b k => encE 0x1D 5 d.toNat a.toNat b.toNat k.code
  | .samoAdd d a b o sc w => encA 0 d.toNat a.toNat b.toNat o sc w
  | .samoAnd d a b o sc w => encA 1 d.toNat a.toNat b.toNat o sc w
  | .samoOr d a b o sc w => encA 2 d.toNat a.toNat b.toNat o sc w
  | .samoXor d a b o sc w => encA 3 d.toNat a.toNat b.toNat o sc w
  | .samoMin d a b o sc w => encA 4 d.toNat a.toNat b.toNat o sc w
  | .samoMax d a b o sc w => encA 5 d.toNat a.toNat b.toNat o sc w
  | .samoMinn d a b o sc w => encA 6 d.toNat a.toNat b.toNat o sc w
  | .samoMaxn d a b o sc w => encA 7 d.toNat a.toNat b.toNat o sc w
  | .samoSwap d a b o sc w => encA 8 d.toNat a.toNat b.toNat o sc w
  | .scas d a b o sc w => encA 9 d.toNat a.toNat b.toNat o sc w
  | .samoFadd d a b o sc => encA 10 d.toNat a.toNat b.toNat o sc false
  | .sldo d a o sc w => encA 11 d.toNat a.toNat 0 o sc w
  | .ssto a b o sc w => encA 12 0 a.toNat b.toNat o sc w
  | .lock a sc w => encA 13 0 a.toNat 0 .rlx sc w
  | .unlock a sc w => encA 14 0 a.toNat 0 .rlx sc w
  | .sredAdd a b o sc w => encA 16 0 a.toNat b.toNat o sc w
  | .sredAnd a b o sc w => encA 17 0 a.toNat b.toNat o sc w
  | .sredOr a b o sc w => encA 18 0 a.toNat b.toNat o sc w
  | .sredXor a b o sc w => encA 19 0 a.toNat b.toNat o sc w
  | .sredMin a b o sc w => encA 20 0 a.toNat b.toNat o sc w
  | .sredMax a b o sc w => encA 21 0 a.toNat b.toNat o sc w
  | .sredMinn a b o sc w => encA 22 0 a.toNat b.toNat o sc w
  | .sredMaxn a b o sc w => encA 23 0 a.toNat b.toNat o sc w
  | .sredFadd a b o sc => encA 24 0 a.toNat b.toNat o sc false
  | .fence o sc => encE 0x1F 0 0 0 o.code sc.code
  | .flush a b => encE 0x1F 1 0 a.toNat b.toNat 0
  | .inv a b => encE 0x1F 2 0 a.toNat b.toNat 0
  | .vstat d n => encE 0x1F 3 d.toNat 0 0 n.toNat
  | .dlaunch d a b => encE 0x20 0 d.toNat a.toNat b.toNat 0
  | .trap n => encE10 0x21 0 0 0 n.toNat
  | .brk n => encE10 0x21 1 0 0 n.toNat
  | .curb d n => encE 0x21 2 d.toNat 0 0 n.toNat
  | .vadd w => encL 1 0 w
  | .vsub w => encL 1 1 w
  | .vmul w => encL 1 2 w
  | .vmulh w => encL 1 3 w
  | .vmad w => encL 1 4 w
  | .vmin w => encL 1 5 w
  | .vmax w => encL 1 6 w
  | .vabs w => encL 1 7 w
  | .vneg w => encL 1 8 w
  | .vand w => encL 1 9 w
  | .vor w => encL 1 10 w
  | .vxor w => encL 1 11 w
  | .vnot w => encL 1 12 w
  | .vshl w => encL 1 13 w
  | .vshr w => encL 1 14 w
  | .vsra w => encL 1 15 w
  | .vbfe w => encL 1 16 w
  | .vbfi w => encL 1 17 w
  | .vpopc w => encL 1 18 w
  | .vclz w => encL 1 19 w
  | .vbrev w => encL 1 20 w
  | .vfadd w => encL 2 0 w
  | .vfsub w => encL 2 1 w
  | .vfmul w => encL 2 2 w
  | .vffma w => encL 2 3 w
  | .vfmin w => encL 2 4 w
  | .vfmax w => encL 2 5 w
  | .vfdiv w => encL 2 6 w
  | .vrcp w => encL 2 7 w
  | .vrsq w => encL 2 8 w
  | .vsqrt w => encL 2 9 w
  | .vexp2 w => encL 2 10 w
  | .vlog2 w => encL 2 11 w
  | .vsin w => encL 2 12 w
  | .vcos w => encL 2 13 w
  | .vfrnd w => encL 2 14 w
  | .vfcls w => encL 2 15 w
  | .vcmp cc w => encL 3 cc.code w
  | .vfcmp cc w => encL 3 (128 + cc.code) w
  | .pand w => encL 4 0 w
  | .por w => encL 4 1 w
  | .pxor w => encL 4 2 w
  | .pandn w => encL 4 3 w
  | .vcvt w => encL 5 0 w
  | .vquant w => encL 5 1 w
  | .vdeq w => encL 5 2 w
  | .vpack w => encL 5 3 w
  | .vunpack w => encL 5 4 w
  | .vscale w => encL 5 5 w
  | .vmov w => encL 6 0 w
  | .vmovk w => encL 6 1 w
  | .vmovi w => encL 6 2 w
  | .vsel w => encL 6 3 w
  | .vshfl w => encL 6 4 w
  | .vbcast w => encL 6 5 w
  | .vballot w => encL 6 6 w
  | .vred w => encL 6 7 w
  | .vscan w => encL 6 8 w
  | .vput w => encL 6 9 w
  | .vspec w => encL 6 10 w
  | .vld w => encL 7 0 w
  | .vst w => encL 7 1 w
  | .vlds w => encL 7 2 w
  | .vsts w => encL 7 3 w
  | .vamo w => encL 7 4 w
  | .vrdm w => encL 7 5 w
  | .vtget w => encL 7 6 w
  | .vtset w => encL 7 7 w
  | .lbra w => encL 8 0 w
  | .mjoin w => encL 8 1 w
  | .join w => encL 8 2 w
  | .lend w => encL 8 3 w
  | .lkill w => encL 8 4 w
  | .lfmt w => encL 8 5 w
  | .lnop w => encL 8 6 w
  | .lbrk w => encL 8 7 w
  | _ => 0

/-- The five-bit register at bit lo. -/
def regAt (w lo : Nat) : Reg := BitVec.ofNat 5 (bits w lo 5)

/-- op 0x01, by function number (R67). -/
def rawAlu (fn : Nat) (d a b : Reg) : Option Instr :=
  match fn with
  | 0 => some (.add d a b) | 1 => some (.sub d a b) | 2 => some (.mul d a b) | 3 => some (.mulh d a b)
  | 4 => some (.mulhn d a b) | 5 => some (.div d a b) | 6 => some (.divn d a b) | 7 => some (.rem d a b)
  | 8 => some (.remn d a b) | 9 => some (.and d a b) | 10 => some (.or d a b) | 11 => some (.xor d a b)
  | 12 => some (.shl d a b) | 13 => some (.shr d a b) | 14 => some (.sra d a b) | 15 => some (.min d a b)
  | 16 => some (.max d a b) | 17 => some (.minn d a b) | 18 => some (.maxn d a b) | 19 => some (.slt d a b)
  | 20 => some (.sltn d a b) | 21 => some (.seq d a b) | 22 => some (.sne d a b) | 23 => some (.clz d a)
  | 24 => some (.ctz d a) | 25 => some (.popc d a) | 26 => some (.sextB d a) | 27 => some (.sextH d a)
  | 28 => some (.sextW d a) | 29 => some (.zextB d a) | 30 => some (.zextH d a) | 31 => some (.zextW d a)
  | _ => none

/-- Ops 0x18, 0x19, 0x1C, 0x1D (but wait and btest), 0x1F (but fence), 0x20, 0x21, format E (R69). -/
def rawE (op fn : Nat) (d a b c : Reg) (imm : BitVec 10) : Option Instr :=
  match op, fn with
  | 0x18, 0 => some (.lgo a b c) | 0x18, 1 => some .lsync | 0x18, 2 => some (.spop d) | 0x18, 3 => some (.lqd d)
  | 0x19, 0 => some (.spawn d a) | 0x19, 1 => some .exit | 0x19, 2 => some .yield | 0x19, 3 => some (.setprio c)
  | 0x19, 4 => some (.crit c) | 0x19, 5 => some (.srd d imm) | 0x19, 6 => some (.swr a imm) | 0x19, 7 => some (.fmt a)
  | 0x19, 8 => some (.stime d) | 0x19, 9 => some (.mark a imm)
  | 0x1C, 0 => some (.cpy d a b c) | 0x1C, 1 => some (.cpyt d a b c) | 0x1C, 2 => some (.cpys d a b c)
  | 0x1C, 3 => some (.bclose d c)
  | 0x1D, 0 => some (.binit a b (BitVec.ofNat 3 c.toNat)) | 0x1D, 1 => some (.barr d a) | 0x1D, 2 => some (.barrd d a)
  | 0x1D, 3 => some (.bexp a b)
  | 0x1F, 1 => some (.flush a b) | 0x1F, 2 => some (.inv a b) | 0x1F, 3 => some (.vstat d c)
  | 0x20, 0 => some (.dlaunch d a b)
  | 0x21, 0 => some (.trap imm) | 0x21, 1 => some (.brk imm) | 0x21, 2 => some (.curb d c)
  | _, _ => none

/-- The kind field of wait and btest (R69). -/
def WaitKind.ofCode? (n : Nat) : Option WaitKind :=
  match n with
  | 0 => some .obj | 1 => some .copy | 2 => some .matrix | 4 => some .objOr | _ => none

/-- Ops 0x1A and 0x1B, format H (R70). -/
def rawH (op fn : Nat) (hx hy : Hnd) (a b : Reg) (w : Nat) : Option Instr :=
  let t : BitVec 6 := BitVec.ofNat 6 (bits w 0 6)
  match op, fn with
  | 0x1A, 0 => some (.talloc hx a) | 0x1A, 1 => some (.tgive hx a) | 0x1A, 2 => some (.tfree hx)
  | 0x1A, 3 => some (.tld hx a b) | 0x1A, 4 => some (.tst hx a b) | 0x1A, 5 => some (.tzero hx)
  | 0x1A, 6 => some (.tinfo a hx)
  | 0x1B, 0 => some .mxacq | 0x1B, 1 => some .mxrel
  | 0x1B, 2 => some (.mxrdy hy (BitVec.ofNat 2 (bits w 8 2)) (BitVec.ofNat 8 (bits w 0 8)))
  | 0x1B, 3 => some (.mxa hx hy t) | 0x1B, 4 => some (.mxs hx hy t)
  | 0x1B, 5 => some (.mxdr hx a b hy) | 0x1B, 6 => some (.cbld a hy)
  | _, _ => none

/-- Op 0x1E, format A (R71). -/
def rawA (fn : Nat) (d a b : Reg) (o : Order) (sc : Scope) (w : Bool) : Option Instr :=
  match fn with
  | 0 => some (.samoAdd d a b o sc w) | 1 => some (.samoAnd d a b o sc w) | 2 => some (.samoOr d a b o sc w)
  | 3 => some (.samoXor d a b o sc w) | 4 => some (.samoMin d a b o sc w) | 5 => some (.samoMax d a b o sc w)
  | 6 => some (.samoMinn d a b o sc w) | 7 => some (.samoMaxn d a b o sc w) | 8 => some (.samoSwap d a b o sc w)
  | 9 => some (.scas d a b o sc w) | 10 => some (.samoFadd d a b o sc) | 11 => some (.sldo d a o sc w)
  | 12 => some (.ssto a b o sc w) | 13 => some (.lock a sc w) | 14 => some (.unlock a sc w)
  | 16 => some (.sredAdd a b o sc w) | 17 => some (.sredAnd a b o sc w) | 18 => some (.sredOr a b o sc w)
  | 19 => some (.sredXor a b o sc w) | 20 => some (.sredMin a b o sc w) | 21 => some (.sredMax a b o sc w)
  | 22 => some (.sredMinn a b o sc w) | 23 => some (.sredMaxn a b o sc w) | 24 => some (.sredFadd a b o sc)
  | _ => none

/-- An instruction or the rejection named. -/
def orReject (o : Option Instr) (r : Reject) : Except Reject Instr :=
  match o with
  | some i => .ok i
  | none => .error r

/-- The fields of a scalar word, read as R65-R72 place them, before the check of what must be zero or in range. -/
def rawScalar (w : Nat) : Except Reject Instr :=
  let op := bits w 26 6
  let r21 := regAt w 21
  let r16 := regAt w 16
  let r11 := regAt w 11
  let r6 := regAt w 6
  let i16 : BitVec 16 := BitVec.ofNat 16 (bits w 0 16)
  let i6 : BitVec 6 := BitVec.ofNat 6 (bits w 0 6)
  let o12 : BitVec 12 := BitVec.ofNat 12 (bits w 0 12)
  let o26 : BitVec 26 := BitVec.ofNat 26 (bits w 0 26)
  let i10 : BitVec 10 := BitVec.ofNat 10 (bits w 6 10)
  match op with
  | 0x01 => orReject (rawAlu (bits w 0 11) r21 r16 r11) (.function op (bits w 0 11))
  | 0x02 => .ok (.addi r21 r16 i16)
  | 0x03 => .ok (.andi r21 r16 i16)
  | 0x04 => .ok (.ori r21 r16 i16)
  | 0x05 => .ok (.xori r21 r16 i16)
  | 0x06 => .ok (.shli r21 r16 i6)
  | 0x07 => .ok (.shri r21 r16 i6)
  | 0x08 => .ok (.srai r21 r16 i6)
  | 0x09 => .ok (.slti r21 r16 i16)
  | 0x0A => .ok (.lih r21 i16)
  | 0x0B => .ok (.lhh r21 r16 i16)
  | 0x0C => .ok (.lhx r21 r16 i16)
  | 0x0D => .ok (.sld r21 r16 (Size.ofCode (bits w 14 2)) (bit w 12) o12)
  | 0x0E => .ok (.sst r21 r16 (Size.ofCode (bits w 14 2)) o12)
  | 0x0F => .ok (.beq r21 r16 i16)
  | 0x10 => .ok (.bne r21 r16 i16)
  | 0x11 => .ok (.blt r21 r16 i16)
  | 0x12 => .ok (.bge r21 r16 i16)
  | 0x13 => .ok (.bltn r21 r16 i16)
  | 0x14 => .ok (.bgen r21 r16 i16)
  | 0x15 => .ok (.jmp o26)
  | 0x16 => .ok (.call o26)
  | 0x17 => match bits w 0 11 with
    | 0 => .ok (.jr r16)
    | 1 => .ok (.callr r16)
    | 2 => .ok .ret
    | fn => .error (.function op fn)
  | 0x1A => orReject (rawH op (bits w 22 4) (BitVec.ofNat 6 (bits w 16 6)) (BitVec.ofNat 6 (bits w 10 6)) (regAt w 5) (regAt w 0) w)
      (.function op (bits w 22 4))
  | 0x1B => orReject (rawH op (bits w 22 4) (BitVec.ofNat 6 (bits w 16 6)) (BitVec.ofNat 6 (bits w 10 6)) (regAt w 5) (regAt w 0) w)
      (.function op (bits w 22 4))
  | 0x1E => match Scope.ofCode? (bits w 1 3) with
    | some sc => orReject (rawA (bits w 21 5) r16 r11 r6 (Order.ofCode (bits w 4 2)) sc (bit w 0)) (.function op (bits w 21 5))
    | none => .error .code
  | 0x1D => match bits w 0 6 with
    | 4 => match WaitKind.ofCode? (bits w 6 5) with
      | some k => .ok (.wait r16 r11 k)
      | none => .error .code
    | 5 => match WaitKind.ofCode? (bits w 6 5) with
      | some k => .ok (.btest r21 r16 r11 k)
      | none => .error .code
    | fn => orReject (rawE op fn r21 r16 r11 r6 i10) (.function op fn)
  | 0x1F => match bits w 0 6 with
    | 0 => match Scope.ofCode? (bits w 6 5) with
      | some sc => .ok (.fence (Order.ofCode (bits w 11 5)) sc)
      | none => .error .code
    | fn => orReject (rawE op fn r21 r16 r11 r6 i10) (.function op fn)
  | 0x18 => orReject (rawE op (bits w 0 6) r21 r16 r11 r6 i10) (.function op (bits w 0 6))
  | 0x19 => orReject (rawE op (bits w 0 6) r21 r16 r11 r6 i10) (.function op (bits w 0 6))
  | 0x1C => orReject (rawE op (bits w 0 6) r21 r16 r11 r6 i10) (.function op (bits w 0 6))
  | 0x20 => orReject (rawE op (bits w 0 6) r21 r16 r11 r6 i10) (.function op (bits w 0 6))
  | 0x21 => orReject (rawE op (bits w 0 6) r21 r16 r11 r6 i10) (.function op (bits w 0 6))
  | _ => .error (.opcode op)

/-- The operand fields of a lane word (R73). -/
def rawFields (w : Nat) : LaneWord :=
  { gn := bit w 87, gp := BitVec.ofNat 3 (bits w 84 3), la := BitVec.ofNat 4 (bits w 80 4), vd := BitVec.ofNat 8 (bits w 72 8),
    va := BitVec.ofNat 8 (bits w 64 8), vb := BitVec.ofNat 8 (bits w 56 8), vc := BitVec.ofNat 8 (bits w 48 8),
    ty := Ty.ofCode (bits w 44 4), md := BitVec.ofNat 4 (bits w 40 4), x32 := BitVec.ofNat 32 (bits w 0 32) }

/-- VINT (R78). -/
def rawVint (fn : Nat) (l : LaneWord) : Option Instr :=
  match fn with
  | 0 => some (.vadd l) | 1 => some (.vsub l) | 2 => some (.vmul l) | 3 => some (.vmulh l) | 4 => some (.vmad l)
  | 5 => some (.vmin l) | 6 => some (.vmax l) | 7 => some (.vabs l) | 8 => some (.vneg l) | 9 => some (.vand l)
  | 10 => some (.vor l) | 11 => some (.vxor l) | 12 => some (.vnot l) | 13 => some (.vshl l) | 14 => some (.vshr l)
  | 15 => some (.vsra l) | 16 => some (.vbfe l) | 17 => some (.vbfi l) | 18 => some (.vpopc l) | 19 => some (.vclz l)
  | 20 => some (.vbrev l)
  | _ => none

/-- VFP (R78). -/
def rawVfp (fn : Nat) (l : LaneWord) : Option Instr :=
  match fn with
  | 0 => some (.vfadd l) | 1 => some (.vfsub l) | 2 => some (.vfmul l) | 3 => some (.vffma l) | 4 => some (.vfmin l)
  | 5 => some (.vfmax l) | 6 => some (.vfdiv l) | 7 => some (.vrcp l) | 8 => some (.vrsq l) | 9 => some (.vsqrt l)
  | 10 => some (.vexp2 l) | 11 => some (.vlog2 l) | 12 => some (.vsin l) | 13 => some (.vcos l) | 14 => some (.vfrnd l)
  | 15 => some (.vfcls l)
  | _ => none

/-- VCMP (R79): fn8[7] is the float form, fn8[6:0] the condition. -/
def rawVcmp (fn : Nat) (l : LaneWord) : Option Instr :=
  match Cond.ofCode? (fn % 128) with
  | some cc => if fn / 128 = 1 then some (.vfcmp cc l) else some (.vcmp cc l)
  | none => none

/-- PLOG and VCVT (R78). -/
def rawCvt (op fn : Nat) (l : LaneWord) : Option Instr :=
  match op, fn with
  | 4, 0 => some (.pand l) | 4, 1 => some (.por l) | 4, 2 => some (.pxor l) | 4, 3 => some (.pandn l)
  | 5, 0 => some (.vcvt l) | 5, 1 => some (.vquant l) | 5, 2 => some (.vdeq l) | 5, 3 => some (.vpack l)
  | 5, 4 => some (.vunpack l) | 5, 5 => some (.vscale l)
  | _, _ => none

/-- VMOV (R78). -/
def rawVmov (fn : Nat) (l : LaneWord) : Option Instr :=
  match fn with
  | 0 => some (.vmov l) | 1 => some (.vmovk l) | 2 => some (.vmovi l) | 3 => some (.vsel l) | 4 => some (.vshfl l)
  | 5 => some (.vbcast l) | 6 => some (.vballot l) | 7 => some (.vred l) | 8 => some (.vscan l) | 9 => some (.vput l)
  | 10 => some (.vspec l)
  | _ => none

/-- VMEM and LCTL (R78). -/
def rawMem (op fn : Nat) (l : LaneWord) : Option Instr :=
  match op, fn with
  | 7, 0 => some (.vld l) | 7, 1 => some (.vst l) | 7, 2 => some (.vlds l) | 7, 3 => some (.vsts l) | 7, 4 => some (.vamo l)
  | 7, 5 => some (.vrdm l) | 7, 6 => some (.vtget l) | 7, 7 => some (.vtset l)
  | 8, 0 => some (.lbra l) | 8, 1 => some (.mjoin l) | 8, 2 => some (.join l) | 8, 3 => some (.lend l) | 8, 4 => some (.lkill l)
  | 8, 5 => some (.lfmt l) | 8, 6 => some (.lnop l) | 8, 7 => some (.lbrk l)
  | _, _ => none

/-- The fields of a lane word, before the check of what must be zero or in range. -/
def rawLane (w : Nat) : Except Reject Instr :=
  let op := bits w 88 8
  let fn := bits w 32 8
  let l := rawFields w
  match op with
  | 1 => orReject (rawVint fn l) (.function op fn)
  | 2 => orReject (rawVfp fn l) (.function op fn)
  | 3 => orReject (rawVcmp fn l) (.function op fn)
  | 4 => orReject (rawCvt op fn l) (.function op fn)
  | 5 => orReject (rawCvt op fn l) (.function op fn)
  | 6 => orReject (rawVmov fn l) (.function op fn)
  | 7 => orReject (rawMem op fn l) (.function op fn)
  | 8 => orReject (rawMem op fn l) (.function op fn)
  | _ => .error (.opcode op)

/-- A word is accepted as an instruction that is well-formed and encodes to it (R66, R76, R82). -/
def accept (w : Nat) (r : Except Reject Instr) : Except Reject Instr :=
  match r with
  | .ok i => if i.wellFormed && encode i == w then .ok i else .error .field
  | .error e => .error e

/-- The scalar instruction of a 32-bit word (R62, R65-R72, R82). -/
def decodeScalar (w : Nat) : Except Reject Instr := accept w (rawScalar w)

/-- The lane instruction of a 96-bit word (R63, R73-R82). -/
def decodeLane (w : Nat) : Except Reject Instr := accept w (rawLane w)

/-- The instruction in a row's bits: a scalar word of 32 bits, a lane word of 96. The opcode table's events have no
word. -/
def decodeTableWord (nbits w : Nat) : Option Instr :=
  if nbits = 32 then (decodeScalar w).toOption
  else if nbits = 96 then (decodeLane w).toOption
  else none

end Sys2Proof
end

