-- ==== Sys2Proof/Machine/Fetch.lean ====
section
/-! DEFINITION. Instruction fetch (spec/02 R62-R64): where a group's next scalar word and its paths' next lane words lie,
their translation, and what a fetch that cannot be made does. -/

namespace Sys2Proof.Machine

/-- What a fetch answers: the word's bits, a cause with its address, a page to wait for, or a wait. -/
inductive Fetched where
  | word (w : Nat)
  | flt (c : Cause) (addr : Nat)
  | page (va : Nat)
  | hold
  deriving DecidableEq, Repr

/-- Consecutive bytes at ports, for a word of one or two parts. -/
def bytesAt (ps : List (Nat × Nat)) : List Nat := ps.flatMap (fun p => (List.range p.2).map (p.1 + ·))
/-- A word of code read in one piece from the ports of its parts (R64): its latest contents; or, where the core's instruction cache
holds every line of it as they stood together since the launch began, those (log 8). The cache holds 128 KiB (R2). -/
def State.codeBytes (s : State) (core fresh : Nat) (ps : List (Nat × Nat)) : Nat × State :=
  let as := bytesAt ps
  let now := ofBytes (as.map s.codeByte)
  let t := (s.core core).ic
  let ls := (as.map (· / 64)).eraseDups
  let fillAll := fun (s : State) (t : Tbl CLine) =>
    ls.foldl (fun t l => cacheFill t l 2048 (Config.victim s.tick l) { data := s.codeLine l, fill := s.tick }) t
  let keep := fun (s : State) => s.updCore core (fun c => { c with ic := fillAll s c.ic })
  let fills := ls.map (fun l => (Tbl.find t l).map (·.fill))
  let whole := fills.all (fun f => f.isSome && f == fills.headD none)
  if whole && as.all (fun a => (cacheByte t a fresh).isSome) then
    let old := ofBytes (as.map (fun a => (cacheByte t a fresh).getD 0))
    if old = now then (now, s)
    else
      let k := s.useFresh
      if Config.cacheHit k.1 then (old, k.2) else (now, keep k.2)
  else (now, keep s)
/-- The ports of n bytes of code at an address, in at most two parts (R63, R318), or what keeps them from being read: a side-log entry on
the page goes first (R326). A line with an uncorrectable error, or behind a port that is down, stops the group with DATAERR (log 77). -/
def State.fetchPorts (s : State) (gid : Nat) (g : Group) (va n : Nat) : (Except Fetched (Nat × Nat)) × State :=
  if inAperture va || inTeamWin va then (.error (.flt .illegal va), s)
  else match s.translate (coreOf gid) (s.launchOf g) va .ex true with
    | (.port pa, s) => if s.sidePage (coreOf gid) (s.launchOf g).asid va pa then (.error .hold, s)
      else if s.bad pa n then (.error (.flt .datarr va), s.logError pa (coreOf gid)) else (.ok (pa, n), s)
    | (.flt _, s) => (.error (.flt .illegal va), s)
    | (.missing, s) => (.error (.page va), s)
    | (.moving, s) => (.error .hold, s)
    | (.hold, s) => (.error .hold, s)
/-- n bytes of code at an address (R63, R64): every part is translated before any is read. -/
def State.fetchAt (s : State) (gid : Nat) (g : Group) (va n : Nat) : Fetched × State :=
  let k := min n (4096 - va % 4096)
  let read := fun (s : State) (ps : List (Nat × Nat)) =>
    let r := s.codeBytes (coreOf gid) (s.launchOf g).startTick ps
    (Fetched.word r.1, r.2)
  match s.fetchPorts gid g va k with
  | (.error f, s) => (f, s)
  | (.ok a, s) =>
    if k = n then read s [a]
    else match s.fetchPorts gid g ((va + k) % 2 ^ 64) (n - k) with
      | (.error f, s) => (f, s)
      | (.ok b, s) => read s [a, b]
/-- A scalar word (R62): only inside the kernel's scalar code range, from an aligned address. -/
def State.fetchScalar (s : State) (gid : Nat) (g : Group) : Fetched × State :=
  let d := (s.launchOf g).desc
  let pc := g.spc.toNat
  if pc % 4 ≠ 0 || pc < d.scode.toNat || d.scode.toNat + 4 * d.ssize ≤ pc then (.flt .illegal pc, s)
  else s.fetchAt gid g pc 4
/-- A lane word (R63): only at an index below LSIZE. -/
def State.fetchLane (s : State) (gid : Nat) (g : Group) (idx : W32) : Fetched × State :=
  let d := (s.launchOf g).desc
  if d.lsize ≤ idx.toNat then (.flt .illegal 0, s)
  else s.fetchAt gid g ((d.lcode.toNat + 12 * idx.toNat) % 2 ^ 64) 12
/-- A path stands at a `lend` (R306). -/
def State.atLend (s : State) (gid : Nat) (g : Group) (p : Option Path) : Bool :=
  match p with
  | none => true
  | some p => match (s.fetchLane gid g p.pc).1 with
    | .word w => (match decodeLane w with
      | .ok (.lend _) => true
      | _ => false)
    | _ => false

end Sys2Proof.Machine
end

