-- ==== Sys2Proof/Machine/Flags.lean ====
section
/-! DEFINITION. The format register's fields and the flags that lane arithmetic raises (spec/04 R92-R95, spec/08 R184-R193). -/

namespace Sys2Proof.Machine

/-- RND (R94). -/
def fmtRnd (f : BitVec 19) : Rnd := Rnd.ofCode (fld f 10 2)
/-- FTZ (R94). -/
def fmtFtz (f : BitVec 19) : Bool := bit f.toNat 18
/-- RETRY (R94). -/
def fmtRetry (f : BitVec 19) : Nat := fld f 12 3
/-- QSAT (R94). -/
def fmtQsat (f : BitVec 19) : Bool := bit f.toNat 15
/-- AFMT (R94). -/
def fmtA (f : BitVec 19) : Ty := Ty.ofCode (fld f 0 4)
/-- BFMT (R94). -/
def fmtB (f : BitVec 19) : Ty := Ty.ofCode (fld f 4 4)
/-- DRAIN (R94). -/
def fmtDrain (f : BitVec 19) : Nat := fld f 8 2
/-- Block scales are on: SCALE is 1; 2 and 3 act as 0 (R94). -/
def fmtScale (f : BitVec 19) : Bool := fld f 16 2 == 1

/-- An integer element's value, read by signedness (R184). -/
def intVal (t : Ty) (x : Nat) : Int := if tySigned t then sextNat x (tyBits t) else (x % 2 ^ tyBits t : Nat)
/-- The least and greatest value of an integer type. -/
def intMin (t : Ty) : Int := if tySigned t then -(2 ^ (tyBits t - 1) : Nat) else 0
/-- The greatest value of an integer type. -/
def intMax (t : Ty) : Int := if tySigned t then (2 ^ (tyBits t - 1) : Nat) - 1 else (2 ^ tyBits t : Nat) - 1
/-- An exact integer result wrapped, or saturated with FLAGS.SAT (R185). -/
def intResult (t : Ty) (sat : Bool) (r : Int) : Nat × Flags :=
  let w := fun (x : Int) => (x % (2 ^ tyBits t : Nat)).toNat
  if sat && r < intMin t then (w (intMin t), flSAT)
  else if sat && intMax t < r then (w (intMax t), flSAT)
  else (w r, fl0)
/-- An element with its sign bit flipped if asked (R182). -/
def negElem (t : FT) (neg : Bool) (x : Nat) : Nat := if neg then x ^^^ 2 ^ t.mag else x
/-- Flags of a float comparison (R193): the ordered conditions raise NV on any NaN, the others on a signalling one. -/
def cmpFlags (cc : Cond) (a b : Val) : Flags :=
  match cc with
  | .lt | .le | .gt | .ge => if a.isNan || b.isNan then flNV else fl0
  | .eq | .ne | .un | .ord => if a.isSnan || b.isSnan then flNV else fl0

end Sys2Proof.Machine
end

