-- ==== Sys2Proof/Machine/Matrix.lean ====
section
/-! DEFINITION. The tandem matrix complex (spec/14 R295-R314). -/

namespace Sys2Proof.Machine

/-! Formats (R299-R302). -/

/-- K and the element width in bits of a format pair (R299). -/
def mxFormat (a b : Ty) : Option (Nat × Nat) :=
  match a, b with
  | .bf16, .bf16 => some (32, 16)
  | .f16, .f16 => some (32, 16)
  | .e4m3x4, .e4m3x4 => some (64, 8)
  | .e4m3x4, .e5m2x4 => some (64, 8)
  | .e5m2x4, .e4m3x4 => some (64, 8)
  | .e5m2x4, .e5m2x4 => some (64, 8)
  | .i8x4, .i8x4 => some (64, 8)
  | .q4x8, .q4x8 => some (128, 4)
  | _, _ => none
/-- ROWB of the A tile (R299). -/
def mxRowb (a : Ty) (scale sparse : Bool) : Nat :=
  if a = .i8x4 then (if sparse then 48 else 64)
  else (if sparse then 48 else 64) + (if scale then 16 else 0)
/-- Element k of a byte sequence from byte 0 (R300). -/
def rawElem (width : Nat) (bs : List Byte) (k : Nat) : Nat :=
  if width = 4 then bits (nth bs (k / 2) 0).toNat (4 * (k % 2)) 4
  else ofBytes ((bs.drop (k * (width / 8))).take (width / 8))
/-- The value of an element (R86, R88). -/
def elemVal (t : Ty) (cb : List (BitVec 16)) (x : Nat) : Val :=
  match t with
  | .bf16 => FT.bf16.val x
  | .f16 => FT.f16.val x
  | .e4m3x4 => FT.e4m3.val x
  | .e5m2x4 => FT.e5m2.val x
  | .q4x8 => FT.bf16.val (nth cb x 0).toNat
  | _ => .num false 0 0 false
/-- The dense elements of a sparse row from its stored values (R301): index nibbles from byte 32. -/
def expandRow {α : Type} (k : Nat) (row : List Byte) (zero : α) (v : Nat → α) : List α :=
  (List.range (k / 4)).flatMap (fun g =>
    let nib := bits (nth row (32 + g / 2) 0).toNat (4 * (g % 2)) 4
    (List.range 4).map (fun j => if j = nib / 4 then v (2 * g + 1) else if j = nib % 4 then v (2 * g) else zero))
/-- Row elements of an A tile, each read by f from its number among the stored ones (R300, R301). -/
def rowElems {α : Type} (sparse : Bool) (k width : Nat) (row : List Byte) (zero : α) (f : Nat → α) : List α :=
  if sparse then expandRow k row zero (fun v => f (rawElem width row v)) else (List.range k).map (fun i => f (rawElem width row i))
/-- The 32-element blocks of a row or column accumulated one after another (R97). -/
def dotBlocks (d : Val) (a b : List Val) (ea eb : Nat → Nat) (blk : Nat) : Nat → Val
  | 0 => d
  | n + 1 => dotBlocks (dotAccumulate d (a.take 32) (b.take 32) (ea blk) (eb blk)) (a.drop 32) (b.drop 32) ea eb (blk + 1) n
/-- One element of D after an operation (R304, R97, R98): from the row and column bytes. -/
def mxElement (fmt : BitVec 19) (sparse : Bool) (cbA cbB : List (BitVec 16)) (d : Nat) (row col scl : List Byte) (n : Nat) : Nat :=
  match mxFormat (fmtA fmt) (fmtB fmt) with
  | none => d
  | some (k, width) =>
    if fmtA fmt = .i8x4 then
      let a := rowElems sparse k 8 row (0 : Int) (fun x => sextNat x 8)
      let b := (List.range k).map (fun i => sextNat (rawElem 8 col i) 8)
      ((d + (List.zipWith (· * ·) a b).foldl (· + ·) (0 : Int)) % 2 ^ 32).toNat
    else
      let a := rowElems sparse k width row (Val.num false 0 0 false) (elemVal (fmtA fmt) cbA)
      let b := (List.range k).map (fun i => elemVal (fmtB fmt) cbB (rawElem width col i))
      let ea := fun c => if fmtScale fmt then (nth row (mxRowb (fmtA fmt) true sparse - 16 + c) 0).toNat else 127
      let eb := fun c => if fmtScale fmt then (nth scl (n % 16 * (k / 32) + c) 0).toNat else 127
      (convert .f32 .rne false (dotBlocks (FT.f32.val d) a b ea eb 0 (k / 32))).1

/-! Issue (R306, R309-R311). -/

/-- A matrix meaning: it stalls an overreaching group (R233); then order 2 of R309. engine: wheeler groups are barred. -/
def mxOp (s : State) (engine : Bool) (k : Nat → Group → Team → Res) : Res :=
  scalar s fun gid g => settled s g <|
    let t := s.teamOf g
    if !t.acq || (engine && t.tandem && coreOf gid != t.core) then s.trapS gid g .mxowner 0
    else k gid g t
/-- A command of a team's queue changed. -/
def State.setMx (s : State) (key i : Nat) (c : MxCmd) : State := s.updTeam key (fun t => { t with mxQ := t.mxQ.set i c })
/-- The i-th command of a team's queue accepted, once the team holds the complex in the holding for which it was issued (R296, R310,
log 60); a drain reads its shape record then, and only then (R259, R312), after the group's earlier accesses (R274). -/
def State.acceptMx (s : State) (key i : Nat) : State :=
  match s.team? key with
  | none => s
  | some t => match t.mxQ[i]? with
    | none => s
    | some c =>
      let x := s.complex (tandemOf t.core)
      if c.taken || c.stalled.isSome || c.status.isSome || t.away || x.owner != some key || (x.releasing && !c.old) then s
      else
        let now := s.cyc t.core
        let c' := { c with taken := true, since := now }
        match c.op with
        | .rdy => (s.setMx key i c').updTeam key (fun t => { t with tags := t.tags.map (fun q =>
            if q.tag = c.tag && q.q = c.q && q.iss == c.iss && q.batch = c.batch then { q with since := now } else q) })
        | .mxdr =>
          if c.rcd.toNat % 64 ≠ 0 then s.setMx key i c'
          else if !(s.sideBy c.iss).isEmpty then s
          else match s.engRead t.core key c.rcd.toNat 64 with
            | .ok bs s => s.setMx key i { c' with shape := shapeOf bs }
            | .fail st s => s.setMx key i { c' with status := some st }
            | .page va rw s => (s.engAsk t.core key va rw).setMx key i
                { c with since := now, stalled := some (pageOf va), stallSince := if inTeamWin va then none else some s.stc }
            | .wait s => s
        | _ => s.setMx key i c'
/-- Every command of a team accepted that can be (R296). -/
def State.acceptAll (s : State) (key : Nat) : State := (List.range 16).foldl (fun s i => s.acceptMx key i) s
/-- A command appended to the team's queue (R296), once the group's earlier accesses are performed (R274, R307); it joins the matrix
batch. place: what it sets down in its team as it then stands, and the command. -/
def State.mxIssue (s : State) (gid : Nat) (g : Group) (place : Team → Team × MxCmd) : Res :=
  if 16 ≤ (s.teamOf g).mxQ.length then s.stallS
  else (s.drain gid).intoS gid g 0 fun _ s =>
    let x := place (s.teamOf g)
    let c := { x.2 with iss := g.issuer gid, batch := g.matB.next }
    .next (((s.setTeam g.key { x.1 with mxQ := x.1.mxQ ++ [c] }).done gid (fun g => { g with matB := g.matB.issue })).acceptAll g.key)
/-- `mxacq` (R310). -/
def execMxacq (s : State) : Res :=
  scalar s fun gid g => settled s g <|
    let t := s.teamOf g
    let x := s.complex (tandemOf t.core)
    if t.acq then .next (s.done gid id)
    else if x.owner.isNone then
      .next ((((s.setComplex (tandemOf t.core) { x with owner := some g.key, releasing := false }).setTeam g.key { t with acq := true }).done gid id).acceptAll g.key)
    else if 8 ≤ x.waiters.length then s.stallS
    else .next (((s.setComplex (tandemOf t.core) { x with waiters := x.waiters ++ [(g.key, false)] }).setTeam g.key { t with acq := true }).done gid id)
/-- The team's latest entry in the acquisition queue marked as released, its commands so far as old (R310). Of two acquisitions under way
at once the commands so far belong to the earlier (log 60). -/
def State.releaseComplex (s : State) (key : Nat) (t : Team) : State :=
  let x := s.complex (tandemOf t.core)
  let waiting := x.waiters.any (fun w => w.1 == key && !w.2)
  let x' := if waiting then { x with waiters := x.waiters.map (fun w => if w.1 = key then (key, true) else w) }
    else if x.owner = some key then { x with releasing := true } else x
  (s.setComplex (tandemOf t.core) x').setTeam key
    { t with acq := false, mxQ := t.mxQ.map (fun c => { c with old := true }), tags := t.tags.map (fun q => { q with old := true }) }
/-- `mxrel` (R310). -/
def execMxrel (s : State) : Res :=
  mxOp s false fun gid g t => .next ((s.releaseComplex g.key t).done gid id)
/-- An incomplete long-latency instruction writes a register of a range (R306). -/
def Pend.writesIn (x : Pend) (t : Team) (lo n : Nat) : Bool :=
  x.writes.any (fun w => decide (lo ≤ w.reg) && decide (w.reg < lo + n))
  || (x.acc != 0 && t.tileAccs.any (fun a => a.id == x.acc && a.dst.any (fun d => decide (lo ≤ d.reg) && decide (d.reg < lo + n))))
/-- Every block queued before has issued up to its `lend`, and no long-latency instruction still writes the range (R306). -/
def State.quarterReady (s : State) (gid : Nat) (g : Group) (t : Team) (vn : Nat) : Bool :=
  (match g.laneQ with
    | [] => true
    | [_] => g.running && g.stack.isEmpty && s.atLend gid g g.slot0 && s.atLend gid g g.slot1
    | _ => false)
  && !g.pend.any (fun x => x.writesIn t vn (256 / g.lanew + 1))
/-- `mxrdy` (R306, R311). -/
def execMxrdy (tag : BitVec 6) (q : BitVec 2) (vn : BitVec 8) (s : State) : Res :=
  mxOp s false fun gid g t =>
    if !s.quarterReady gid g t vn.toNat then s.stallS
    else if t.tags.any (fun x => x.tag == tag.toNat && x.q == q.toNat) then s.stallS
    else
      let p : Quarter := { tag := tag.toNat, q := q.toNat, iss := g.issuer gid, vn := vn.toNat, batch := g.matB.next }
      s.mxIssue gid g fun t => ({ t with tags := t.tags ++ [p] }, { op := .rdy, tag := tag.toNat, q := q.toNat, vn := vn.toNat })
/-- The handle checks of a matrix operation (R309 order 3): each cause for hx before hy. -/
def mxHandles (s : State) (gid : Nat) (g : Group) (t : Team) (hd ha : Hnd) (k : Handle → Handle → Res) : Res :=
  match t.handleCheck g hd, t.handleCheck g ha with
  | .ok d, .ok a => k d a
  | .error c, .ok _ => s.trapS gid g c (hd.setWidth 64)
  | .ok _, .error c => s.trapS gid g c (ha.setWidth 64)
  | .error c, .error c' =>
    if c = .handlefree then s.trapS gid g c (hd.setWidth 64)
    else if c' = .handlefree then s.trapS gid g c' (ha.setWidth 64)
    else s.trapS gid g c (hd.setWidth 64)
/-- `mxa` and `mxs` (R304, R309). -/
def mxOperate (s : State) (hd ha : Hnd) (tag : BitVec 6) (sparse : Bool) : Res :=
  mxOp s true fun gid g t => mxHandles s gid g t hd ha fun d a =>
    match mxFormat (fmtA g.fmt) (fmtB g.fmt) with
    | none => s.trapS gid g .protect (BitVec.ofNat 64 (fld g.fmt 0 8))
    | some _ =>
      if d.rows ≠ 256 || d.rowb ≠ 256 then s.trapS gid g .protect (hd.setWidth 64)
      else if a.rows ≠ 256 || a.rowb ≠ mxRowb (fmtA g.fmt) (fmtScale g.fmt) sparse then s.trapS gid g .protect (ha.setWidth 64)
      else
        s.mxIssue gid g fun t =>
          let t1 := t.placeAcc (wholeTile .mxA a false)
          (t1.placeAcc (wholeTile .mxD d true),
            { op := if sparse then .mxs else .mxa, tag := tag.toNat, d := d, a := a, fmt := g.fmt, accA := t.nextAcc, accD := t1.nextAcc })
/-- `mxa` (R304). -/
def execMxa (hd ha : Hnd) (tag : BitVec 6) (s : State) : Res := mxOperate s hd ha tag false
/-- `mxs` (R304, R305). -/
def execMxs (hd ha : Hnd) (tag : BitVec 6) (s : State) : Res := mxOperate s hd ha tag true
/-- `mxdr` (R312). -/
def execMxdr (hd : Hnd) (a b : Reg) (n : BitVec 6) (s : State) : Res :=
  mxOp s true fun gid g t =>
    match t.handleCheck g hd with
    | .error c => s.trapS gid g c (hd.setWidth 64)
    | .ok d => s.mxIssue gid g fun t => (t.placeAcc (wholeTile .mxDrain d false),
        { op := .mxdr, d := d, fmt := g.fmt, rcd := g.reg a, c0 := g.reg b, c1 := g.reg (b + 1), n := n.toNat, accD := t.nextAcc })
/-- `cbld` (R314). -/
def execCbld (a : Reg) (n : BitVec 6) (s : State) : Res :=
  mxOp s true fun gid g _ =>
    if (g.reg a).toNat % 32 ≠ 0 then s.trapS gid g .align (g.reg a)
    else s.mxIssue gid g fun t => (t, { op := .cbld, rcd := g.reg a, n := n.toNat })

/-! The complex (R304, R312-R314). -/

/-- Column n of a quarter (R302). -/
def quarterCol (qb : List Byte) (n : Nat) : List Byte := (qb.drop (64 * (n % 16))).take 64
/-- The whole operation on D (R304): every row read before it is written. -/
def State.mxCompute (s : State) (t : Team) (c : MxCmd) : State :=
  let sparse := c.op == .mxs
  let row := fun (s : State) (r : Nat) =>
    let a := s.tileRead t c.a (r * c.a.rowb) c.a.rowb
    let d := s.tileRead t c.d (r * 256) 256
    (List.range 64).flatMap (fun n =>
      let qb := nth c.bq (n / 16) []
      toBytes 4 (mxElement c.fmt sparse t.cbA t.cbB (ofBytes ((d.drop (4 * n)).take 4)) a (quarterCol qb n) (qb.drop 1024) n))
  ((List.range 256).foldl (fun s r => s.tileWrite t c.d (r * 256) (row s r)) s).noteTile t c.d 0 c.d.bytes

/-- The record of a drain agrees with FMT and n (R312). -/
def drainOk (w : BitVec 512) (fmt : BitVec 19) (n : Nat) : Bool :=
  let t := shTy w
  !shConv w && shTile w 1 == 256 && shTile w 2 == 1 && shTile w 3 == 1 && shTile w 4 == 1
  && shTile w 0 == (if t = .e4m3x4 then 66 else 64)
  && (match t with
    | .i32 => n != 1
    | .f32 => n != 1 && fmtDrain fmt == 0
    | .bf16 => n != 0 && fmtDrain fmt == 1
    | .f16 => (n == 2 || n == 3) && fmtDrain fmt == 2
    | .e4m3x4 => n == 0 && fmtDrain fmt == 3
    | _ => false)
/-- The new value of a region element (R312). -/
def drainElem (t : Ty) (fmt : BitVec 19) (n old d : Nat) : Nat :=
  match t with
  | .i32 => if n = 0 then (old + d) % 2 ^ 32
    else if n = 2 then (if sextNat old 32 < sextNat d 32 then d else old)
    else (if sextNat d 32 < sextNat old 32 then d else old)
  | .f32 => if n = 0 then (convert .f32 .rne false (addVal .rne (FT.f32.val old) (FT.f32.val d)).1).1
    else (minMax .f32 false (n == 2) old d).1
  | .bf16 => if n = 1 then (convert .bf16 (fmtRnd fmt) (fmtQsat fmt) (addVal (fmtRnd fmt) (FT.bf16.val old) (FT.f32.val d)).1).1
    else (minMax .bf16 false (n == 2) old (convert .bf16 (fmtRnd fmt) (fmtQsat fmt) (FT.f32.val d)).1).1
  | .f16 => (minMax .f16 false (n == 2) old (convert .f16 (fmtRnd fmt) (fmtQsat fmt) (FT.f32.val d)).1).1
  | _ => old
/-- The codes and scale codes of a row drained to E4M3 (R312, R99). -/
def drainRow (fmt : BitVec 19) (d : List Nat) : List Nat :=
  let q := fun (xs : List Nat) => quantise .e4m3 (fmtRnd fmt) (fmtRetry fmt) (fmtQsat fmt) (xs.map FT.f32.val)
  let a := q (d.take 32)
  let b := q ((d.drop 32).take 32)
  a.y ++ b.y ++ [a.code, b.code]
/-- The region lies in device memory or scratch (R312). -/
def drainPort (pa : Nat) : Bool :=
  match regionOf pa with
  | .dram => true
  | .onchip _ off => decide (off < 0x400000)
  | _ => false
/-- The bytes of a region lie where a drain may go (R312). -/
def State.drainPorts (s : State) (core key : Nat) : List Nat → Eng Unit
  | [] => .ok () s
  | a :: r => (s.engPort core key a 1 .wr).bind fun pa s => if drainPort pa then State.drainPorts s core key r else .fail stProtect s
/-- The bytes of a region can be read. -/
def State.drainReads (s : State) (core key : Nat) : List Nat → Eng Unit
  | [] => .ok () s
  | a :: r => (s.engRead1 core key a).bind fun _ s => State.drainReads s core key r
/-- Room for every version line that the drain needs at once (R313, R342): the lines so far that are new. -/
def State.drainRoom (s : State) (core key : Nat) (new : List Nat) : List Nat → Eng Unit
  | [] => .ok () s
  | a :: r => (s.engPort core key a 1 .wr).bind fun pa s =>
    if regionOf pa != Region.dram || new.contains (pa / 64) then State.drainRoom s core key new r
    else
      let die := fun (n : Nat) => homeDie (64 * n) == homeDie pa
      match s.target none key pa false (new.length + 1) ((new.filter die).length + 1) with
      | .ok (some v) s => State.drainRoom s core key (if (s.vline v (pa / 64)).isSome then new else pa / 64 :: new) r
      | .ok none s => State.drainRoom s core key new r
      | .flt _ s => .fail stData s
      | .hold s => .wait s
/-- The elements written, one after another in the order given, each from what the region then holds, or from nothing where the drain
replaces it (R312, log 61). -/
def State.drainPut (s : State) (core key : Nat) (sz : Nat) (reads : Bool) : List (Nat × (Nat → Nat)) → Eng Unit
  | [] => .ok () s
  | (a, f) :: r => (if reads then s.engRead core key a sz else .ok [] s).bind fun old s =>
      (s.engPut core key a (toBytes sz (f (ofBytes old)))).bind fun _ s => State.drainPut s core key sz reads r
/-- A drain as one event (R312, R313): nothing of it is written before all of it can be. -/
def State.drainAll (s : State) (key : Nat) (t : Team) (c : MxCmd) : Eng (List (Nat × Nat)) :=
  let w := c.shape
  if c.rcd.toNat % 64 ≠ 0 || badShape w c.c0 c.c1 false || !drainOk w c.fmt c.n then .fail stShape s
  else if outOfBounds w c.c0 c.c1 then .fail stBounds s
  else
    let ty := shTy w
    let sz := tyElem ty
    let reads := ty != .e4m3x4
    let row := fun (r : Nat) => (List.range 64).map (fun n => ofBytes (s.tileRead t c.d (256 * r + 4 * n) 4))
    let cells := (List.range 256).flatMap (fun r =>
      let d := row r
      let q := if reads then [] else drainRow c.fmt d
      (List.range (shTile w 0)).filterMap (fun n => (regionAddr w c.c0 c.c1 (n + shTile w 0 * r)).map (fun a =>
        (a, fun (old : Nat) => if reads then drainElem ty c.fmt c.n old (nth d n 0) else nth q n 0))))
    let as := cells.flatMap (fun x => (List.range sz).map (fun i => (x.1 + i) % 2 ^ 64))
    (s.drainPorts t.core key as).bind fun _ s =>
      (if reads then s.drainReads t.core key as else .ok () s).bind fun _ s =>
        (s.drainRoom t.core key [] as).bind fun _ s =>
          match s.drainPut t.core key sz reads cells with
          | .wait _ => .wait s
          | r => r.bind fun _ s => .ok (cells.map (fun x => (x.1, sz))) s

/-- The head command of the complex's owner, if it may start (R296, R310). -/
def State.mxHead (s : State) (tandem : Nat) : Option (Nat × Team × MxCmd) :=
  let x := s.complex tandem
  match x.owner with
  | none => none
  | some key => match s.team? key with
    | none => none
    | some t => match t.mxQ with
      | [] => none
      | c :: _ => if x.releasing && !c.old then none else some (key, t, c)
/-- The head command changed. -/
def State.setHead (s : State) (key : Nat) (c : MxCmd) : State := s.updTeam key (fun t => { t with mxQ := c :: t.mxQ.tail })
/-- Leave for an operation (R304, R453). -/
def State.mxLeave (s : State) (tandem key : Nat) (c : MxCmd) : Bool × State :=
  if c.granted then (true, s)
  else
    let r := s.useLease (2 * tandem) (32 + key)
    if r.1 then (true, r.2)
    else (false, (r.2.askLeave (dieOf (2 * tandem)) 0 tandem 0).setHead key { c with asked := true })
/-- The quarters taken and read, and each `mxrdy` completed (R303, R304, R307). -/
def State.mxStart (s : State) (key : Nat) (t : Team) (c : MxCmd) : State :=
  let q := fun i => t.tags.find? (fun x => x.tag == c.tag && x.q == i)
  let bq := (List.range 4).map (fun i => match q i with
    | some x => s.quarterBytes x
    | none => [])
  let s := s.setTeam key { t with tags := t.tags.filter (fun x => x.tag != c.tag) }
  let s := s.setHead key { c with started := true, granted := true, bq := bq }
  let part := ((s.launch? (key / 2 ^ 32)).getD {}).part
  (List.range 4).foldl (fun s i => match q i with
    | some x => (s.batchDone x.iss true x.batch 0).monitor t.core part 4 (s.cyc t.core - x.since)
    | none => s) s
/-- A started operation performed once its accesses have their turn (R304). -/
def State.mxFinish (s : State) (key : Nat) (t : Team) (c : MxCmd) : State :=
  if t.accReady c.accA && t.accReady c.accD then (s.mxCompute t c).setHead key { c with status := some 0 } else s
/-- A matrix command stalls on a page, with its request (R256, R324, R436). -/
def State.stallMx (s : State) (core key : Nat) (c : MxCmd) (va : Nat) (rw : Rw) : State :=
  (s.engAsk core key va rw).setHead key { c with stalled := some (pageOf va), stallSince := if inTeamWin va then none else some s.stc }
/-- What a drain leaves of its command: its status, or a stall. n: the writes recorded before it. -/
def Eng.afterMx (r : Eng (List (Nat × Nat))) (core key : Nat) (c : MxCmd) (n : Nat) : State :=
  match r with
  | .ok ws s => ws.foldl (fun s w => s.engineWatch c.iss w.1 w.2) (((s.heal n).grantAll).setHead key { c with status := some 0 })
  | .fail st s => s.setHead key { c with status := some st }
  | .page va rw s => s.stallMx core key c va rw
  | .wait s => s
/-- A codebook's entries from its bytes (R88, R314). -/
def codebook (bs : List Byte) : List (BitVec 16) := (List.range 16).map (fun i => BitVec.ofNat 16 (ofBytes ((bs.drop (2 * i)).take 2)))
/-- A team's codebook set (R314). -/
def Team.setCb (t : Team) (n : Nat) (cb : List (BitVec 16)) : Team := if n = 0 then { t with cbA := cb } else { t with cbB := cb }
/-- The codebook that a `cbld` names after its read has failed (R314). -/
def Team.failCb (t : Team) (c : MxCmd) : Team := if c.op == .cbld then t.setCb c.n (List.replicate 16 0x7FC0) else t
/-- `cbld` performed (R314): on a failed read every entry becomes 0x7FC0. -/
def State.mxCodebook (s : State) (key : Nat) (t : Team) (c : MxCmd) : State :=
  match s.engRead t.core key c.rcd.toNat 32 with
  | .ok bs s => (s.updTeam key (fun t => t.setCb c.n (codebook bs))).setHead key { c with status := some 0 }
  | .fail st s => (s.updTeam key (fun t => t.failCb c)).setHead key { c with status := some st }
  | .page va rw s => s.stallMx t.core key c va rw
  | .wait s => s
/-- MATRIX_OPERATION (R304): commands that can be are accepted, and the head command of the team that holds the complex goes on, once what its
group did before has been performed (R274, R362). Once its task has been ended, an operation whose quarters nobody is left to post retires
without effect (R407, R116). -/
def execMatrixOperation (tandem : Nat) (s : State) : Res :=
  let s := ((s.complex tandem).owner).elim s (fun key => s.acceptAll key)
  .next (match s.mxHead tandem with
    | none => s
    | some (key, t, c) =>
      if c.status.isSome || c.stalled.isSome then s
      else if c.stallSince.isSome then (s.pageOver t.core key c.stallSince).setHead key { c with stallSince := none }
      else if !c.taken then s
      else match c.op with
        | .rdy => s.updTeam key (fun t => { t with mxQ := t.mxQ.tail })
        | .cbld => if (s.sideBy c.iss).isEmpty then s.mxCodebook key t c else s
        | .mxdr =>
          if t.accReady c.accD && (s.sideBy c.iss).isEmpty then (s.drainAll key t c).afterMx t.core key c s.wrote.length else s
        | _ =>
          if c.started then s.mxFinish key t c
          else if !(s.sideBy c.iss).isEmpty then s
          else if (List.range 4).all (fun i => t.tags.any (fun x => x.tag == c.tag && x.q == i)) then
            let r := s.mxLeave tandem key c
            if r.1 then r.2.mxStart key ((r.2.team? key).getD t) c else r.2
          else if t.dying then s.setHead key { c with status := some 0 }
          else s)
/-- MATRIX_COMMAND_COMPLETE (R307): the head command retires into its issuer's matrix batch. -/
def execMatrixCommandComplete (tandem : Nat) (s : State) : Res :=
  .next (match s.mxHead tandem with
    | none => s
    | some (key, t, c) => match c.status with
      | none => s
      | some st =>
        let s := s.setTeam key ({ t with mxQ := t.mxQ.tail }.dropAcc c.accA |>.dropAcc c.accD)
        let s := s.batchDone c.iss true c.batch st
        s.monitor t.core ((s.launch? (key / 2 ^ 32)).getD {}).part 4 (s.cyc t.core - c.since))
/-- COMPLEX_HANDOVER (R310): the complex passes on once every command issued before the release has completed. -/
def execComplexHandover (tandem : Nat) (s : State) : Res :=
  let x := s.complex tandem
  .next (match x.owner with
    | none => s
    | some key =>
      let t := (s.team? key).getD {}
      if !x.releasing || t.mxQ.any (·.old) || t.tags.any (·.old) then s
      else match x.waiters with
        | [] => s.setComplex tandem {}
        | (k, rel) :: r => (s.setComplex tandem { owner := some k, waiters := r, releasing := rel }).acceptAll k)

end Sys2Proof.Machine
end

