-- ==== Sys2Proof/Machine/Ready.lean ====
section
/-! DEFINITION. When a stream may issue (spec/05 R119, R120), and the completion of what a group has issued (spec/05 R123, spec/11
R236). -/

namespace Sys2Proof.Machine

/-- A group that no stop, move or page holds (R119, R325, R400, R402, R414). -/
def Group.loose (g : Group) : Bool := !g.stopped && !g.stopping && g.pageWait.isEmpty
/-- Nothing holds the group of a stream but perhaps its own instruction: one that waits for side-log entries or for a version holds every
other stream of its group, and a store that waits for a version every stream (R176, R243, R342, R343). -/
def Group.mayTry (g : Group) (k : Nat) : Bool := g.loose && !g.heldVer && g.sideWait.all (· == g.streamId k)
/-- The S-stream of a group is not held (R119). -/
def State.readyS (s : State) (g : Group) : Bool :=
  g.mayTry 0 && g.blocked.isNone && g.lockReq.isNone && decide (g.from_ ≤ s.cycles) && g.sHeld != s.epoch + 1
/-- The path in a slot of a group is not held (R119); a queued `lock` on a page that is being moved holds its whole group (R176). -/
def State.readyPath (s : State) (g : Group) (slot : Nat) : Bool :=
  g.mayTry (1 + slot) && !g.lockReq.any s.frameMoving && (g.path? slot).isSome && (if slot = 0 then g.lHeld else g.lHeld1) != s.epoch + 1
/-- The L-stream of a group is not held: a path may issue. -/
def State.readyL (s : State) (g : Group) : Bool := s.readyPath g 0 || s.readyPath g 1
/-- The groups of a quarter. -/
def State.groupsIn (s : State) (core quarter : Nat) : List (Nat × Group) :=
  (s.groupsOn core).filter (fun e => quarterOf e.1 == quarter)
/-- STREAM_AGE_PROMOTION (R120): a ready stream of age 256 goes to the head of its class, of age 256 N ahead of every class. -/
def execStreamAgePromotion (gid : Nat) (lane : Bool) (s : State) : Res :=
  .next (match s.group? gid with
    | none => s
    | some g =>
      let ready := fun (g : Group) => if lane then s.readyL g else s.readyS g
      let age := s.cyc (coreOf gid) - (if lane then g.lastL else g.lastS)
      let n := ((s.groupsIn (coreOf gid) (quarterOf gid)).filter (fun e => ready e.2)).length
      if !ready g || age < 256 then s
      else
        let k := if 256 * n ≤ age then 2 else 1
        s.setGroup gid (if lane then { g with promoL := k } else { g with promoS := k }))

/-- LONG_LATENCY_COMPLETE (R123, R125): an incomplete long-latency instruction of a group writes its results and its window
closes. One that waits for a tile access waits on. -/
def execLongLatencyComplete (gid i : Nat) (s : State) : Res :=
  .next (match s.group? gid with
    | none => s
    | some g => match g.pend[i]? with
      | none => s
      | some x =>
        if x.acc ≠ 0 then s else s.completes gid x)
/-- A group that goes on stands at its `exit`. -/
def State.atExit (s : State) (gid : Nat) : Bool :=
  match s.group? gid with
  | some g => g.parked.isNone && g.ending.isNone && !g.stopping && (match (s.fetchScalar gid g).1 with
    | .word w => (decodeScalar w).toOption == some .exit
    | _ => false)
  | none => false
/-- A store accepted from a group performed at its port: the i-th of those it has in flight, and beyond them those that a group has left
at the context; what must come before it comes first (R175, R232, R250, R448). A store of an exited group that left an overreach waits
while its page is being moved (R328). What a group at its `exit` has left from an overreach is drained after that `exit` (R367). -/
def State.performAt (s : State) (gid i : Nat) : State :=
  let ps := ((s.group? gid).map (·.posted)).getD []
  let core := coreOf gid
  let ls := (s.core core).late.filter (fun x => x.gid == gid)
  match ps[i]? with
  | some p =>
    if (ps.take i).any (fun q => s.precedes q p.pa p.size true) || (p.buffered && s.atExit gid) then s
    else match s.performPosted gid p with
      | .ok _ s => s
      | .flt _ s => s
      | .hold s => s
  | none => match ls[i - ps.length]? with
    | some x =>
      if x.store.buffered && s.frameMoving x.store.pa then s
      else if (ls.take (i - ps.length)).any (fun y => s.precedes y.store x.store.pa x.store.size true) then s else s.performLate core x
    | none => s
/-- ACCESS_PERFORMED_AT_PORT (R236, R237): a store accepted from a group is performed at its port. -/
def execAccessPerformedAtPort (gid i : Nat) (s : State) : Res := .next (s.performAt gid i)

end Sys2Proof.Machine
end

