-- ==== Sys2Proof/Machine/Verdict.lean ====
section
/-! DEFINITION. Verdicts on stopped groups, the consumption of trap records, and the host's commands RESUME, END and HALT
(spec/22 R406-R412, spec/24 R430). -/

namespace Sys2Proof.Machine

/-! Verdicts (R407). -/

/-- The same stop: the records agree but for the time of delivery. -/
def TrapRec.same (a b : TrapRec) : Bool := { a with stc := 0 } == { b with stc := 0 }
/-- The group has stopped, or is about to, without a record of its own under another's record (R430). -/
def Group.silentUnder (g : Group) (r : TrapRec) : Bool :=
  g.parked.elim false (fun k => k.silent && k.rcd.same r) || g.ending.elim false (fun e => e.silent && e.rcd.same r)
/-- A group that stopped under another's record may go on. -/
def State.letGo (s : State) (gid : Nat) : State :=
  match s.group? gid with
  | none => s
  | some g => if g.ending.isSome then (s.setGroup gid { g with ending := none }).deliver gid else s.resume gid
/-- The same of a saved group, which goes on when it is resident again. -/
def Group.letGo (g : Group) : Group := { g with ending := none, parked := g.parked.map (fun (k : Park) => { k with go := true }) }
/-- The groups that a retired-issuer charge stopped go on, those of saved teams too, and admission of the launch with them (R430). -/
def State.releaseSilent (s : State) (r : TrapRec) : State :=
  if r.iret then
    let s := { s with parts := s.parts.map (fun (p : Nat × Partition) => (p.1, { p.2 with saved := p.2.saved.map (fun (x : SavedTeam) =>
      { x with groups := x.groups.map (fun (e : Nat × Group) => if e.2.silentUnder r then (e.1, e.2.letGo) else e) }) })) }
    (((s.groups.filter (fun e => e.2.silentUnder r)).map (·.1)).foldl State.letGo s).updLaunch r.launch.toNat
      (fun l => { l with chargeHold := l.chargeHold.filter (· != (r.team.toNat, r.gidx)) })
  else s
/-- RESUME of a parked group (R407, R430). -/
def State.resumeGroup (s : State) (gid : Nat) : State :=
  match (s.group? gid).bind (·.parked) with
  | none => s
  | some k => (s.resume gid).releaseSilent k.rcd
/-- The records under which a group is stopped. -/
def Group.records (g : Group) : List TrapRec := (g.parked.map (·.rcd)).toList ++ (g.ending.map (·.rcd)).toList
/-- END of a task, with what stopped under its record (R407, R430). -/
def State.endNamed (s : State) (key : Nat) : State :=
  let away := s.parts.flatMap (fun p => p.2.saved.flatMap (fun x => if x.key = key then x.groups else []))
  let rs := (s.groupsOf key ++ away).flatMap (fun e => e.2.records)
  rs.foldl (fun s r => s.releaseSilent r) (s.endTask key)
/-- A verdict of a core's supervisor on a context (R407): STALE unless it is parked on a record delivered to that supervisor. -/
def superVerdict (core : Nat) (ctx : BitVec 7) (s : State) (k : Nat → Group → TrapRec → State → State) : Res :=
  let gid := 128 * core + ctx.toNat
  let stale := s.updCore core (fun c => { c with svstat := 1 })
  .next (match s.group? gid with
    | none => stale
    | some g => match g.parked with
      | none => stale
      | some p =>
        if p.who != .sup || p.silent then stale
        else (k gid g p.rcd s).updCore core (fun c => { c with svstat := 0 }))
/-- SVERD_RESUME (R407). -/
def execSverdResume (core : Nat) (ctx : BitVec 7) (s : State) : Res :=
  superVerdict core ctx s fun gid _ _ s => s.resumeGroup gid
/-- SVERD_FORWARD (R407, R410): the record goes unchanged to the host ring. -/
def execSverdForward (core : Nat) (ctx : BitVec 7) (s : State) : Res :=
  superVerdict core ctx s fun gid g r s =>
    (s.updGroup gid (fun g => { g with parked := g.parked.map (fun (k : Park) => { k with who := .host }) })).toHost (s.launchOf g).part { r with adv := false }
/-- SVERD_END (R407). -/
def execSverdEnd (core : Nat) (ctx : BitVec 7) (s : State) : Res :=
  superVerdict core ctx s fun _ g _ s => s.endNamed g.key

/-! Consumption (R406, R410). -/

/-- The waiting record of lowest STC. -/
def earliest (rs : List TrapRec) : Option TrapRec :=
  (rs.mergeSort (fun a b => decide (a.stc.toNat ≤ b.stc.toNat))).head?
/-- The NOSTOP records that wait for room in a core's queue: those of its groups, and those that name no group of the partition whose lowest
core it is (R405, R406). -/
def State.stqLate (s : State) (core : Nat) : List TrapRec :=
  (s.core core).stqWait ++ s.parts.flatMap (fun p => if p.2.lowCore == some core then p.2.nwait else [])
/-- Waiting NOSTOP records written to a supervisor's queue, in STC order, while fewer than 128 are unconsumed. -/
def State.drainSup (s : State) (core : Nat) : Nat → State
  | 0 => s
  | k + 1 =>
    let c := s.core core
    match earliest (s.stqLate core) with
    | none => s
    | some r =>
      if { c with stqWait := [] }.stqFull then s
      else
        let s := if c.stqWait.contains r then s
          else { s with parts := s.parts.map (fun (p : Nat × Partition) =>
            (p.1, { p.2 with nwait := if p.2.lowCore == some core then p.2.nwait.erase r else p.2.nwait })) }
        let s := (s.setCore core { c with stqWait := [] }).toSup core r
        (s.updCore core (fun x => { x with stqWait := c.stqWait.erase r })).drainSup core k
/-- STQTAIL_WRITE (R406). -/
def execStqtailWrite (core : Nat) (val : W32) (s : State) : Res :=
  let c := s.core core
  let n := min (val - c.stqTail).toNat c.stqNostop.length
  .next ((s.setCore core { c with stqTail := val, stqNostop := c.stqNostop.drop n }).drainSup core (s.stqLate core).length)
/-- Waiting records written to the host ring, in STC order, while it has room. -/
def State.drainHost (s : State) (p : Nat) : Nat → State
  | 0 => s
  | k + 1 =>
    let x := s.part p
    match earliest x.hwait with
    | none => s
    | some r =>
      let head := BitVec.ofNat 32 (fld x.trap 256 32)
      let tail := BitVec.ofNat 32 (fld x.trap 288 32)
      if (head - tail).toNat < 2 ^ fld x.trap 192 5 then
        let w := x.hwait.erase r
        let s := (s.setPart p { x with hwait := [] }).toHost p r
        (s.updPart p (fun x => { x with hwait := w })).drainHost p k
      else s
/-- TTAIL_WRITE (R408, R410). -/
def execTtailWrite (by_ : Requester) (p : Nat) (val : W32) (s : State) : Res :=
  .next (if s.mayPart by_ p then
    (s.updPart p (fun x => { x with trap := setFld x.trap 288 32 val.toNat })).drainHost p (s.part p).hwait.length
  else s)

/-! Host commands (R408, R409). -/

/-- A host command of an operation (R322, R408): BADSEQ leaves HDONE; every other command sets it. body: its status and state. A
submission that names another command's operation is that command's event, and nothing here. -/
def hostCommand (op : Nat) (by_ : Requester) (p : Nat) (cmd : BitVec 128) (s : State) (body : State → Nat × State) : Res :=
  let o := fld cmd 0 8
  if !s.mayPart by_ p || (o != op && decide (1 ≤ o) && decide (o ≤ 5)) then .next s
  else
    let seq := BitVec.ofNat 32 (fld cmd 96 32)
    let s := s.updPart p (fun x => { x with hcmd := setFld cmd 8 16 0 })
    if seq ≠ (s.part p).hdone + 1 then .next (s.updPart p (fun x => { x with hstatus := 3 }))
    else
      let s := s.updPart p (fun x => { x with hdone := seq })
      if fld cmd 0 8 ≠ op || fld cmd 8 16 ≠ 0 then .next (s.updPart p (fun x => { x with hstatus := 2 }))
      else
        let r := body s
        .next (r.2.updPart p (fun x => { x with hstatus := r.1 }))
/-- HGIDX, HLAUNCH, HTEAM of a command. -/
def hGidx (cmd : BitVec 128) : Nat := fld cmd 24 8
@[inherit_doc hGidx] def hLaunch (cmd : BitVec 128) : Nat := fld cmd 32 32
@[inherit_doc hGidx] def hTeam (cmd : BitVec 128) : Nat := fld cmd 64 32
/-- A launch of the partition has the number that the command names. -/
def State.hostLaunch (s : State) (p : Nat) (cmd : BitVec 128) : Bool :=
  match s.launch? (hLaunch cmd) with
  | some l => l.part == p
  | none => false
/-- The command names a group. -/
def namesGroup (cmd : BitVec 128) (g : Group) : Bool :=
  g.launch == hLaunch cmd && (hTeam cmd == 0xFFFFFFFF || g.team == hTeam cmd) && (hGidx cmd == 0xFF || g.gidx == hGidx cmd)
/-- The saved groups of a partition that a command names: team key and old context. -/
def State.savedNamed (s : State) (p : Nat) (cmd : BitVec 128) : List (Nat × Nat × Group) :=
  (s.part p).saved.flatMap (fun x => (x.groups.filter (fun e => namesGroup cmd e.2)).map (fun e => (x.key, e.1, e.2)))
/-- A saved group changed. -/
def State.updSaved (s : State) (p key old : Nat) (f : Group → Group) : State :=
  s.updPart p (fun x => { x with saved := x.saved.map (fun (y : SavedTeam) =>
    if y.key = key then { y with groups := y.groups.map (fun (e : Nat × Group) => if e.1 = old then (e.1, f e.2) else e) } else y) })
/-- The stop of a group was delivered to the host with ADV = 0 (R409). -/
def State.atHost (s : State) (p : Nat) (g : Group) : Bool :=
  match g.parked with
  | some k => k.who == .host && !k.silent && !(s.part p).hwait.contains { k.rcd with adv := false }
  | none => false
/-- HOST_RESUME (R409, R418, R430). -/
def execHostResume (by_ : Requester) (p : Nat) (cmd : BitVec 128) (s : State) : Res :=
  hostCommand 1 by_ p cmd s fun s =>
    if hGidx cmd = 0xFF || hTeam cmd = 0xFFFFFFFF then (2, s)
    else if !s.hostLaunch p cmd then (1, s)
    else match s.groups.find? (fun e => namesGroup cmd e.2 && s.atHost p e.2) with
      | some (gid, _) => (0, s.resumeGroup gid)
      | none => match (s.savedNamed p cmd).find? (fun e => s.atHost p e.2.2) with
        | some (key, old, _) =>
          (0, s.updSaved p key old (fun g => { g with parked := g.parked.map (fun (k : Park) => { k with go := true }) }))
        | none =>
          if ((s.launch? (hLaunch cmd)).getD {}).chargeHold.contains (hTeam cmd, hGidx cmd)
              && !s.groups.any (fun e => e.2.launch == hLaunch cmd && e.2.stopped) then
            (0, s.updLaunch (hLaunch cmd) (fun l => { l with chargeHold := l.chargeHold.filter (· != (hTeam cmd, hGidx cmd)) }))
          else (1, s)
/-- HOST_END (R409): END on every task named. A prediction whose task it names is refuted (R413). -/
def execHostEnd (by_ : Requester) (p : Nat) (cmd : BitVec 128) (s : State) : Res :=
  hostCommand 2 by_ p cmd s fun s =>
    if !s.hostLaunch p cmd then (1, s)
    else
      let l := (s.launch? (hLaunch cmd)).getD {}
      let hit := fun (e : Nat × Team) =>
        e.1 / 2 ^ 32 == hLaunch cmd && !e.2.dying && (hTeam cmd == 0xFFFFFFFF || e.1 % 2 ^ 32 == hTeam cmd)
        && (hGidx cmd == 0xFF || s.groups.any (fun g => g.2.key == e.1 && g.2.gidx == hGidx cmd)
            || (s.savedNamed p cmd).any (fun g => g.1 == e.1))
      match (s.teams.filter hit).map (·.1) with
      | [] => (1, s)
      | keys =>
        if l.pred && l.live then (0, s.updLaunch (hLaunch cmd) (fun l => { l with refute := 4 }))
        else (0, keys.foldl (fun s k => s.endNamed k) s)
/-- The group stands at a halt that has been delivered, or is about to be (R412). -/
def Group.halted (g : Group) : Bool :=
  g.parked.elim false (fun k => k.rcd.cause == .halt && !k.silent) || g.ending.elim false (fun e => e.rcd.cause == .halt && !e.silent)
/-- A halt of one group (R411, R412). -/
def State.haltGroup (s : State) (gid : Nat) : State :=
  match s.group? gid with
  | none => s
  | some g => if g.halted then s else if g.stopped then s.setGroup gid { g with pendHalt := true } else s.stopAsync gid .halt 0 0
/-- A halt of a saved group becomes pending. -/
def Group.haltSaved (g : Group) : Group := if g.halted then g else { g with pendHalt := true }
/-- HOST_HALT (R411). -/
def execHostHalt (by_ : Requester) (p : Nat) (cmd : BitVec 128) (s : State) : Res :=
  hostCommand 3 by_ p cmd s fun s =>
    if !s.hostLaunch p cmd then (1, s)
    else
      let live := (s.groups.filter (fun e => namesGroup cmd e.2)).map (·.1)
      let sv := s.savedNamed p cmd
      if live.isEmpty && sv.isEmpty then (1, s)
      else (0, sv.foldl (fun s e => s.updSaved p e.1 e.2.1 Group.haltSaved) (live.foldl State.haltGroup s))

end Sys2Proof.Machine
end

