-- ==== Sys2Proof/Machine/Preempt.lean ====
section
/-! DEFINITION. Spatial pre-emption (spec/22 R414-R420, spec/20 R383): RESIZE, CTXSAVE and CTXLOAD, the save of teams, and their
readmission. -/

namespace Sys2Proof.Machine

/-! Team windows (R21, R22), and what an issuer that may be saved is told. -/

/-- A group changed, whether it is live or saved. -/
def State.updIssuer (s : State) (i : Issuer) (f : Group → Group) : State :=
  match s.issuer? i with
  | some (gid, g) => s.setGroup gid (f g)
  | none => { s with parts := s.parts.map (fun (p : Nat × Partition) => (p.1, { p.2 with saved := p.2.saved.map (fun (x : SavedTeam) =>
      { x with groups := x.groups.map (fun (e : Nat × Group) => if e.2.issued i then (e.1, f e.2) else e) }) })) }
/-- Every group of a launch changed, live or saved. -/
def State.updLaunchGroups (s : State) (launch : Nat) (f : Group → Group) : State :=
  let one := fun (e : Nat × Group) => if e.2.launch = launch then (e.1, f e.2) else e
  { s with groups := s.groups.map one, parts := s.parts.map (fun (p : Nat × Partition) => (p.1, { p.2 with
      saved := p.2.saved.map (fun (x : SavedTeam) => { x with groups := x.groups.map one }) })) }
/-- An address lies in the window of a team. -/
def inWindowOf (team va : Nat) : Bool := inTeamWin va && (va - teamWin) / 0x1000000 == team
/-- An address of a team window lies in its register region. -/
def inRegisters (va : Nat) : Bool :=
  let r := (va - teamWin) % 0x800000
  inTeamWin va && decide (0x400000 ≤ r) && decide (r < 0x580000)
/-- An address lies in the window of a team of a launch that is being moved. -/
def State.inMoving (s : State) (launch va : Nat) : Bool :=
  inTeamWin va && ((s.team? (keyOf launch ((va - teamWin) / 0x1000000))).getD {}).moving
/-- A refused store of an issuer that has exited stops its team (R22, R326), as a charge does that no group is left to take (R430, log 70). -/
def State.stopTeam (s : State) (i : Issuer) (addr : W64) : State :=
  s.chargeTo i (fun gid => s.updGroup gid (fun g => { g with pendStore := some (addr, 0) }))
    (s.chargeRetired i (if inTeamWin addr.toNat then .protect else .pagestore) addr)
/-- A side-log entry that will not be performed (R326): a reduction is counted lost, a store stops its group at the next boundary,
or, if that group has exited, its team. -/
def State.dropEntry (s : State) (e : SideEntry) : State :=
  if e.op.isSome then s.updIssuer e.iss (fun g => { g with lost := g.lost + BitVec.ofNat 32 e.reds.length, lostVa := (e.reds.getLast?.map (fun r => BitVec.ofNat 64 r.ea)).getD e.ea })
  else
    let saved := s.parts.any (fun p => p.2.saved.any (fun x => x.groups.any (fun y => y.2.issued e.iss)))
    if (s.issuer? e.iss).isSome || saved then s.updIssuer e.iss (fun g => { g with pendStore := some (e.ea, e.path) })
    else s.stopTeam e.iss e.ea
/-- Queued lock requests that a test picks are withdrawn: their instructions issue afresh (R22, R325). -/
def State.withdraw (s : State) (ok : LockWait → Bool) : State :=
  let s := (s.locks.filter ok).foldl (fun s x => s.updGroup x.gid (fun g => { g with lockReq := none })) s
  { s with locks := s.locks.filter (fun x => !ok x) }

/-! Step 1 and 2: groups stop (R414, R416). -/

/-- A group stops for a pre-emption before its next instruction (R400, R414): it rolls back from overreach, what it has issued
completes, and it leaves the queues in which it waits. An access of its own to a register region that is being moved stays stalled, to
be refused (R22); a `wait` stays blocked until the save (R417). -/
def State.stopForMove (s : State) (gid : Nat) : State :=
  let s := ((s.rollback gid).settleIssued gid).leaveWaits gid
  s.updGroup gid (fun g =>
    let keep := fun (x : Nat × W64) => inRegisters x.2.toNat
    { g.forgetWaits with blocked := g.blocked, pageWait := g.pageWait.filter keep, refused := g.refused.filter keep, stopping := true })
/-- The team of a group is being moved and is not saved yet. -/
def State.moved (s : State) (g : Group) : Bool := (s.teamOf g).moving
/-- Groups of moving teams stop as soon as their critical count is zero (R414). -/
def State.stopMoving (s : State) : State :=
  (s.groups.filter (fun e => s.moved e.2 && e.2.crit == 0 && !e.2.stopping && !e.2.stopped)).foldl
    (fun s e => (s.stopForMove e.1).retest e.2.key) s

/-! Images (R414, R419): their parts, in the order in which the save area holds them (log 71). -/

/-- Slots of a half of a team, as positions in its range, that are bound or draining (R414, R285). -/
def Team.liveSlots (t : Team) (half : Nat) : List Nat :=
  let hs := t.handles.map (·.2) ++ t.tileAccs.map (·.h)
  (List.range t.tiles).filter (fun j => hs.any (fun h =>
    let f := if half = 0 then h.first0 - t.f0 else h.first1 - t.f1
    decide (f ≤ j) && decide (j < f + h.nslot)))
/-- A number of bytes rounded up to 4 KiB. -/
def up4k (n : Nat) : Nat := (n + 4095) / 4096 * 4096
/-- A part of a team's image. -/
inductive ImgPart where
  /-- the scratch allocation of a half -/
  | scratch (half : Nat)
  /-- the reserve of the group that comes at a place in the list of groups -/
  | reserve (i : Nat)
  /-- a slot of a half, by its position in the range -/
  | slot (half j : Nat)
  /-- the register rows of the groups of a half, which these places name -/
  | rows (half : Nat) (is : List Nat)
  /-- the rest of the state of a half -/
  | rest (half : Nat)
  deriving DecidableEq, Repr
/-- The places in a list of groups that stand on a core. -/
def placesOn (gs : List (Nat × Group)) (core : Nat) : List Nat := (gs.zipIdx.filter (fun e => coreOf e.1.1 == core)).map (·.2)
/-- The parts of a team's image. -/
def Team.parts (t : Team) (gs : List (Nat × Group)) : List ImgPart :=
  (if t.tandem then [0, 1] else [0]).flatMap (fun half =>
    let is := placesOn gs (t.core + half)
    [ImgPart.scratch half] ++ is.map ImgPart.reserve ++ (t.liveSlots half).map (ImgPart.slot half) ++ [.rows half is, .rest half])
/-- The group at a place in a list. -/
def groupAt (gs : List (Nat × Group)) (i : Nat) : Group := ((gs[i]?).map (·.2)).getD {}
/-- Bytes of a part in the image. -/
def ImgPart.size (t : Team) (gs : List (Nat × Group)) : ImgPart → Nat
  | .scratch _ => up4k t.scratch
  | .reserve _ => 4096
  | .slot _ _ => 16384
  | .rows _ is => up4k (is.foldl (fun a i => a + rowBytes (groupAt gs i).vregs (groupAt gs i).lanew) 0)
  | .rest _ => 4096
/-- Bytes of a team's image. -/
def State.imageSize (s : State) (key : Nat) (t : Team) : Nat :=
  let gs := s.groupsOf key
  (t.parts gs).foldl (fun n x => n + x.size t gs) 0
/-- A scratch base, and the first slot of a range, on a half. -/
def Team.base (t : Team) (half : Nat) : Nat := if half = 0 then t.sb0 else t.sb1
@[inherit_doc Team.base] def Team.first (t : Team) (half : Nat) : Nat := if half = 0 then t.f0 else t.f1
/-- Offset of a core's Casket slot in its window (R17). -/
def slotOff (f : Nat) : Nat := 0x580000 + f * 0x4000
/-- The registers of a group as bytes, and read back from bytes. -/
def Group.rowsOut (g : Group) : List Byte :=
  (List.range (g.vregs * g.lanew)).flatMap (fun i => toBytes 4 (g.vreg (i / g.lanew) (i % g.lanew)).toNat)
@[inherit_doc Group.rowsOut] def Group.rowsIn (g : Group) (bs : List Byte) : Group :=
  (List.range (g.vregs * g.lanew)).foldl (fun g i =>
    g.setVreg (i / g.lanew) (i % g.lanew) (BitVec.ofNat 32 (ofBytes ((bs.drop (4 * i)).take 4)))) g
/-- Where the bytes of a part lie on the cores of a team; none for rows and the rest. -/
def ImgPart.at_ (t : Team) (gs : List (Nat × Group)) : ImgPart → Option (Nat × Nat)
  | .scratch half => some (onchip (t.core + half) (t.base half), t.scratch)
  | .reserve i => (gs[i]?).map (fun e => (reserveAt e.1 e.2, 4096))
  | .slot half j => some (onchip (t.core + half) (slotOff (t.first half + j)), 16384)
  | .rows _ _ => none
  | .rest _ => none
/-- The bytes of a part, as the image holds them. -/
def State.partOut (s : State) (t : Team) (gs : List (Nat × Group)) (x : ImgPart) : List Byte :=
  let bs := match x.at_ t gs, x with
    | some (a, n), _ => Memory.readList s.mem a n
    | none, .rows _ is => is.flatMap (fun i => (groupAt gs i).rowsOut)
    | none, _ => []
  bs ++ List.replicate (x.size t gs - bs.length) 0
/-- A part read back from the image, for a team and its groups as they stand now. -/
def State.partIn (s : State) (t : Team) (gs : List (Nat × Group)) (x : ImgPart) (bs : List Byte) : State :=
  match x.at_ t gs, x with
  | some (a, n), _ => { s with mem := Memory.writeList s.mem a (bs.take n) }
  | none, .rows _ is =>
    (is.foldl (fun (r : State × List Byte) i =>
      let g := groupAt gs i
      (r.1.updGroup (((gs[i]?).map (·.1)).getD 0) (fun g => g.rowsIn r.2), r.2.drop (rowBytes g.vregs g.lanew))) (s, bs)).1
  | none, _ => s
/-- The part of the save area above the park frames (R414): where it begins, and its granules. -/
def Partition.imgBase (p : Partition) : Nat := fld p.trap 0 64 + 0xA00000
@[inherit_doc Partition.imgBase] def Partition.granules (p : Partition) : Nat := (fld p.trap 64 64 - 0xA00000) / 4096
/-- The granules that no image holds. -/
def Partition.freeGranules (p : Partition) : List Nat :=
  let used := p.saved.flatMap (·.granules)
  (List.range p.granules).filter (fun g => !used.contains g)
/-- An image laid in granules. -/
def State.layImage (s : State) (p : Nat) : List Nat → List Byte → State
  | [], _ => s
  | g :: r, bs => (s.record p ((s.part p).imgBase + 4096 * g) 4096 (ofBytes (bs.take 4096))).layImage p r (bs.drop 4096)
/-- An image as the save area holds it now; it ends at the first granule that the partition may not reach (R7, R445). -/
def State.readImage1 (s : State) (p : Nat) : List Nat → List Byte
  | [] => []
  | g :: r =>
    let a := (s.part p).imgBase + 4096 * g
    if (List.range 4096).all (fun i => s.recordable p (a + i)) then s.portRead a 4096 ++ s.readImage1 p r else []
/-- The parts read back one after another, as far as the bytes go. -/
def State.partsIn (s : State) (t t0 : Team) (gs gs0 : List (Nat × Group)) (bs : List Byte) : List ImgPart → State
  | [] => s
  | x :: r =>
    let n := x.size t0 gs0
    if bs.length < n then s else (s.partIn t gs x (bs.take n)).partsIn t t0 gs gs0 (bs.drop n) r
/-- Teams that hold a core of some tandems. -/
def State.teamsOn (s : State) (ts : List Nat) : List (Nat × Team) :=
  s.teams.filter (fun e => !e.2.away && ts.contains (tandemOf e.2.core))
/-- The images of some teams fit beside those already saved. -/
def State.saveFits (s : State) (p : Nat) (teams : List (Nat × Team)) : Bool :=
  let x := s.part p
  let used := x.saved.foldl (fun a y => a + y.size) 0
  let new := teams.foldl (fun a e => a + s.imageSize e.1 e.2) 0
  decide (used + new ≤ fld x.trap 64 64 - 0xA00000)

/-! The end of a vacating (R383, R420). -/

/-- The tandem mask of a partition set. -/
def Partition.setTandems (p : Partition) (m : BitVec 80) : Partition := { p with rcd := setFld p.rcd 0 80 m.toNat }
/-- STATUS and ACKSTC of the partition command block (R441). -/
def State.pcmdStatus (s : State) (p status : Nat) : State :=
  s.updPart p (fun x => { x with pcmd := setFld (setFld x.pcmd 224 8 status) 256 64 s.stc })
/-- Every tandem has been vacated. -/
def State.vacated (s : State) (p : Nat) : State :=
  let x := s.part p
  if x.resizing then
    (s.setPart p ({ x with vacate := [], resizing := false, vacCtx := false }.setTandems x.newMask)).pcmdStatus p 0
  else s.setPart p { x with vacate := [], vacCtx := false }
/-- An overreach with stores buffered for the window of a team that is being moved cannot drain there: it rolls back (R22, R234, log 72). -/
def State.rollWindows (s : State) : State :=
  (s.groups.filter (fun e => e.2.orun.elim false (fun o => o.order.any (fun q => s.inMoving e.2.launch q.va.toNat)))).foldl
    (fun s e => (s.rollback e.1).retest e.2.key) s
/-- The vacating of some tandems begins (R414 step 1), with the teams that leave. -/
def State.beginVacate (s : State) (p : Nat) (ts : List Nat) (teams : List (Nat × Team)) : State :=
  let s := s.updPart p (fun x => { x with vacate := ts, vacSince := s.stc })
  let s := ((teams.foldl (fun s e => s.updTeam e.1 (fun t => { t with moving := true })) s).stopMoving).rollWindows
  let s := s.withdraw (fun x => s.inMoving ((s.group? x.gid).getD {}).launch x.va)
  if (s.teamsOn ts).isEmpty then s.vacated p else s

/-! RESIZE (R383, R441) and the context commands (R420). -/

/-- The teams of the gang to which a team belongs. -/
def State.gangOf (s : State) (key : Nat) (t : Team) : List (Nat × Team) :=
  s.teams.filter (fun e => e.1 / 2 ^ 32 == key / 2 ^ 32 && e.2.gang0 == t.gang0)
/-- A team on a removed tandem whose gang would no longer fit at once on the tandems that remain. -/
def State.pinned (s : State) (remaining : Nat) (e : Nat × Team) : Bool :=
  let d := ((s.launch? (e.1 / 2 ^ 32)).getD {}).desc
  d.gangp != 0 && decide (d.tandemFits * remaining < e.2.gangn)
/-- The fields of the partition command block that a submission writes (R441). -/
def State.pcmdWrite (s : State) (p : Nat) (cmd : BitVec 192) : State :=
  s.updPart p (fun x => { x with pcmd := setFld x.pcmd 0 192 (fld cmd 0 9 + fld cmd 32 32 * 2 ^ 32 + fld cmd 64 80 * 2 ^ 64) })
/-- RESIZE of a partition to a mask, once it is taken. -/
def State.resizeTo (s : State) (p : Nat) (new : Nat) (force : Bool) : State :=
  let x := s.part p
  let old := fld x.rcd 0 80
  let removed := (List.range 80).filter (fun t => bit old t && !bit new t)
  let taken := (List.range 80).any (fun t => bit new t && !bit old t
    && s.parts.any (fun q => q.1 != p && bit (fld q.2.rcd 0 80) t))
  let keep := ((List.range 80).filter (fun t => bit new t)).length
  let there := s.teamsOn removed
  let pins := there.filter (s.pinned keep)
  let gangs := pins.flatMap (fun e => s.gangOf e.1 e.2)
  let leave := s.teams.filter (fun e => !e.2.away && (there.any (fun y => y.1 == e.1) || gangs.any (fun y => y.1 == e.1)))
  if x.tdi = .locked || x.tdi = .run then s.pcmdStatus p 6
  else if x.resizing || !x.vacate.isEmpty then s.pcmdStatus p 1
  else if taken then s.pcmdStatus p 2
  else if !pins.isEmpty && !force then s.pcmdStatus p 3
  else if !removed.isEmpty && !s.saveFits p leave then s.pcmdStatus p 7
  else
    let added := (List.range 80).filter (fun t => bit new t && !bit old t)
    let s := s.updPart p (fun x => x.setTandems (BitVec.ofNat 80 (old ||| new)))
    let s := if bit x.trace.toNat 0 then s.traceStart x.trace (added.flatMap (fun t => [2 * t, 2 * t + 1])) else s
    if removed.isEmpty then s.pcmdStatus p 0
    else (s.updPart p (fun x => { x with resizing := true, newMask := BitVec.ofNat 80 new })).beginVacate p removed leave
/-- RESIZE (R383). -/
def execResize (by_ : Requester) (p : Nat) (cmd : BitVec 192) (s : State) : Res :=
  if !s.mayPf by_ || 16 ≤ p then .next s
  else
    let s := s.pcmdWrite p cmd
    let seq := fld cmd 32 32
    if seq ≠ (fld (s.part p).pcmd 192 32 + 1) % 2 ^ 32 then .next (s.pcmdStatus p 4)
    else
      let s := s.updPart p (fun x => { x with pcmd := setFld x.pcmd 192 32 seq })
      if fld cmd 0 8 ≠ 1 then .next (s.pcmdStatus p 5)
      else .next (s.resizeTo p (fld cmd 64 80) (bit cmd.toNat 8))
/-- CTXSAVE (R420). -/
def execCtxsave (by_ : Requester) (p : Nat) (cmd : BitVec 128) (s : State) : Res :=
  hostCommand 4 by_ p cmd s fun s =>
    let x := s.part p
    let ts := x.tandems
    let there := s.teamsOn ts
    if hGidx cmd = 0xFF || hTeam cmd = 0xFFFFFFFF then (2, s)
    else if x.ctxsaved || !x.vacate.isEmpty then (5, s)
    else if !s.saveFits p there then (4, s)
    else (0, (s.updPart p (fun x => { x with ctxsaved := true, vacCtx := true })).beginVacate p ts there)
/-- CTXLOAD (R420): the hold on admission is lifted, and saved teams are readmitted (READMISSION). -/
def execCtxload (by_ : Requester) (p : Nat) (cmd : BitVec 128) (s : State) : Res :=
  hostCommand 5 by_ p cmd s fun s =>
    let x := s.part p
    if hGidx cmd = 0xFF || hTeam cmd = 0xFFFFFFFF then (2, s)
    else if !x.ctxsaved || x.vacCtx then (5, s)
    else (0, s.setPart p { x with ctxsaved := false })

/-- CRITTIMEOUT (R416): after 100 µs the groups that are still critical stop, and a NOSTOP record is written for each, which names its
`wait.or` where it rolls back (R234). -/
def execCrittimeout (p : Nat) (s : State) : Res :=
  let x := s.part p
  .next (if x.vacate.isEmpty || s.stc < x.vacSince + 100000 then s
  else (s.groups.filter (fun e => (s.launchOf e.2).part == p && s.moved e.2 && e.2.crit != 0 && !e.2.stopping && !e.2.stopped)).foldl
    (fun s e =>
      let ovrb := e.2.orun.isSome
      let s := s.rollback e.1
      match s.group? e.1 with
      | none => s
      | some g =>
        let r := { s.stopRecord e.1 g .crittimeout false with addr := g.crit.setWidth 64, ovrb := ovrb }
        ((s.recordEvent p r true).stopForMove e.1).retest g.key) s)

/-! Step 4: the save (R414, R298, R417, R418). -/

/-- A store that must be performed before the cores of moving teams are left (R22, R400): one of a moving team, or one for its window. -/
def State.leaving (s : State) (launch team : Nat) (q : Posted) : Bool :=
  ((s.team? (keyOf launch team)).getD {}).moving || s.inMoving launch q.va.toNat
/-- Such stores performed, those of groups that have exited with them. -/
def State.drainWindows (s : State) : State :=
  let s := s.groups.foldl (fun s e => match s.performAll e.1 (e.2.posted.filter (s.leaving e.2.launch e.2.team)) with
    | .ok _ s => s
    | .flt _ s => s
    | .hold s => s) s
  s.cores.foldl (fun s c => (c.2.late.filter (fun x => s.leaving x.launch x.team x.store)).foldl (fun s x => s.performLate c.1 x) s) s
/-- No such store is left. -/
def State.windowsQuiet (s : State) : Bool :=
  !s.groups.any (fun e => e.2.posted.any (s.leaving e.2.launch e.2.team))
  && !s.cores.any (fun c => c.2.late.any (fun x => s.leaving x.launch x.team x.store))
/-- A group may be saved: stopped or parked, with nothing issued still to complete but what waits in slot order behind a saved matrix
command (R298); a parked critical group until 100 µs have passed. -/
def Group.quiet (g : Group) (t : Team) (late : Bool) : Bool :=
  (g.stopping || (g.stopped && (g.crit == 0 || late))) && g.posted.isEmpty && g.orun.isNone
  && g.pend.all (fun x => x.acc != 0 && !t.accReady x.acc)
/-- A team may be saved: its accepted copy commands have finished, its started matrix commands, and every tile access that does not
belong to a saved matrix command or wait for one (R276, R285, R298). -/
def State.teamQuiet (s : State) (late : Bool) (key : Nat) (t : Team) : Bool :=
  !t.dying && (s.groupsOf key).all (fun e => e.2.quiet t late)
  && !s.cores.any (fun c => c.2.copyQ.any (fun x => x.iss.key == key))
  && t.mxQ.all (fun c => !c.started && c.status.isNone && c.stalled.isNone)
  && t.tileAccs.all (fun a => t.mxQ.any (fun c => c.accA == a.id || c.accD == a.id) || !t.accReady a.id)
/-- One team saved: its image is laid in the save area, and it holds no core (R414, R419). A group that is not parked lays its stack in
its reserve first (R142). -/
def State.saveTeam (s : State) (p key : Nat) (t : Team) : State :=
  let size := s.imageSize key t
  let s := (s.groupsOf key).foldl (fun s e => s.unblock e.1) s
  let gs := s.groupsOf key
  let s := (gs.filter (fun e => e.2.parked.isNone)).foldl (fun s e => s.spillStack e.1 e.2) s
  let take := fun (c off n : Nat) => if n = 0 then [] else Memory.extract s.mem (onchip c off) n
  let granules := (s.part p).freeGranules.take (size / 4096)
  let x : SavedTeam :=
    { key := key, groups := gs, bytes0 := take t.core t.sb0 t.scratch, bytes1 := (if t.tandem then take (t.core + 1) t.sb1 t.scratch else []),
      tiles0 := take t.core (slotOff t.f0) (t.tiles * 0x4000),
      tiles1 := (if t.tandem then take (t.core + 1) (slotOff t.f1) (t.tiles * 0x4000) else []),
      spills := gs.map (fun e => (e.1, Memory.extract s.mem (reserveAt e.1 e.2) 4096)),
      frames := (gs.filter (fun e => e.2.parked.isSome)).map (fun e => (e.1, s.portRead (s.frameAt p e.1) 512)), size := size,
      granules := granules }
  let s := s.layImage p granules ((t.parts gs).flatMap (s.partOut t gs))
  let s := gs.foldl (fun s e => s.delGroup e.1) s
  let s := (s.updTeam key (fun t => { t with away := true, mxQ := t.mxQ.map (fun c => { c with asked := false, granted := false }) })).dropComplex key
  s.updPart p (fun q => { q with saved := q.saved ++ [x] })
/-- PREEMPT_SAVE (R414 step 4): once every team that leaves is quiet, all are saved, in the order of their launches' acceptance and
then of TEAMIDX. -/
def execPreemptSave (p : Nat) (s : State) : Res :=
  let x := s.part p
  .next (if x.vacate.isEmpty then s
  else
    let s := s.drainWindows
    let late := decide (x.vacSince + 100000 ≤ s.stc)
    let leave := s.teams.filter (fun e => e.2.moving && !e.2.away && ((s.launch? (e.1 / 2 ^ 32)).getD {}).part == p)
    if !(leave.all (fun e => s.teamQuiet late e.1 e.2) && s.windowsQuiet && (s.teamsOn x.vacate).all (fun e => e.2.moving)) then s
    else
      let order := fun (k : Nat) => ((s.launch? (k / 2 ^ 32)).getD {}).order
      let sorted := leave.mergeSort (fun a b => decide (order a.1 < order b.1) || (order a.1 == order b.1 && decide (a.1 ≤ b.1)))
      (sorted.foldl (fun s e => s.saveTeam p e.1 e.2) s).vacated p)

/-! Steps 5 and 6: the window re-mapped and the team readmitted (R22, R285, R298, R414, R418). -/

/-- A stalled command goes on, or is refused (R22). -/
def unstall (team : Nat) (stalled : Option W64) (status : Option (BitVec 8)) : Option W64 × Option (BitVec 8) :=
  match stalled with
  | some v =>
    if inWindowOf team v.toNat then (none, if inRegisters v.toNat then some stProtect else status) else (stalled, status)
  | none => (stalled, status)
/-- What a group awaits of the window of a team that has been re-mapped (R22): its accesses go on, but those to the register region are
refused. -/
def Group.remap (team : Nat) (g : Group) : Group :=
  let mine := fun (x : Nat × W64) => inWindowOf team x.2.toNat
  { g with pageWait := g.pageWait.filter (fun x => !mine x),
           refused := g.refused ++ g.pageWait.filter (fun x => mine x && inRegisters x.2.toNat) }
/-- The window of a team re-mapped to its new cores (R22): what stalled on it goes on, but in the register region is refused. -/
def State.remap (s : State) (launch team : Nat) : State :=
  let s := s.updLaunchGroups launch (Group.remap team)
  let s := { s with cores := s.cores.map (fun (c : Nat × Core) => (c.1, { c.2 with copyQ := c.2.copyQ.map (fun (x : CopyCmd) =>
    if x.iss.key / 2 ^ 32 = launch then
      let u := unstall team x.stalled x.status
      { x with stalled := u.1, status := u.2, left := (if u.2.isSome then [] else x.left) }
    else x) })) }
  let s := { s with teams := s.teams.map (fun (e : Nat × Team) =>
    if e.1 / 2 ^ 32 = launch then
      let dead := e.2.mxQ.filter (fun (x : MxCmd) => x.stalled.isSome && (unstall team x.stalled x.status).2.isSome)
      let t : Team := { e.2 with mxQ := e.2.mxQ.map (fun (x : MxCmd) =>
        let u := unstall team x.stalled x.status
        { x with stalled := u.1, status := u.2 }) }
      (e.1, dead.foldl (fun t c => t.failCb c) t)
    else e) }
  let gone := fun (e : SideEntry) => e.iss.key / 2 ^ 32 == launch && inWindowOf team e.va.toNat && inRegisters e.va.toNat
  let dead : List SideEntry := s.cores.flatMap (fun (c : Nat × Core) => c.2.sideLog.filter gone)
  let s := { s with cores := s.cores.map (fun (c : Nat × Core) => (c.1, { c.2 with sideLog := c.2.sideLog.filter (fun e => !gone e) })) }
  dead.foldl State.dropEntry s
/-- A handle bound to slots of the new cores (R285). -/
def Handle.shift (h : Handle) (t : Team) (p : Place) : Handle :=
  { h with first0 := h.first0 - t.f0 + p.f0, first1 := (if t.tandem then h.first1 - t.f1 + p.f1 else h.first1) }
/-- A saved team on its new cores (R285, R298). -/
def Team.rebase (t : Team) (p : Place) : Team :=
  { t with core := p.core, sb0 := p.sb0, sb1 := p.sb1, f0 := p.f0, f1 := p.f1, moving := false, away := false,
           handles := t.handles.map (fun (h : Nat × Handle) => (h.1, h.2.shift t p)),
           tileAccs := t.tileAccs.map (fun (a : TileAcc) => { a with h := a.h.shift t p }),
           mxQ := t.mxQ.map (fun (c : MxCmd) => { c with d := c.d.shift t p, a := c.a.shift t p }) }
/-- The need of a saved team. -/
def SavedTeam.need (x : SavedTeam) (t : Team) (d : Desc) : Need :=
  { d.need with halves := x.groups.map (fun e => coreOf e.1 - t.core) }
/-- The team joins the tail of the acquisition queue of its new tandem (R298), where it may be more than the eighth to wait: the limit of
R295 is on `mxacq` (log 62). -/
def State.rejoin (s : State) (key : Nat) (t : Team) : State :=
  let old := t.mxQ.any (·.old) || t.tags.any (·.old)
  let mine := (if old then [(key, true)] else []) ++ (if t.acq then [(key, false)] else [])
  let x := s.complex (tandemOf t.core)
  match x.owner, mine with
  | _, [] => s
  | none, (k, rel) :: r => s.setComplex (tandemOf t.core) { owner := some k, waiters := x.waiters ++ r, releasing := rel }
  | some _, ws => s.setComplex (tandemOf t.core) { x with waiters := x.waiters ++ ws }
/-- A saved group placed in a new context: its stack, its frame, and its record delivered again (R418). -/
def State.placeGroup (s : State) (part : Nat) (x : SavedTeam) (old gid rb reserve : Nat) (g : Group) : State :=
  let here := fun (r : TrapRec) => if r.iret then r else { r with core := coreOf gid, ctx := ctxOf gid }
  let g' := { g with rb := rb, reserve := reserve, stopping := false, blocked := none, lastS := s.cyc (coreOf gid), lastL := s.cyc (coreOf gid),
                     promoS := 0, promoL := 0,
                     ending := g.ending.map (fun (e : Ending) => if e.silent then e else { e with rcd := here e.rcd }) }
  let s := { s with mem := Memory.restore s.mem (onchip (coreOf gid) reserve) 4096 (Tbl.get x.spills old []) }
  match g.parked with
  | none => s.setGroup gid g'
  | some k =>
    let r := if k.who = .sup && !k.silent then here k.rcd else k.rcd
    let s := (s.setGroup gid { g' with parked := some { k with rcd := r, go := false } }).record part (s.frameAt part gid) 512
      (ofBytes (Tbl.get x.frames old []))
    if k.who = .sup && !k.silent then s.toSup (coreOf gid) r else s
/-- What a saved group was told while it waited (R409, R411, R412, R431). -/
def State.wakeSaved (s : State) (gid : Nat) (go : Bool) : State :=
  match s.group? gid with
  | none => s
  | some g => if go then s.resumeGroup gid else if g.stopped then s else s.deliver gid
/-- Landed bytes that waited for a team to have its place again are counted (R22, R273). -/
def State.landLate (s : State) (key : Nat) : State :=
  (s.landWait.filter (fun h => h.key == key)).foldl (fun s h => s.applyLanded h.key h.obj h.bytes)
    { s with landWait := s.landWait.filter (fun h => h.key != key) }
/-- A saved team readmitted at a place: its state, with the parts that the save area holds as they stand there now (R419). -/
def State.readmit (s : State) (part : Nat) (x : SavedTeam) (t : Team) (p : Place) : State :=
  let t' := t.rebase p
  let n := fun (i : Nat) (e : Nat × Group) => 128 * (p.core + (coreOf e.1 - t.core)) + nth p.ctxs i 0
  let put := fun (s : State) (c off n : Nat) (img : List (Nat × Byte)) =>
    if n = 0 then s else { s with mem := Memory.restore s.mem (onchip c off) n img }
  let s := s.updPart part (fun q => { q with saved := q.saved.filter (fun y => y.key != x.key) })
  let s := put (put (s.setTeam x.key t') p.core p.sb0 t.scratch x.bytes0) p.core (slotOff p.f0) (t.tiles * 0x4000) x.tiles0
  let s := if t.tandem then
      put (put s (p.core + 1) p.sb1 t.scratch x.bytes1) (p.core + 1) (slotOff p.f1) (t.tiles * 0x4000) x.tiles1
    else s
  let gs := x.groups.zipIdx
  let s := gs.foldl (fun s e => s.placeGroup part x e.1.1 (n e.2 e.1) (nth p.rbs e.2 0) (nth p.reserves e.2 0) e.1.2) s
  let now := gs.map (fun e => (n e.2 e.1, (s.group? (n e.2 e.1)).getD {}))
  let s := s.partsIn t' t now x.groups (s.readImage1 part x.granules) (t.parts x.groups)
  let s := ((s.rejoin x.key t').remap (x.key / 2 ^ 32) (x.key % 2 ^ 32)).acceptAll x.key
  let s := s.landLate x.key
  gs.foldl (fun s e => s.wakeSaved (n e.2 e.1) (match e.1.2.parked with
    | some k => k.go
    | none => false)) s
/-- A saved team readmitted at a given place, if it is one, else wherever it fits; whole, or not at all. -/
def State.tryReadmit (s : State) (part : Nat) (x : SavedTeam) (place : Option Place) : Option State :=
  match s.team? x.key, s.launch? (x.key / 2 ^ 32) with
  | some t, some l =>
    let need := x.need t l.desc
    let us := s.unitsFor l (x.key % 2 ^ 32)
    match place with
    | some p =>
      if us.contains p.core && s.placeOk need p then some (s.readmit part x t p) else none
    | none =>
      let c := s.pick (us.filter (s.fits need))
      match c.1 with
      | some core =>
        let pl := c.2.teamPlace need 0 core
        some (pl.2.readmit part x t pl.1)
      | none => none
  | _, _ => none
/-- Saved teams readmitted one after another, all or none. -/
def State.readmitAll (s : State) (part : Nat) : List SavedTeam → Option State
  | [] => some s
  | x :: r => (s.tryReadmit part x none).bind (fun s => State.readmitAll s part r)
/-- READMISSION (R414 step 6): the first saved team of a partition, or its gang whole when all of the gang is saved (R383). -/
def execReadmission (p : Nat) (place : Place) (s : State) : Res :=
  let x := s.part p
  .next (match x.saved with
    | [] => s
    | y :: _ =>
      if x.ctxsaved then s
      else
        let t := (s.team? y.key).getD {}
        let gang := s.gangOf y.key t
        if 1 < gang.length && gang.all (fun e => e.2.away) then
          (s.readmitAll p (x.saved.filter (fun z => gang.any (fun e => e.1 == z.key)))).getD s
        else ((s.tryReadmit p y (some place)).orElse (fun _ => s.tryReadmit p y none)).getD s)

end Sys2Proof.Machine
end

