-- ==== Sys2Proof/Machine/Pages.lean ====
section
/-! DEFINITION. Page commands, page requests and their answers, page moves, and the replay of side logs (spec/16 R320-R331). -/

namespace Sys2Proof.Machine

/-! Page commands (R321, R322). -/

/-- The acknowledgement of a page command: STATUS, ACKSTC and the page interrupt; DONESEQ when the command was taken. -/
def State.pageAck (s : State) (p status : Nat) (seq : Option W32) : State :=
  s.updPart p (fun x =>
    let a := setFld (setFld x.ack 32 8 status) 64 64 s.stc
    { x with ack := (match seq with
        | some n => setFld a 0 32 n.toNat
        | none => a), pageIrqs := x.pageIrqs + 1 })
/-- A command of the partition is being carried out. -/
def Partition.paging (p : Partition) : Bool := p.shoot.isSome || p.moves.any (fun m => !m.ready)
/-- A page command is being carried out: the package takes one at a time (R322). -/
def State.paging (s : State) : Bool := s.parts.any (fun p => p.2.paging)
/-- A page command (R322): BADSEQ leaves DONESEQ; a reserved field, a misaligned VA or what bad tells is BADOP. A submission while
a command of any partition is carried out is not taken yet; one that names another command's operation is that command's event. -/
def pageCommand (op : Nat) (by_ : Requester) (p : Nat) (cmd : BitVec 512) (s : State) (bad : Bool) (body : W32 → State → State) : Res :=
  let o := fld cmd 0 8
  if !s.mayPart by_ p || s.paging || (o != op && decide (1 ≤ o) && decide (o ≤ 4)) then .next s
  else
    let seq := BitVec.ofNat 32 (fld cmd 32 32)
    let s := s.updPart p (fun x => { x with mailbox := setFld (setFld cmd 10 6 0) 256 256 0 })
    if fld cmd 32 32 ≠ (fld (s.part p).ack 0 32 + 1) % 2 ^ 32 then .next (s.pageAck p 3 none)
    else if o ≠ op || fld cmd 10 6 ≠ 0 || fld cmd 256 256 ≠ 0 || fld cmd 64 12 ≠ 0 || (op ≠ 4 && fld cmd 160 32 ≠ 0) || bad then
      .next (s.pageAck p 2 (some seq))
    else .next (body seq s)
/-- ASID, VA, NPAGES, NEWPA of a command. -/
def pcAsid (cmd : BitVec 512) : Nat := fld cmd 16 16
@[inherit_doc pcAsid] def pcVa (cmd : BitVec 512) : Nat := fld cmd 64 64
@[inherit_doc pcAsid] def pcPages (cmd : BitVec 512) : Nat := fld cmd 128 32
@[inherit_doc pcAsid] def pcNew (cmd : BitVec 512) : Nat := fld cmd 192 64

/-! Shootdowns (R323). -/

/-- A held translation is of one of some ASIDs and of a page that overlaps a range of pages. -/
def shot (ok : Nat → Bool) (first : Nat) (n : Option Nat) (e : Nat × W64) : Bool :=
  let page := e.1 % 2 ^ 52
  let size := 2 ^ (9 * fld e.2 54 3)
  ok (e.1 / 2 ^ 52) && (match n with
    | none => true
    | some n => overlaps (page / size * size) size first n)
/-- A held non-leaf entry is of one of some ASIDs, and pages of its range are among some. -/
def shotWalk (ok : Nat → Bool) (first : Nat) (n : Option Nat) (e : Nat × W64) : Bool :=
  let k := e.1 / 2 ^ 52 % 8
  ok (e.1 / 2 ^ 52 / 8) && (match n with
    | none => true
    | some n => overlaps (e.1 % 2 ^ 52 * 2 ^ (9 * k)) (2 ^ (9 * k)) (first % 2 ^ 45) n)
/-- Held entries dropped in every core TLB, walk-ahead TLB and walk cache of the package (R323). -/
def State.dropTlb (s : State) (ok : Nat → Bool) (first : Nat) (n : Option Nat) : State :=
  let cut := fun (t : List (Nat × W64)) => t.filter (fun e => !shot ok first n e)
  { s with cores := s.cores.map (fun (c : Nat × Core) => (c.1, { c.2 with tlb := cut c.2.tlb, wtlb := cut c.2.wtlb,
                                                                          hart := { c.2.hart with tlb := cut c.2.hart.tlb } })),
           dies := s.dies.map (fun (d : Nat × Die) => (d.1, { d.2 with walks := d.2.walks.filter (fun e => !shotWalk ok first n e) })) }
/-- The address spaces that a SHOOT of an ASID names: that one and the entries valid in every one (0x10000), or all (R321, R323). -/
def shootAsid (all : Bool) (asid a : Nat) : Bool := all || a == asid || a == 0x10000
/-- The range of a SHOOT: every page of the ASID when NPAGES is 0. -/
def shootRange (n : Nat) : Option Nat := if n = 0 then none else some n
/-- An access of a launch is in the range of a SHOOT. -/
def State.shotAccess (s : State) (ok : Nat → Bool) (first : Nat) (n : Option Nat) (launch va : Nat) : Bool :=
  !inAperture va && !inTeamWin va && ok ((s.launch? launch).getD {}).asid.toNat && n.all (fun n => overlaps (va / 4096) 1 first n)
/-- The stores of a list that a test picks, each with those before it that it awaits (R175, R232, R250, R448), in program order. -/
def State.withEarlier (s : State) (ok : Posted → Bool) (ps : List Posted) : List Posted :=
  ps.foldr (fun q acc => if ok q || acc.any (fun x => s.precedes q x.pa x.size true) then q :: acc else acc) []
/-- Stores accepted for their ports performed where a test picks them (launch and store): those of groups, and of groups that have exited. -/
def State.performPicked (s : State) (ok : Nat → Posted → Bool) : State :=
  let s := s.groups.foldl (fun s e => match s.performAll e.1 (s.withEarlier (ok e.2.launch) e.2.posted) with
    | .ok _ s => s
    | .flt _ s => s
    | .hold s => s) s
  s.cores.foldl (fun s c => c.2.late.foldl (fun s x =>
    let mine := (c.2.late.filter (fun y => y.gid == x.gid && y.launch == x.launch && y.team == x.team)).map (·.store)
    if (s.withEarlier (ok x.launch) mine).contains x.store then s.performLate c.1 x else s) s) s
/-- A store that a test picks is left. -/
def State.anyPicked (s : State) (ok : Nat → Posted → Bool) : Bool :=
  s.groups.any (fun e => e.2.posted.any (ok e.2.launch)) || s.cores.any (fun c => c.2.late.any (fun x => ok x.launch x.store))
/-- What a SHOOT does to accesses under entries that it drops (R323): stores accepted are performed; an overreach that has buffered such a
store rolls back (log 73). -/
def State.shootAccesses (s : State) (ok : Nat → Bool) (first : Nat) (n : Option Nat) : State :=
  let hit := fun (g : Group) => g.orun.elim false (fun o => o.order.any (fun q => s.shotAccess ok first n g.launch q.va.toNat))
  let s := (s.groups.filter (fun e => hit e.2)).foldl (fun s e => (s.rollback e.1).retest e.2.key) s
  s.performPicked (fun launch q => s.shotAccess ok first n launch q.va.toNat)
/-- A queued lock request does not stand at the port to which its page leads now (R325): its page has gone missing, or leads elsewhere. One
whose translation has been asked of the host waits for the answer. -/
def State.lockStrays (s : State) (x : LockWait) : Bool :=
  match s.group? x.gid with
  | none => false
  | some g => match (s.frameOf (coreOf x.gid) (s.launchOf g) x.va false).1 with
    | .port pa => pa != x.pa
    | .hold => false
    | _ => true
/-- Entries dropped by a SHOOT or an invalidation, with its effect on the accesses under them (R323): a queued lock request keeps its place at
its port while its page leads there (R249), and is otherwise withdrawn and issued afresh (R325). -/
def State.shootDown (s : State) (ok : Nat → Bool) (first : Nat) (n : Option Nat) : State :=
  let s := (s.shootAccesses ok first n).dropTlb ok first n
  s.withdraw (fun x => s.shotAccess ok first n ((s.group? x.gid).getD {}).launch x.va && s.lockStrays x)

/-! What a page move does to what names its lines (R328-R331). -/

/-- An address in a page that moves, in its new frame. -/
def inNew (old new pa : Nat) : Nat := if old ≤ pa ∧ pa < old + 4096 then new + (pa - old) else pa
/-- A granule number in its new frame. -/
def lineNew (old new n : Nat) : Nat := inNew old new (64 * n) / 64
/-- A store whose page moves goes to the new frame. -/
def Posted.moveTo (old new : Nat) (x : Posted) : Posted := { x with pa := inNew old new x.pa }
/-- An overreach whose bytes move: buffered stores go to the new frame, and what may have been read there may have been read. -/
def Over.moveTo (o : Over) (old new : Nat) : Over :=
  let lines := (List.range 64).filter (fun i => o.mayHaveRead (old / 64 + i))
  { o with buf := o.buf.foldl (fun t c => Tbl.put t (inNew old new c.1) c.2) [],
           order := o.order.map (Posted.moveTo old new),
           sig := lines.foldl (fun s i => s ||| (1 <<< (Config.sigBit (new / 64 + i)).toNat)) o.sig }
/-- What waits for, or has read, a line of an old frame follows the page: queued locks in their order, overreaching groups and the stores
that have left an overreach, side-log entries, predictions (R328). -/
def State.follow (s : State) (old new : Nat) : State :=
  let lock := fun (x : LockWait) => { x with pa := inNew old new x.pa }
  let group := fun (g : Group) => { g with lockReq := g.lockReq.map (inNew old new), orun := g.orun.map (fun o => o.moveTo old new),
                                           posted := g.posted.map (Posted.moveTo old new) }
  let late := fun (x : Late) => { x with store := x.store.moveTo old new }
  let launch := fun (l : Launch) =>
    let more := (l.reads.filter (fun n => decide (old / 64 ≤ n) && decide (n < old / 64 + 64))).map (lineNew old new)
    { l with reads := l.reads ++ more }
  { s with locks := s.locks.map lock, groups := s.groups.map (fun (e : Nat × Group) => (e.1, group e.2)),
           launches := s.launches.map (fun (e : Nat × Launch) => (e.1, launch e.2)),
           cores := s.cores.map (fun (c : Nat × Core) => (c.1, { c.2 with
             late := c.2.late.map late, sideLog := c.2.sideLog.map (fun e => { e with line := e.line.map (lineNew old new) }) })) }
/-- The lines of every version in an old frame move to the new one, each version keeping its ID (R328). -/
def State.moveVersions (s : State) (old new : Nat) : State :=
  { s with versions := s.versions.map (fun (v : Nat × Version) => (v.1, { v.2 with
      lines := v.2.lines.foldl (fun t l => Tbl.put t (lineNew old new l.1) l.2) [] })) }
/-- A line lies in a frame. -/
def inFrame (frame n : Nat) : Bool := decide (frame / 64 ≤ n) && decide (n < frame / 64 + 64)
/-- Every cached copy of a frame's committed lines above the LLC discarded. -/
def State.uncache (s : State) (frame : Nat) : State :=
  let cut := fun (t : List (Nat × CLine)) => t.filter (fun c => !inFrame frame c.1)
  { s with cores := s.cores.map (fun (c : Nat × Core) => (c.1, { c.2 with l1 := cut c.2.l1, sc := cut c.2.sc })),
           dies := s.dies.map (fun (d : Nat × Die) => (d.1, { d.2 with l2r := cut d.2.l2r })) }
/-- Dirty committed lines of a frame written back to DRAM, and every cached copy discarded (R330). -/
def State.writeBackPage (s : State) (frame : Nat) : State :=
  let s := s.uncache frame
  let ls := s.llc.filter (fun l => inFrame frame l.1 && l.2.dirty)
  { s with mem := ls.foldl (fun m l => Memory.writeList m (64 * l.1) (toBytes 64 l.2.data.toNat)) s.mem,
           llc := s.llc.filter (fun l => !inFrame frame l.1) }
/-- A page copied to a new device frame: committed bytes as the home returns them, errors of lines with them (R328). -/
def State.copyPage (s : State) (old new : Nat) : State :=
  let s1 := (s.portPut new (s.portRead old 4096)).uncache new
  { s1 with badLines := s1.badLines.filter (fun n => !inFrame new n) ++ (s1.badLines.filter (inFrame old)).map (lineNew old new) }
/-- The leaf entry of a page found by a walk of a die (R318): the entry, its address and level, and the page's device frame; none where it
is not mapped to device memory. -/
def State.leafPage (s : State) (die asid root va : Nat) : Option (Nat × Nat × Nat × Nat) :=
  match (s.walk die asid va false root 5).1 with
  | .leaf e a k => match s.place (leafAddr e k va) with
    | some pa => if regionOf pa = .dram then some (e, a, k, pa) else none
    | none => none
  | _ => none
/-- The die whose translation unit serves a partition's page commands: that of its lowest core. -/
def State.dieOfPart (s : State) (p : Nat) : Nat := dieOf (((s.part p).lowCore).getD 0)
/-- The root table of an address space of a partition. -/
def State.rootOf (s : State) (p asid : Nat) : Option Nat :=
  match s.queues.find? (fun q => q.2.en && q.2.part == p && fld q.2.rcd 32 16 == asid) with
  | some q => some (fld q.2.rcd 64 64)
  | none => (s.launches.find? (fun l => l.2.part == p && l.2.asid.toNat == asid)).map (fun l => l.2.root.toNat)
/-- The partition does not walk: it asks the host for translations (R324). -/
def Partition.assisted (p : Partition) : Bool := fld p.rcd 80 1 == 1
/-- A leaf that some core of a partition holds for a page (R324): the entry and its level, and the page's frame where that is device
memory. -/
def State.heldPage (s : State) (p asid va : Nat) : Option (Nat × Nat × Option Nat) :=
  ((s.cores.filter (fun c => s.partOfCore c.1 == some p)).findSome? (fun c => [c.2.tlb, c.2.wtlb].findSome? (fun t =>
    (Tbl.find t (tlbKey asid va)).orElse (fun _ => Tbl.find t (tlbKey 0x10000 va))))).map (fun h =>
      let e := setBits h.toNat 54 3 0
      (e, fld h 54 3, match s.place (leafAddr e (fld h 54 3) va) with
        | some pa => if regionOf pa = .dram then some pa else none
        | none => none))
/-- A page of a move, as it is found: its entry (without the A and D bits, which accesses may set meanwhile), its device frame, and whether
it is a 4 KiB page. -/
structure OldPage where
  pte : W64 := 0
  frame : Nat := 0
  small : Bool := true
  deriving DecidableEq, Repr
/-- What is known of a page of a move. -/
inductive Known where
  | page (p : OldPage)
  /-- not mapped to device memory -/
  | gone
  /-- host-assisted: the host must be asked -/
  | ask
  deriving DecidableEq, Repr
/-- The entry of a page without its A and D bits. -/
def bare (e : Nat) : W64 := BitVec.ofNat 64 e &&& ~~~ 0xC0
/-- What is known of a page (R322, R324). A page that is mapped to host memory has no device frame to move, and counts as not mapped
(log 66). -/
def State.known (s : State) (p asid va : Nat) : Known :=
  if (s.part p).assisted then
    match s.heldPage p asid va with
    | some (e, k, some pa) => .page { pte := bare e, frame := pa, small := k == 0 }
    | some (_, _, none) => .gone
    | none => if (s.part p).noPage.contains (tlbKey asid va) then .gone else .ask
  else match (s.rootOf p asid).bind (fun r => s.leafPage (s.dieOfPart p) asid r va) with
    | some (e, _, k, pa) => .page { pte := bare e, frame := pa, small := k == 0 }
    | none => .gone
/-- What is known of the pages of a move. -/
def State.oldPages (s : State) (p asid va n : Nat) : List Known := (List.range n).map (fun i => s.known p asid (va + 4096 * i))
/-- The pages of a move whose entry and frame are known. -/
def pagesOf (ks : List Known) : List OldPage := ks.filterMap (fun k => match k with
  | .page p => some p
  | _ => none)
/-- The new frames of a move are all of the kind it asks for, as host physical addresses (R318). -/
def State.newFrames (s : State) (flip : Bool) (newpa n : Nat) : Bool :=
  newpa % 4096 == 0 && (List.range n).all (fun i => match s.place (newpa + 4096 * i) with
    | some pa => (match regionOf pa with
      | .dram => !flip
      | .host _ => flip
      | _ => false)
    | none => false)
/-- The pages of a move write-protected, once they are known (R328 step 1, R330 step 1): NOTPRESENT where one is not mapped to device
memory, BADOP where one is larger than 4 KiB, BUSY where one is being moved already. -/
def State.startMove (s : State) (p : Nat) (m : PageMove) : State :=
  let ks := s.oldPages p m.asid.toNat m.va.toNat m.npages
  let ps := pagesOf ks
  let off := s.updPart p (fun x => { x with moves := x.moves.filter (fun y => y.seq != m.seq || y.ready) })
  if ks.contains .gone then off.pageAck p 4 (some m.seq)
  else if ks.contains .ask then off.updPart p (fun x => { x with moves := x.moves ++ [{ m with asked := true }] })
  else if ps.any (fun o => !o.small) then off.pageAck p 2 (some m.seq)
  else if ps.any (fun o => off.frameMoving o.frame) then off.pageAck p 5 (some m.seq)
  else off.updPart p (fun x => { x with moves := x.moves ++ [{ m with asked := false, olds := ps.map (·.frame), ptes := ps.map (·.pte) }] })
/-- A move begins (R328, R330 step 1): BUSY where a page of it is already moving. -/
def State.beginMove (s : State) (p : Nat) (flip : Bool) (cmd : BitVec 512) (seq : W32) : State :=
  let n := pcPages cmd
  let first := pcVa cmd / 4096
  if (s.part p).moves.any (fun m => m.asid.toNat == pcAsid cmd && overlaps (m.va.toNat / 4096) m.npages first n) then
    s.pageAck p 5 (some seq)
  else
    let news := (List.range n).filterMap (fun i => s.place (pcNew cmd + 4096 * i))
    s.startMove p { flip := flip, asid := BitVec.ofNat 16 (pcAsid cmd), va := BitVec.ofNat 64 (pcVa cmd), npages := n,
                    newpa := BitVec.ofNat 64 (pcNew cmd), news := news, seq := seq }
/-- MIGRATE (R328). -/
def execMigrate (by_ : Requester) (p : Nat) (cmd : BitVec 512) (s : State) : Res :=
  pageCommand 2 by_ p cmd s (pcPages cmd == 0 || decide (512 < pcPages cmd) || !s.newFrames false (pcNew cmd) (pcPages cmd))
    fun seq s => s.beginMove p false cmd seq
/-- FLIP (R330). -/
def execFlip (by_ : Requester) (p : Nat) (cmd : BitVec 512) (s : State) : Res :=
  pageCommand 3 by_ p cmd s (pcPages cmd == 0 || decide (512 < pcPages cmd) || !s.newFrames true (pcNew cmd) (pcPages cmd))
    fun seq s => s.beginMove p true cmd seq

/-- A store was accepted for one of some frames at its home (R328 step 2); one that left an overreach has not reached it yet. -/
def inFrames (olds : List Nat) (_launch : Nat) (q : Posted) : Bool := !q.buffered && olds.contains (q.pa / 4096 * 4096)
/-- A version holds a line of one of some frames. -/
def Version.holdsFrame (v : Version) (olds : List Nat) : Bool := v.lines.any (fun l => olds.any (fun o => inFrame o l.1))
/-- The kind of a version's parent. -/
def State.parentKind (s : State) (v : Version) : Option VKind := v.parent.bind (fun i => (Tbl.find s.versions i).map (·.kind))
/-- Publications that an ownership flip forces (R330 step 2). -/
def State.flipPublish (s : State) (olds : List Nat) : State :=
  let s := (s.versions.filter (fun v => v.2.kind == .task && v.2.holdsFrame olds && s.parentKind v.2 != some .pred)).foldl
    (fun s v => s.force v.1 6) s
  (s.versions.filter (fun v => v.2.kind == .launch && v.2.holdsFrame olds && v.2.parent.isNone)).foldl
    (fun s v => s.detectOnly v.2.owner 2) s
/-- Version lines of the pages discarded, and the predicted launches that owned one refuted with OWNER (R330 step 4). -/
def State.flipDiscard (s : State) (olds : List Nat) : State :=
  let owners := ((s.versions.filter (fun v => v.2.holdsFrame olds)).map (fun v => v.2.launch)).eraseDups
  let s := { s with versions := s.versions.map (fun (v : Nat × Version) => (v.1, { v.2 with
    lines := v.2.lines.filter (fun l => !olds.any (fun o => inFrame o l.1)) })) }
  owners.foldl (fun s id => s.refute id 3) s
/-- The entry update of one page (R328 step 4): one compare-and-swap puts the new PPN into the entry that the move found, whose A and D bits
may have been set since (R319). An entry that has changed otherwise stays as it is (log 74). -/
def State.updateEntry (s : State) (p asid va : Nat) (old : W64) (newpa : Nat) : State :=
  match (s.rootOf p asid).bind (fun r => s.leafPage (s.dieOfPart p) asid r va) with
  | some (_, a, _, _) => match s.place a with
    | some pa =>
      let e := s.pteAt a
      if bare e = old then s.portWrite pa (toBytes 8 (setBits e 10 44 (newpa / 4096))) 0 true else s
    | none => s
  | none => s
/-- One page moved in hardware mode: copied, its lines followed, its entry updated and shot down. -/
def State.movePage (s : State) (p : Nat) (m : PageMove) (i : Nat) : State :=
  let old := nth m.olds i 0
  let host := m.newpa.toNat + 4096 * i
  let va := m.va.toNat + 4096 * i
  match s.place host with
  | none => s
  | some new =>
    let s := if m.flip then { s with mem := Memory.writeList s.mem new (Memory.readList s.mem old 4096) }
      else (s.copyPage old new).moveVersions old new
    ((s.follow old new).updateEntry p m.asid.toNat va (nth m.ptes i 0) host).dropTlb (shootAsid false m.asid.toNat) (va / 4096) (some 1)
/-- The drain of a move is done (R328 step 2, R330 steps 2 to 4). -/
def State.afterDrain (s : State) (m : PageMove) : State :=
  if m.flip then
    let s := s.flipPublish m.olds
    (m.olds.foldl (fun s o => s.writeBackPage o) s).flipDiscard m.olds
  else s
/-- The first die on which the lines that versions hold, with those that page moves bring there, exceed its version space (R332). -/
def State.crowded (s : State) : Option Nat := (List.range 8).find? (fun d => decide (131072 * 16 < s.dieLines d))
/-- A migration brings version lines to a die that has no room for them (R332): as for a new line there, the task version with the most lines
on the die is published, if there is one that may be (R342); the move waits (log 87). -/
def State.makeDieRoom (s : State) (d : Nat) : State :=
  match s.largest (fun l => !(l.pred && l.live) && l.desc.cls != 2)
      (fun y => if y.parent.isNone && y.lines.any (fun e => s.frameMoving (64 * e.1)) then 0
        else (y.lines.filter (fun e => homeDie (64 * e.1) == d)).length) 1 with
  | some w => s.force w 4
  | none => s
/-- MOVE_COMPLETE (R328, R330, R331): once the drain is done, every page moves and the command ends with OK; in host-assisted mode it
ends with READY, and the host's SHOOT with ENDMOVE is the entry update. A move whose pages had to be asked of the host begins when they
are known (R324). -/
def execMoveComplete (p : Nat) (s : State) : Res :=
  .next (match (s.part p).moves.find? (fun m => !m.ready) with
    | none => s
    | some m =>
      if m.asked then
        if (s.oldPages p m.asid.toNat m.va.toNat m.npages).contains .ask then s else s.startMove p m
      else
        let s := s.performPicked (inFrames m.olds)
        if s.anyPicked (inFrames m.olds) then s
        else if !m.flip && s.crowded.isSome then s.crowded.elim s s.makeDieRoom
        else
          let s := s.afterDrain m
          if (s.part p).assisted then
            (s.updPart p (fun x => { x with moves := x.moves.map (fun y => if y.ready then y else { y with ready := true }) })).pageAck p 1 (some m.seq)
          else
            let s := (List.range m.npages).foldl (fun s i => s.movePage p m i) s
            (s.updPart p (fun x => { x with moves := x.moves.filter (fun y => y.ready) })).pageAck p 0 (some m.seq))
/-- A host-assisted move ended by the host's SHOOT (R331): what names the old frames follows the pages. -/
def State.endMove (s : State) (m : PageMove) : State :=
  (List.range m.npages).foldl (fun s i =>
    match s.place (m.newpa.toNat + 4096 * i) with
    | none => s
    | some new =>
      let old := nth m.olds i 0
      (if m.flip then s else s.moveVersions old new).follow old new) s
/-- SHOOT (R323, R331). -/
def execShoot (by_ : Requester) (p : Nat) (cmd : BitVec 512) (s : State) : Res :=
  pageCommand 1 by_ p cmd s (fld cmd 192 64 != 0) fun seq s =>
    let ok := shootAsid (bit cmd.toNat 8) (pcAsid cmd)
    let first := pcVa cmd / 4096
    let rng := shootRange (pcPages cmd)
    let ends := fun (m : PageMove) => m.ready && ok m.asid.toNat && (match rng with
      | none => true
      | some n => overlaps (m.va.toNat / 4096) m.npages first n)
    let s := if bit cmd.toNat 9 then
        let ms := (s.part p).moves.filter ends
        (ms.foldl (fun s m => s.endMove m) s).updPart p (fun x => { x with moves := x.moves.filter (fun m => !ends m) })
      else s
    (s.shootDown ok first rng).updPart p (fun x => { x with shoot := some seq, shootAt := s.stc })
/-- SHOOT_ACKNOWLEDGE (R323): once no store accepted under an entry that was dropped is left, and 2 µs after the command at the latest; every
other access is performed in the step that translates it. The mailbox holds the command's range. -/
def execShootAcknowledge (p : Nat) (s : State) : Res :=
  .next (match (s.part p).shoot with
    | none => s
    | some seq =>
      let cmd := (s.part p).mailbox
      let hit := fun launch (q : Posted) =>
        s.shotAccess (shootAsid (bit cmd.toNat 8) (pcAsid cmd)) (pcVa cmd / 4096) (shootRange (pcPages cmd)) launch q.va.toNat
      let s := s.performPicked hit
      if s.anyPicked hit && s.stc < (s.part p).shootAt + 1999 then s else (s.updPart p (fun x => { x with shoot := none })).pageAck p 0 (some seq))

/-! Answers to page requests (R324-R326). -/

/-- A stalled engine command that a page's answer concerns goes on, or ends with PAGEFAULT (R256, R325). -/
def answered (va : W64) (ok : Bool) (stalled : Option W64) (status : Option (BitVec 8)) : Option W64 × Option (BitVec 8) :=
  if stalled = some va then (none, if ok then status else some stPage) else (stalled, status)
/-- What a group of a core learns of a page's answer (R325): its hold ends, and a refused page is refused to the streams that wait for it. -/
def Group.answer (va : W64) (ok : Bool) (g : Group) : Group :=
  let mine := g.pageWait.filter (fun x => x.2 == va)
  { g with pageWait := g.pageWait.filter (fun x => x.2 != va), refused := if ok then g.refused else g.refused ++ mine }
/-- A page request answered: the page is mapped, or refused. In host-assisted mode the answer is for every core, whose one request it was
(R324). -/
def State.answer (s : State) (p : Nat) (r : PageReq) (ok : Bool) : State :=
  let inCtx := fun (launch : Nat) => match s.launch? launch with
    | some l => l.part == p && l.asid == r.asid
    | none => false
  let all := (s.part p).assisted
  let s := s.updPart p (fun x => { x with reqs := x.reqs.filter (fun y => y.tag != r.tag),
                                          noPage := x.noPage.filter (· != tlbKey r.asid.toNat r.va.toNat) })
  let s := { s with groups := s.groups.map (fun (e : Nat × Group) =>
    if (all || coreOf e.1 = r.core) && inCtx e.2.launch then (e.1, e.2.answer r.va ok) else e) }
  let s := { s with cores := s.cores.map (fun (c : Nat × Core) =>
    if all || c.1 = r.core then (c.1, { c.2 with copyQ := c.2.copyQ.map (fun (x : CopyCmd) =>
      if inCtx (x.iss.key / 2 ^ 32) then
        let u := answered r.va ok x.stalled x.status
        { x with stalled := u.1, status := u.2, left := (if u.2.isSome then [] else x.left) }
      else x) })
    else c) }
  let s := { s with teams := s.teams.map (fun (t : Nat × Team) =>
    if (all || t.2.core = r.core) && inCtx (t.1 / 2 ^ 32) then
      let dead := if ok then [] else t.2.mxQ.filter (fun (x : MxCmd) => x.stalled == some r.va)
      let t' : Team := { t.2 with mxQ := t.2.mxQ.map (fun (x : MxCmd) =>
        let u := answered r.va ok x.stalled x.status
        { x with stalled := u.1, status := u.2 }) }
      (t.1, dead.foldl (fun t c => t.failCb c) t')
    else t) }
  let mine := all || (s.part p).lowCore = some r.core || !(s.part p).reqs.any (fun y => y.va == r.va && y.asid == r.asid)
  let s := { s with queues := s.queues.map (fun (q : Nat × Queue) =>
    if mine && q.2.part = p && fld q.2.rcd 32 16 = r.asid.toNat && q.2.wait = some r.va then
      (q.1, { q.2 with wait := none, refused := if ok then q.2.refused else q.2.refused ++ [r.va] })
    else q) }
  let s := { s with launches := s.launches.map (fun (l : Nat × Launch) =>
    if mine && l.2.part = p && l.2.asid = r.asid && l.2.wait = some r.va then
      (l.1, { l.2 with wait := none, refusedPages := if ok then l.2.refusedPages else l.2.refusedPages ++ [r.va] })
    else l) }
  if ok then s
  else
    let gone := fun (e : SideEntry) => e.asid == r.asid && e.va.toNat / 4096 == r.va.toNat / 4096 && inCtx (e.iss.key / 2 ^ 32)
    let dead : List SideEntry := s.cores.flatMap (fun (c : Nat × Core) => if all || c.1 = r.core then c.2.sideLog.filter gone else [])
    let s := { s with cores := s.cores.map (fun (c : Nat × Core) =>
      if all || c.1 = r.core then (c.1, { c.2 with sideLog := c.2.sideLog.filter (fun e => !gone e) }) else c) }
    dead.foldl State.dropEntry s
/-- The unanswered request of a tag answered, if there is one (R324). -/
def State.answerTag (s : State) (p : Nat) (tag : W32) (ok : Bool) : State :=
  match (s.part p).reqs.find? (fun r => r.tag == tag) with
  | some r => s.answer p r ok
  | none => s
/-- RESPOND (R324). -/
def execRespond (by_ : Requester) (p : Nat) (cmd : BitVec 512) (s : State) : Res :=
  pageCommand 4 by_ p cmd s (decide (1 < pcNew cmd)) fun seq s =>
    (s.answerTag p (BitVec.ofNat 32 (fld cmd 160 32)) (pcNew cmd == 0)).pageAck p 0 (some seq)
/-- PRG_RESPONSE (R324): Success answers as RESPOND does; any other response refuses the page. -/
def execPrgResponse (p : Nat) (tag : W32) (success : Bool) (s : State) : Res :=
  .next (if (s.part p).assisted then s.answerTag p tag success else s)
/-- Queued lock requests of a core for a page whose translation the host has answered (R325). -/
def State.answeredLocks (s : State) (core asid va : Nat) : State :=
  s.withdraw (fun x => coreOf x.gid == core && (s.launchOf ((s.group? x.gid).getD {})).asid.toNat == asid && x.va / 4096 == va / 4096
    && s.lockStrays x)
/-- ATS_TRANSLATION_COMPLETION (R324, R320): a core of a host-assisted partition, and its copy engine, hold the translation; an answer that
the page is not present is held by nobody, and leads to a page request (log 19). -/
def execAtsTranslationCompletion (core asid : Nat) (va pte : W64) (s : State) : Res :=
  .next (match s.partOfCore core with
    | none => s
    | some p =>
      State.answeredLocks (core := core) (asid := asid) (va := va.toNat) <|
      let key := tlbKey asid va.toNat
      let rest := (s.part p).noPage.filter (· != key)
      if !(s.part p).assisted || 0x10000 ≤ asid then s
      else if bit pte.toNat 0 then
        let k := leafKey asid va.toNat pte.toNat
        let leaf := tlbLeaf pte.toNat 0
        ((s.holdLeaf core false k leaf).holdLeaf core true k leaf).updPart p (fun x => { x with noPage := rest })
      else s.updPart p (fun x => { x with noPage := rest ++ [key] }))
/-- ATS_INVALIDATE (R324): it acts as SHOOT. -/
def execAtsInvalidate (p asid : Nat) (va : W64) (npages : Nat) (s : State) : Res :=
  let ok := shootAsid false asid
  let first := va.toNat / 4096
  .next (if (s.part p).assisted then s.shootDown ok first (shootRange npages) else s)

/-! Replay (R326). -/

/-- The runs of masked bytes of an entry: offset in its granule and bytes. -/
def SideEntry.runs (e : SideEntry) : List (Nat × Byte) :=
  ((List.range 64).filter (fun i => e.mask.getLsbD i)).map (fun i => (i, lineByte e.data i))
/-- The live context of an issuer, if it has one. -/
def State.liveGid (s : State) (i : Issuer) : Option Nat := (s.issuer? i).map (·.1)
/-- Masked bytes of an entry written at a port, for its task (R326, R334, R336). -/
def State.replayPut (s : State) (core : Nat) (who : Option Nat) (key va pa : Nat) : List (Nat × Byte) → Rc Unit
  | [] => .ok () s
  | (i, b) :: r => match s.writePort core who key (va + i) (pa + i) [b] with
    | .ok _ s => State.replayPut s core who key va pa r
    | .flt c s => .flt c s
    | .hold s => .hold s
/-- One reduction of an entry performed at its place in the granule (R246, R338, R252). -/
def State.replayRed (s : State) (core : Nat) (e : SideEntry) (op pa : Nat) (x : SideRed) : Rc Unit :=
  let n := e.size
  let a := pa + x.ea % 64
  let who := s.liveGid e.iss
  if s.bad a n then
    .ok () ((s.logError a core).updIssuer e.iss (fun g => { g with lost := g.lost + 1, lostVa := BitVec.ofNat 64 x.ea }))
  else
    let b := x.val.toNat % 2 ^ (8 * n)
    let s := s.markRead { launch := e.iss.key / 2 ^ 32, team := e.iss.key % 2 ^ 32 } a n
    match s.rmwPut core who e.iss.key x.ea a n (decide (2 ≤ e.scope)) (fun m =>
        if op = 9 then (if m = x.cmp.toNat % 2 ^ (8 * n) then b else m) else amoValue op (8 * n) m b) with
    | .ok _ s => .ok () s.grantAll
    | .flt c s => .flt c s
    | .hold s => .hold s
/-- The reductions of an entry performed in the order they entered; those that must still wait are answered too. -/
def State.replayReds (s : State) (core : Nat) (e : SideEntry) (op pa : Nat) : List SideRed → List SideRed × State
  | [] => ([], s)
  | x :: r => match s.replayRed core e op pa x with
    | .ok _ s => State.replayReds s core e op pa r
    | .flt _ s => (x :: r, s)
    | .hold s => (x :: r, s)
/-- An entry leaves its log. -/
def State.popEntry (s : State) (core i : Nat) : State := s.updCore core (fun c => { c with sideLog := c.sideLog.eraseIdx i })
/-- The version that the release of an entry's access publishes with its replay (R335, R337): at gang scope or wider, that of its task, unless the
task has been ended (R339). -/
def State.entryPub (s : State) (e : SideEntry) : Option Nat :=
  match s.team? e.iss.key with
  | some t => if e.rel.any (3 ≤ ·) && !t.dying then t.version else none
  | none => none
/-- The publication of an entry's release. -/
def State.pubEntry (s : State) (e : SideEntry) : State := (s.entryPub e).elim s s.publish
/-- An entry's access is to be discarded with what its task had not published: the task has been ended, and the access acts in its version
(R338, R339). -/
def State.deadEntry (s : State) (e : SideEntry) (pa : Nat) : Bool :=
  let l := (s.launch? (e.iss.key / 2 ^ 32)).getD {}
  ((s.team? e.iss.key).getD {}).dying && l.desc.cls != 1 && regionOf pa == .dram && !(e.op.isSome && decide (2 ≤ e.scope))
/-- At a port that keeps program order, what the entry's issuer did before is performed first: earlier entries, and stores accepted for such
ports (R250, R358, R448). -/
def State.entryWaits (s : State) (e : SideEntry) (pa : Nat) : Bool :=
  ordPort pa true && (s.sideEarlier e.iss e.at_
    || (s.issuer? e.iss).any (fun g => g.2.posted.any (fun q => ordPort q.pa true))
    || s.cores.any (fun c => c.2.late.any (fun x => x.gid == e.iss.gid && keyOf x.launch x.team == e.iss.key && ordPort x.store.pa true)))
/-- SIDE_LOG_REPLAY (R326): an entry whose page is present is performed; those of its granule that came before it go first. A release that it
carries publishes in the same step (R335). One whose page is not present asks again; one that the page forbids is dropped. -/
def execSideLogReplay (core i : Nat) (s : State) : Res :=
  .next (match (s.core core).sideLog[i]? with
    | none => s
    | some e =>
      let l := (s.launch? (e.iss.key / 2 ^ 32)).getD {}
      let earlier := ((s.core core).sideLog.take i).any (fun y => y.asid == e.asid && y.va == e.va)
      let rw : Rw := if e.op.isSome then .amo else .wr
      if earlier then s
      else
        let r := if inTeamWin e.va.toNat then (s.windowLoc (e.iss.key / 2 ^ 32) e.ea.toNat e.size, s)
          else s.translate core l e.va.toNat rw true
        match r with
        | (.port pa0, s1) =>
          let pa := pa0 - (if inTeamWin e.va.toNat then e.ea.toNat % 64 else 0)
          if s1.portBusy pa 64 true || s1.entryWaits e pa || (s1.entryPub e).any s1.pubHeld then s
          else if s1.deadEntry e pa then s1.popEntry core i
          else match e.op with
            | none => (match s1.replayPut core (s1.liveGid e.iss) e.iss.key e.va.toNat pa e.runs with
              | .ok _ s2 => (((s2.heal s1.wrote.length).pubEntry e).grantAll).popEntry core i
              | .flt _ s => s
              | .hold s => s)
            | some op =>
              let x := (s1.pubEntry e).replayReds core e op pa e.reds
              if x.1.isEmpty then x.2.popEntry core i
              else x.2.updCore core (fun c => { c with sideLog := c.sideLog.set i { e with reds := x.1 } })
        | (.flt _, s1) => (s1.updCore core (fun c => { c with sideLog := c.sideLog.eraseIdx i })).dropEntry e
        | (.missing, s1) => if inTeamWin e.va.toNat then s1 else s1.requestPage core (ctxOf e.iss.gid) l e.va.toNat rw false
        | (_, s1) => s1)

end Sys2Proof.Machine
end

