-- ==== Sys2Proof/Machine/Debug.lean ====
section
/-! DEFINITION. What a debugger and a profiler write (spec/24 R427, R432-R437): watchpoints, trace control, the sampler, monitors. -/

namespace Sys2Proof.Machine

/-- A watchpoint as a write leaves it (R427): misaligned, with a reserved bit, with a length beyond 2^47, or with RD on an engine
watchpoint it stays unarmed. HITS is unchanged. -/
def Watch.write (w : Watch) (v : BitVec 128) (engine : Bool) : Watch :=
  let wlen := fld v 68 6
  let bad := fld v 0 64 % 2 ^ wlen != 0 || bit v.toNat 67 || fld v 74 6 != 0 || fld v 84 12 != 0 || fld v 113 15 != 0
    || decide (47 < wlen) || (engine && bit v.toNat 65)
  { w with addr := BitVec.ofNat 64 (fld v 0 64), en := bit v.toNat 64 && !bad, rd := bit v.toNat 65 && !engine, wr := bit v.toNat 66, wlen := wlen,
           part := fld v 80 4, asid := BitVec.ofNat 16 (fld v 96 16), anyAsid := bit v.toNat 112 }
/-- WATCHPOINT_WRITE (R427, R440): a group watchpoint of a core, or an engine watchpoint of the package; through PF0 only. -/
def execWatchpointWrite (by_ : Requester) (core : Option Nat) (i : Nat) (val : BitVec 128) (s : State) : Res :=
  .next (if !s.mayPf by_ then s
  else match core with
    | some c =>
      if c < 160 && i < 8 then s.updCore c (fun x => { x with gw := setNth x.gw i {} ((nth x.gw i {}).write val false) }) else s
    | none => if i < 16 then { s with ew := Tbl.set s.ew i ((Tbl.get s.ew i {}).write val true) {} } else s)

/-- TRACE_CONTROL_WRITE (R432, R434): EN going from 0 to 1 starts tracing on every core of the partition. -/
def execTraceControlWrite (by_ : Requester) (p : Nat) (val : BitVec 128) (s : State) : Res :=
  .next (if !s.mayPart by_ p then s
  else
    let x := s.part p
    let v := setFld (setFld (setFld val 2 6 0) 13 3 0) 48 16 0
    let s := s.setPart p { x with trace := v }
    if !bit x.trace.toNat 0 && bit v.toNat 0 then s.traceStart v (x.tandems.flatMap (fun t => [2 * t, 2 * t + 1])) else s)

/-! The sampler (R435). -/

/-- The sampler of a group's partition is on. -/
def State.sampled (s : State) (g : Group) : Bool := bit (s.part (s.launchOf g).part).sampler.toNat 0
/-- An interval drawn from [2^(PLOG-1), 3 x 2^(PLOG-1)) issued instructions (R435); the draw itself is not architectural. -/
def State.sampleGap (s : State) (p : Nat) : Nat × State :=
  let log := fld (s.part p).sampler 1 5
  let k := s.useFresh
  (2 ^ (log - 1) + Config.latency k.1 % 2 ^ log, k.2)
/-- The next instruction that the scheduler of a quarter issues is to be tagged: its interval has passed, and none is in flight (R435). -/
def State.sampleDue (s : State) (k : Nat) : Bool := Tbl.find s.sampleIn k == some 1 && (Tbl.find s.tags k).isNone
/-- An instruction of a stream has issued (R435): the scheduler's interval goes on, and the instruction at its end is tagged, with the level
that its accesses reached. g: the group as it was. -/
def State.sampleIssue (s : State) (gid : Nat) (g : Group) (lane : Bool) (pc : W32) : State :=
  let k := gid / 32
  if !s.sampled g then (if s.sampleIn.isEmpty then s else { s with sampleIn := Tbl.del s.sampleIn k })
  else
    let far := if lane then ((g.path? s.slot).map (·.far)).getD 0 else 0
    let mine := (Tbl.find s.tags k).elim (s.sampleDue k) (fun t => t.gid == gid && t.lane == lane && !t.issued)
    let s := if !mine then s
      else
        let s := { s with tags := Tbl.put s.tags k { gid := gid, lane := lane, pc := pc, level := farthest ((0, far) :: s.reached), issued := true } }
        if lane then s.updGroup gid (fun g => { g with pend := g.pend.map (fun x => if x.at_ = g.laneN then { x with tagged := true } else x) })
        else s
    match Tbl.find s.sampleIn k with
    | some n =>
      if mine then
        let d := s.sampleGap (s.launchOf g).part
        { d.2 with sampleIn := Tbl.put d.2.sampleIn k d.1 }
      else { s with sampleIn := Tbl.put s.sampleIn k (max 1 (n - 1)) }
    | none =>
      let d := s.sampleGap (s.launchOf g).part
      { d.2 with sampleIn := Tbl.put d.2.sampleIn k d.1 }
/-- SAMPLER_TAG (R435): a scheduler whose interval has passed tags the instruction of a stream of its quarter that is to issue. -/
def execSamplerTag (core quarter : Nat) (lane : Bool) (s : State) : Res :=
  let k := 4 * core + quarter
  .next (if 160 ≤ core || 4 ≤ quarter || !s.sampleDue k then s
  else match (s.groupsIn core quarter).find? (fun e => s.sampled e.2 && (if lane then s.readyL e.2 else s.readyS e.2)) with
    | none => s
    | some (gid, g) =>
      let pc : W32 := if lane then (g.slot0.orElse (fun _ => g.slot1)).elim 0 (·.pc) else BitVec.ofNat 32 (wordIndex (s.launchOf g) g.spc)
      { s with tags := Tbl.put s.tags k { gid := gid, lane := lane, pc := pc } })
/-- A tagged instruction that was still to issue is given up with its group, or when that stops (R435 DISC). -/
def State.tagLost (s : State) (t : Tag) : Bool :=
  !t.issued && (match s.group? t.gid with
    | none => true
    | some g => g.stopped || g.stopping)
/-- A tagged instruction has written back, or has been discarded (R435). -/
def State.tagDone (s : State) (t : Tag) : Bool :=
  t.stc.isSome || t.disc || s.tagLost t || (t.issued && !(s.group? t.gid).elim false (fun g => g.pend.any (·.tagged)))
/-- The tags whose instructions have written back or have been discarded in a step keep when, and which (R435 STC, DISC). -/
def State.stampTags (s : State) : State :=
  if s.tags.isEmpty then s
  else { s with tags := s.tags.map (fun e => (e.1, if e.2.stc.isNone && s.tagDone e.2 then
      { e.2 with stc := some s.stc, disc := e.2.disc || s.tagLost e.2 } else e.2)) }
/-- SAMPLE_RECORD (R435): the record of a tagged instruction that has written back or has been discarded; its cycle counts are not
architectural. -/
def execSampleRecord (core quarter : Nat) (s : State) : Res :=
  let k := 4 * core + quarter
  .next (match Tbl.find s.tags k with
    | none => s
    | some t =>
      if !s.tagDone t then s
      else
        let disc := t.disc || (t.stc.isNone && s.tagLost t)
        let s := { s with tags := Tbl.del s.tags k }
        match s.partOfCore core with
        | none => s
        | some p =>
          let x := s.part p
          if !bit x.sampler.toNat 0 then s
          else
            let f := s.useFresh
            let w := t.pc.toNat + core * 2 ^ 32 + ctxOf t.gid * 2 ^ 40 + t.lane.toNat * 2 ^ 47 + quarter * 2 ^ 48
              + t.level % 10 * 2 ^ 50 + disc.toNat * 2 ^ 54 + (Config.sampleFields f.1).toNat * 2 ^ 64 + t.stc.getD s.stc * 2 ^ 192
            (f.2.record p (fld x.sampler 64 64 + 32 * (x.srec % 2 ^ fld x.sampler 6 5)) 32 w).updPart p
              (fun x => { x with srec := x.srec + 1 }))

/-- A monitor cleared (R436 CLR). -/
def Monitor.clear (m : Monitor) : Monitor := { m with mn := 0xFFFFFFFF, mx := 0, bins := [] }
/-- A monitor of a die changed. -/
def State.updMonitor (s : State) (die m : Nat) (f : Monitor → Monitor) : State :=
  s.updDie die (fun d => { d with mons := Tbl.set d.mons m (f (Tbl.get d.mons m {})) {} })
/-- MONITOR_CLEAR (R436); through PF0 only (R440). -/
def execMonitorClear (by_ : Requester) (die m : Nat) (s : State) : Res :=
  .next (if s.mayPf by_ && decide (die < 8) && decide (m < 64) then s.updMonitor die m Monitor.clear else s)

end Sys2Proof.Machine
end

