-- ==== Sys2Proof/Machine/HostMem.lean ====
section
/-! DEFINITION. The host's accesses to memory (spec/11 R240, R250, R252; spec/25 R439, R442, R445): HFLUSH and HINV, device memory
through BAR2, the host-coherent window through BAR4, and AtomicOps; and evictions and errors of memory itself. -/

namespace Sys2Proof.Machine

/-! The host memory command block (R442). -/

/-- A range lies within stacked DRAM or LPDDR 6 (R11). -/
def inDram (a n : Nat) : Bool :=
  decide (a + n ≤ 0x3000000000) || (decide (0x4000000000 ≤ a) && decide (a + n ≤ 0x1C000000000))
/-- STATUS and ACKSTC of the block. -/
def State.hmemStatus (s : State) (p status : Nat) : State :=
  s.updPart p (fun x => { x with hmem := setFld (setFld x.hmem 224 8 status) 256 64 s.stc })
/-- A host memory command (R442, R322): BADSEQ leaves DONESEQ; a misaligned range, or one that leaves DRAM, is BADOP. A submission
that names the other operation is that command's event. -/
def hmemCommand (op : Nat) (by_ : Requester) (p : Nat) (cmd : BitVec 192) (s : State) (body : Nat → Nat → State → State) : Res :=
  let o := fld cmd 0 8
  if !s.mayPart by_ p || (o != op && (o == 1 || o == 2)) then .next s
  else
    let s := s.updPart p (fun x => { x with hmem := setFld x.hmem 0 192 (setFld cmd 8 24 0).toNat })
    let seq := fld cmd 32 32
    if seq ≠ (fld (s.part p).hmem 192 32 + 1) % 2 ^ 32 then .next (s.hmemStatus p 3)
    else
      let a := fld cmd 64 64
      let n := fld cmd 128 64
      let ok := o == op && a % 64 == 0 && n % 64 == 0 && decide (n ≤ 2 ^ 32) && inDram a n
      let s := if ok then body a n s else s
      .next ((s.updPart p (fun x => { x with hmem := setFld x.hmem 192 32 seq })).hmemStatus p (if ok then 0 else 2))
/-- A line lies in a range. -/
def inRange (a n line : Nat) : Bool := decide (a ≤ 64 * line) && decide (64 * line + 64 ≤ a + n)
/-- Dirty committed lines of a range written back to DRAM by the home LLC (R240, R442). -/
def State.flushRange (s : State) (a n : Nat) : State :=
  let ls := s.llc.filter (fun l => inRange a n l.1 && l.2.dirty)
  { s with mem := ls.foldl (fun m l => Memory.writeList m (64 * l.1) (toBytes 64 l.2.data.toNat)) s.mem,
           llc := s.llc.map (fun (l : Nat × LlcLine) => if inRange a n l.1 then (l.1, { l.2 with dirty := false }) else l) }
/-- Every committed copy of a range discarded in every L1, scalar cache, L2 and LLC, none written back (R442). -/
def State.invalidate (s : State) (a n : Nat) : State :=
  let cut := fun (t : List (Nat × CLine)) => t.filter (fun c => !inRange a n c.1)
  { s with cores := s.cores.map (fun (c : Nat × Core) => (c.1, { c.2 with l1 := cut c.2.l1, sc := cut c.2.sc })),
           dies := s.dies.map (fun (d : Nat × Die) => (d.1, { d.2 with l2r := cut d.2.l2r })),
           llc := s.llc.filter (fun l => !inRange a n l.1) }
/-- HFLUSH (R442). -/
def execHflush (by_ : Requester) (p : Nat) (cmd : BitVec 192) (s : State) : Res :=
  hmemCommand 1 by_ p cmd s fun a n s => s.flushRange a n
/-- HINV (R442). -/
def execHinv (by_ : Requester) (p : Nat) (cmd : BitVec 192) (s : State) : Res :=
  hmemCommand 2 by_ p cmd s fun a n s => s.invalidate a n

/-! Device memory through BAR2 (R439, R240, R445). -/

/-- BAR2 serves a request of at most a number of bytes: the offset is one that R11 maps to DRAM, and a page tagged for a TDI in RUN is its
VF's with T = 1. -/
def State.bar2Serves (s : State) (r : Requester) (off size most : Nat) : Bool :=
  s.served && decide (0 < size) && decide (size ≤ most) && inDram off size
  && (List.range size).all (fun i => match s.tagOf (off + i) with
    | some p => (s.part p).tdi != .run || (r.vf == some p && r.t)
    | none => true)
/-- The answer to a host request: the value it returns, or Unsupported Request. -/
def State.answerHost (s : State) (v : Option Nat) : State :=
  match v with
  | some v => { s with hostRead := BitVec.ofNat 64 v, hostUr := false }
  | none => { s with hostUr := true }
/-- A host write goes to the old frame of a page whose host-assisted move is between READY and ENDMOVE: it is lost (R331). -/
def State.hostLost (s : State) (off : Nat) : Bool :=
  s.parts.any (fun p => p.2.moves.any (fun m => m.ready && m.olds.contains (off / 4096 * 4096)))
/-- The host has written bytes in DRAM under lines that the LLC holds dirty (R240). -/
def State.hostUnder (s : State) (off n : Nat) : State :=
  { s with llc := (linesOf off n).foldl (fun t l => match Tbl.find t l with
    | some x => if x.dirty then Tbl.put t l { x with host := x.host ||| maskOf (fun i => decide (off ≤ 64 * l + i) && decide (64 * l + i < off + n)) }
      else t
    | none => t) s.llc }
/-- HOST_MEMORY_WRITE (R240, R252, R331): up to a line lands in DRAM, past every cache. -/
def execHostMemoryWrite (by_ : Requester) (off size : Nat) (val : BitVec 512) (s : State) : Res :=
  .next (if !s.bar2Serves by_ off size 64 then s.answerHost none
  else if s.hostLost off then { s with hostUr := false }
  else (({ s.hostUnder off size with mem := Memory.write s.mem off size val.toNat, hostUr := false }).note { pa := off, len := size, committed := true }).heal s.wrote.length)
/-- HOST_MEMORY_READ (R240, R252). -/
def execHostMemoryRead (by_ : Requester) (off size : Nat) (s : State) : Res :=
  .next (if !s.bar2Serves by_ off size 8 then s.answerHost none
  else if s.bad off size then (s.logError off 0).answerHost none
  else s.answerHost (some (Memory.read s.mem off size)))

/-! The host-coherent window through BAR4 (R439, R250). -/

/-- The window address that a requester reaches at a BAR4 offset: PF0 all of it, a VF its partition's share from offset 0. -/
def State.bar4At (s : State) (r : Requester) (off size : Nat) : Option Nat :=
  if !s.served || size = 0 || 8 < size then none
  else match r.vf with
    | none => if off + size ≤ 2 ^ 20 then some (0x1FF00000000 + off) else none
    | some p =>
      let pr := (s.part p).rcd
      if off + size ≤ 4096 * fld pr 144 16 then some (0x1FF00000000 + 4096 * fld pr 128 16 + off) else none
/-- HOST_WINDOW_WRITE (R250). -/
def execHostWindowWrite (by_ : Requester) (off size : Nat) (val : W64) (s : State) : Res :=
  .next (match s.bar4At by_ off size with
    | some pa => { s with hostUr := false }.portWrite pa (toBytes size val.toNat)
    | none => s.answerHost none)
/-- HOST_WINDOW_READ (R250): the current contents. -/
def execHostWindowRead (by_ : Requester) (off size : Nat) (s : State) : Res :=
  .next (match s.bar4At by_ off size with
    | some pa => s.answerHost (some (ofBytes (s.portRead pa size)))
    | none => s.answerHost none)
/-- What an AtomicOp writes over the old value. -/
def atomicOpValue (op : AtomicOp) (w m b c : Nat) : Nat :=
  match op with
  | .fetchAdd => (m + b) % 2 ^ w
  | .swap => b
  | .cas => if m = c then b else m
/-- ATOMICOP (R250): 32 and 64 bits, aligned, at the window port; the requester gets the old value. Any other is an Unsupported
Request. -/
def execAtomicop (by_ : Requester) (op : AtomicOp) (off size : Nat) (val cmp : W64) (s : State) : Res :=
  .next (match s.bar4At by_ off size with
    | some pa =>
      if (size = 4 || size = 8) && off % size = 0 then
        let m := ofBytes (s.portRead pa size)
        let n := atomicOpValue op (8 * size) m (val.toNat % 2 ^ (8 * size)) (cmp.toNat % 2 ^ (8 * size))
        (s.portWrite pa (toBytes size n)).answerHost (some m)
      else s.answerHost none
    | none => s.answerHost none)

/-! Memory itself (R240, R252). -/

/-- LLC_EVICTION (R240): a line leaves the LLC, and is written back to DRAM if it is dirty. -/
def execLlcEviction (line : Nat) (s : State) : Res :=
  let s1 := s.flushRange (64 * line) 64
  .next { s1 with llc := Tbl.del s1.llc line }
/-- UNCORRECTABLE_ERROR (R252): reads of the line fail until it is rewritten whole. -/
def execUncorrectableError (line : Nat) (s : State) : Res :=
  .next (if s.badLines.contains line then s else { s with badLines := s.badLines ++ [line] })

end Sys2Proof.Machine
end

