-- ==== Sys2Proof/Machine/Regs.lean ====
section
/-! DEFINITION. Writes of host and supervisor registers that have no behaviour of their own (REGISTER_WRITE): which of a word's bits
each takes, and when (spec/20 R368-R370, R382, spec/22 R404-R408, spec/24 R427, R435, R436, spec/25 R439-R449, spec/26 R460, R461). -/

namespace Sys2Proof.Machine

/-- The masked bits of 64-bit word i of a register replaced. -/
def putWord {n : Nat} (r : BitVec n) (i : Nat) (mask val : W64) : BitVec n :=
  let old := BitVec.ofNat 64 (fld r (64 * i) 64)
  setFld r (64 * i) 64 ((old &&& ~~~ mask) ||| (val &&& mask)).toNat
/-- The partition's configuration is frozen: its TDI is in CONFIG_LOCKED or RUN (R444). -/
def State.frozen (s : State) (p : Nat) : Bool := (s.part p).tdi == .locked || (s.part p).tdi == .run

/-- Writable bits of a queue record's words, EN apart (R368). -/
def queueMask (i : Nat) : W64 :=
  match i with
  | 0 => 0x0000FFFF1F1F7FFE
  | 1 => 0xFFFFFFFFFFFFFFFF | 2 => 0xFFFFFFFFFFFFFFFF | 3 => 0xFFFFFFFFFFFFFFFF | 4 => 0xFFFFFFFFFFFFFFFF
  | 5 => 0x000007FF07FF001F
  | 6 => 0x000000000000FFFF
  | _ => 0
/-- A queue record written (R368, R370, R440, R444): with EN = 1 only PRIO and AHEAD change; PART is read-only to a VF, and frozen
with the partitions concerned. -/
def State.writeQueueRec (s : State) (by_ : Requester) (q i : Nat) (val : W64) : State :=
  if !s.mayQueue by_ q then s
  else
    let Q := s.queue q
    let part := by_.vf.isNone && !s.frozen Q.part && !s.frozen (fld val 8 4)
    let m := if Q.en then (if i = 0 then (if 9 ≤ fld val 4 4 then 0xC else 0xFC) else 0)
      else if i = 0 && !part then queueMask 0 &&& ~~~ 0xF00 else queueMask i
    s.setQueue q { Q with rcd := putWord Q.rcd i m val }

/-- Writable bits of a partition record's words (R382). -/
def partMask (i : Nat) : W64 :=
  match i with
  | 1 => 0x0000FFFF3F010000
  | 2 => 0xFFFFFFFFFFFFFFFF
  | 3 => 0x0000001FFFFFFFFF
  | 4 => 0xFFFFFFFFFFFFFFFF
  | 5 => 0x000000000000001F
  | _ => 0
/-- A window share that overlaps no other partition's and lies within the window (R382). -/
def State.shareOk (s : State) (p base n : Nat) : Bool :=
  decide (base + n ≤ 256)
  && s.parts.all (fun q => q.1 == p || n == 0 || fld q.2.rcd 144 16 == 0 || !overlaps base n (fld q.2.rcd 128 16) (fld q.2.rcd 144 16))
/-- A partition record written (R382, R440, R444). -/
def State.writePartRec (s : State) (by_ : Requester) (p i : Nat) (val : W64) : State :=
  if !s.mayPf by_ || 16 ≤ p || s.partEnabled p || s.frozen p then s
  else
    let x := s.part p
    let m := if i = 2 && !s.shareOk p (fld val 0 16) (fld val 16 16) then 0xFFFFFFFF00000000 else partMask i
    s.setPart p { x with rcd := putWord x.rcd i m val }

/-- The bits of a claim table word that a write takes (R404): DEV, HOST and EXCL of causes 0x01 to 0x18. -/
def claimMask (w : Nat) : W64 :=
  match w with
  | 0 => 0x0707070707070700
  | 1 => 0x0707070707070707
  | 2 => 0x0707070707070707
  | _ => 0x0000000000000007
/-- A trap block word written (R404, R408): words 0 to 3 and the claim table in words 6 to 9. -/
def State.writeTrapBlock (s : State) (by_ : Requester) (p i : Nat) (val : W64) : State :=
  if !s.mayPart by_ p || s.partEnabled p then s
  else
    let x := s.part p
    if i < 3 then s.setPart p { x with trap := putWord x.trap i 0xFFFFFFFFFFFFFFFF val }
    else if i = 3 then s.setPart p { x with trap := putWord x.trap i 0x0000FFFF0000001F val }
    else if 6 ≤ i && i < 10 then s.setPart p { x with claim := putWord x.claim (i - 6) (claimMask (i - 6)) val }
    else s

/-- A monitor's CTL written (R436). -/
def Monitor.write (m : Monitor) (val : W64) : Monitor :=
  let c := putWord m.ctl 0 0x0000FFFF001F0F03 val
  let c := if 9 ≤ fld val 8 4 then setFld c 0 1 0 else c
  let m := { m with ctl := c }
  if bit val.toNat 2 then m.clear else m
/-- A die register written (R460). -/
def Die.write (d : Die) (val : W64) : Die :=
  let drth := if fld val 0 8 = 0 then 1 else fld val 0 8
  let r := setFld (setFld (setFld d.reg 0 8 drth) 8 8 (max 8 (fld val 8 8))) 16 1 (fld val 16 1)
  { d with reg := setFld r 32 32 (fld r 32 32 &&& (0xFFFFFFFF ^^^ fld val 32 32)) }
/-- A collective table entry written (R449): EPOCH is read-only, and a round in progress ends with the entry's use. -/
def Coll.write (c : Coll) (i : Nat) (val : W64) : Coll :=
  let m : W64 := match i with
    | 0 => 0xFFFFFFFF
    | 1 => 0xFFFFFFFFFFFFFFFF
    | 2 => 0xFFFFFFFFFFFFFFFF
    | 3 => 0x0000FFFFFFFFFFFF
    | _ => 0
  let r := putWord c.rcd i m val
  if i = 0 && fld val 0 1 = 0 then { rcd := r } else { c with rcd := r }
/-- A sealed stream entry's KEY, SID or NEXT written (R446): the bytes of KEY written since the previous SET are kept. -/
def Sealed.write (x : Sealed) (i : Nat) (val : W64) : Sealed :=
  match i with
  | 4 => { x with sid := BitVec.ofNat 32 (fld val 0 32), nextReg := setFld x.nextReg 0 32 (fld val 32 32) }
  | 5 => { x with nextReg := setFld x.nextReg 32 32 (fld val 0 32) }
  | i => if i < 4 then { x with staged := putWord x.staged i 0xFFFFFFFFFFFFFFFF val, fresh := x.fresh ||| (0xFF <<< (8 * i)) } else x
/-- The requester may write a partition's sealed stream table (R440, R444): in RUN only its VF with T = 1. -/
def State.maySeal (s : State) (by_ : Requester) (p : Nat) : Bool :=
  s.mayPart by_ p && ((s.part p).tdi != .run || (by_.vf == some p && by_.t))
/-- HITS of a watchpoint written (R427): ones clear; a reserved bit set above it leaves EN at 0. -/
def Watch.clear (w : Watch) (val : W64) : Watch :=
  { w with hits := w.hits &&& ~~~ (val.setWidth 32), en := w.en && fld val 32 32 == 0 }
/-- REGISTER_WRITE (R6): word is the 64-bit word of the register. -/
def execRegisterWrite (by_ : Requester) (r : HostReg) (word : Nat) (val : W64) (s : State) : Res :=
  .next (match r with
    | .queueRec q => s.writeQueueRec by_ q word val
    | .partRec p => s.writePartRec by_ p word val
    | .trapBlock p => s.writeTrapBlock by_ p word val
    | .sampler p =>
      if s.mayPart by_ p && word < 2 then
        s.updPart p (fun x => { x with sampler := putWord x.sampler word (if word = 0 then 0x7FF else 0xFFFFFFFFFFFFFFFF) val })
      else s
    | .monitor d m => if s.mayPf by_ && d < 8 && m < 64 && word = 0 then s.updMonitor d m (fun x => x.write val) else s
    | .dieReg d => if s.mayPf by_ && d < 8 && word = 0 then s.updDie d (fun x => x.write val) else s
    | .pkgReg => if s.mayPf by_ && word = 0 then { s with pkg := setFld s.pkg 0 16 (min 2600 (max 1000 (fld val 0 16))) } else s
    | .route i =>
      if s.mayPf by_ && i < 64 && word < 2 then
        let m : W64 := if word = 0 then 0xFFFFFFFFFFFFFFFF else 0x0000001FFFFFFFFF
        { s with routes := Tbl.set s.routes i (putWord (Tbl.get s.routes i 0) word m val) 0 }
      else s
    | .coll i => if s.mayPf by_ && i < 16 then { s with coll := Tbl.set s.coll i ((Tbl.get s.coll i {}).write word val) {} } else s
    | .seal p i =>
      if s.maySeal by_ p && i < 64 then
        s.updPart p (fun x => { x with seals := Tbl.set x.seals i ((Tbl.get x.seals i {}).write word val) {} })
      else s
    | .stqBase c => if c < 160 && word = 0 then s.updCore c (fun x => { x with stqBase := val &&& ~~~ 0x3FFF }) else s
    | .sverd c => if c < 160 && word = 0 && fld val 8 2 = 0 then s.updCore c (fun x => { x with svstat := 2 }) else s
    | .gwHits c i =>
      if s.mayPf by_ && c < 160 && i < 8 && word = 0 then s.updCore c (fun x => { x with gw := setNth x.gw i {} ((nth x.gw i {}).clear val) }) else s
    | .ewHits i =>
      if s.mayPf by_ && i < 16 && word = 0 then { s with ew := Tbl.set s.ew i ((Tbl.get s.ew i {}).clear val) {} } else s
    | .bar n =>
      if by_.vf.isSome || word ≠ 0 then s
      else if n = 2 then { s with bar2 := val.toNat / 2 ^ 41 * 2 ^ 41 }
      else if n = 4 then { s with bar4 := val.toNat / 2 ^ 20 * 2 ^ 20 }
      else s)

end Sys2Proof.Machine
end

