-- ==== Sys2Proof/Machine/Bar.lean ====
section
/-! DEFINITION. BAR0 (spec/25 R439, R440): which register each 64-bit word of the control map is, what it reads as, and who reaches it. -/

namespace Sys2Proof.Machine

/-- A word of the map that REGISTER_WRITE does not write: one that is read-only, or whose write is an event of its own. -/
inductive BarWord where
  /-- BOOTSTAT (R450) -/
  | bootStat
  /-- a register that REGISTER_WRITE writes, and which of its words -/
  | reg (r : HostReg) (word : Nat)
  /-- partition command block (R441) -/
  | pcmd (p word : Nat)
  /-- page command mailbox (R321) -/
  | mailbox (p word : Nat)
  /-- acknowledgement block (R322) -/
  | ack (p word : Nat)
  /-- trace control (R432) -/
  | trace (p word : Nat)
  /-- host memory command block (R442) -/
  | hmem (p word : Nat)
  /-- private range i (R445) -/
  | priv (p i word : Nat)
  /-- watchpoint i of a core (R427) -/
  | gw (core i word : Nat)
  /-- engine watchpoint i (R427) -/
  | ew (i word : Nat)
  /-- TWPTR of a core (R432) -/
  | twptr (core : Nat)
  /-- TDROP of a core (R432) -/
  | tdrop (core : Nat)
  /-- MIN and MAX, then the bins, of a monitor (R436) -/
  | bins (die m word : Nat)
  /-- queue status (R371) -/
  | status (q word : Nat)
  /-- doorbell and control word of a queue (R371) -/
  | bell (q : Nat)
  /-- gait record of a queue (R392) -/
  | gait (q word : Nat)
  deriving DecidableEq, Repr

/-- The element, the byte within it and the bytes of its slot, of an offset in an array of n elements that lie a stride apart. -/
def slotIn (base stride n off : Nat) : Option (Nat × Nat) :=
  if base ≤ off && off < base + stride * n then some ((off - base) / stride, (off - base) % stride) else none
/-- The word of an offset in a field of some bytes, if it lies there. -/
def wordIn (base bytes off : Nat) : Option Nat := if base ≤ off && off < base + bytes then some ((off - base) / 8) else none
/-- A watchpoint's word (R427): WADDR, control, HITS. -/
def watchWord (w : Nat) (hits : HostReg) (mk : Nat → BarWord) : Option BarWord :=
  if w = 2 then some (.reg hits 0) else if w < 2 then some (mk w) else none
/-- The global block (R440, R460, R461). -/
def globalAt (o : Nat) : Option BarWord :=
  if o < 8 then some .bootStat
  else ((slotIn 0x100 16 64 o).map (fun x => .reg (.route x.1) (x.2 / 8)))
    <|> ((slotIn 0x800 64 16 o).map (fun x => .reg (.coll x.1) (x.2 / 8)))
    <|> ((slotIn 0xC00 64 8 o).map (fun x => .reg (.dieReg x.1) (x.2 / 8)))
    <|> ((wordIn 0xE00 64 o).map (fun w => .reg .pkgReg w))
/-- A partition block (R440). -/
def partAt (p o : Nat) : Option BarWord :=
  ((wordIn 0 128 o).map (fun w => .reg (.partRec p) w))
  <|> ((wordIn 0x80 64 o).map (.pcmd p)) <|> ((wordIn 0x100 64 o).map (.mailbox p)) <|> ((wordIn 0x140 64 o).map (.ack p))
  <|> ((wordIn 0x180 128 o).map (fun w => .reg (.trapBlock p) w)) <|> ((wordIn 0x200 16 o).map (.trace p))
  <|> ((wordIn 0x210 16 o).map (fun w => .reg (.sampler p) w)) <|> ((wordIn 0x240 64 o).map (.hmem p))
  <|> ((slotIn 0x280 16 8 o).map (fun x => .priv p x.1 (x.2 / 8)))
  <|> ((slotIn 0x1000 64 64 o).map (fun x => .reg (.seal p x.1) (x.2 / 8)))
/-- A queue page (R440). -/
def queueAt (q o : Nat) : Option BarWord :=
  ((wordIn 0 128 o).map (fun w => .reg (.queueRec q) w)) <|> ((wordIn 0x80 64 o).map (.status q))
  <|> (if o = 0xC0 then some (.bell q) else none) <|> ((wordIn 0x200 512 o).map (.gait q))
/-- The word of BAR0 at an offset, a multiple of 8 (R440); none where the map has nothing. -/
def barAt (off : Nat) : Option BarWord :=
  if off < 0x1000 then globalAt off
  else ((slotIn 0x10000 0x10000 16 off).bind (fun x => partAt x.1 x.2))
    <|> ((slotIn 0x110000 0x100 160 off).bind (fun x =>
      watchWord (x.2 % 32 / 8) (.gwHits x.1 (x.2 / 32)) (.gw x.1 (x.2 / 32))))
    <|> ((slotIn 0x1B0000 32 16 off).bind (fun x => watchWord (x.2 / 8) (.ewHits x.1) (.ew x.1)))
    <|> ((slotIn 0x1C0000 16 160 off).map (fun x => if x.2 < 8 then .twptr x.1 else .tdrop x.1))
    <|> ((slotIn 0x1E0000 0x2000 8 off).bind (fun x => (slotIn 0 80 64 x.2).map (fun y =>
      if y.2 < 8 then .reg (.monitor x.1 y.1) 0 else .bins x.1 y.1 (y.2 / 8))))
    <|> ((slotIn 0x1000000 0x1000 16384 off).bind (fun x => queueAt x.1 x.2))

/-- A word of a bit field. -/
def wordOf {n : Nat} (x : BitVec n) (i : Nat) : W64 := BitVec.ofNat 64 (fld x (64 * i) 64)
/-- A watchpoint's address and control as they read (R427). -/
def Watch.word (w : Watch) (i : Nat) : W64 :=
  if i = 0 then w.addr
  else BitVec.ofNat 64 (w.en.toNat + w.rd.toNat * 2 + w.wr.toNat * 4 + w.wlen * 2 ^ 4 + w.part * 2 ^ 16 + w.asid.toNat * 2 ^ 32
    + w.anyAsid.toNat * 2 ^ 48)
/-- A trap block's words (R408). -/
def Partition.trapWord (p : Partition) (i : Nat) : W64 :=
  if i < 6 then wordOf p.trap i
  else if i < 10 then wordOf p.claim (i - 6)
  else if i < 12 then wordOf p.hcmd (i - 10)
  else if i = 12 then BitVec.ofNat 64 (p.hdone.toNat + p.hstatus * 2 ^ 32)
  else 0
/-- BOOTSTAT (R450). -/
def Boot.word (b : Boot) : W64 := BitVec.ofNat 64 (b.stage + b.err * 2 ^ 8 + b.tries.toNat * 2 ^ 16)
/-- A register that REGISTER_WRITE writes, as it reads; write-only fields read zero (R6). -/
def State.regWord (s : State) (r : HostReg) (i : Nat) : W64 :=
  match r with
  | .queueRec q => wordOf (s.queue q).rcd i
  | .partRec p => wordOf (s.part p).rcd i
  | .trapBlock p => (s.part p).trapWord i
  | .sampler p => wordOf (s.part p).sampler i
  | .monitor d m => (Tbl.get (s.die d).mons m {}).ctl &&& ~~~ 4
  | .dieReg d => wordOf (s.die d).reg i
  | .pkgReg => wordOf s.pkg i
  | .route n => wordOf (Tbl.get s.routes n 0) i
  | .coll n => wordOf (Tbl.get s.coll n {}).rcd i
  | .seal p n =>
    let x := Tbl.get (s.part p).seals n {}
    if i = 4 then BitVec.ofNat 64 (x.sid.toNat + fld x.nextReg 0 32 * 2 ^ 32)
    else if i = 5 then BitVec.ofNat 64 (fld x.nextReg 32 32 + x.st * 2 ^ 33)
    else 0
  | .stqBase c => (s.core c).stqBase
  | .sverd _ => 0
  | .gwHits c n => (nth (s.core c).gw n {}).hits.setWidth 64
  | .ewHits n => (Tbl.get s.ew n {}).hits.setWidth 64
  | .bar n => BitVec.ofNat 64 (if n = 2 then s.bar2 else if n = 4 then s.bar4 else 0)
/-- A word of the map as it reads. -/
def State.barWord (s : State) (w : BarWord) : W64 :=
  match w with
  | .bootStat => s.boot.word
  | .reg r i => s.regWord r i
  | .pcmd p i => wordOf (s.part p).pcmd i
  | .mailbox p i => wordOf (s.part p).mailbox i
  | .ack p i => wordOf (s.part p).ack i
  | .trace p i => wordOf (s.part p).trace i
  | .hmem p i => wordOf (s.part p).hmem i
  | .priv p n i => wordOf (nth (s.part p).priv n 0) i
  | .gw c n i => (nth (s.core c).gw n {}).word i
  | .ew n i => (Tbl.get s.ew n {}).word i
  | .twptr c => (s.core c).twptr
  | .tdrop c => (s.core c).tdrop.setWidth 64
  | .bins d m i =>
    let x := Tbl.get (s.die d).mons m {}
    let b := fun n => (Tbl.get x.bins n 0).toNat
    BitVec.ofNat 64 (if i = 1 then x.mn.toNat + x.mx.toNat * 2 ^ 32 else b (2 * (i - 2)) + b (2 * (i - 2) + 1) * 2 ^ 32)
  | .status q i => BitVec.ofNat 64 ((s.queue q).statusWord / 2 ^ (64 * i))
  | .bell _ => 0
  | .gait q i => BitVec.ofNat 64 (s.gaitWord q / 2 ^ (64 * i))
/-- Whose a register is, for what a VF finds in its map (R439): a partition's block, a queue of a partition, or PF0's alone (none). -/
def State.ownerOf (s : State) (w : BarWord) : Option Nat :=
  match w with
  | .reg r _ => (match r with
    | .queueRec q => some (s.queue q).part
    | .partRec p => some p
    | .trapBlock p => some p
    | .sampler p => some p
    | .seal p _ => some p
    | _ => none)
  | .pcmd p _ => some p
  | .mailbox p _ => some p
  | .ack p _ => some p
  | .trace p _ => some p
  | .hmem p _ => some p
  | .priv p _ _ => some p
  | .status q _ => some (s.queue q).part
  | .bell q => some (s.queue q).part
  | .gait q _ => some (s.queue q).part
  | _ => none
/-- What a requester reads at an offset of its BAR0 (R439, R440, R450): until the boot ends BOOTSTAT alone, which every function's BAR0 serves;
through a VF what its partition has (log 52); everywhere else zero. -/
def State.barRead (s : State) (r : Requester) (off : Nat) : W64 :=
  match barAt off with
  | none => 0
  | some w =>
    let mine := match r.vf with
      | none => true
      | some p => w == .bootStat || s.ownerOf w == some p
    if (w = .bootStat || s.served) && mine then s.barWord w else 0
/-- A word written at an offset of BAR0 (R440), where REGISTER_WRITE writes it; the other words' writes are events of their own. -/
def State.barPut (s : State) (r : Requester) (off : Nat) (val : W64) : State :=
  match barAt off with
  | some (.reg x i) => (match execRegisterWrite r x i val s with
    | .next t => t
    | _ => s)
  | _ => s

end Sys2Proof.Machine
end

