-- ==== Sys2Proof/Machine/Smio.lean ====
section
/-! DEFINITION. Smio links (spec/25 R447, R448) and collectives (spec/17 R351, spec/25 R449). -/

namespace Sys2Proof.Machine

/-! Ports (R447). -/

/-- A Smio port changed. -/
def State.updSmio (s : State) (n : Nat) (f : Port → Port) : State := { s with ports := Tbl.set s.ports n (f (s.smio n)) {} }
/-- A flit sent: it takes the next number and stays in the replay buffer of 1024 flits; an earlier flit of that number is not meant any
more by what has been replayed. -/
def Port.send (p : Port) : Port :=
  let r := p.replay ++ [p.txSeq]
  let again := p.nak == some p.txSeq
  { p with txSeq := p.txSeq + 1, replay := r.drop (r.length - 1024), nak := if again then none else p.nak, retries := if again then 0 else p.retries }
/-- SMIO_FLIT (R447): a flit whose CRC fails is discarded and answered with a NAK that names the number expected; flits are taken
once each, in sequence order. -/
def execSmioFlit (port : Nat) (f : Flit) (s : State) : Res :=
  .next (if port < 16 && (s.smio port).up && f.crc == Config.flitCrc f.seq f.payload && f.seq == (s.smio port).rxSeq then
    s.updSmio port (fun p => { p with rxSeq := p.rxSeq + 1 })
  else s)
/-- What was in flight on a port that goes down (R447): stores not yet performed are discarded, each with its entry in the error
log. Loads and copies fail when they meet the port. -/
def State.portFails (s : State) (n : Nat) : State :=
  let lost := fun (q : Posted) => match regionOf q.pa with
    | .remote a => s.routeOf a == some n
    | _ => false
  let s := s.groups.foldl (fun s e =>
    let dead := e.2.posted.filter lost
    (dead.foldl (fun s q => s.logError q.pa (coreOf e.1)) s).updGroup e.1 (fun g => { g with posted := g.posted.filter (fun q => !lost q) })) s
  s.cores.foldl (fun s c =>
    let dead := c.2.late.filter (fun x => lost x.store)
    (dead.foldl (fun s x => s.logError x.store.pa c.1) s).updCore c.1 (fun c => { c with late := c.late.filter (fun x => !lost x.store) })) s
/-- NAK (R447): the sender replays from the named flit, if its replay buffer holds it; the sixteenth replay of one flit in a row takes the
port down. -/
def execNak (port : Nat) (seq : BitVec 12) (s : State) : Res :=
  .next (if 16 ≤ port || !(s.smio port).up || !(s.smio port).replay.contains seq then s
  else
    let p := s.smio port
    let n := if p.nak = some seq then p.retries + 1 else 1
    let keep := p.replay.dropWhile (· != seq)
    let s := s.updSmio port (fun p => { p with nak := some seq, retries := n, replay := keep, up := decide (n < 16) })
    if n < 16 then s else s.portFails port)
/-- SMIO_PORT_RETRAIN (R447): the port carries flits again, numbered afresh on both sides. -/
def execSmioPortRetrain (port : Nat) (s : State) : Res :=
  .next (if port < 16 && !(s.smio port).up then s.updSmio port (fun _ => {}) else s)

/-! Accesses from other packages (R448, R353, R370). -/

/-- Where an access from another package leads: device memory that no private range tags, or the window. -/
def State.remoteAt (s : State) (hpa size : Nat) : Option Nat :=
  if size = 0 || 8 < size then none
  else match s.place hpa with
    | some pa => (match regionOf pa, regionOf (pa + size - 1) with
      | .dram, .dram => if (s.tagOf pa).isSome || (s.tagOf (pa + size - 1)).isSome then none else some pa
      | .window _, .window _ => some pa
      | _, _ => none)
    | none => none
/-- What a remote atomic writes. -/
def remoteValue (op : RemoteOp) (w m b c : Nat) : Nat :=
  match op with
  | .atomicAdd => (m + b) % 2 ^ w
  | .atomicSwap => b
  | .atomicCas => if m = c then b else m
  | .read => m
  | .write => b
/-- SMIO_REMOTE_ACCESS (R448): performed at its home port, on committed memory, as by an agent at system scope. -/
def execSmioRemoteAccess (op : RemoteOp) (pa size : Nat) (val cmp : W64) (s : State) : Res :=
  .next (match s.remoteAt pa size with
    | none => { s with remote := [] }
    | some a =>
      let s := (linesOf a size).foldl (fun s n => if regionOf a = .dram then s.llcTouch n else s) s
      let m := s.portRead a size
      if op != .write && s.bad a size then { (s.logError a 0) with remote := [] }
      else
        let v := remoteValue op (8 * size) (ofBytes m) (val.toNat % 2 ^ (8 * size)) (cmp.toNat % 2 ^ (8 * size))
        let s := if op = .read then s else s.portWrite a (toBytes size v)
        { s with remote := if op = .write then [] else m })

/-! Collectives (R351, R449). -/

/-- A collective entry. -/
def State.collOf (s : State) (i : Nat) : Coll := Tbl.get s.coll i {}
/-- A collective entry changed. -/
def State.updColl (s : State) (i : Nat) (f : Coll → Coll) : State := { s with coll := Tbl.set s.coll i (f (s.collOf i)) {} }
/-- EN, OP, TYPE, N, LEAF, ROUTE, ROOTENT, EPOCH, LEN, SRC, DST, TRIG of an entry. -/
def Coll.en (c : Coll) : Bool := bit c.rcd.toNat 0
@[inherit_doc Coll.en] def Coll.op (c : Coll) : Nat := fld c.rcd 1 2
@[inherit_doc Coll.en] def Coll.ty (c : Coll) : Nat := fld c.rcd 3 4
@[inherit_doc Coll.en] def Coll.n (c : Coll) : Nat := fld c.rcd 7 8
@[inherit_doc Coll.en] def Coll.leaf (c : Coll) : Nat := fld c.rcd 15 8
@[inherit_doc Coll.en] def Coll.route (c : Coll) : Nat := fld c.rcd 23 5
@[inherit_doc Coll.en] def Coll.rootEnt (c : Coll) : Nat := fld c.rcd 28 4
@[inherit_doc Coll.en] def Coll.epoch (c : Coll) : Nat := fld c.rcd 32 32
@[inherit_doc Coll.en] def Coll.len (c : Coll) : Nat := fld c.rcd 64 32
@[inherit_doc Coll.en] def Coll.src (c : Coll) : Nat := fld c.rcd 96 64
@[inherit_doc Coll.en] def Coll.dst (c : Coll) : Nat := fld c.rcd 160 64
@[inherit_doc Coll.en] def Coll.trig (c : Coll) : Nat := 0x1FF00000000 + fld c.rcd 224 16
/-- EPOCH + 1. -/
def Coll.nextEpoch (c : Coll) : Nat := (c.epoch + 1) % 2 ^ 32
/-- Writes of the present step that start participants (R449 step 1): EPOCH + 1 at the trigger word. A participant whose root is on
another package sends its contribution there. -/
def State.trigger (s : State) : State :=
  s.coll.foldl (fun s e =>
    let c := e.2
    if c.en && !c.started && s.wrote.any (fun w => overlaps w.pa w.len c.trig 8) && ofBytes (s.portRead c.trig 8) == c.nextEpoch then
      let s := s.updColl e.1 (fun c => { c with started := true })
      if c.route < 16 then s.updSmio c.route Port.send else s
    else s) s
/-- Bytes of an element of a collective. -/
def collBytes (ty : Nat) : Nat := if ty = 4 then 2 else 4
/-- One operation on two elements (R351). -/
def collOp (op ty a b : Nat) : Nat :=
  let f := fun (t : FT) => if op = 0 then (convert t .rne false (addVal .rne (t.val a) (t.val b)).1).1 else (minMax t false (op == 2) a b).1
  if ty = 2 then f .f32
  else if ty = 4 then f .bf16
  else amoValue (if op = 0 then 0 else if ty = 0 then (if op = 1 then 4 else 5) else (if op = 1 then 6 else 7)) 32 a b
/-- One level of the canonical tree (R351): neighbours combined, an odd last one passing up. -/
def canonLevel {α : Type} (f : α → α → α) : List α → List α
  | a :: b :: r => f a b :: canonLevel f r
  | r => r
/-- The canonical tree (R351), of at most k levels. -/
def canon {α : Type} (f : α → α → α) (xs : List α) : Nat → List α
  | 0 => xs
  | k + 1 => if xs.length ≤ 1 then xs else canon f (canonLevel f xs) k
/-- The elements of a contribution. -/
def elemsOf (sz len : Nat) (bs : List Byte) : List Nat :=
  (List.range (len / sz)).map (fun i => ofBytes ((bs.drop (i * sz)).take sz))
/-- The result of a round: the contributions in ascending leaf, element by element along the tree. -/
def Coll.combine (c : Coll) : List Byte :=
  let sz := collBytes c.ty
  let xs := (List.range c.n).map (fun l => elemsOf sz c.len (Tbl.get c.contrib l []))
  (((canon (List.zipWith (collOp c.op c.ty)) xs 9).headD []).map (fun v => toBytes sz v)).flatten
/-- The settings of a contribution agree with the root's (R449), and OP and TYPE are ones that the table gives. -/
def Coll.agrees (r : Coll) (op ty n len : Nat) : Bool :=
  op == r.op && ty == r.ty && n == r.n && len == r.len && decide (op < 3) && (ty == 0 || ty == 1 || ty == 2 || ty == 4)
/-- The participants on this package of the round of a root. -/
def State.locals (s : State) (root : Nat) : List (Nat × Coll) :=
  s.coll.filter (fun e => e.2.en && (e.1 == root || (e.2.route == 31 && e.2.rootEnt == root)))
/-- The root ends a round: every participant is sent the result, or, when a contribution differed, none. -/
def State.endRound (s : State) (root : Nat) (bad : Bool) (data : List Byte) : State :=
  let s := (s.locals root).foldl (fun s e => s.updColl e.1 (fun c => { c with result := some data, bad := bad })) s
  s.updColl root (fun c => { c with contrib := [] })
/-- COLLECTIVE_CONTRIBUTION (R351, R449): a contribution reaches the root. That of a participant on this package is what its entry
says, its SRC read as committed; any other came over a Smio port. -/
def execCollectiveContribution (entry : Nat) (c : Contribution) (s : State) : Res :=
  let r := s.collOf entry
  .next (if !(r.en && r.leaf == 0 && r.route == 31) || r.result.isSome || (Tbl.find r.contrib c.leaf).isSome || r.n ≤ c.leaf then s
  else
    let add := fun (op ty n len : Nat) (data : List Byte) (s : State) =>
      if r.agrees op ty n len then
        let r' := { r with contrib := Tbl.put r.contrib c.leaf data }
        let s := s.updColl entry (fun _ => r')
        if r'.contrib.length = r.n then s.endRound entry false r'.combine else s
      else s.endRound entry true []
    match (s.locals entry).find? (fun e => e.2.leaf == c.leaf) with
    | some (_, p) =>
      if !p.started then s
      else
        let s := (linesOf p.src p.len).foldl (fun s n => s.llcTouch n) s
        add p.op p.ty p.n p.len (s.portRead p.src p.len) s
    | none => add c.op c.ty c.n c.len c.data s)
/-- COLLECTIVE_RESULT (R449 steps 3 and 4): the result is written to DST in committed memory, and then the DONE word. -/
def execCollectiveResult (entry : Nat) (bad : Bool) (data : List Byte) (s : State) : Res :=
  let c := s.collOf entry
  .next (if !c.en || !c.started then s
  else
    let fin := fun (bad : Bool) (data : List Byte) =>
      let s := if bad then s else s.portWrite c.dst ((data ++ List.replicate c.len 0).take c.len)
      let s := s.portWrite (c.trig + 8) (toBytes 8 (c.nextEpoch + bad.toNat * 2 ^ 63))
      s.updColl entry (fun c => { c with rcd := setFld c.rcd 32 32 c.nextEpoch, started := false, result := none, bad := false })
    match c.result with
    | some d => fin c.bad d
    | none => if c.route = 31 then s else fin bad data)

end Sys2Proof.Machine
end

