-- ==== Sys2Proof/Machine/Security.lean ====
section
/-! DEFINITION. Sealed stream keys, private ranges, IDE streams, TDISP states and the SPDM responder (spec/25 R443-R446, R452). -/

namespace Sys2Proof.Machine

/-! Sealed streams and private ranges (R445, R446). -/

/-- A freshly staged key and counter loaded (R446): no bytes of KEY are fresh afterwards. -/
def Sealed.load (x : Sealed) : Sealed :=
  if x.fresh = 0xFFFFFFFF then { x with key := x.staged, next := x.nextReg, st := 1, staged := 0, fresh := 0 } else x
/-- SET (R446). -/
def execSet (by_ : Requester) (p i : Nat) (s : State) : Res :=
  .next (if s.maySeal by_ p && decide (i < 64) then
    s.updPart p (fun x => { x with seals := Tbl.set x.seals i (Tbl.get x.seals i {}).load {} })
  else s)
/-- BASE of a private range, and its bytes (R445). -/
def privBase (r : BitVec 128) : Nat := fld r 0 64
@[inherit_doc privBase] def privLen (r : BitVec 128) : Nat := fld r 64 32 * 0x200000
/-- A range that may be set for a partition (R445): aligned, within stacked DRAM or LPDDR 6, and clear of every other partition's. -/
def State.rangeOk (s : State) (p : Nat) (r : BitVec 128) : Bool :=
  privBase r % 0x200000 == 0
  && (privLen r == 0 || inDram (privBase r) (privLen r))
  && s.parts.all (fun q => q.1 == p || q.2.priv.all (fun x => !overlaps (privBase r) (privLen r) (privBase x) (privLen x)
      || privLen r == 0 || privLen x == 0))
/-- PRIVATE_RANGE_WRITE (R440, R444, R445): by PF0, while the configuration is not frozen. -/
def execPrivateRangeWrite (by_ : Requester) (p i : Nat) (val : BitVec 128) (s : State) : Res :=
  let v := setFld val 96 32 0
  .next (if s.mayPf by_ && decide (p < 16) && decide (i < 8) && !s.frozen p && s.rangeOk p v then
    s.updPart p (fun x => { x with priv := setNth x.priv i 0 v })
  else s)

/-! The identity (R452). -/

/-- A response: the bytes signed, and the signature with the identity key. -/
def State.signed (s : State) (m : List Byte) : List Byte := m ++ Config.ecdsaSign (Config.identityKey s.boot.seed) m
/-- The five measurements, index 1 first (R452). -/
def State.measured (s : State) : List Byte :=
  toBytes 64 (Config.sha512 Config.maskRom).toNat ++ toBytes 64 (Config.sha512 s.boot.image).toNat
  ++ toBytes 64 (Config.sha512 s.boot.config).toNat ++ toBytes 8 s.boot.svn.toNat ++ toBytes 64 (Config.sha512 s.boot.helper).toNat
/-- The code of a TDI's state (R444), as evidence names it. -/
def tdiCode : Tdi → Nat
  | .unlocked => 0
  | .locked => 1
  | .run => 2
  | .error => 3
/-- TDISP evidence for the TDI of a partition, signed with the identity key (R452): what it says of the TDI, its number, state and private
ranges, is the model's choice (log 75). -/
def State.evidence (s : State) (p : Nat) : List Byte :=
  let x := s.part p
  s.signed (toBytes 1 p ++ toBytes 1 (tdiCode x.tdi) ++ (List.range 8).flatMap (fun i => toBytes 16 (nth x.priv i 0).toNat) ++ s.measured)

/-! TDISP (R444). -/

/-- LOCK_INTERFACE_REQUEST (R444): refused while the partition has an enabled queue; the answer carries the evidence (R452). -/
def execLockInterfaceRequest (p : Nat) (s : State) : Res :=
  .next (if s.served && decide (p < 16) && (s.part p).tdi == .unlocked && !s.partEnabled p then
    let s := s.updPart p (fun x => { x with tdi := .locked })
    { s with spdm := s.evidence p }
  else s)
/-- START_INTERFACE_REQUEST (R444). -/
def execStartInterfaceRequest (p : Nat) (s : State) : Res :=
  .next (if s.served && decide (p < 16) && (s.part p).tdi == .locked then s.updPart p (fun x => { x with tdi := .run }) else s)
/-- A sealed stream back at UNKEYED with its key erased (R444). -/
def Sealed.erase (x : Sealed) : Sealed := { x with key := 0, staged := 0, fresh := 0, st := 0 }
/-- The queues of a partition that are enabled. -/
def State.queuesOf (s : State) (p : Nat) : List Nat := (s.queues.filter (fun q => q.2.en && q.2.part == p)).map (·.1)
/-- The live tasks of a partition. -/
def State.tasksOf (s : State) (p : Nat) : List Nat :=
  (s.teams.filter (fun t => !t.2.dying && ((s.launch? (t.1 / 2 ^ 32)).getD {}).part == p)).map (·.1)
/-- A TDI moves from CONFIG_LOCKED or RUN to ERROR (R444): its queues are disabled, its tasks end as under END, its keys are erased. -/
def State.toError (s : State) (p : Nat) : State :=
  if !s.frozen p then s
  else
    let s := (s.queuesOf p).foldl (fun s q => s.disable q) s
    let s := (s.tasksOf p).foldl (fun s k => s.endNamed k) s
    s.updPart p (fun x => { x with tdi := .error, seals := x.seals.map (fun (e : Nat × Sealed) => (e.1, e.2.erase)) })
/-- Every byte of a range of device memory zero, in DRAM and in every committed copy (R444). -/
def State.zeroRange (s : State) (a n : Nat) : State :=
  if n = 0 then s
  else ({ s with mem := Memory.clear s.mem a n }.invalidate a n).note { pa := a, len := n, committed := true }
/-- STOP_INTERFACE (R444): the private ranges are zeroed before CONFIG_UNLOCKED. -/
def execStopInterface (p : Nat) (s : State) : Res :=
  let x := s.part p
  .next (if 16 ≤ p || x.tdi == .unlocked then s
  else (x.priv.foldl (fun s r => s.zeroRange (privBase r) (privLen r)) s).updPart p (fun x => { x with tdi := .unlocked }))
/-- FUNCTION_LEVEL_RESET (R444): of the VF of a partition. -/
def execFunctionLevelReset (p : Nat) (s : State) : Res := .next (if p < 16 then s.toError p else s)
/-- TDISP_ERROR (R444). -/
def execTdispError (p : Nat) (s : State) : Res := .next (if p < 16 then s.toError p else s)

/-! IDE (R443). -/

/-- IDE_KM (R443): a key programmed on the Link stream (0), PF0's (1) or the stream of the VF of partition p (2 + p). -/
def execIdeKm (stream : Nat) (key : BitVec 256) (s : State) : Res :=
  .next (if stream < 18 then { s with ide := Tbl.put s.ide stream key, ideBad := s.ideBad.filter (· != stream) } else s)
/-- The partitions whose TDI is bound to a stream: its VF's own, or, of the Link stream that carries every function, all. -/
def boundTo (stream : Nat) : List Nat :=
  if stream = 0 then List.range 16 else if 2 ≤ stream && stream < 18 then [stream - 2] else []
/-- IDE_INTEGRITY_FAILURE (R443): the stream is Insecure, and every TDI bound to it moves to ERROR. -/
def execIdeIntegrityFailure (stream : Nat) (s : State) : Res :=
  .next (if stream < 18 then
    (boundTo stream).foldl (fun s p => s.toError p) { s with ideBad := s.ideBad.filter (· != stream) ++ [stream] }
  else s)

/-! The SPDM responder (R452). -/

/-- CHALLENGE (R452): the nonce and the certificate chain. -/
def execChallenge (nonce : List Byte) (s : State) : Res :=
  .next (if s.served then { s with spdm := s.signed (nonce ++ s.boot.cert) } else s)
/-- MEASUREMENTS (R452). -/
def execMeasurements (nonce : List Byte) (s : State) : Res :=
  .next (if s.served then { s with spdm := s.signed (nonce ++ s.measured) } else s)

end Sys2Proof.Machine
end

