-- ==== Sys2Proof/Machine/Boot.lean ====
section
/-! DEFINITION. Reset (spec/26 R462) and the boot ROM (spec/25 R450, R451). -/

namespace Sys2Proof.Machine

/-- Memory that is the host's and not the package's. -/
def hostOnly (m : Memory) : Memory := m.filter (fun c => decide (2 ^ 64 ≤ c.1))
/-- RESET (R462): nothing of the package survives; RSTCAUSE says why (R461). Host memory is the host's. -/
def execReset (cause : BitVec 8) (s : State) : Res :=
  .next { State.reset with mem := hostOnly s.mem, tick := s.tick, epoch := s.epoch, fresh := s.fresh, agenda := s.agenda,
                           pkg := setFld State.reset.pkg 32 8 cause.toNat }

/-- The MAC address (R450 step 1): the first 48 bits of SHA-512 of the PUF response, with bit 1 of its first byte set and bit 0 clear. -/
def macOf : BitVec 48 := ((Config.sha512 Config.puf).setWidth 48 ||| 2) &&& ~~~ 1
/-- The boot ROM reaches a stage: the next step begins with three retries before it. -/
def State.stage (s : State) (n : Nat) : State :=
  { s with boot := { s.boot with stage := n, err := 0, since := s.stc, retry := 0 } }
/-- The boot ROM has begun (R450 steps 1 and 2): the PUF is read and Ultra Ethernet port 0 is brought up. -/
def State.bootBegin (s : State) : State :=
  if s.boot.stage = 0 then { s with boot := { s.boot with stage := 1, mac := macOf, since := s.stc } } else s
/-- The boot waits before it begins again at step 3, or has stopped with PUFFAIL (R450). -/
def Boot.idle (b : Boot) : Bool := decide (4 ≤ b.retry) || b.err == 3
/-- ULTRA_ETHERNET_LINK_UP (R450 step 2): link on the port being brought up. -/
def execUltraEthernetLinkUp (port : Nat) (s : State) : Res :=
  .next (
    let s := s.bootBegin
    if s.boot.stage ≠ 1 || s.boot.idle || s.boot.port ≠ port then s
    else ({ s with boot := { s.boot with linkUp := true } } : State).stage 2)
/-- BOOT_LINK_TIMEOUT (R450 step 2): port 1 after 2 s without link. -/
def execBootLinkTimeout (s : State) : Res :=
  .next (
    let s := s.bootBegin
    if s.boot.stage ≠ 1 || s.boot.port ≠ 0 || s.stc < s.boot.since + 2000000000 then s
    else { s with boot := { s.boot with port := 1, since := s.stc } })
/-- DHCPV6_REPLY (R450 step 3): the reply carries two Boot File URLs. -/
def execDhcpv6Reply (urls : List (List Byte)) (s : State) : Res :=
  .next (if s.boot.stage = 2 && !s.boot.idle && urls.length = 2 then ({ s with boot := { s.boot with urls := urls } } : State).stage 3 else s)
/-- One more failed attempt, saturating (R450 TRIES). -/
def Boot.moreTries (b : Boot) : BitVec 8 := if b.tries = 0xFF then 0xFF else b.tries + 1
/-- A failed attempt (R450): three retries, then a wait of 60 s before step 3. -/
def State.bootFail (s : State) (err : Nat) : State :=
  { s with boot := { s.boot with err := err, tries := s.boot.moreTries, retry := s.boot.retry + 1,
                                 since := s.stc } }
/-- HELPER_DATA_FETCHED (R450 step 4): the identity seed reconstructed and checked; a mismatch stops the boot with PUFFAIL. The
certificate chain comes with the helper data (R452). -/
def execHelperDataFetched (data : List Byte) (s : State) : Res :=
  .next (if s.boot.stage ≠ 3 || s.boot.idle then s
  else
    let r := Config.reconstruct Config.puf data
    if r.2 then ({ s with boot := { s.boot with helper := data, cert := data, seed := r.1 } } : State).stage 4
    else { s with boot := { s.boot with err := 3, tries := s.boot.moreTries } })
/-- IMAGE_FETCHED (R450 step 5): the image is there, and its verification begins, also when an earlier one has failed. -/
def execImageFetched (data : List Byte) (s : State) : Res :=
  .next (if (s.boot.stage ≠ 4 && (s.boot.stage ≠ 5 || s.boot.err == 0)) || s.boot.idle then s
  else { s with boot := { s.boot with stage := 5, err := 0, image := data, since := s.stc } })
/-- Both signatures of an image verify (R451): the root key's of the intermediate key, and the intermediate key's over SHA-512 of the header
without that signature and of the payload. -/
def imageSigned (x : Image) : Bool :=
  Config.pssVerify x.rootKey (Config.sha512 x.midKey) x.midSig
  && Config.pssVerify x.midKey (Config.sha512 (x.header ++ x.firmware ++ x.config)) x.sig
/-- The verification of an image (R451): 0 where it is accepted, else the ERR code, BADSIG (5) or BADIMAGE (6). -/
def imageErr : Option Image → Nat
  | none => 6
  | some x => if !x.form then 6 else if Config.sha512 x.rootKey != Config.rootHash || !imageSigned x then 5 else 0
/-- The firmware placed in device memory and started on every supervisor core, and the image's configuration applied (R450 step 6): the
BAR0 words that it sets, written as PF0 would, but for the registers of spec/26, which keep their reset values (R462). -/
def State.startFirmware (s : State) (x : Image) : State :=
  let s := { s with mem := Memory.writeList s.mem Config.firmwareAt.1 x.firmware, boot := { s.boot with svn := x.svn, config := x.config } }
  let s := (List.range 160).foldl (fun s c => s.updCore c (fun k => { k with hart := { k.hart with on := true, pc := BitVec.ofNat 64 Config.firmwareAt.2 } })) (s.stage 6)
  ((Config.settings x.config).filter (fun w => match barAt w.1 with
    | some (.reg (.dieReg _) _) => false
    | some (.reg .pkgReg _) => false
    | _ => true)).foldl (fun s w => s.barPut {} w.1 w.2) s
/-- The verification of a fetched image ends (R450 steps 5 and 6): the firmware runs, or the attempt has failed. -/
def State.bootVerify (s : State) : State :=
  if s.boot.stage ≠ 5 || s.boot.err ≠ 0 then s
  else
    let x := Config.parseImage s.boot.image
    match imageErr x, x with
    | 0, some x => s.startFirmware x
    | n, _ => s.bootFail n
/-- ERR of a failure at a stage (R450). -/
def stageErr (n : Nat) : Nat := if n ≤ 1 then 1 else if n = 2 then 2 else 4
/-- BOOT_STEP_FAILURE (R450). -/
def execBootStepFailure (s : State) : Res :=
  .next (
    let s := s.bootBegin
    if s.boot.stage = 6 || s.boot.idle then s else s.bootFail (stageErr s.boot.stage))
/-- BOOT_RETRY (R450): after 60 s the boot begins again at step 3, without end. -/
def execBootRetry (s : State) : Res :=
  .next (if s.boot.stage = 6 || s.boot.retry < 4 || s.boot.err == 3 || s.stc < s.boot.since + 60000000000 then s
  else { s with boot := { s.boot with stage := 2, retry := 0, since := s.stc } })

/-- What the boot ROM does as a period begins (R450): it begins, it ends the verification of an image, and it falls back and begins again at
its times. -/
def State.bootStep (s : State) : State :=
  if s.boot.stage = 6 then s
  else
    let run := fun (s : State) (r : Res) => match r with
      | .next t => t
      | _ => s
    let s := s.bootBegin.bootVerify
    let s := run s (execBootLinkTimeout s)
    run s (execBootRetry s)

end Sys2Proof.Machine
end

