-- ==== Sys2Proof/Machine/Branch.lean ====
section
/-! DEFINITION. Scalar branches, jumps and calls (spec/06 R159-R160). -/

namespace Sys2Proof.Machine

/-- The scalar PC set; an instruction has issued. -/
def State.goTo (s : State) (gid : Nat) (g : Group) (t : W64) : State := s.setGroup gid { g.advance with spc := t }
/-- A jump taken, with its trace packet (R433). -/
def State.jumpTo (s : State) (gid : Nat) (g : Group) (t : W64) : Res := .next ((s.goTo gid g t).traceBranch gid g t)
/-- A conditional branch (R160). -/
def branchIf (s : State) (a b : Reg) (off : BitVec 16) (c : W64 → W64 → Bool) : Res :=
  scalar s fun gid g =>
    if c (g.reg a) (g.reg b) then s.jumpTo gid g (g.spc + off.signExtend 64 * 4) else .next (s.goTo gid g (g.spc + 4))
/-- A jump to a register's address, which must be aligned (R160); the link is written if asked. -/
def jumpReg (s : State) (a : Reg) (link : Bool) : Res :=
  scalar s fun gid g =>
    let t := g.reg a
    if t.toNat % 4 ≠ 0 then s.trapS gid g .align t
    else s.jumpTo gid (if link then g.setReg 31 (g.spc + 4) else g) t

/-- `beq` (R160). -/
def execBeq (a b : Reg) (off : BitVec 16) (s : State) : Res := branchIf s a b off fun x y => x == y
/-- `bne` (R160). -/
def execBne (a b : Reg) (off : BitVec 16) (s : State) : Res := branchIf s a b off fun x y => x != y
/-- `blt` (R160). -/
def execBlt (a b : Reg) (off : BitVec 16) (s : State) : Res := branchIf s a b off fun x y => decide (x.toInt < y.toInt)
/-- `bge` (R160). -/
def execBge (a b : Reg) (off : BitVec 16) (s : State) : Res := branchIf s a b off fun x y => decide (y.toInt ≤ x.toInt)
/-- `bltn` (R160). -/
def execBltn (a b : Reg) (off : BitVec 16) (s : State) : Res := branchIf s a b off fun x y => decide (x.toNat < y.toNat)
/-- `bgen` (R160). -/
def execBgen (a b : Reg) (off : BitVec 16) (s : State) : Res := branchIf s a b off fun x y => decide (y.toNat ≤ x.toNat)
/-- `jmp` (R160). -/
def execJmp (off : BitVec 26) (s : State) : Res :=
  scalar s fun gid g => s.jumpTo gid g (g.spc + off.signExtend 64 * 4)
/-- `call`: links in s31 (R160). -/
def execCall (off : BitVec 26) (s : State) : Res :=
  scalar s fun gid g => s.jumpTo gid (g.setReg 31 (g.spc + 4)) (g.spc + off.signExtend 64 * 4)
/-- `jr` (R160). -/
def execJr (a : Reg) (s : State) : Res := jumpReg s a false
/-- `callr`: the target is read before the link is written (R160). -/
def execCallr (a : Reg) (s : State) : Res := jumpReg s a true
/-- `ret` (R160). -/
def execRet (s : State) : Res := jumpReg s 31 false

end Sys2Proof.Machine
end

