-- ==== Sys2Proof/Machine/LCtl.lean ====
section
/-! DEFINITION. Lane paths, the reconvergence stack and the lane control instructions (spec/06 R139-R157), and the start
of a lane block (spec/05 R117). -/

namespace Sys2Proof.Machine

/-- ARRIVED of the topmost join entry gains a mask. -/
def arriveTop (m : W64) : List StackEnt → List StackEnt
  | [] => []
  | e :: r => if e.kind = .joinE then { e with arrived := e.arrived ||| m } :: r else e :: arriveTop m r
/-- `Arrive` (R144). -/
def Group.arrive (g : Group) (slot : Nat) (p : Path) : Group :=
  ({ g with stack := arriveTop (p.mask &&& g.live) g.stack }.setPath slot none).resolve
/-- A lane control meaning: the path as it has issued, with its mask less dead lanes, once its long-latency instructions have
completed (R149), and its group with the path moved to the next word. -/
def laneCtl (s : State) (k : Nat → Group → Path → Group → Res) : Res :=
  laneOp s true noRows fun gid g p =>
    let q := g.issuedPath { p with mask := p.mask &&& g.live }
    k gid g q (g.stepPath s.slot q)

/-- A lane control instruction has issued: paths that joins released are traced as merges (R433). -/
def State.laneDone (s : State) (gid : Nat) (before g : Group) : State :=
  [g.slot0, g.slot1].foldl (fun s p => match p with
    | some p => if before.nextPath ≤ p.id then s.tracePath gid g 2 p.pc p.mask else s
    | none => s) (s.setGroup gid g)

/-- `lbra` (R150, R144, R145). -/
def execLbra (w : LaneWord) (s : State) : Res :=
  laneCtl s fun gid g p g' =>
    let taken := p.mask &&& g.guard w
    let ft := p.mask &&& ~~~ taken
    if taken = 0 then .next (s.setGroup gid g')
    else if ft = 0 then .next (s.setGroup gid (g'.setPath s.slot (some { p with pc := w.x32 })))
    else
      let n : Path := { pc := w.x32, mask := taken, fmt := p.fmt, id := g'.nextPath }
      let g2 := g'.setPath s.slot (some { p with pc := p.pc + 1, mask := ft })
      let log := fun (s : State) => (s.tracePath gid g 1 (p.pc + 1) ft).tracePath gid g 1 w.x32 taken
      if g.slot0.isNone || g.slot1.isNone then .next (log (s.setGroup gid (g2.placeNew n)))
      else if 64 < g.stack.length + 1 then s.trapL gid g .stackovf 0 0
      else .next (log (s.setGroup gid { g2 with stack := n.entry :: g2.stack, nextPath := g2.nextPath + 1 }))
/-- `mjoin` (R151, R144, R145): a live sibling is pushed first. -/
def execMjoin (w : LaneWord) (s : State) : Res :=
  laneCtl s fun gid g p g' =>
    let sib := g.path? (1 - s.slot)
    let e : StackEnt := { kind := .joinE, index := w.x32, mask := p.mask, arrived := 0, fmt := p.fmt }
    let below := match sib with
      | some q => q.entry :: g.stack
      | none => g.stack
    if 64 < below.length + 1 then s.trapL gid g .stackovf 0 0
    else .next (s.setGroup gid { (g'.setPath (1 - s.slot) none) with stack := e :: below })
/-- `join` (R152). -/
def execJoin (_w : LaneWord) (s : State) : Res :=
  laneCtl s fun gid g p g' =>
    match g.level with
    | some e => if e.index = p.pc then .next (s.laneDone gid g' (g'.arrive s.slot p)) else .next (s.setGroup gid g')
    | none => .next (s.setGroup gid g')
/-- `lend` (R146, R153). -/
def execLend (_w : LaneWord) (s : State) : Res :=
  laneCtl s fun gid g p g' =>
    if g.level.isSome then s.trapL gid g .lenddiv 0 0
    else .next ((s.tracePath gid g 3 p.pc p.mask).laneDone gid g' (g'.retire s.slot))
/-- `lkill` (R154, R140); a path that it empties retires, and that is traced too (R433). -/
def execLkill (w : LaneWord) (s : State) : Res :=
  laneCtl s fun gid g p g' =>
    let k := p.mask &&& g.guard w
    let g2 := { g' with live := g'.live &&& ~~~ k }
    let m := p.mask &&& ~~~ k
    let s := s.tracePath gid g 4 (p.pc + 1) m
    let s := if m = 0 then s.tracePath gid g 3 p.pc m else s
    if g2.live = 0 then .next (s.setGroup gid g2.endBlock)
    else if m = 0 then .next (s.laneDone gid g2 (g2.retire s.slot))
    else .next (s.setGroup gid (g2.setPath s.slot (some { p with pc := p.pc + 1, mask := m })))
/-- `lfmt` (R155). -/
def execLfmt (w : LaneWord) (s : State) : Res :=
  laneCtl s fun gid _ p g' =>
    .next (s.setGroup gid (g'.setPath s.slot (some { p with pc := p.pc + 1, fmt := w.x32.setWidth 19 })))
/-- `lnop` (R156): it waits for nothing and counts toward windows. -/
def execLnop (_w : LaneWord) (s : State) : Res :=
  laneOp s false noRows fun gid g p => .next (s.setGroup gid (g.stepPath s.slot p))
/-- `lbrk` (R157): a stop after itself with cause BRK when a guarded lane is true. -/
def execLbrk (w : LaneWord) (s : State) : Res :=
  laneCtl s fun gid g p g' =>
    let b := p.mask &&& g.guard w
    if b = 0 then .next (s.setGroup gid g')
    else .next ((s.setGroup gid g').stop gid { s.stopRecord gid g .brk true with
      addr := (w.x32.setWidth 16).setWidth 64, fmask := b })

/-- BLOCK_START (R117): in a cycle after that of its `lgo`, the head block starts as one path with the live-lane mask, the captured FMT and an empty stack; with
no live lane it is removed. -/
def execBlockStart (gid : Nat) (s : State) : Res :=
  .next (match s.group? gid with
    | none => s
    | some g =>
      if g.running || g.stopped || g.stopping then s
      else match g.laneQ with
        | [] => s
        | b :: _ =>
          if s.cycles ≤ b.at_ then s
          else if g.live = 0 then s.setGroup gid g.endBlock
          else
            let g := { g with running := true, stack := [], slot0 := none, slot1 := none }
            let g := g.placeNew { pc := b.start, mask := g.live, fmt := b.fmt }
            (s.setGroup gid g).tracePath gid g 0 b.start g.live)

end Sys2Proof.Machine
end

