-- ==== Sys2Proof/Machine/LaunchEnd.lean ====
section
/-! DEFINITION. The end of teams and launches (spec/05 R116, spec/17 R346-R349, spec/20 R376-R379). -/

namespace Sys2Proof.Machine

/-- Nothing of a team is left to run (R116, R276, R327): its groups have exited, its commands have completed and its side-log
entries have been replayed. B quarters that a task ended without resuming has posted, and that no operation will take, do not hold its end
back (log 78). -/
def State.teamOver (s : State) (key : Nat) (t : Team) : Bool :=
  t.started && !t.away && !s.groups.any (fun e => e.2.key == key) && t.mxQ.isEmpty && (t.tags.isEmpty || t.dying) && t.tileAccs.isEmpty
  && !s.cores.any (fun c => c.2.copyQ.any (fun x => x.iss.key == key) || c.2.sideLog.any (fun x => x.iss.key == key)
    || c.2.late.any (fun x => keyOf x.launch x.team == key))
/-- TEAM_END (R116, R337): the task version publishes, once it may (R329), or is discarded, if the task ended without resuming (R339), its
hallmark is kept, and all it held is free. -/
def execTeamEnd (key : Nat) (s : State) : Res :=
  .next (match s.team? key with
    | none => s
    | some t =>
      if !s.teamOver key t || (!t.dying && t.version.any s.pubHeld) then s
      else
        let s := match t.version with
          | some v => if t.dying then s.discard v else s.publish v
          | none => s
        let h := ((s.team? key).getD t).hallmark
        let s := s.updLaunch (key / 2 ^ 32) (fun l => { l with hmarks := Tbl.put l.hmarks (key % 2 ^ 32) h })
        { s with teams := Tbl.del s.teams key, landWait := s.landWait.filter (fun h => h.key != key) }.dropComplex key)

/-- The launch hallmark (R346). -/
def Launch.fold (l : Launch) : W64 :=
  (List.range l.teams).foldl (fun acc t => (acc * 0x100000001B3 + BitVec.ofNat 64 t) ^^^ Tbl.get l.hmarks t 0) 0
/-- Every team of a launch has ended and none will be admitted (R376). -/
def State.teamsDone (s : State) (id : Nat) (l : Launch) : Bool :=
  l.admitted && !s.teams.any (fun e => e.1 / 2 ^ 32 == id) && !s.parts.any (fun p => p.2.saved.any (fun x => x.key / 2 ^ 32 == id))
/-- An entry of the hallmark log as replay reads it (R347, R369): KERNEL, TEAMN, HALLMARK. -/
def State.logEntry (s : State) (q i : Nat) : Option (W64 × Nat × W64) :=
  let w := (s.queue q).rcd
  if fld w 256 64 = 0 then none
  else match s.rawRead (bit w.toNat 14) (fld w 256 64 + 32 * (i % 2 ^ fld w 320 5)) 32 with
    | some bs => let n := ofBytes bs
      some (BitVec.ofNat 64 (bits n 0 64), bits n 64 32, BitVec.ofNat 64 (bits n 128 64))
    | none => none
/-- An entry appended to the hallmark log (R347). -/
def State.appendLog (s : State) (q : Nat) (l : Launch) (h : W64) : State :=
  let Q := s.queue q
  let n := l.kernel.toNat + l.teams * 2 ^ 64 + h.toNat * 2 ^ 128 + s.stc * 2 ^ 192
  (s.rawWrite Q.part (bit Q.rcd.toNat 14) (fld Q.rcd 256 64 + 32 * (Q.hlogcur % 2 ^ fld Q.rcd 320 5)) 32 n).updQueue q Queue.nextLog
/-- The launch version commits: it publishes into its parent (R348). -/
def State.commit (s : State) (l : Launch) : State :=
  match l.version with
  | some v => s.publish v
  | none => s
/-- Log entries that earlier live predictions of the queue have read without advancing the cursor. -/
def State.readAhead (s : State) (q : Nat) : Nat := ((s.livePreds q).filter (fun e => e.2.hread)).length
/-- The rerun of a DETERMINISTIC launch begins (R348): its versions are discarded and its teams start again. -/
def State.rerun (s : State) (id : Nat) (l : Launch) : State :=
  let s := match l.version with
    | some v => s.discard v
    | none => s
  let s := (s.versions.filter (fun e => e.2.launch == id && e.2.kind != .pred)).foldl (fun s e => s.discard e.1) s
  let l' := (s.launch? id).getD l
  (s.setLaunch id { l' with rerun := true, nextTeam := 0, hmarks := [] }).launchVersion id l'
/-- The hallmark part of a launch's end (R346-R349): whether it is over, and the state. -/
def State.hallmarkEnd (s : State) (id : Nat) (l : Launch) : Bool × State :=
  let h := l.fold
  let live := l.pred && l.live
  let s1 := s.updLaunch id (fun l => { l with hall := h })
  if l.rerun then
    (true, (s1.commit l).updLaunch id (fun l => if h = l.hexpect then l else l.fail 6))
  else if l.desc.dmode = 2 then
    if live && fld (s.queue l.q).rcd 256 64 != 0 && !bit (s.queue l.q).rcd.toNat 14 then (false, s)
    else
      let e := s1.logEntry l.q ((s.queue l.q).hlogcur + (if live then s.readAhead l.q else 0))
      let s2 := match e with
        | some _ => if live then s1.updLaunch id (fun l => { l with hread := true }) else s1.updQueue l.q Queue.nextLog
        | none => s1
      match e with
      | none => (true, (s2.commit l).updLaunch id (fun l => l.fail 7))
      | some (k, n, x) =>
        let s2 := s2.updLaunch id (fun l => { l with hexpect := x })
        if k ≠ l.kernel || n ≠ l.teams then (true, (s2.commit l).updLaunch id (fun l => l.fail 7))
        else
          if x = h then (true, s2.commit l)
          else
            let s3 := if live then s2.updLaunch id (fun l => { l with hbad := some h }) else s2.hallmarkRecord id l h
            if l.detonly then (true, (s3.commit l).updLaunch id (fun l => l.fail 6)) else (false, s3.rerun id l)
  else (true, s1.commit l)
/-- What is left of a launch's end once it is no prediction (R376, R378, R379, R381). -/
def State.finish (s : State) (id : Nat) (l : Launch) : State :=
  let det := l.desc.cls == 2
  let s := if det && l.desc.dmode == 1 then
      (if fld (s.queue l.q).rcd 256 64 = 0 then s.updLaunch id (fun l => l.fail 7) else s.appendLog l.q l l.hall)
    else s
  let l := (s.launch? id).getD l
  let status := if l.status = 0 && l.trapped != 0 then 5 else l.status
  let s := { s with launches := Tbl.del s.launches id }
  let s := if l.parent != 0 then s.childDone l.parent (status != 0)
    else s.complete l.q l.cmd id l status (if det then l.hall else 0)
  s.idleQueue l.q
/-- LAUNCH_END (R376): every team has ended, its versions are gone, the hallmark rules are done, and every child has completed. A
prediction ends in its version first, and finishes once it is confirmed (R386, R387). -/
def execLaunchEnd (launch : Nat) (s : State) : Res :=
  .next (match s.launch? launch with
    | none => s
    | some l =>
      let live := l.pred && l.live
      if l.st = .ended then
        if live || l.children != 0 then s else s.finish launch l
      else if (l.st = .waiting && !l.stopAdmit) || !s.teamsDone launch l || l.version.any s.pubHeld then s
      else
        let r := if l.desc.cls = 2 then s.hallmarkEnd launch l else (true, s)
        if !r.1 then r.2
        else
          let s := r.2.updLaunch launch (fun l => { l with st := .ended })
          if live || l.children != 0 then s
          else s.finish launch ((s.launch? launch).getD l))

end Sys2Proof.Machine
end

