-- ==== Sys2Proof/Machine/MemSys.lean ====
section
/-! DEFINITION. Scalar atomics, ordered accesses, locks, fences, cache maintenance and memory status (spec/11 R244-R253). -/

namespace Sys2Proof.Machine

/-- Bytes of the w qualifier (R244). -/
def wBytes (w : Bool) : Nat := if w then 8 else 4
/-- The scope keeps an overreaching group from issuing (R233). -/
def overWide (g : Group) (sc : Scope) : Bool := g.orun.isSome && decide (1 ≤ sc.code)

/-- The frame of an atomic or ordered access at s[sa] (R244, R246, R176, R233): ALIGN, a table entry, which a store that overreach buffers
does not take (R237), then the checks. A returning access on a page that is not present holds its group; `side` says what one without a
return does there (R326). k: the access itself, at an address whose checks have passed. -/
def ordered (s : State) (a : Reg) (sc : Scope) (w : Bool) (rw : Rw) (side : Option (Nat → Group → Nat → State → Rc Unit))
    (k : Nat → Group → Nat → State → Res) : Res :=
  scalar s fun gid g =>
    let ea := g.reg a
    let n := wBytes w
    if overWide g sc then s.stallS
    else if ea.toNat % n ≠ 0 then s.trapS gid g .align ea
    else if !(rw == .wr && g.orun.isSome) && !s.tableRoom gid 0 1 then (s.tableWait gid 0).stallS
    else
      let retire := fun (f : Nat → Group → Nat → State → Rc Unit) (s : State) =>
        if s.gwHit gid g 0 ea.toNat n rw then (s.gwCount gid g ea.toNat n rw).trapS gid g .watch ea
        else if g.orun.isSome then s.stallS
        else match f gid g ea.toNat s with
          | .ok _ s => .next (s.done gid id)
          | .flt c s => s.trapS gid g c ea
          | .hold s => (s.sideHold gid 0 1).stallS
      match s.check gid g 0 ea.toNat n rw with
      | (.flt c, s) => (if c = .watch then s.gwCount gid g ea.toNat n rw else s).trapS gid g c ea
      | (.hold, s) => s.stallS
      | (.missing, s) => match side with
        | some f => retire f s
        | none => if g.refusedTo 0 ea.toNat then s.trapS gid g .pageload ea else (s.holdOnPage gid g 0 ea.toNat rw).stallS
      | (.moving, s) => match side with
        | some f => retire f s
        | none => (s.holdGroup gid 0).stallS
      | (.pass, s) => k gid g ea.toNat s

/-- The release part before an access (R247). -/
def State.relBefore (s : State) (gid : Nat) (g : Group) (o : Order) (sc : Scope) : Rc Unit :=
  if o.releases then s.releaseWait gid g sc else .ok () s
/-- The publication with a releasing access, and the acquire part after an access (R247, R337). An access that has retired into the side
log, which was empty of the group's entries before a release, publishes with its replay (R335). -/
def State.ordAfter (s : State) (gid : Nat) (g : Group) (o : Order) (sc : Scope) : State :=
  let s := if o.releases && (s.sideOf gid g).isEmpty then s.publishAt g sc else s
  if o.acquires then s.acquire gid sc else s
/-- A read-modify-write whose old value goes to a register, or nowhere (R246, R338). -/
def State.atomicS (s : State) (gid : Nat) (g : Group) (va : Nat) (o : Order) (sc : Scope) (w : Bool) (f : Nat → Nat)
    (fin : Nat → Group → Group) : Res :=
  (s.relBefore gid g o sc).intoS gid g (BitVec.ofNat 64 va) fun _ s =>
    match s.locate gid g va (wBytes w) .amo true with
    | (.port pa, s) => (s.afterSide gid g 0 va pa (wBytes w) true (fun s => s.rmw gid g 0 va pa (wBytes w) sc f)).intoS gid g (BitVec.ofNat 64 va)
        fun m s => .next ((s.ordAfter gid g o sc).done gid (fin m))
    | (_, s) => s.stallS

/-- `samo` (R246): operation op with operand s[sb]; the old value, zero-extended, to sd. -/
def samo (op : Nat) (d a b : Reg) (o : Order) (sc : Scope) (w : Bool) (s : State) : Res :=
  ordered s a sc w .amo none fun gid g va s =>
    s.atomicS gid g va o sc w (fun m => amoValue op (8 * wBytes w) m ((g.reg b).toNat % 2 ^ (8 * wBytes w)))
      (fun m g => g.setReg d (BitVec.ofNat 64 m))
/-- `samo.add` (R246). -/
def execSamoAdd (d a b : Reg) (o : Order) (sc : Scope) (w : Bool) (s : State) : Res := samo 0 d a b o sc w s
/-- `samo.and` (R246). -/
def execSamoAnd (d a b : Reg) (o : Order) (sc : Scope) (w : Bool) (s : State) : Res := samo 1 d a b o sc w s
/-- `samo.or` (R246). -/
def execSamoOr (d a b : Reg) (o : Order) (sc : Scope) (w : Bool) (s : State) : Res := samo 2 d a b o sc w s
/-- `samo.xor` (R246). -/
def execSamoXor (d a b : Reg) (o : Order) (sc : Scope) (w : Bool) (s : State) : Res := samo 3 d a b o sc w s
/-- `samo.min` (R246). -/
def execSamoMin (d a b : Reg) (o : Order) (sc : Scope) (w : Bool) (s : State) : Res := samo 4 d a b o sc w s
/-- `samo.max` (R246). -/
def execSamoMax (d a b : Reg) (o : Order) (sc : Scope) (w : Bool) (s : State) : Res := samo 5 d a b o sc w s
/-- `samo.minn` (R246). -/
def execSamoMinn (d a b : Reg) (o : Order) (sc : Scope) (w : Bool) (s : State) : Res := samo 6 d a b o sc w s
/-- `samo.maxn` (R246). -/
def execSamoMaxn (d a b : Reg) (o : Order) (sc : Scope) (w : Bool) (s : State) : Res := samo 7 d a b o sc w s
/-- `samo.swap` (R246). -/
def execSamoSwap (d a b : Reg) (o : Order) (sc : Scope) (w : Bool) (s : State) : Res := samo 8 d a b o sc w s
/-- `samo.fadd`, 32 bits (R246). -/
def execSamoFadd (d a b : Reg) (o : Order) (sc : Scope) (s : State) : Res := samo 10 d a b o sc false s
/-- `scas` (R246): compare s[sb], new value s[sb + 1]. -/
def execScas (d a b : Reg) (o : Order) (sc : Scope) (w : Bool) (s : State) : Res :=
  ordered s a sc w .amo none fun gid g va s =>
    let m64 := 2 ^ (8 * wBytes w)
    s.atomicS gid g va o sc w (fun m => if m = (g.reg b).toNat % m64 then (g.reg (b + 1)).toNat % m64 else m)
      (fun m g => g.setReg d (BitVec.ofNat 64 m))
/-- `sldo` (R246): a load at the port, never from a cache, along the chain whatever its scope (R338). -/
def execSldo (d a : Reg) (o : Order) (sc : Scope) (w : Bool) (s : State) : Res :=
  ordered s a sc w .rd none fun gid g va s =>
    (s.load gid g 0 va (wBytes w) .bypass).intoS gid g (BitVec.ofNat 64 va) fun bs s =>
      .next ((s.ordAfter gid g o sc).done gid (fun g => g.setReg d (BitVec.ofNat 64 (ofBytes bs))))
/-- `ssto` (R246): a store at the port, into the task's own version whatever its scope (R338). A release waits for the
earlier accesses and publishes with the store (R247, R335); on a page that is not present, with its replay. -/
def execSsto (a b : Reg) (o : Order) (sc : Scope) (w : Bool) (s : State) : Res :=
  let put := fun (gid : Nat) (g : Group) (va : Nat) (s : State) =>
    match s.relBefore gid g o sc with
    | .ok _ s => match s.store gid g 0 va (toBytes (wBytes w) (g.reg b).toNat) (carried o sc) with
      | .ok _ s => .ok () (s.ordAfter gid g o sc)
      | .flt c s => .flt c s
      | .hold s => .hold s
    | .flt c s => .flt c s
    | .hold s => .hold s
  ordered s a sc w .wr (some put) fun gid g va s =>
    (put gid g va s).intoS gid g (BitVec.ofNat 64 va) fun _ s => .next (s.done gid id)

/-- `sred` (R246): an atomic without a return. It faults like a store, retires into the side log on a page that is not
present (R326), and is discarded and counted at a line with an uncorrectable error (R252). -/
def sred (op : Nat) (a b : Reg) (o : Order) (sc : Scope) (w : Bool) (s : State) : Res :=
  let n := wBytes w
  let side := fun (gid : Nat) (g : Group) (va : Nat) (s : State) =>
    match s.relBefore gid g o sc with
    | .ok _ s => match (s.askPage gid g va .amo).sideLog gid g va (toBytes n (g.reg b).toNat) (some op) sc.code 0 (carried o sc) 0 with
      | .ok _ s => .ok () (s.ordAfter gid g o sc)
      | .flt c s => .flt c s
      | .hold s => .hold s
    | .flt c s => .flt c s
    | .hold s => .hold s
  ordered s a sc w .amo (some side) fun gid g va s =>
    (s.relBefore gid g o sc).intoS gid g (BitVec.ofNat 64 va) fun _ s =>
      match s.locate gid g va n .amo true with
      | (.port pa, s) =>
        match s.afterSide gid g 0 va pa n true (fun s => s.rmw gid g 0 va pa n sc (fun m => amoValue op (8 * n) m ((g.reg b).toNat % 2 ^ (8 * n)))) with
        | .ok _ s => .next ((s.ordAfter gid g o sc).done gid id)
        | .flt _ s => .next (((s.lostReduction gid va).ordAfter gid g o sc).done gid id)
        | .hold s => s.stallS
      | (_, s) => s.stallS
/-- `sred.add` (R246). -/
def execSredAdd (a b : Reg) (o : Order) (sc : Scope) (w : Bool) (s : State) : Res := sred 0 a b o sc w s
/-- `sred.and` (R246). -/
def execSredAnd (a b : Reg) (o : Order) (sc : Scope) (w : Bool) (s : State) : Res := sred 1 a b o sc w s
/-- `sred.or` (R246). -/
def execSredOr (a b : Reg) (o : Order) (sc : Scope) (w : Bool) (s : State) : Res := sred 2 a b o sc w s
/-- `sred.xor` (R246). -/
def execSredXor (a b : Reg) (o : Order) (sc : Scope) (w : Bool) (s : State) : Res := sred 3 a b o sc w s
/-- `sred.min` (R246). -/
def execSredMin (a b : Reg) (o : Order) (sc : Scope) (w : Bool) (s : State) : Res := sred 4 a b o sc w s
/-- `sred.max` (R246). -/
def execSredMax (a b : Reg) (o : Order) (sc : Scope) (w : Bool) (s : State) : Res := sred 5 a b o sc w s
/-- `sred.minn` (R246). -/
def execSredMinn (a b : Reg) (o : Order) (sc : Scope) (w : Bool) (s : State) : Res := sred 6 a b o sc w s
/-- `sred.maxn` (R246). -/
def execSredMaxn (a b : Reg) (o : Order) (sc : Scope) (w : Bool) (s : State) : Res := sred 7 a b o sc w s
/-- `sred.fadd`, 32 bits (R246). -/
def execSredFadd (a b : Reg) (o : Order) (sc : Scope) (s : State) : Res := sred 10 a b o sc false s

/-! Locks (R249). -/

/-- `lock` (R249): granted at once when the word is zero and no request waits for it; else the request queues at the
port and holds the S-stream. -/
def execLock (a : Reg) (sc : Scope) (w : Bool) (s : State) : Res :=
  scalar s fun _ g0 =>
    if g0.orun.isSome then s.stallS
    else ordered s a sc w .amo none fun gid g va s =>
      match s.locate gid g va (wBytes w) .amo true with
      | (.port pa, s) =>
        (s.afterSide gid g 0 va pa (wBytes w) true (fun s => .ok () s)).intoS gid g (BitVec.ofNat 64 va) fun _ s =>
        if s.bad pa (wBytes w) then (s.logError pa (coreOf gid)).trapS gid g .datarr (BitVec.ofNat 64 va)
        else
          let x : LockWait := { pa := pa, size := wBytes w, gid := gid, va := va, scope := sc.code }
          let s := { s with locks := s.locks ++ [x] }.updGroup gid (fun g => { g with lockReq := some pa })
          .next (s.grantLocks [] (s.locks.filter (fun y => y.pa == pa)))
      | (_, s) => s.stallS
/-- `unlock` (R249): zero written with a release at its scope, and the critical count lowered. At a line with an uncorrectable error it
fails as a returning atomic does, with the word and the count as they were (log 63). -/
def execUnlock (a : Reg) (sc : Scope) (w : Bool) (s : State) : Res :=
  scalar s fun _ g0 =>
    if g0.orun.isSome then s.stallS
    else ordered s a sc w .amo none fun gid g va s =>
      s.atomicS gid g va .rel sc w (fun _ => 0) (fun _ g => g.critStep false)

/-! Fences, cache maintenance, status (R248, R251, R253). -/

/-- `fence` (R248): it performs no access; a release waits and publishes, an acquire discards stale copies (R239). -/
def execFence (o : Order) (sc : Scope) (s : State) : Res :=
  scalar s fun gid g =>
    if overWide g sc then s.stallS
    else (if o.releases then s.release gid g sc else .ok () s).intoS gid g 0 fun _ s =>
      .next ((if o.acquires then s.acquire gid sc else s).done gid id)
/-- The physical line of a virtual line on a present page of device memory (R251), whatever may be done there, but for a page tagged with
another partition (R7, R445); none is skipped. Held while the host is asked for the translation. -/
def State.lineOf (s : State) (core : Nat) (l : Launch) (va : Nat) : Rc (Option Nat) :=
  if inAperture va || inTeamWin va then .ok none s
  else match s.frameOf core l va false with
    | (.port pa, s) => .ok (match regionOf pa with
      | .dram => if s.recordable l.part pa then some (pa / 64) else none
      | _ => none) s
    | (.hold, s) => .hold s
    | (_, s) => .ok none s
/-- The physical lines under a list of virtual lines. -/
def State.linesUnder (s : State) (core : Nat) (l : Launch) : List Nat → Rc (List Nat)
  | [] => .ok [] s
  | v :: r => match s.lineOf core l (64 * v % 2 ^ 64) with
    | .ok x s => match State.linesUnder s core l r with
      | .ok y s => .ok (x.toList ++ y) s
      | .flt c s => .flt c s
      | .hold s => .hold s
    | .flt c s => .flt c s
    | .hold s => .hold s
/-- A dirty committed line written back to DRAM and kept clean (R240, R251). -/
def State.writeBack (s : State) (n : Nat) : State :=
  match Tbl.find s.llc n with
  | some l =>
    if l.dirty then { s with mem := Memory.write s.mem (64 * n) 64 l.data.toNat, llc := Tbl.put s.llc n { l with dirty := false } }
    else s
  | none => s
/-- Every committed copy of a line discarded in every cache of the package (R251). -/
def State.dropLine (s : State) (n : Nat) : State :=
  { s with llc := Tbl.del s.llc n,
           cores := s.cores.map (fun c => (c.1, { c.2 with l1 := Tbl.del c.2.l1 n, sc := Tbl.del c.2.sc n })),
           dies := s.dies.map (fun d => (d.1, { d.2 with l2r := Tbl.del d.2.l2r n })) }
/-- `flush` (R251): a release at system scope, then dirty lines of the range written back. Held in a live prediction. -/
def execFlush (a b : Reg) (s : State) : Res :=
  scalar s fun gid g => settled s g <|
    let l := s.launchOf g
    if l.pred && l.live then s.stallS
    else (s.linesUnder (coreOf gid) l (linesOf (g.reg a).toNat (g.reg b).toNat)).intoS gid g 0 fun ls s =>
      (s.release gid g .sys).intoS gid g 0 fun _ s => .next ((ls.foldl State.writeBack s).done gid id)
/-- `inv` (R251): committed copies of the range discarded, dirty or clean, then an acquire at system scope. -/
def execInv (a b : Reg) (s : State) : Res :=
  scalar s fun gid g => settled s g <|
    (s.linesUnder (coreOf gid) (s.launchOf g) (linesOf (g.reg a).toNat (g.reg b).toNat)).intoS gid g 0 fun ls s =>
      .next (((ls.foldl State.dropLine s).acquire gid .sys).done gid id)
/-- `vstat` (R253): for n = 1 and n = 2 it waits for every earlier store and reduction, those in an overreach buffer among them. -/
def execVstat (d : Reg) (n : BitVec 5) (s : State) : Res :=
  scalar s fun gid g =>
    if n = 0 then
      .next (s.done gid (fun _ => g.setReg d (BitVec.ofNat 64
        (g.tableHeld + s.tableFree (coreOf gid) * 2 ^ 16 + (s.sideOf gid g).length * 2 ^ 32))))
    else if g.buffering then s.stallS
    else (s.allPerformed gid g).intoS gid g 0 fun _ s =>
      .next (s.done gid (fun g => g.setReg d (if n = 1 then g.lost.setWidth 64 else g.lostVa)))

end Sys2Proof.Machine
end

