-- ==== Sys2Proof/Machine/Power.lean ====
section
/-! DEFINITION. The droop detector (spec/26 R456, R457) and the power cap (R459). -/

namespace Sys2Proof.Machine

/-- DROOP_ALARM (R456): while DREN = 1, the core cycle that goes on is followed by six stretched cycles and then 64 halved ones; DRCNT counts
it. -/
def execDroopAlarm (die : Nat) (s : State) : Res :=
  .next (if 8 ≤ die || !bit (s.die die).reg.toNat 16 then s
  else s.updDie die (fun d =>
    let n := fld d.reg 32 32
    { d with alarm := true, reg := setFld d.reg 32 32 (if n = 0xFFFFFFFF then n else n + 1) }))
/-- STRETCH_END (R456): the six stretched cycles are over; the first cycle after them is the first of the 64 halved ones. -/
def execStretchEnd (die : Nat) (s : State) : Res :=
  .next (if (s.die die).stretch ≠ 1 then s else s.updDie die (fun d => { d with stretch := 0, halve := 65 }))
/-- HALVING_END (R456): the 64 halved cycles are over and full issue resumes. -/
def execHalvingEnd (die : Nat) (s : State) : Res :=
  .next (if (s.die die).halve ≠ 1 then s else s.updDie die (fun d => { d with halve := 0 }))
/-- The present nominal period is the last one of a core cycle: but for the first half of a stretched one. -/
def Die.ends (d : Die) : Bool := d.stretch % 2 = 0 || d.stretch = 1
/-- A nominal period goes by on a die (R456, R458): with the end of a core cycle in which an alarm was raised a stretch begins; in a stretch
every second period brings its cores no clock edge; in halving, which runs by cycles, each counts. -/
def Die.clock (d : Die) : Die :=
  if d.alarm && d.ends then { d with alarm := false, stretch := 13, halve := 0 }
  else if d.stretch ≠ 0 then
    let n := d.stretch - 1
    if n = 0 || n % 2 = 1 then { d with stretch := n } else { d with stretch := n, lost := d.lost + 1 }
  else { d with halve := d.halve - 1 }
/-- The present period brings the cores of the die a clock edge. -/
def Die.edge (d : Die) : Bool := d.stretch = 0 || d.stretch % 2 = 1
/-- The quarter schedulers of a core may issue for a partition in the present period (R119, R456, R459): in halving, in alternate
cycles from the first one after the stretch; a partition halved by the power cap, in every second cycle. -/
def State.mayIssue (s : State) (core part : Nat) : Bool :=
  let d := s.die (dieOf core)
  d.edge && (if d.halve ≠ 0 then d.halve % 2 == 1 else !(s.part part).halved || s.cyc core % 2 == 0)

/-- POWER share of a partition, in W (R382). -/
def Partition.share (p : Partition) : Nat := 10 * fld p.rcd 96 16
/-- The dies on which a partition has a tandem. -/
def Partition.onDie (p : Partition) (d : Nat) : Bool := p.tandems.any (fun t => dieOf (2 * t) == d)
/-- Halving of a partition as the averages leave it (R459): it begins while the package exceeds PCAP, for those above their share
or, when none is, for all; it ends below PCAP - 50. -/
def halvedNext (cap avg : Nat) (above anyAbove now : Bool) : Bool :=
  if cap < avg then now || above || !anyAbove
  else if avg + 50 < cap then false
  else now
/-- THROT counts a core cycle of each die on which a partition runs halved (R459, R460). -/
def State.throttled (s : State) : State :=
  let ps := s.parts.filter (fun p => p.2.halved)
  if ps.isEmpty then s
  else (List.range 8).foldl (fun s d =>
    if ps.any (fun p => p.2.onDie d) && (s.die d).edge then
      s.updDie d (fun x => { x with reg := setFld x.reg 96 32 (min 0xFFFFFFFF (fld x.reg 96 32 + 1)) })
    else s) s
/-- POWER_AVERAGE (R459-R461): a 1 ms average of the package, of each die and of each partition. -/
def execPowerAverage (pkg : BitVec 16) (dies parts : List (BitVec 16)) (s : State) : Res :=
  let s := (List.range 8).foldl (fun s d => s.updDie d (fun x => { x with reg := setFld x.reg 128 16 (nth dies d 0).toNat })) s
  let ps := (List.range 16).filter (fun p => (s.part p).tandems != [])
  let above := fun (p : Nat) => decide ((s.part p).share < (nth parts p 0).toNat)
  let s := { s with pkg := setFld s.pkg 16 16 pkg.toNat }
  .next ((List.range 16).foldl (fun s p =>
    s.updPart p (fun x => { x with power := (nth parts p 0).toNat,
                                   halved := ps.contains p && halvedNext (fld s.pkg 0 16) pkg.toNat (above p) (ps.any above) x.halved })) s)

end Sys2Proof.Machine
end

