-- ==== Sys2Proof/Machine/ScalarMem.lean ====
section
/-! DEFINITION. Scalar loads and stores (spec/07 R170-R177). -/

namespace Sys2Proof.Machine

/-- The effective address (R171). -/
def effAddr (g : Group) (a : Reg) (off : BitVec 12) : W64 := g.reg a + off.signExtend 64

/-- `sld` (R171, R172, R174, R176): bypass reads at the port, else the scalar cache may serve it. -/
def execSld (d a : Reg) (sz : Size) (bp : Bool) (off : BitVec 12) (s : State) : Res :=
  scalar s fun gid g =>
    let ea := effAddr g a off
    let n := sz.bytes
    if ea.toNat % n ≠ 0 then s.trapS gid g .align ea
    else if !s.tableRoom gid 0 1 then (s.tableWait gid 0).stallS
    else match s.check gid g 0 ea.toNat n .rd with
      | (.flt c, s) => (if c = .watch then s.gwCount gid g ea.toNat n .rd else s).trapS gid g c ea
      | (.missing, s) =>
        if g.refusedTo 0 ea.toNat then s.trapS gid g .pageload ea else (s.holdOnPage gid g 0 ea.toNat .rd).stallS
      | (.moving, s) => s.stallS
      | (.hold, s) => s.stallS
      | (.pass, s) => (s.load gid g 0 ea.toNat n (if bp then .bypass else .scalar)).intoS gid g ea fun bs s =>
          .next ((s.monitorFree (coreOf gid) (s.launchOf g).part 2).done gid (fun g => g.setReg d (BitVec.ofNat 64 (ofBytes bs))))

/-- `sst` (R171, R173, R176): the low bytes of the data register. -/
def execSst (d a : Reg) (sz : Size) (off : BitVec 12) (s : State) : Res :=
  scalar s fun gid g =>
    let ea := effAddr g a off
    let n := sz.bytes
    if ea.toNat % n ≠ 0 then s.trapS gid g .align ea
    else match s.check gid g 0 ea.toNat n .wr with
      | (.flt c, s) => (if c = .watch then s.gwCount gid g ea.toNat n .wr else s).trapS gid g c ea
      | (.hold, s) => s.stallS
      | (_, s) => (s.post gid g ea.toNat (toBytes n (g.reg d).toNat)).intoS gid g ea fun _ s =>
          .next (s.done gid id)

end Sys2Proof.Machine
end

