-- ==== Sys2Proof/Machine/VMem.lean ====
section
/-! DEFINITION. Lane memory instructions (spec/10 R210-R211, spec/11 R241-R246): the stages in which the lanes of one
instruction are checked and performed (R243). -/

namespace Sys2Proof.Machine

/-- The rank of a cause in the order of R243. -/
def Cause.stage : Cause → Nat
  | .align => 0
  | .scratchbounds => 1
  | .protect => 2
  | .pageload => 3
  | .watch => 4
  | _ => 5
/-- The first cause among failing lanes in the order of R243, with the address of the lowest lane that has it. -/
def firstCause (fs : List (Nat × Nat × Cause)) : Option (Cause × Nat) :=
  (fs.foldl (fun (b : Option (Nat × Nat × Cause)) f => match b with
    | none => some f
    | some x => if f.2.2.stage < x.2.2.stage || (f.2.2.stage == x.2.2.stage && decide (f.1 < x.1)) then some f else some x) none).map
      (fun x => (x.2.2, x.2.1))
/-- The lanes of a list of accesses. -/
def lanesIn (xs : List (Nat × Nat)) : W64 := maskOf (fun l => xs.any (fun x => x.1 == l))
/-- A lane instruction stops its group with lanes unperformed, which alone are reissued on resume (R243). -/
def State.trapLanes (s : State) (gid : Nat) (c : Cause) (addr : Nat) (left : W64) (w : Nat × Rw × List (Nat × Nat)) : Res :=
  match s.group? gid with
  | none => .next s
  | some g =>
    let g' := match g.path? s.slot with
      | some p => g.setPath s.slot (some { p with redo := some left, far := farthest ((0, p.far) :: s.reached) })
      | none => g
    let s := s.setGroup gid g'
    let s := if c = .watch then w.2.2.foldl (fun s x => if s.gwHit gid g (1 + s.slot) x.2 w.1 w.2.1 then s.gwCount gid g x.2 w.1 w.2.1 else s) s else s
    s.trapL gid g' c (BitVec.ofNat 64 addr) left
/-- The lanes still to be performed, when the instruction must wait (R243, R325). -/
def State.waitLanes (s : State) (gid : Nat) (left : W64) : Res :=
  (s.updGroup gid (fun g => match g.path? s.slot with
    | some p => g.setPath s.slot (some { p with redo := some left, far := farthest ((0, p.far) :: s.reached) })
    | none => g)).stallL
/-- The checks of every lane, with the state they leave. -/
def State.checkLanes (s : State) (gid : Nat) (g : Group) (n : Nat) (rw : Rw) : List (Nat × Nat) → List (Nat × Nat × Chk) × State
  | [] => ([], s)
  | x :: r =>
    let c := s.check gid g (1 + s.slot) x.2 n rw
    let t := State.checkLanes c.2 gid g n rw r
    ((x.1, x.2, c.1) :: t.1, t.2)
/-- Lane results gathered while lanes are performed: writes, failures with DATAERR, lanes that must wait. -/
structure Done where
  ws : List LaneWrite := []
  bad : List (Nat × Nat × Cause) := []
  wait : List (Nat × Nat) := []
  deriving DecidableEq, Repr
/-- Lanes performed one after another. -/
def State.performLanes (s : State) (gid : Nat) (g : Group) (one : Group → Nat → Nat → State → Rc (List LaneWrite)) (d : Done) :
    List (Nat × Nat) → Done × State
  | [] => (d, s)
  | x :: r =>
    match one ((s.group? gid).getD g) x.1 x.2 s with
    | .ok ws s => State.performLanes s gid g one { d with ws := d.ws ++ ws } r
    | .flt c s => State.performLanes s gid g one { d with bad := d.bad ++ [(x.1, x.2, c)] } r
    | .hold s => State.performLanes s gid g one { d with wait := d.wait ++ [x] } r

/-- Two accesses of an instruction overlap. -/
def lanesOverlap (n : Nat) : List (Nat × Nat) → Bool
  | [] => false
  | x :: r => r.any (fun y => overlaps x.2 n y.2 n) || lanesOverlap n r
/-- An access put in its place by rank. -/
def insertRank (rank : Nat → Nat) (x : Nat × Nat) : List (Nat × Nat) → List (Nat × Nat)
  | [] => [x]
  | y :: r => if rank x.1 ≤ rank y.1 then x :: y :: r else y :: insertRank rank x r
/-- The order in which the lanes of one instruction are performed (R242, R245, R211): not reported, so any one when two
of them meet (log 9). -/
def State.laneOrder (s : State) (n : Nat) (xs : List (Nat × Nat)) : List (Nat × Nat) × State :=
  if lanesOverlap n xs then
    let k := s.useFresh
    (xs.foldr (insertRank (Config.laneRank k.1)) [], k.2)
  else (xs, s)
/-- Distinct 64-byte granules that the accesses touch (R237). -/
def granules (n : Nat) (xs : List (Nat × Nat)) : Nat := ((xs.flatMap (fun x => linesOf x.2 n)).eraseDups).length

/-- The frame of a lane memory instruction: its participants and their addresses; with none it completes at once
(R124); ALIGN and SCRATCHBOUNDS are found before any lane is performed (R243 stage 1, R211). -/
def laneMem (s : State) (w : LaneWord) (rows : List Nat) (n : Nat) (stall : Bool) (rw : Rw) (ea : Group → Nat → Nat)
    (k : Nat → Group → Path → List (Nat × Nat × Chk) → State → Res) : Res :=
  laneOp s false (rowsIn w rows) fun gid g p =>
    let part := g.active p &&& g.guard w
    if part = 0 then .next (s.setGroup gid (g.stepPath s.slot p))
    else if stall && g.orun.isSome then s.stallL
    else
      let xs := (lanesOf part).map (fun l => (l, ea g l))
      let al := (xs.filter (fun x => x.2 % n != 0)).map (fun x => (x.1, x.2, Cause.align))
      match firstCause al with
      | some c => (s.setGroup gid g).trapLanes gid c.1 c.2 part (n, rw, xs)
      | none =>
        let c := (s.setGroup gid g).checkLanes gid g n rw xs
        let sb := c.1.filterMap (fun x => if x.2.2 = .flt .scratchbounds then some (x.1, x.2.1, Cause.scratchbounds) else none)
        match firstCause sb with
        | some b => c.2.trapLanes gid b.1 b.2 part (n, rw, xs)
        | none => k gid g p c.1 c.2

/-- A long-latency memory instruction has issued with every lane performed. -/
def State.issued (s : State) (gid : Nat) (p : Path) (w : LaneWord) (ws : List LaneWrite)
    (entries : Nat := 0) : Res :=
  let w' := if p.redo.isSome then { w with la := 0 } else w
  .next (s.updGroup gid (fun g => g.issueLL s.slot p w' false (ws, fl0) true (s.cyc (coreOf s.cur)) 0 entries))
/-- The lanes of a list of checks that a test picks, with their addresses. -/
def lanesThat (cs : List (Nat × Nat × Chk)) (ok : Nat → Chk → Bool) : List (Nat × Nat) :=
  cs.filterMap (fun x => if ok x.2.1 x.2.2 then some (x.1, x.2.1) else none)
/-- The lanes of a load that fail their checks: with a cause, or on a page that has been refused to the path (R325). -/
def failing (g : Group) (k : Nat) (cs : List (Nat × Nat × Chk)) : List (Nat × Nat × Cause) :=
  cs.filterMap (fun x => match x.2.2 with
    | .flt c => some (x.1, x.2.1, c)
    | .missing => if g.refusedTo k x.2.1 then some (x.1, x.2.1, Cause.pageload) else none
    | _ => none)
/-- The cause with which a lane load stops now, if it stops (R243, R325): one found before the pages are looked at; else it waits for every
page asked for, and before PAGELOAD for every lane whose page is mapped. -/
def stopsNow (failed : List (Nat × Nat × Cause)) (miss wait : List (Nat × Nat)) : Option (Cause × Nat) :=
  match firstCause failed with
  | some c => if c.1.stage < 3 || (miss.isEmpty && (c.1 != .pageload || wait.isEmpty)) then some c else none
  | none => none

/-- Stage 3 of R243, a load: every lane that passes is performed, but none where a watchpoint hits (R428). A missing page holds the group
and its lanes are replayed; any other failure stops the group with the lanes left: with every lane left unperformed (R243), also where
some of them have another cause than a refused page, although R325 names the lanes of refused pages alone (log 86). part: what goes with the lanes performed now; fin: what
follows once every lane is. -/
def laneLoad (s : State) (gid : Nat) (p : Path) (w : LaneWord) (n : Nat) (rw : Rw) (g : Group)
    (cs : List (Nat × Nat × Chk)) (entries : Nat) (one : Group → Nat → Nat → State → Rc (List LaneWrite)) (part fin : State → State) : Res :=
  let k := 1 + s.slot
  if !s.tableRoom gid k entries then (s.tableWait gid k).stallL
  else
    let bad := failing g k cs
    let watched := bad.any (fun x => x.2.2 == .watch)
    let miss := lanesThat cs (fun ea c => c == .missing && !g.refusedTo k ea)
    let held := lanesThat cs (fun _ c => c == .hold || c == .moving)
    let s := if cs.any (fun x => x.2.2 == .moving) then s.holdGroup gid k else s
    let o := s.laneOrder n (if watched then [] else lanesThat cs (fun _ c => c == .pass))
    let d := o.2.performLanes gid g one {} o.1
    let failed := bad ++ d.1.bad
    let wait := held ++ d.1.wait
    let left := if watched then lanesIn (cs.map (fun x => (x.1, x.2.1)))
      else maskOf (fun l => failed.any (fun f => f.1 == l) || miss.any (fun f => f.1 == l) || wait.any (fun f => f.1 == l))
    let t := d.2.monitorLevels (coreOf gid) (d.2.launchOf g).part s.reached.length
    let t := if d.1.bad.length + d.1.wait.length < o.1.length then part t else t
    if left = 0 then (fin t).issued gid p w d.1.ws entries
    else
      let t := t.updGroup gid (fun g => g.apply d.1.ws)
      match stopsNow failed miss wait with
      | some c => t.trapLanes gid c.1 c.2 left (n, rw, cs.map (fun x => (x.1, x.2.1)))
      | none => (miss.foldl (fun s x => s.holdOnPage gid g k x.2 rw) t).waitLanes gid left

/-- Stage 2 of R243, a store: no lane is performed until every lane has passed PROTECT and WATCH. Lanes on a page that
is not present retire into the side log, which must have their entries, one for each granule, or the whole group waits; the others are
performed. part: what goes with the lanes performed now. -/
def laneStore (s : State) (gid : Nat) (p : Path) (w : LaneWord) (n : Nat) (rw : Rw) (g : Group)
    (cs : List (Nat × Nat × Chk)) (entries : Nat) (one : Group → Nat → Nat → State → Rc (List LaneWrite)) (part fin : State → State) : Res :=
  let k := 1 + s.slot
  let xs := cs.map (fun x => (x.1, x.2.1))
  let away := lanesThat cs (fun _ c => c == .missing || c == .moving)
  let side := granules n away
  let bad := cs.filterMap (fun x => match x.2.2 with
    | .flt c => some (x.1, x.2.1, c)
    | .missing => if s.gwHit gid g k x.2.1 n rw then some (x.1, x.2.1, Cause.watch) else none
    | _ => none)
  match firstCause bad with
  | some c => s.trapLanes gid c.1 c.2 (lanesIn xs) (n, rw, xs)
  | none =>
    if cs.any (fun x => x.2.2 == .hold) then s.stallL
    else if g.orun.isSome && !away.isEmpty then s.stallL
    else if g.orun.isNone && !s.tableRoom gid k entries then (s.tableWait gid k).stallL
    else if 256 < (s.core (coreOf gid)).sideLog.length + side then (s.sideHold gid k side).stallL
    else
      let o := s.laneOrder n xs
      let d := o.2.performLanes gid g one {} o.1
      let t := d.2.heal s.wrote.length
      let t := if xs.any (fun x => !away.contains x && !d.1.wait.contains x) then part t else t
      if d.1.wait.isEmpty then (fin t).issued gid p w []
      else t.waitLanes gid (lanesIn d.1.wait)

/-! `vld`, `vst`, `vrdm` (R241, R242). -/

/-- The effective address of a lane (R242). -/
def laneEa (w : LaneWord) (g : Group) (l : Nat) : Nat :=
  (BitVec.ofNat 64 (g.read64 w.va l) + (BitVec.ofNat 32 (g.read32 w.vb l)).signExtend 64 + w.x32.signExtend 64).toNat
/-- The order of a VMEM word's vc field (R80). -/
def vcOrder (w : LaneWord) : Order := Order.ofCode (w.vc.toNat / 32)
/-- The scope of a VMEM word's vc field (R80). -/
def vcScope (w : LaneWord) : Scope := (Scope.ofCode? (w.vc.toNat / 4 % 8)).getD .grp
/-- The value of a load in a lane's destination (R84, R242). -/
def loaded (w : LaneWord) (l : Nat) (bs : List Byte) : List LaneWrite := resultWrites w.ty w.vd l (ofBytes bs)
/-- A lane load at its port. -/
def loadOne (gid : Nat) (w : LaneWord) (n : Nat) (via : Via) (g : Group) (l ea : Nat) (s : State) : Rc (List LaneWrite) :=
  match s.load gid g (1 + s.slot) ea n via with
  | .ok bs s => .ok (loaded w l bs) s
  | .flt c s => .flt c s
  | .hold s => .hold s
/-- Table entries of a lane access by granule (R237). -/
def entriesOf (n : Nat) (cs : List (Nat × Nat × Chk)) : Nat := granules n (cs.map (fun x => (x.1, x.2.1)))
/-- `vld` (R241-R243): through L1 unless bp is set (R238). -/
def execVld (w : LaneWord) (s : State) : Res :=
  let n := tyBytes w.ty
  laneMem s w (rowsOf w.vd w.ty.regs) n false .rd (laneEa w) fun gid g p cs s =>
    laneLoad s gid p w n .rd g cs (entriesOf n cs) (loadOne gid w n (if bit w.vc.toNat 7 then .bypass else .l1)) id id
/-- `vrdm` (R241-R243): what `vld.bp` returns, optionally an acquire. -/
def execVrdm (w : LaneWord) (s : State) : Res :=
  let n := tyBytes w.ty
  laneMem s w (rowsOf w.vd w.ty.regs) n (decide (1 ≤ (vcScope w).code)) .rd (laneEa w) fun gid g p cs s =>
    laneLoad s gid p w n .rd g cs (entriesOf n cs) (loadOne gid w n .bypass) id
      (fun s => if (vcOrder w).acquires then s.acquire gid (vcScope w) else s)
/-- The data of a lane's store. -/
def storeBytes (w : LaneWord) (n : Nat) (g : Group) (l : Nat) : List Byte := toBytes n (g.readTy w.ty w.vd l)
/-- A lane store at its port, or into the side log, with the scope of a release that it carries. -/
def storeOne (gid : Nat) (w : LaneWord) (n : Nat) (rel : Option Nat) (g : Group) (l ea : Nat) (s : State) : Rc (List LaneWrite) :=
  match s.store gid g (1 + s.slot) ea (storeBytes w n g l) rel with
  | .ok _ s => .ok [] s
  | .flt c s => .flt c s
  | .hold s => .hold s
/-- The release part of a lane store or atomic (R247). -/
def releaseFirst (s : State) (gid : Nat) (g : Group) (o : Order) (sc : Scope) (k : State → Res) : Res :=
  if o.releases then
    match s.releaseWait gid g sc with
    | .ok _ s => k s
    | .flt _ s => s.stallL
    | .hold s => s.stallL
  else k s
/-- `vst` (R241-R243): with ord 2 a release, which publishes with the lanes performed (R335), those in the side log with their replay. -/
def execVst (w : LaneWord) (s : State) : Res :=
  let n := tyBytes w.ty
  let o := vcOrder w
  let sc := vcScope w
  laneMem s w [] n (o.releases && decide (1 ≤ sc.code)) .wr (laneEa w) fun gid g p cs s =>
    releaseFirst s gid g o sc fun s =>
      laneStore s gid p w n .wr g cs (entriesOf n cs) (storeOne gid w n (carried o sc))
        (fun s => if o.releases then s.publishAt g sc else s) id

/-! `vlds`, `vsts` (R210, R211). -/

/-- A lane's aperture offset (R211). -/
def laneOff (w : LaneWord) (g : Group) (l : Nat) : Nat := (g.read32 w.va l + g.read32 w.vb l + w.x32.toNat) % 2 ^ 32
/-- The frame of `vlds` and `vsts`: every lane is checked before any accesses scratch; the address field holds the
offset (R211). -/
def laneScratch (s : State) (w : LaneWord) (rows : List Nat) (rw : Rw) (one : Nat → Group → Nat → Nat → State → Rc (List LaneWrite)) : Res :=
  let n := tyBytes w.ty
  laneOp s false (rowsIn w rows) fun gid g p =>
    let part := g.active p &&& g.guard w
    if part = 0 then .next (s.setGroup gid (g.stepPath s.slot p))
    else
      let s := s.setGroup gid g
      let xs := (lanesOf part).map (fun l => (l, laneOff w g l))
      let bad := xs.filterMap (fun x =>
        if x.2 % n ≠ 0 then some (x.1, x.2, Cause.align)
        else if 0x800000 ≤ x.2 then some (x.1, x.2, Cause.scratchbounds)
        else match scratchLoc (s.teamOf g) x.2 n with
          | .port _ => if s.gwHit gid g (1 + s.slot) (aperture + x.2) n rw then some (x.1, x.2, Cause.watch) else none
          | _ => some (x.1, x.2, Cause.scratchbounds))
      let vas := xs.map (fun x => (x.1, aperture + x.2))
      match firstCause bad with
      | some c => s.trapLanes gid c.1 c.2 part (n, rw, vas)
      | none =>
        let o := s.laneOrder n vas
        let d := o.2.performLanes gid g (one gid) {} o.1
        let d := (d.1, if rw == .rd then d.2.monitorLevels (coreOf gid) (s.launchOf g).part s.reached.length else d.2)
        match firstCause d.1.bad with
        | some c => (d.2.updGroup gid (fun g => g.apply d.1.ws)).trapLanes gid c.1 (c.2 - aperture)
            (maskOf (fun l => d.1.bad.any (fun f => f.1 == l) || d.1.wait.any (fun f => f.1 == l))) (n, rw, vas)
        | none =>
          if d.1.wait.isEmpty then d.2.issued gid p w d.1.ws
          else (d.2.updGroup gid (fun g => g.apply d.1.ws)).waitLanes gid (lanesIn d.1.wait)
/-- `vlds` (R210, R211). -/
def execVlds (w : LaneWord) (s : State) : Res :=
  laneScratch s w (rowsOf w.vd w.ty.regs) .rd fun gid => loadOne gid w (tyBytes w.ty) .bypass
/-- `vsts` (R210, R211). -/
def execVsts (w : LaneWord) (s : State) : Res :=
  laneScratch s w [] .wr fun gid => storeOne gid w (tyBytes w.ty) none

/-! `vamo` (R245, R246). -/

/-- The address of a lane (R245). -/
def amoEa (w : LaneWord) (g : Group) (l : Nat) : Nat := g.read64 w.va l
/-- The order of a `vamo` (R80). -/
def amoOrder (w : LaneWord) : Order := Order.ofCode (bits w.x32.toNat 5 2)
/-- The scope of a `vamo` (R80). -/
def amoScope (w : LaneWord) : Scope := (Scope.ofCode? (bits w.x32.toNat 7 3)).getD .grp
/-- The new value of a lane's atomic (R246). -/
def amoNew (w : LaneWord) (g : Group) (l m : Nat) : Nat :=
  let op := bits w.x32.toNat 0 5
  if op = 9 then (if m = g.readTy w.ty w.vc l then g.readTy w.ty w.vb l else m)
  else amoValue op (tyBits w.ty) m (g.readTy w.ty w.vb l)
/-- A lane's atomic at its port: the old value to vd. -/
def amoOne (gid : Nat) (w : LaneWord) (n : Nat) (g : Group) (l ea : Nat) (s : State) : Rc (List LaneWrite) :=
  match s.locate gid g ea n .amo true with
  | (.port pa, s) =>
    match s.afterSide gid g (1 + s.slot) ea pa n true (fun s => s.rmw gid g (1 + s.slot) ea pa n (amoScope w) (amoNew w g l)) with
    | .ok m s => .ok (resultWrites w.ty w.vd l m) s
    | .flt c s => .flt c s
    | .hold s => .hold s
  | (_, s) => .hold s
/-- A lane's reduction: performed, retired into the side log (R326), or discarded and counted (R252). -/
def redOne (gid : Nat) (w : LaneWord) (n : Nat) (g : Group) (l ea : Nat) (s : State) : Rc (List LaneWrite) :=
  let side := fun (s : State) =>
    match s.sideLog gid g ea (toBytes n (g.readTy w.ty w.vb l)) (some (bits w.x32.toNat 0 5)) (amoScope w).code
        (g.readTy w.ty w.vc l) (carried (amoOrder w) (amoScope w)) (g.streamId (1 + s.slot)) with
    | .ok _ s => Rc.ok [] s
    | .flt c s => .flt c s
    | .hold s => .hold s
  match s.locate gid g ea n .amo true with
    | (.missing, s) => side (s.askPage gid g ea .amo)
    | (.moving, s) => side s
    | (.port pa, s) =>
      match s.afterSide gid g (1 + s.slot) ea pa n true (fun s => s.rmw gid g (1 + s.slot) ea pa n (amoScope w) (amoNew w g l)) with
      | .ok _ s => .ok [] s
      | .flt _ s => .ok [] (s.lostReduction gid ea)
      | .hold s => .hold s
    | (_, s) => .hold s
/-- `vamo` (R245, R246): each participant its own atomic; with vd = 0xFF a reduction, which faults like a store. A release publishes with
the lanes performed (R335). -/
def execVamo (w : LaneWord) (s : State) : Res :=
  let n := tyBytes w.ty
  let o := amoOrder w
  let sc := amoScope w
  let part := fun (g : Group) (s : State) => if o.releases then s.publishAt g sc else s
  let fin := fun (gid : Nat) (s : State) => if o.acquires then s.acquire gid sc else s
  laneMem s w (rowsOf w.vd w.ty.regs) n (decide (1 ≤ sc.code)) .amo (amoEa w) fun gid g p cs s =>
    releaseFirst s gid g o sc fun s =>
      if w.vd = 0xFF then laneStore s gid p w n .amo g cs cs.length (redOne gid w n) (part g) (fin gid)
      else laneLoad s gid p w n .amo g cs cs.length (amoOne gid w n) (part g) (fin gid)

end Sys2Proof.Machine
end

