-- ==== Sys2Proof/Machine/Probe.lean ====
section
/-! DEFINITION. The wait-cycle probe (spec/10 R227, R228): whom each blocked or stalled party awaits, and WAIT_PROBE. -/

namespace Sys2Proof.Machine

/-- A party that a probe may reach. -/
inductive Party where
  | scalar (gid : Nat)
  | lanes (gid : Nat)
  | complex (key : Nat)
  deriving DecidableEq, Repr

/-- The scalar instruction at which a group stands, if it can be fetched. -/
def State.standsAt (s : State) (gid : Nat) (g : Group) : Option Instr :=
  match (s.fetchScalar gid g).1 with
  | .word w => (decodeScalar w).toOption
  | _ => none
/-! What stalls in overreach until the phase completes (R233). -/

/-- The instructions of R233 that stall whatever their operands: arrivals and object updates, engine, tile and matrix work, group creation
and end. -/
def overBarred : Instr → Bool
  | .barr _ _ => true
  | .barrd _ _ => true
  | .bexp _ _ => true
  | .binit _ _ _ => true
  | .wait _ _ _ => true
  | .cpy _ _ _ _ => true
  | .cpyt _ _ _ _ => true
  | .cpys _ _ _ _ => true
  | .bclose _ _ => true
  | .flush _ _ => true
  | .inv _ _ => true
  | .spawn _ _ => true
  | .dlaunch _ _ _ => true
  | .exit => true
  | .lock _ _ _ => true
  | .unlock _ _ _ => true
  | .talloc _ _ => true
  | .tgive _ _ => true
  | .tfree _ => true
  | .tld _ _ _ => true
  | .tst _ _ _ => true
  | .tzero _ => true
  | .tinfo _ _ => true
  | .mxacq => true
  | .mxrel => true
  | .mxrdy _ _ _ => true
  | .mxa _ _ _ => true
  | .mxs _ _ _ => true
  | .mxdr _ _ _ _ => true
  | .cbld _ _ => true
  | _ => false
/-- The address, width and scope of a scalar ordered access, atomic or reduction that writes (R246). -/
def scopedWrite (g : Group) : Instr → Option (Nat × Nat × Scope)
  | .samoAdd _ a _ _ sc w => some ((g.reg a).toNat, wBytes w, sc)
  | .samoAnd _ a _ _ sc w => some ((g.reg a).toNat, wBytes w, sc)
  | .samoOr _ a _ _ sc w => some ((g.reg a).toNat, wBytes w, sc)
  | .samoXor _ a _ _ sc w => some ((g.reg a).toNat, wBytes w, sc)
  | .samoMin _ a _ _ sc w => some ((g.reg a).toNat, wBytes w, sc)
  | .samoMax _ a _ _ sc w => some ((g.reg a).toNat, wBytes w, sc)
  | .samoMinn _ a _ _ sc w => some ((g.reg a).toNat, wBytes w, sc)
  | .samoMaxn _ a _ _ sc w => some ((g.reg a).toNat, wBytes w, sc)
  | .samoSwap _ a _ _ sc w => some ((g.reg a).toNat, wBytes w, sc)
  | .scas _ a _ _ sc w => some ((g.reg a).toNat, wBytes w, sc)
  | .samoFadd _ a _ _ sc => some ((g.reg a).toNat, 4, sc)
  | .ssto a _ _ sc w => some ((g.reg a).toNat, wBytes w, sc)
  | .sredAdd a _ _ sc w => some ((g.reg a).toNat, wBytes w, sc)
  | .sredAnd a _ _ sc w => some ((g.reg a).toNat, wBytes w, sc)
  | .sredOr a _ _ sc w => some ((g.reg a).toNat, wBytes w, sc)
  | .sredXor a _ _ sc w => some ((g.reg a).toNat, wBytes w, sc)
  | .sredMin a _ _ sc w => some ((g.reg a).toNat, wBytes w, sc)
  | .sredMax a _ _ sc w => some ((g.reg a).toNat, wBytes w, sc)
  | .sredMinn a _ _ sc w => some ((g.reg a).toNat, wBytes w, sc)
  | .sredMaxn a _ _ sc w => some ((g.reg a).toNat, wBytes w, sc)
  | .sredFadd a _ _ sc => some ((g.reg a).toNat, 4, sc)
  | _ => none
/-- A store of an overreaching group that stalls (R233): into the host-coherent window, on a page that is not present, or with no free
entry for a new granule. -/
def State.overStuck (s : State) (gid : Nat) (g : Group) (va n : Nat) : Bool :=
  match (s.locate gid g va n .wr false).1 with
  | .port pa => overBars pa || (decide (2048 ≤ s.overGranules (coreOf gid))
      && !(linesOf pa n).all (fun l => g.orun.elim false (fun o => o.buf.any (fun c => c.1 / 64 == l))))
  | .missing => true
  | .moving => true
  | _ => false
/-- The scalar instruction at which an overreaching group stands stalls until the phase completes (R233, R253). -/
def State.overStallsS (s : State) (gid : Nat) (g : Group) (i : Instr) : Bool :=
  overBarred i || (match scopedWrite g i with
    | some x => decide (1 ≤ x.2.2.code) || s.overStuck gid g x.1 x.2.1
    | none => match i with
      | .sldo _ _ _ sc _ => decide (1 ≤ sc.code)
      | .fence _ sc => decide (1 ≤ sc.code)
      | .sst _ a sz off => s.overStuck gid g (effAddr g a off).toNat sz.bytes
      | .vstat _ n => n != 0 && g.buffering
      | .stime _ => g.buffering
      | _ => false)
/-- The lane instruction at which a path of an overreaching group stands stalls until the phase completes (R233). -/
def State.overStallsL (s : State) (gid : Nat) (g : Group) (p : Path) (held : Bool) (i : Instr) : Bool :=
  let stuck := fun (w : LaneWord) (ea : Nat → Nat) =>
    (lanesOf (g.active p &&& g.guard w)).any (fun l => s.overStuck gid g (ea l) (tyBytes w.ty))
  match i with
  | .vtget _ => true
  | .vtset _ => true
  | .vamo w => decide (1 ≤ (amoScope w).code) || stuck w (amoEa w g)
  | .vrdm w => decide (1 ≤ (vcScope w).code)
  | .vst w => ((vcOrder w).releases && decide (1 ≤ (vcScope w).code)) || stuck w (laneEa w g)
  | .vsts w => stuck w (fun l => aperture + laneOff w g l)
  | _ => held && decide (196608 < s.shadowUsed (coreOf gid) + 4 * g.lanew)

/-- Whom a wait on an object awaits: every group of the team that may use it and is not blocked on it; none when a copy that
names it is outstanding. -/
def State.objParties (s : State) (key va : Nat) : Option (List Party) :=
  match s.objAt key va with
  | none => none
  | some o =>
    if s.copyNames o then none
    else
      let t := (s.team? key).getD {}
      let w := s.obj o.pa
      some (((s.groupsOf key).filter (fun e => mayUse t o w e.1 && !e.2.blockedOn va)).map (fun e => .scalar e.1))
/-- The groups of a team as parties. -/
def State.teamParties (s : State) (key : Nat) : List Party := (s.groupsOf key).map (fun e => .scalar e.1)
/-- Whom a group awaits that overreaches and stalls (R233): those who may complete the phase it is bound to. -/
def State.overAwaits (s : State) (g : Group) : Option (List Party) :=
  g.orun.bind (fun o => s.objParties g.key o.obj.toNat)
/-- A `wait.or` that is not satisfied waits as `lsync` does, for the lanes of its group (R229). -/
def State.waitsForLanes (s : State) (g : Group) (a b : Reg) (kind : WaitKind) : Bool :=
  kind == .objOr && !g.laneIdle && (match s.objAt g.key (g.reg a).toNat with
    | some o =>
      let n : W32 := (g.reg b).setWidth 32
      oOvr (s.obj o.pa) && !phaseDone (s.obj o.pa) n.toNat && g.noOver != some (g.reg a, n)
    | none => false)
/-- What copy commands await: none when one of them can go on, else the complexes whose tile accesses precede theirs (R282). -/
def State.copyParties (s : State) (cs : List CopyCmd) : Option (List Party) :=
  if cs.any (fun c => c.acc = 0 || ((s.team? c.iss.key).getD {}).accReady c.acc) then none else some (cs.map (fun c => .complex c.iss.key))
/-- What a command that finds the engine of its core full awaits (R254). -/
def State.fullEngine (s : State) (gid : Nat) (g : Group) : Option (List Party) :=
  let q := (s.core (coreOf gid)).copyQ
  if g.sHeld != 0 && decide (256 ≤ q.length) then s.copyParties q else none
/-- What a command that finds the matrix queue of its team full awaits (R296). -/
def State.fullMx (s : State) (g : Group) : Option (List Party) :=
  if g.sHeld != 0 && decide (16 ≤ (s.teamOf g).mxQ.length) then some [.complex g.key] else none
/-- What the instruction of a group's S-stream awaits; none when it can issue. -/
def State.instrAwaits (s : State) (gid : Nat) (g : Group) (i : Instr) : Option (List Party) :=
  if g.orun.isSome && s.overStallsS gid g i then s.overAwaits g
  else match i with
    | .lsync => if g.laneIdle then none else some [.lanes gid]
    | .spop _ => if g.retQ.isEmpty then some [.lanes gid] else none
    | .exit =>
      if !g.laneIdle then some [.lanes gid]
      else if (s.teamOf g).tags.any (fun q => g.issued q.iss) then some [.complex g.key] else none
    | .lgo _ _ _ => if 8 ≤ g.laneQ.length then some [.lanes gid] else none
    | .wait a b kind => if s.waitsForLanes g a b kind then some [.lanes gid] else none
    | .cpy _ _ _ _ => s.fullEngine gid g
    | .cpyt _ _ _ _ => s.fullEngine gid g
    | .cpys _ _ _ _ => s.fullEngine gid g
    | .tld _ _ _ => s.fullEngine gid g
    | .tst _ _ _ => s.fullEngine gid g
    | .mxa _ _ _ => s.fullMx g
    | .mxs _ _ _ => s.fullMx g
    | .mxdr _ _ _ _ => s.fullMx g
    | .cbld _ _ => s.fullMx g
    | .mxacq => if 8 ≤ (s.complex (tandemOf (s.teamOf g).core)).waiters.length then some [.complex g.key] else none
    | .mxrdy tag q vn =>
      if !s.quarterReady gid g (s.teamOf g) vn.toNat then some [.lanes gid]
      else if (s.teamOf g).tags.any (fun x => x.tag == tag.toNat && x.q == q.toNat) then some [.complex g.key] else s.fullMx g
    | .talloc _ _ => if g.allocHold.isSome then some [.complex g.key] else none
    | _ => none
/-- What the S-stream of a group awaits; none when it can issue, or may be resumed by a handler. -/
def State.awaitsS (s : State) (gid : Nat) (g : Group) : Option (List Party) :=
  if g.stopped || g.stopping || !g.pageWait.isEmpty then none
  else match g.blocked with
    | some b =>
      if b.kind = 0 || b.kind = 3 then s.objParties g.key b.obj.toNat
      else if b.kind = 2 then some [.complex g.key]
      else s.copyParties ((s.core (coreOf gid)).copyQ.filter (fun c => g.issued c.iss && decide ((b.n - BitVec.ofNat 32 c.batch).toNat < 2 ^ 31)))
    | none => match g.lockReq with
      | some pa =>
        let h := ofBytes (s.portRead pa 4)
        if h = 0 then none else some [.scalar (h - 1)]
      | none => (s.standsAt gid g).bind (s.instrAwaits gid g)
/-- What a path of a group awaits; none when it can issue. -/
def State.awaitsPath (s : State) (gid : Nat) (g : Group) (p : Path) (held : Bool) : Option (List Party) :=
  match (s.fetchLane gid g p.pc).1 with
  | .word w => match decodeLane w with
    | .ok (.vput _) => if g.vputFull then some [.scalar gid] else none
    | .ok i => if g.orun.isSome && s.overStallsL gid g p held i then s.overAwaits g else none
    | .error _ => none
  | _ => none
/-- What the lane stream of a group awaits: it stands still while each of its paths does, or, with no path left, while a tile access is
outstanding. A stalled path that awaits nobody else awaits the tile accesses of its group. -/
def State.awaitsL (s : State) (gid : Nat) (g : Group) : Option (List Party) :=
  if g.stopped || g.stopping || !g.pageWait.isEmpty || g.pend.any (fun x => x.acc = 0) then none
  else
    let tiles := if g.pend.isEmpty then none else some [Party.complex g.key]
    let path := fun (p : Path) (held : Bool) => (s.awaitsPath gid g p held).orElse (fun _ => if held then tiles else none)
    match g.slot0, g.slot1 with
    | none, none => tiles
    | some p, none => path p (g.lHeld != 0)
    | none, some q => path q (g.lHeld1 != 0)
    | some p, some q => match path p (g.lHeld != 0), path q (g.lHeld1 != 0) with
      | some a, some b => some (a ++ b)
      | _, _ => none
/-- What the matrix commands of a team await. -/
def State.awaitsM (s : State) (key : Nat) : Option (List Party) :=
  match s.team? key with
  | none => none
  | some t =>
    match (s.complex (tandemOf t.core)).owner with
    | none => none
    | some k =>
      if k ≠ key then some (.complex k :: s.teamParties k)
      else match t.mxQ with
        | [] => if t.tags.isEmpty then none else some (s.teamParties key)
        | c :: _ =>
          if (c.op = .mxa || c.op = .mxs) && !c.started
              && !(List.range 4).all (fun i => t.tags.any (fun x => x.tag == c.tag && x.q == i)) then some (s.teamParties key)
          else none
/-- What a party awaits; none when it can make progress. -/
def State.awaits (s : State) (p : Party) : Option (List Party) :=
  match p with
  | .scalar gid => (s.group? gid).bind (s.awaitsS gid)
  | .lanes gid => (s.group? gid).bind (s.awaitsL gid)
  | .complex key => s.awaitsM key
/-- The parties a probe reaches; none when one of them can make progress. -/
def State.probe (s : State) (seen todo : List Party) : Nat → Option (List Party)
  | 0 => some seen
  | k + 1 => match todo with
    | [] => some seen
    | p :: r =>
      if seen.contains p then s.probe seen r k
      else match s.awaits p with
        | none => none
        | some ps => s.probe (p :: seen) (r ++ ps) k
/-- The probe period of a partition has passed since a group last went on; never when WPRBLOG is 0 (R227, R382). -/
def State.probeAge (s : State) (gid : Nat) (g : Group) : Bool :=
  let log := fld (s.part (s.launchOf g).part).rcd 88 6
  let since := match g.blocked with
    | some b => b.since
    | none => g.lastS
  log != 0 && decide (2 ^ log ≤ s.cyc (coreOf gid) - since)
/-- A group waits in one of the ways that a probe follows, a `wait.or` that still waits for its lanes among them, and its period has passed
(R227). -/
def State.probeDue (s : State) (gid : Nat) (g : Group) : Bool :=
  s.probeAge gid g && (g.blocked.isSome || (match s.standsAt gid g with
    | some .lsync => true
    | some (.spop _) => true
    | some (.wait a b kind) => s.waitsForLanes g a b kind
    | _ => false))
/-- WAIT_PROBE (R227, R228). -/
def execWaitProbe (gid : Nat) (s : State) : Res :=
  .next (match s.group? gid with
    | none => s
    | some g =>
      if !s.probeDue gid g then s
      else match s.awaitsS gid g with
        | none => s
        | some ps =>
          let fuel := (s.groups.length + s.teams.length + 2) * (s.groups.length + 2) + ps.length
          match s.probe [] ps fuel with
          | some seen =>
            if seen.contains (.scalar gid) then
              let va : W64 := match g.blocked with
                | some b => b.obj
                | none => 0
              s.stop gid { s.stopRecord gid g .waitcycle false with addr := va }
            else s
          | none => s)

end Sys2Proof.Machine
end

