-- ==== Sys2Proof/Machine/Stream.lean ====
section
/-! DEFINITION. The stream-join instructions and the special-register and time instructions (spec/05 R127-R137), and the
next block of a lane queue (R117). -/

namespace Sys2Proof.Machine

/-- `lgo` (R128, R130): stalls while the lane queue holds 8 blocks, and faults ORPHANWAIT when the lane stream is itself
stalled by a full return queue. It joins the streams (R118): the S-stream's earlier stores are performed. -/
def execLgo (a b : Reg) (n : BitVec 5) (s : State) : Res :=
  scalar s fun gid g =>
    if 8 ≤ g.laneQ.length then
      if g.vputFull then s.trapS gid g .orphanwait 0 else s.stallS
    else (s.drain gid).intoS gid g 0 fun _ s =>
      let k := (List.range n.toNat).map (fun i => g.reg (b + BitVec.ofNat 5 i))
      let blk : Block := { start := (g.reg a).setWidth 32, k := k, fmt := g.fmt, at_ := s.cycles }
      .next (s.done gid (fun g => { g with laneQ := g.laneQ ++ [blk] }))
/-- `lsync` (R129, R130): holds the S-stream until the lane queue is empty; a `vput` stalled by a full return queue makes
that impossible. -/
def execLsync (s : State) : Res :=
  scalar s fun gid g =>
    if g.laneIdle then .next (s.done gid id)
    else if g.vputFull then s.trapS gid g .orphanwait 0 else s.stallS
/-- The S-stream has joined the lane instructions up to the n-th (R118): what those still incomplete raise counts in FLAGS now (R93). -/
def Group.joined (g : Group) (n : Nat) : Group :=
  { g with flags := g.pend.foldl (fun f x => if x.at_ ≤ n then f ||| x.flags else f) g.flags,
           pend := g.pend.map (fun x => if x.at_ ≤ n then { x with flags := 0 } else x) }
/-- `spop` (R130): the oldest return-queue entry; ORPHANWAIT when no party can supply one. -/
def execSpop (d : Reg) (s : State) : Res :=
  scalar s fun gid g =>
    match g.retQ with
    | x :: r => .next (s.done gid (fun g => { (g.joined (g.retAt.headD 0)).setReg d x with retQ := r, retAt := g.retAt.tail, vputFull := false }))
    | [] => if g.laneIdle then s.trapS gid g .orphanwait 0 else s.stallS
/-- `lqd` (R131). -/
def execLqd (d : Reg) (s : State) : Res :=
  setResult s d fun g => BitVec.ofNat 64 (g.laneQ.length + g.retQ.length * 2 ^ 8)

/-- `yield` (R135): marked as the most recently issued, which the issue itself does (R120). -/
def execYield (s : State) : Res := scalar s fun gid _ => .next (s.done gid id)
/-- `setprio` (R135). -/
def execSetprio (n : BitVec 5) (s : State) : Res :=
  scalar s fun gid g => .next (s.done gid (fun _ => { g with cls := BitVec.ofNat 2 n.toNat }))
/-- `crit` (R122, R135). -/
def execCrit (n : BitVec 5) (s : State) : Res :=
  scalar s fun gid g => .next (s.done gid (fun _ => g.critStep (n == 1)))

/-- The class in force: critical while the critical count is above zero (R122). -/
def Group.prio (g : Group) : Nat := if g.crit = 0 then g.cls.toNat else 0
/-- The number of teams of a launch (R372). -/
def Launch.teamN (l : Launch) : Nat := l.gridx.toNat * l.gridy.toNat * l.gridz.toNat
/-- A special register as `srd` reads it (R126). -/
def State.special (s : State) (gid : Nat) (g : Group) (code : Nat) : W64 :=
  let l := s.launchOf g
  match code with
  | 0x00 => BitVec.ofNat 64 s.stc
  | 0x01 => BitVec.ofNat 64 (s.cyc (coreOf gid))
  | 0x02 => BitVec.ofNat 64 g.lanew
  | 0x03 => BitVec.ofNat 64 g.gidx
  | 0x04 => BitVec.ofNat 64 (l.desc.groups + 1)
  | 0x05 => BitVec.ofNat 64 g.team
  | 0x06 => BitVec.ofNat 64 l.teamN
  | 0x07 => BitVec.ofNat 64 g.launch
  | 0x08 => BitVec.ofNat 64 (coreOf gid)
  | 0x09 => BitVec.ofNat 64 (quarterOf gid)
  | 0x0A => BitVec.ofNat 64 (tandemOf (coreOf gid))
  | 0x0B => BitVec.ofNat 64 l.part
  | 0x0C => BitVec.ofNat 64 (s.teamOf g).gangn
  | 0x0D => g.fmt.setWidth 64
  | 0x0E => g.spawnIdx
  | 0x0F => BitVec.ofNat 64 l.parent
  | 0x10 => l.callidx
  | 0x11 => g.flags.setWidth 64
  | 0x12 => BitVec.ofNat 64 g.prio
  | 0x13 => BitVec.ofNat 64 (ctxOf gid)
  | 0x14 => BitVec.ofNat 64 g.rb
  | _ => 0
/-- `srd` (R126, R137). -/
def execSrd (d : Reg) (code : BitVec 10) (s : State) : Res :=
  scalar s fun gid g => .next (s.done gid (fun _ => g.setReg d (s.special gid g code.toNat)))
/-- `swr` (R126, R137): only FMT and FLAGS are writable; any other register raises PRIV. -/
def execSwr (a : Reg) (code : BitVec 10) (s : State) : Res :=
  scalar s fun gid g =>
    if code = 0x0D then .next (s.done gid (fun _ => { g with fmt := (g.reg a).setWidth 19 }))
    else if code = 0x11 then .next (s.done gid (fun _ => { g with flags := (g.reg a).setWidth 7 }))
    else s.trapS gid g .priv (code.setWidth 64)
/-- `fmt` (R137): bits 18:0. -/
def execFmt (a : Reg) (s : State) : Res :=
  scalar s fun gid g => .next (s.done gid (fun _ => { g with fmt := (g.reg a).setWidth 19 }))
/-- `stime` (R137, R327): after every earlier access of the group, its side-log entries included, has been performed. -/
def execStime (d : Reg) (s : State) : Res :=
  scalar s fun gid g =>
    if g.buffering then s.stallS
    else (s.allPerformed gid g).intoS gid g 0 fun _ s =>
      .next (s.done gid (fun g => g.setReg d (BitVec.ofNat 64 s.stc)))

end Sys2Proof.Machine
end

