-- ==== Sys2Proof/Machine/Supervisor.lean ====
section
/-! DEFINITION. What a supervisor core's firmware does to memory and to its core's groups (spec/01 R14, R18-R20, spec/11 R238, R239,
spec/18 R352, R353). -/

namespace Sys2Proof.Machine

/-- SUPERVISOR_WINDOW_ACCESS (R14, R17, R19, R20): a read or write of up to 8 bytes of its own core's on-chip window. A Casket slot is
reached in slot order (R282). -/
def execSupervisorWindowAccess (core off size : Nat) (write : Bool) (val : W64) (s : State) : Res :=
  let pa := onchip core off
  .next (if !s.served || 160 ≤ core || size = 0 || 8 < size || 0x800000 < off + size || s.portBusy pa size write then s
  else if write then s.portWrite pa (toBytes size val.toNat)
  else { s with supRead := BitVec.ofNat 64 (ofBytes (s.portRead pa size)) })
/-- The amo.op code of an AMO (R241), if it is one. -/
def supAmo : SupOp → Option Nat
  | .load | .store | .fence => none
  | .amoAdd => some 0 | .amoMin => some 4 | .amoMax => some 5 | .amoMinu => some 6 | .amoMaxu => some 7
  | .amoAnd => some 1 | .amoOr => some 2 | .amoXor => some 3 | .amoSwap => some 8
/-- A supervisor reaches a range: memory that exists, wherever it is (log 76), within one line. -/
def supReach (pa size : Nat) : Bool :=
  decide (0 < size) && decide (size ≤ 8) && decide (pa % 64 + size ≤ 64) && regionOf pa != .none && decide (pa < 2 ^ 65)
/-- Bytes a supervisor writes, at the port, past its caches (R173, R239). -/
def State.supWrite (s : State) (core pa : Nat) (bs : List Byte) : State :=
  let s := s.portWrite pa bs
  if regionOf pa = .dram then s.snoop core pa bs true else s
/-- A cached read of a supervisor core (R14, R368 of spec/18): through L1 or the scalar cache; no bytes on an uncorrectable error. -/
def State.supLoad (s : State) (core pa size : Nat) : Option (List Byte) × State :=
  let k := s.useFresh
  let r := k.2.readDram core [] 0 pa size (if Config.supCache k.1 then .scalar else .l1)
  (r.1.1, r.2)
/-- SUPERVISOR_CORE_ACCESS (R14, R352): a load reads device memory through L1 or the scalar cache; a store or an AMO is performed at its port, on
committed memory, an AMO returning the old value; a FENCE orders as one of system scope, and discards the copies of remote lines that
its die holds (R239). -/
def execSupervisorCoreAccess (core : Nat) (op : SupOp) (pa size : Nat) (val : W64) (s : State) : Res :=
  .next (if !s.served || 160 ≤ core then s
  else if op = .fence then s.updDie (dieOf core) (fun d => { d with l2r := [] })
  else if !supReach pa size || s.portBusy pa size (op != .load) then s
  else
    let answer := fun (s : State) (bs : List Byte) => { s with supRead := BitVec.ofNat 64 (ofBytes bs) }
    if op = .load then
      if regionOf pa = .dram then
        match s.supLoad core pa size with
        | (some bs, s) => answer s bs
        | (none, s) => s
      else answer s (s.portRead pa size)
    else if op = .store then s.supWrite core pa (toBytes size val.toNat)
    else if s.bad pa size then s.logError pa core
    else
      let s := if regionOf pa = .dram then s.llcTouch (pa / 64) else s
      let old := s.portRead pa size
      match supAmo op with
      | some o => answer (s.supWrite core pa (toBytes size (amoValue o (8 * size) (ofBytes old) (val.toNat % 2 ^ (8 * size))))) old
      | none => s)

end Sys2Proof.Machine
end

