-- ==== Sys2Proof/Machine/TrapInsn.lean ====
section
/-! DEFINITION. `trap`, `brk` and `curb` (spec/22 R421-R423). -/

namespace Sys2Proof.Machine

/-- A stop after the instruction, with n in ADDR (R422). -/
def stopAfter (cause : Cause) (n : BitVec 10) (s : State) : Res :=
  scalar s fun gid g => .next (s.stop gid { s.stopRecord gid g cause false with addr := n.setWidth 64 } 4)
/-- `trap` (R422): the system call. -/
def execTrap (n : BitVec 10) (s : State) : Res := stopAfter .trapinsn n s
/-- `brk` (R422). -/
def execBrk (n : BitVec 10) (s : State) : Res := stopAfter .brk n s

/-- The classes of leave that `curb n` asks for, each with its requester (R423, R453). -/
def curbClasses (gid : Nat) (n : Nat) : List (Nat × Nat) :=
  let core := coreOf gid
  (if n = 0 || n = 3 then [(2, 4 * core + quarterOf gid)] else [])
  ++ (if n = 1 || n = 3 then [(0, tandemOf core)] else []) ++ (if n = 2 || n = 3 then [(1, core)] else [])
/-- `curb` (R423): it holds the S-stream until every grant has arrived, and writes the cycles it waited. -/
def execCurb (d : Reg) (n : BitVec 5) (s : State) : Res :=
  scalar s fun gid g =>
    let cs := curbClasses gid n.toNat
    let die := dieOf (coreOf gid)
    if g.curbAsk = 2 then
      .next (s.done gid (fun g => { (g.setReg d (BitVec.ofNat 64 (s.cyc (coreOf gid) - g.curbSince))) with curbAsk := 0 }))
    else if 2 < g.curbAsk then s.stallS
    else
      let since := if g.curbAsk = 0 then s.cyc (coreOf gid) else g.curbSince
      if cs.any (fun c => !(s.die die).mayAsk c.1 c.2 (s.cyc (20 * die))) then (s.updGroup gid (fun g => { g with curbAsk := 1, curbSince := since })).stallS
      else
        let s := cs.foldl (fun s c => s.askLeave die c.1 c.2 gid true) s
        (s.updGroup gid (fun g => { g with curbAsk := 2 + cs.length, curbSince := since })).stallS

end Sys2Proof.Machine
end

