-- ==== Sys2Proof/Machine/VCmp.lean ====
section
/-! DEFINITION. Lane compares and predicate logic (spec/08 R193-R194). -/

namespace Sys2Proof.Machine

/-- A condition on an order, for operands that are not NaN (R193). -/
def Cond.holds (cc : Cond) (x y : Int) : Bool :=
  match cc with
  | .eq => x == y | .ne => x != y | .lt => decide (x < y) | .le => decide (x ≤ y) | .gt => decide (y < x)
  | .ge => decide (y ≤ x) | .un => false | .ord => true
/-- A condition on two floats (R193): with a NaN only `ne` and `un` hold. -/
def floatCond (cc : Cond) (t : FT) (a b : Nat) : Bool × Flags :=
  let x := t.val a
  let y := t.val b
  (if x.isNan || y.isNan then cc == .ne || cc == .un else Cond.holds cc (t.ord a) (t.ord b), cmpFlags cc x y)
/-- The effect of a compare (R193): a false guard clears both destinations. -/
def compare (s : State) (w : LaneWord) (c : Group → Path → Nat → Bool × Flags) : Res :=
  laneOp s false noRows fun gid g p =>
    let act := g.active p
    let grd := g.guard w
    let ls := lanesOf (act &&& grd)
    let t := maskOf (fun l => lane (act &&& grd) l && (c g p l).1)
    let pd1 := w.vd.toNat / 32
    let pd2 := w.vd.toNat / 4 % 8
    let fl := ls.foldl (fun f l => f ||| (c g p l).2) fl0
    let g1 := g.setPred pd1 ((g.pred pd1 &&& ~~~ act) ||| t)
    let g2 := g1.setPred pd2 ((g.pred pd2 &&& ~~~ act) ||| (act &&& grd &&& ~~~ t))
    let g3 := g2.stepPath s.slot p
    .next (s.setGroup gid { g3 with flags := g3.flags ||| fl })
/-- `vcmp` (R193): no flag. -/
def execVcmp (cc : Cond) (w : LaneWord) (s : State) : Res :=
  compare s w fun g _ l => (Cond.holds cc (intVal w.ty (g.readTy w.ty w.va l)) (intVal w.ty (g.readB w l)), fl0)
/-- `vfcmp` (R193). -/
def execVfcmp (cc : Cond) (w : LaneWord) (s : State) : Res :=
  compare s w fun g p l =>
    let t := (tyFloat w.ty).getD .f32
    floatCond cc t (ftzIn t (fmtFtz p.fmt) (negElem t w.negA (elem w.ty (g.readTy w.ty w.va l) 0)))
      (ftzIn t (fmtFtz p.fmt) (negElem t w.negB (elem w.ty (g.readB w l) 0)))
/-- Predicate logic (R194): participating lanes only. -/
def plog (s : State) (w : LaneWord) (f : W64 → W64 → W64) : Res :=
  laneOp s false noRows fun gid g p =>
    let m := g.active p &&& g.guard w
    let pd := w.vd.toNat / 32
    let r := f (g.pred (w.va.toNat / 32)) (g.pred (w.vb.toNat / 32))
    .next (s.setGroup gid ((g.setPred pd ((g.pred pd &&& ~~~ m) ||| (r &&& m))).stepPath s.slot p))
/-- `pand` (R194). -/
def execPand (w : LaneWord) (s : State) : Res := plog s w fun a b => a &&& b
/-- `por` (R194). -/
def execPor (w : LaneWord) (s : State) : Res := plog s w fun a b => a ||| b
/-- `pxor` (R194). -/
def execPxor (w : LaneWord) (s : State) : Res := plog s w fun a b => a ^^^ b
/-- `pandn` (R194). -/
def execPandn (w : LaneWord) (s : State) : Res := plog s w fun a b => a &&& ~~~ b

end Sys2Proof.Machine
end

