-- ==== Sys2Proof/Machine/VCvt.lean ====
section
/-! DEFINITION. Conversions and the quantiser instruction (spec/04 R100-R108). -/

namespace Sys2Proof.Machine

/-- Convert of an element of any type to any type (R91, R102). -/
def convertElem (dst src : Ty) (rnd : Rnd) (sat : Bool) (x : Nat) : Nat × Flags :=
  let v : Val × Bool := match tyFloat src with
    | some f => (f.val x, false)
    | none => (Val.ofInt (intVal src x), true)
  match tyFloat dst with
  | some f => convert f rnd sat v.1
  | none => convertInt (tySigned dst) (tyBits dst) rnd sat v.2 v.1
/-- A write of one lane element. -/
def laneWrite (r l x : Nat) : LaneWrite := { reg := r, lane := l, val := BitVec.ofNat 32 x }
/-- The packed results and the flags of a list of elements. -/
def packed (t : Ty) (rs : List (Nat × Flags)) : Nat × Flags := (packElems t (rs.map (·.1)), rs.foldl (fun x r => x ||| r.2) fl0)
/-- `vcvt` (R102). -/
def execVcvt (w : LaneWord) (s : State) : Res :=
  laneShort s w (rowsOf w.vd w.ty.regs) fun g p l =>
    let a := g.readTy w.srcTy w.va l
    let r := packed w.ty ((List.range w.ty.elems).map (fun e => convertElem w.ty w.srcTy (fmtRnd p.fmt) w.sat (elem w.srcTy a e)))
    (resultWrites w.ty w.vd l r.1, r.2)
/-- `vpack` (R103): the elements of va, then those of vb. -/
def execVpack (w : LaneWord) (s : State) : Res :=
  laneShort s w (rowsOf w.vd 1) fun g p l =>
    let a := g.read32 w.va l
    let b := g.read32 w.vb l
    let n := w.srcTy.elems
    let xs := (List.range n).map (elem w.srcTy a) ++ (List.range n).map (elem w.srcTy b)
    let r := packed w.ty (xs.map (convertElem w.ty w.srcTy (fmtRnd p.fmt) w.sat))
    (resultWrites w.ty w.vd l r.1, r.2)
/-- `vunpack` (R104): source element part × d + e. -/
def execVunpack (w : LaneWord) (s : State) : Res :=
  laneShort s w (rowsOf w.vd 1) fun g p l =>
    let a := g.read32 w.va l
    let d := w.ty.elems
    let part := bits w.x32.toNat 4 3
    let r := packed w.ty ((List.range d).map (fun e => convertElem w.ty w.srcTy (fmtRnd p.fmt) false (elem w.srcTy a (part * d + e))))
    (resultWrites w.ty w.vd l r.1, r.2)
/-- The quantiser's destination of a type (R105). -/
def qtOf (t : Ty) : QT :=
  match t with
  | .e4m3x4 => .e4m3
  | .e5m2x4 => .e5m2
  | _ => .i8
/-- The status word of `vquant` (R105). -/
def QRes.status (r : QRes) : Nat := r.code + r.tries * 2 ^ 8 + r.ovf.toNat * 2 ^ 11 + r.nonfin.toNat * 2 ^ 12
/-- `vquant` (R105): element j is element j mod p of register va + j / p; the status word is written last. -/
def execVquant (w : LaneWord) (s : State) : Res :=
  laneLong s w (rowsOf w.vd 8 ++ rowsOf w.vc 1) fun g p _ l =>
    let n := w.srcTy.elems
    let f := (tyFloat w.srcTy).getD .f32
    let xs := (List.range 32).map (fun j => f.val (elem w.srcTy (g.vreg (w.va.toNat + j / n) l).toNat (j % n)))
    let r := quantise (qtOf w.ty) (fmtRnd p.fmt) (fmtRetry p.fmt) (fmtQsat p.fmt) xs
    let dst := if RegCode.isV w.vd then (List.range 8).map (fun k =>
      laneWrite (w.vd.toNat + k) l (packElems w.ty ((List.range 4).map (fun e => nth r.y (4 * k + e) 0)))) else []
    (dst ++ resultWrites .i32 w.vc l r.status, r.flags)
/-- The value of a source element of `vdeq` (R106, R88): a codebook entry, a float, or an integer. -/
def deqVal (g : Group) (w : LaneWord) (x : Nat) : Val :=
  match w.srcTy with
  | .q4x8 => FT.bf16.val (bits (g.param (bits w.x32.toNat 4 4 + x / 4)).toNat (16 * (x % 4)) 16)
  | .e4m3x4 => FT.e4m3.val x
  | .e5m2x4 => FT.e5m2.val x
  | _ => Val.ofInt (sextNat x 8)
/-- A value scaled by an E8 code (R89). -/
def scaled (c : Nat) (x : Val) : Val := if c = 0xFF then .nan false else x.scale ((c : Int) - 127)
/-- `vdeq` (R106); vz scales nothing. -/
def execVdeq (w : LaneWord) (s : State) : Res :=
  laneShort s w (rowsOf w.vd (w.srcTy.elems / w.ty.elems)) fun g p l =>
    let a := g.read32 w.va l
    let d := w.ty.elems
    let f := (tyFloat w.ty).getD .f32
    let one := fun (e : Nat) =>
      let x := deqVal g w (elem w.srcTy a e)
      convert f (fmtRnd p.fmt) w.sat (if RegCode.isV w.vb || RegCode.isK w.vb then scaled (g.read32 w.vb l % 256) x else x)
    let rs := (List.range (w.srcTy.elems / d)).map (fun k => packed w.ty ((List.range d).map (fun e => one (k * d + e))))
    let ws := if RegCode.isV w.vd then (List.range rs.length).map (fun k => laneWrite (w.vd.toNat + k) l (nth rs k (0, fl0)).1) else []
    (ws, rs.foldl (fun x r => x ||| r.2) fl0)
/-- `vscale` (R107); vz scales nothing. -/
def execVscale (w : LaneWord) (s : State) : Res :=
  laneShort s w (rowsOf w.vd 1) fun g p l =>
    let f := (tyFloat w.ty).getD .f32
    let a := g.read32 w.va l
    let r := packed w.ty ((List.range w.ty.elems).map (fun e =>
      let x := f.val (elem w.ty a e)
      convert f (fmtRnd p.fmt) w.sat (if RegCode.isV w.vb || RegCode.isK w.vb then scaled (g.read32 w.vb l % 256) x else x)))
    (resultWrites w.ty w.vd l r.1, r.2)

end Sys2Proof.Machine
end

