-- ==== Sys2Proof/Machine/VFp.lean ====
section
/-! DEFINITION. Floating-point lane arithmetic (spec/08 R187-R192). -/

namespace Sys2Proof.Machine

/-- The float format of a word's type. -/
def ftOf (w : LaneWord) : FT := (tyFloat w.ty).getD .f32
/-- The elements of one lane after negation and FTZ (R188), and the operation on them. -/
def floatLane (g : Group) (p : Path) (w : LaneWord) (l : Nat) (f : Nat → Nat → Nat → Nat × Flags) : List LaneWrite × Flags :=
  let t := (ftOf w)
  let z := fmtFtz p.fmt
  let a := g.readTy w.ty w.va l
  let b := g.readB w l
  let c := g.readTy w.ty w.vc l
  let rs := (List.range w.ty.elems).map (fun e =>
    f (ftzIn t z (negElem t w.negA (elem w.ty a e))) (ftzIn t z (negElem t w.negB (elem w.ty b e))) (ftzIn t z (elem w.ty c e)))
  (resultWrites w.ty w.vd l (packElems w.ty (rs.map (·.1))), rs.foldl (fun x r => x ||| r.2) fl0)
/-- A short-latency VFP instruction. -/
def vfp (s : State) (w : LaneWord) (f : Path → Nat → Nat → Nat → Nat × Flags) : Res :=
  laneShort s w (rowsOf w.vd 1) fun g p l => floatLane g p w l (f p)
/-- A long-latency VFP instruction. -/
def vfpLong (s : State) (w : LaneWord) (f : Path → Nat → Nat → Nat → Nat × Flags) : Res :=
  laneLong s w (rowsOf w.vd 1) fun g p _ l => floatLane g p w l (f p)
/-- The result of an exact value rounded once (R188). -/
def roundTo (w : LaneWord) (p : Path) (x : Val × Flags) : Nat × Flags :=
  finish (ftOf w) (fmtRnd p.fmt) w.sat (fmtFtz p.fmt) x

/-- `vfadd` (R188). -/
def execVfadd (w : LaneWord) (s : State) : Res := vfp s w fun p a b _ => roundTo w p (addVal (fmtRnd p.fmt) ((ftOf w).val a) ((ftOf w).val b))
/-- `vfsub` (R188). -/
def execVfsub (w : LaneWord) (s : State) : Res := vfp s w fun p a b _ => roundTo w p (addVal (fmtRnd p.fmt) ((ftOf w).val a) ((ftOf w).val (negElem (ftOf w) true b)))
/-- `vfmul` (R188). -/
def execVfmul (w : LaneWord) (s : State) : Res := vfp s w fun p a b _ => roundTo w p (mulVal ((ftOf w).val a) ((ftOf w).val b))
/-- `vffma` (R188). -/
def execVffma (w : LaneWord) (s : State) : Res := vfp s w fun p a b c => roundTo w p (fmaVal (fmtRnd p.fmt) ((ftOf w).val a) ((ftOf w).val b) ((ftOf w).val c))
/-- `vfmin` (R189). -/
def execVfmin (w : LaneWord) (s : State) : Res := vfp s w fun p a b _ => minMax (ftOf w) (fmtFtz p.fmt) false a b
/-- `vfmax` (R189). -/
def execVfmax (w : LaneWord) (s : State) : Res := vfp s w fun p a b _ => minMax (ftOf w) (fmtFtz p.fmt) true a b
/-- `vfdiv` (R188). -/
def execVfdiv (w : LaneWord) (s : State) : Res := vfpLong s w fun p a b _ => roundTo w p (divVal ((ftOf w).val a) ((ftOf w).val b))
/-- `vrcp` (R190, R191). -/
def execVrcp (w : LaneWord) (s : State) : Res := vfpLong s w fun p a _ _ => rcp (fmtFtz p.fmt) w.sat a
/-- `vrsq` (R190, R191). -/
def execVrsq (w : LaneWord) (s : State) : Res := vfpLong s w fun p a _ _ => rsq (fmtFtz p.fmt) a
/-- `vsqrt` (R188). -/
def execVsqrt (w : LaneWord) (s : State) : Res := vfpLong s w fun p a _ _ => roundTo w p (sqrtVal ((ftOf w).val a))
/-- `vexp2` (R190, R191). -/
def execVexp2 (w : LaneWord) (s : State) : Res := vfpLong s w fun p a _ _ => exp2 (fmtFtz p.fmt) w.sat a
/-- `vlog2` (R190, R191). -/
def execVlog2 (w : LaneWord) (s : State) : Res := vfpLong s w fun p a _ _ => log2f (fmtFtz p.fmt) a
/-- `vsin` (R190, R191). -/
def execVsin (w : LaneWord) (s : State) : Res := vfpLong s w fun p a _ _ => sinCos (fmtFtz p.fmt) false a
/-- `vcos` (R190, R191). -/
def execVcos (w : LaneWord) (s : State) : Res := vfpLong s w fun p a _ _ => sinCos (fmtFtz p.fmt) true a
/-- `vfrnd` (R192). -/
def execVfrnd (w : LaneWord) (s : State) : Res := vfp s w fun p a _ _ => ftzOut (ftOf w) (fmtFtz p.fmt) (roundIntegral (ftOf w) (fmtRnd p.fmt) a)
/-- `vfcls` (R192): it ignores FTZ and raises no flag. -/
def execVfcls (w : LaneWord) (s : State) : Res :=
  laneShort s w (rowsOf w.vd 1) fun g _ l =>
    let a := g.readTy w.ty w.va l
    (resultWrites w.ty w.vd l (packElems w.ty ((List.range w.ty.elems).map (fun e => classBit (ftOf w) (elem w.ty a e)))), fl0)

end Sys2Proof.Machine
end

