-- ==== Sys2Proof/Machine/VInt.lean ====
section
/-! DEFINITION. Integer lane arithmetic (spec/08 R183-R186). -/

namespace Sys2Proof.Machine

/-- An element-by-element lane instruction (R181): f takes the elements of a, b and c. -/
def elementwise (s : State) (w : LaneWord) (f : Group → Path → Nat → Nat → Nat → Nat × Flags) : Res :=
  laneShort s w (rowsOf w.vd w.ty.regs) fun g p l =>
    let a := g.readTy w.ty w.va l
    let b := g.readB w l
    let c := g.readTy w.ty w.vc l
    let rs := (List.range w.ty.elems).map (fun e => f g p (elem w.ty a e) (elem w.ty b e) (elem w.ty c e))
    (resultWrites w.ty w.vd l (packElems w.ty (rs.map (·.1))), rs.foldl (fun x r => x ||| r.2) fl0)
/-- A VINT instruction whose exact result is wrapped or saturated (R184, R185). -/
def vint (s : State) (w : LaneWord) (r : Int → Int → Int → Int) : Res :=
  elementwise s w fun _ _ a b c => intResult w.ty w.sat (r (intVal w.ty a) (intVal w.ty b) (intVal w.ty c))
/-- A VINT instruction on the bits of its elements: it raises no flag (R184, R185). -/
def vbits (s : State) (w : LaneWord) (r : Nat → Nat → Nat) : Res :=
  elementwise s w fun _ _ a b _ => (r a b % 2 ^ tyBits w.ty, fl0)

/-- `vadd` (R184, R185). -/
def execVadd (w : LaneWord) (s : State) : Res := vint s w fun a b _ => a + b
/-- `vsub` (R184, R185). -/
def execVsub (w : LaneWord) (s : State) : Res := vint s w fun a b _ => a - b
/-- `vmul` (R184, R185). -/
def execVmul (w : LaneWord) (s : State) : Res := vint s w fun a b _ => a * b
/-- `vmulh` (R184: bits 2w-1:w of the product). -/
def execVmulh (w : LaneWord) (s : State) : Res := vint s w fun a b _ => (a * b) / (2 ^ tyBits w.ty : Nat)
/-- `vmad` (R184: wrapped or saturated once). -/
def execVmad (w : LaneWord) (s : State) : Res := vint s w fun a b c => a * b + c
/-- `vmin` (R184). -/
def execVmin (w : LaneWord) (s : State) : Res := vint s w fun a b _ => min a b
/-- `vmax` (R184). -/
def execVmax (w : LaneWord) (s : State) : Res := vint s w fun a b _ => max a b
/-- `vabs` (R184, R185). -/
def execVabs (w : LaneWord) (s : State) : Res := vint s w fun a _ _ => (a.natAbs : Int)
/-- `vneg` (R184, R185). -/
def execVneg (w : LaneWord) (s : State) : Res := vint s w fun a _ _ => 0 - a
/-- `vand` (R184). -/
def execVand (w : LaneWord) (s : State) : Res := vbits s w fun a b => a &&& b
/-- `vor` (R184). -/
def execVor (w : LaneWord) (s : State) : Res := vbits s w fun a b => a ||| b
/-- `vxor` (R184). -/
def execVxor (w : LaneWord) (s : State) : Res := vbits s w fun a b => a ^^^ b
/-- `vnot` (R184). -/
def execVnot (w : LaneWord) (s : State) : Res := vbits s w fun a _ => 2 ^ tyBits w.ty - 1 - a
/-- `vshl` (R184). -/
def execVshl (w : LaneWord) (s : State) : Res := vbits s w fun a b => a * 2 ^ (b % tyBits w.ty)
/-- `vshr` (R184). -/
def execVshr (w : LaneWord) (s : State) : Res := vbits s w fun a b => a / 2 ^ (b % tyBits w.ty)
/-- `vsra` (R184): filled with the sign bit whatever the signedness. -/
def execVsra (w : LaneWord) (s : State) : Res :=
  vbits s w fun a b => (sextNat a (tyBits w.ty) / (2 ^ (b % tyBits w.ty) : Nat) % (2 ^ tyBits w.ty : Nat)).toNat
/-- `vbfe` (R184, R186): sign-extended for i32, zero-extended for n32. -/
def execVbfe (w : LaneWord) (s : State) : Res :=
  vbits s w fun a _ =>
    let n := bits w.x32.toNat 8 6
    let x := bits a (bits w.x32.toNat 0 6) n
    if tySigned w.ty then (sextNat x n % (2 ^ 32 : Nat)).toNat else x
/-- `vbfi` (R184, R186). -/
def execVbfi (w : LaneWord) (s : State) : Res :=
  laneShort s w (rowsOf w.vd 1) fun g _ l =>
    let a := g.read32 w.va l
    let b := g.read32 w.vb l
    (resultWrites w.ty w.vd l (setBits a (bits w.x32.toNat 0 6) (bits w.x32.toNat 8 6) b), fl0)
/-- `vpopc` (R184). -/
def execVpopc (w : LaneWord) (s : State) : Res :=
  vbits s w fun a _ => ((List.range (tyBits w.ty)).filter (bit a)).length
/-- `vclz` (R184): the width when a is 0. -/
def execVclz (w : LaneWord) (s : State) : Res :=
  vbits s w fun a _ => if a = 0 then tyBits w.ty else tyBits w.ty - 1 - Nat.log2 a
/-- `vbrev` (R184). -/
def execVbrev (w : LaneWord) (s : State) : Res :=
  vbits s w fun a _ => (List.range (tyBits w.ty)).foldl (fun x i => 2 * x + (bit a i).toNat) 0

end Sys2Proof.Machine
end

