-- ==== Sys2Proof/Machine/VMov.lean ====
section
/-! DEFINITION. Lane moves and cross-lane instructions (spec/08 R195-R201). -/

namespace Sys2Proof.Machine

/-- `vmov` (R196). -/
def execVmov (w : LaneWord) (s : State) : Res :=
  laneShort s w (rowsOf w.vd w.ty.regs) fun g _ l => (resultWrites w.ty w.vd l (g.readTy w.ty w.va l), fl0)
/-- `vmovk` (R196): all 64 bits of the parameter, whatever ty. -/
def execVmovk (w : LaneWord) (s : State) : Res :=
  laneShort s w (rowsOf w.vd 2) fun g _ l => (resultWrites .n64 w.vd l (g.read64 w.va l), fl0)
/-- `vmovi` (R196). -/
def execVmovi (w : LaneWord) (s : State) : Res :=
  laneShort s w (rowsOf w.vd w.ty.regs) fun _ _ l => (resultWrites w.ty w.vd l (immRaw w.ty w.x32), fl0)
/-- `vsel` (R196): the selector is vc[7:5]. -/
def execVsel (w : LaneWord) (s : State) : Res :=
  laneShort s w (rowsOf w.vd w.ty.regs) fun g _ l =>
    (resultWrites w.ty w.vd l (if lane (g.pred (w.vc.toNat / 32)) l then g.readTy w.ty w.va l else g.readB w l), fl0)
/-- The value a source lane supplies to a cross-lane instruction (R197): zero outside the path's mask. -/
def Group.source (g : Group) (p : Path) (w : LaneWord) (j : Nat) : Nat :=
  if lane p.mask j then g.readTy w.ty w.va j else 0
/-- The source lane of `vshfl` (R198). -/
def shuffleLane (mode wid l b : Nat) : Nat :=
  match mode with
  | 0 => b % wid
  | 1 => l ^^^ (b % wid)
  | 2 => if b ≤ l then l - b else l
  | _ => if l + b < wid then l + b else l
/-- `vshfl` (R197, R198): the lane operand is one 32-bit register, or the immediate. -/
def execVshfl (w : LaneWord) (s : State) : Res :=
  laneLong s w (rowsOf w.vd w.ty.regs) fun g p _ l =>
    let b := if w.immB then w.x32.toNat else g.read32 w.vb l
    (resultWrites w.ty w.vd l (g.source p w (shuffleLane (w.vc.toNat % 4) g.lanew l b)), fl0)
/-- `vbcast` (R197, R198). -/
def execVbcast (w : LaneWord) (s : State) : Res :=
  laneLong s w (rowsOf w.vd w.ty.regs) fun g p _ l => (resultWrites w.ty w.vd l (g.source p w (w.x32.toNat % 64)), fl0)
/-- `vballot` (R198): the mask of participants whose predicate is 1. -/
def execVballot (w : LaneWord) (s : State) : Res :=
  laneLong s w (rowsOf w.vd w.ty.regs) fun g _ part l =>
    (resultWrites w.ty w.vd l (part &&& g.pred (w.va.toNat / 32)).toNat, fl0)
/-- The operations of `vred` and `vscan` at a node (R199). -/
def redOp (w : LaneWord) (p : Path) (op : Nat) (a b : Nat) : Nat × Flags :=
  let t := w.ty
  let iv := intVal t
  match op with
  | 0 => ((a + b) % 2 ^ tyBits t, fl0)
  | 1 => (if iv a ≤ iv b then a else b, fl0)
  | 2 => (if iv a ≤ iv b then b else a, fl0)
  | 3 => (a &&& b, fl0)
  | 4 => (a ||| b, fl0)
  | 5 => (a ^^^ b, fl0)
  | 6 =>
    let z := fmtFtz p.fmt
    finish .f32 (fmtRnd p.fmt) false z (addVal (fmtRnd p.fmt) (FT.f32.val (ftzIn .f32 z a)) (FT.f32.val (ftzIn .f32 z b)))
  | 7 => minMax .f32 (fmtFtz p.fmt) false a b
  | _ => minMax .f32 (fmtFtz p.fmt) true a b
/-- The identities of `vscanx` (R199). -/
def redIdentity (t : Ty) (op : Nat) : Nat :=
  match op with
  | 1 => (intMax t % (2 ^ tyBits t : Nat)).toNat
  | 2 => (intMin t % (2 ^ tyBits t : Nat)).toNat
  | 3 => 2 ^ tyBits t - 1
  | 7 => FT.f32.infBits
  | 8 => 2 ^ 31 + FT.f32.infBits
  | _ => 0
/-- One level of the tree of R199 over present and absent nodes. -/
def redLevel (f : Nat → Nat → Nat × Flags) : List (Option (Nat × Flags)) → List (Option (Nat × Flags))
  | some x :: some y :: r =>
    let z := f x.1 y.1
    some (z.1, x.2 ||| y.2 ||| z.2) :: redLevel f r
  | some x :: none :: r => some x :: redLevel f r
  | none :: y :: r => y :: redLevel f r
  | r => r
/-- Tree (R199): the combined value of the lanes of a set, with the flags of its nodes. FTZ applies to the leaves. -/
def redTree (g : Group) (p : Path) (w : LaneWord) (op : Nat) (set_ : W64) : Option (Nat × Flags) :=
  let leaf := fun (i : Nat) =>
    let x := g.readTy w.ty w.va i
    if 6 ≤ op then ftzIn .f32 (fmtFtz p.fmt) x else x
  let n0 := (List.range 64).map (fun i => if lane set_ i then some (leaf i, fl0) else none)
  let f := redOp w p op
  ((redLevel f (redLevel f (redLevel f (redLevel f (redLevel f (redLevel f n0)))))).headD none)
/-- `vred` (R199). -/
def execVred (w : LaneWord) (s : State) : Res :=
  laneLong s w (rowsOf w.vd w.ty.regs) fun g p part l =>
    let t := (redTree g p w (w.vc.toNat % 16) part).getD (0, fl0)
    (resultWrites w.ty w.vd l t.1, t.2)
/-- `vscan` and `vscanx` (R199). -/
def execVscan (w : LaneWord) (s : State) : Res :=
  laneLong s w (rowsOf w.vd w.ty.regs) fun g p part l =>
    let op := w.vc.toNat % 16
    let upTo := if bit w.vc.toNat 4 then l else l + 1
    let t := (redTree g p w op (part &&& lanesMask upTo)).getD (redIdentity w.ty op, fl0)
    (resultWrites w.ty w.vd l t.1, t.2)
/-- The value `vput` pushes (R200). -/
def putValue (g : Group) (w : LaneWord) (l : Nat) : W64 :=
  match w.ty with
  | .i32 => BitVec.ofInt 64 (sextNat (g.read32 w.va l) 32)
  | .i64 | .n64 => BitVec.ofNat 64 (g.read64 w.va l)
  | _ => BitVec.ofNat 64 (g.read32 w.va l)
/-- `vput` (R200): the value of the lowest participant, if any; it stalls its path while the return queue is full. -/
def execVput (w : LaneWord) (s : State) : Res :=
  laneOp s false noRows fun gid g p =>
    match lanesOf (g.active p &&& g.guard w) with
    | [] => .next (s.setGroup gid (g.stepPath s.slot p))
    | l :: _ =>
      if 16 ≤ g.retQ.length then (s.updGroup gid (fun g => { g with vputFull := true })).stallL
      else .next (s.setGroup gid ({ g with retQ := g.retQ ++ [putValue g w l], retAt := g.retAt ++ [g.laneN + 1] }.stepPath s.slot p))
/-- The value of a selector of `vspec` (R201). -/
def specValue (gid : Nat) (g : Group) (p : Path) (sel l : Nat) : Nat :=
  match sel with
  | 0 => l
  | 1 => g.lanew
  | 2 => g.gidx
  | 3 => g.team
  | 4 => (p.mask &&& g.live).toNat % 2 ^ 32
  | 5 => (p.mask &&& g.live).toNat / 2 ^ 32
  | 6 => g.live.toNat % 2 ^ 32
  | 7 => g.live.toNat / 2 ^ 32
  | 8 => ctxOf gid
  | _ => coreOf gid
/-- `vspec` (R201). -/
def execVspec (w : LaneWord) (s : State) : Res :=
  laneShort s w (rowsOf w.vd 1) fun g p l => (resultWrites .i32 w.vd l (specValue s.cur g p (w.x32.toNat % 256) l), fl0)

end Sys2Proof.Machine
end

