-- ==== Sys2Proof/Machine/Dispatch.lean ====
section
/-! DEFINITION. Dispatch: one arm per row of the opcode table, in its order (spec/95). -/

namespace Sys2Proof.Machine

/-- The meaning of each instruction and event. -/
def exec (i : Instr) (s : State) : Host.Outcome State Fault Refusal :=
  match i with
  | .add d a b => Sys2Proof.Machine.execAdd d a b s
  | .sub d a b => Sys2Proof.Machine.execSub d a b s
  | .mul d a b => Sys2Proof.Machine.execMul d a b s
  | .mulh d a b => Sys2Proof.Machine.execMulh d a b s
  | .mulhn d a b => Sys2Proof.Machine.execMulhn d a b s
  | .div d a b => Sys2Proof.Machine.execDiv d a b s
  | .divn d a b => Sys2Proof.Machine.execDivn d a b s
  | .rem d a b => Sys2Proof.Machine.execRem d a b s
  | .remn d a b => Sys2Proof.Machine.execRemn d a b s
  | .and d a b => Sys2Proof.Machine.execAnd d a b s
  | .or d a b => Sys2Proof.Machine.execOr d a b s
  | .xor d a b => Sys2Proof.Machine.execXor d a b s
  | .shl d a b => Sys2Proof.Machine.execShl d a b s
  | .shr d a b => Sys2Proof.Machine.execShr d a b s
  | .sra d a b => Sys2Proof.Machine.execSra d a b s
  | .min d a b => Sys2Proof.Machine.execMin d a b s
  | .max d a b => Sys2Proof.Machine.execMax d a b s
  | .minn d a b => Sys2Proof.Machine.execMinn d a b s
  | .maxn d a b => Sys2Proof.Machine.execMaxn d a b s
  | .slt d a b => Sys2Proof.Machine.execSlt d a b s
  | .sltn d a b => Sys2Proof.Machine.execSltn d a b s
  | .seq d a b => Sys2Proof.Machine.execSeq d a b s
  | .sne d a b => Sys2Proof.Machine.execSne d a b s
  | .clz d a => Sys2Proof.Machine.execClz d a s
  | .ctz d a => Sys2Proof.Machine.execCtz d a s
  | .popc d a => Sys2Proof.Machine.execPopc d a s
  | .sextB d a => Sys2Proof.Machine.execSextB d a s
  | .sextH d a => Sys2Proof.Machine.execSextH d a s
  | .sextW d a => Sys2Proof.Machine.execSextW d a s
  | .zextB d a => Sys2Proof.Machine.execZextB d a s
  | .zextH d a => Sys2Proof.Machine.execZextH d a s
  | .zextW d a => Sys2Proof.Machine.execZextW d a s
  | .addi d a imm => Sys2Proof.Machine.execAddi d a imm s
  | .andi d a imm => Sys2Proof.Machine.execAndi d a imm s
  | .ori d a imm => Sys2Proof.Machine.execOri d a imm s
  | .xori d a imm => Sys2Proof.Machine.execXori d a imm s
  | .shli d a n => Sys2Proof.Machine.execShli d a n s
  | .shri d a n => Sys2Proof.Machine.execShri d a n s
  | .srai d a n => Sys2Proof.Machine.execSrai d a n s
  | .slti d a imm => Sys2Proof.Machine.execSlti d a imm s
  | .lih d imm => Sys2Proof.Machine.execLih d imm s
  | .lhh d a imm => Sys2Proof.Machine.execLhh d a imm s
  | .lhx d a imm => Sys2Proof.Machine.execLhx d a imm s
  | .sld d a sz bp off => Sys2Proof.Machine.execSld d a sz bp off s
  | .sst d a sz off => Sys2Proof.Machine.execSst d a sz off s
  | .beq a b off => Sys2Proof.Machine.execBeq a b off s
  | .bne a b off => Sys2Proof.Machine.execBne a b off s
  | .blt a b off => Sys2Proof.Machine.execBlt a b off s
  | .bge a b off => Sys2Proof.Machine.execBge a b off s
  | .bltn a b off => Sys2Proof.Machine.execBltn a b off s
  | .bgen a b off => Sys2Proof.Machine.execBgen a b off s
  | .jmp off => Sys2Proof.Machine.execJmp off s
  | .call off => Sys2Proof.Machine.execCall off s
  | .jr a => Sys2Proof.Machine.execJr a s
  | .callr a => Sys2Proof.Machine.execCallr a s
  | .ret => Sys2Proof.Machine.execRet s
  | .lgo a b n => Sys2Proof.Machine.execLgo a b n s
  | .lsync => Sys2Proof.Machine.execLsync s
  | .spop d => Sys2Proof.Machine.execSpop d s
  | .lqd d => Sys2Proof.Machine.execLqd d s
  | .spawn d a => Sys2Proof.Machine.execSpawn d a s
  | .exit => Sys2Proof.Machine.execExit s
  | .yield => Sys2Proof.Machine.execYield s
  | .setprio n => Sys2Proof.Machine.execSetprio n s
  | .crit n => Sys2Proof.Machine.execCrit n s
  | .srd d code => Sys2Proof.Machine.execSrd d code s
  | .swr a code => Sys2Proof.Machine.execSwr a code s
  | .fmt a => Sys2Proof.Machine.execFmt a s
  | .stime d => Sys2Proof.Machine.execStime d s
  | .mark a n => Sys2Proof.Machine.execMark a n s
  | .talloc h a => Sys2Proof.Machine.execTalloc h a s
  | .tgive h a => Sys2Proof.Machine.execTgive h a s
  | .tfree h => Sys2Proof.Machine.execTfree h s
  | .tld h a b => Sys2Proof.Machine.execTld h a b s
  | .tst h a b => Sys2Proof.Machine.execTst h a b s
  | .tzero h => Sys2Proof.Machine.execTzero h s
  | .tinfo d h => Sys2Proof.Machine.execTinfo d h s
  | .mxacq => Sys2Proof.Machine.execMxacq s
  | .mxrel => Sys2Proof.Machine.execMxrel s
  | .mxrdy tag q vn => Sys2Proof.Machine.execMxrdy tag q vn s
  | .mxa hd ha tag => Sys2Proof.Machine.execMxa hd ha tag s
  | .mxs hd ha tag => Sys2Proof.Machine.execMxs hd ha tag s
  | .mxdr hd a b n => Sys2Proof.Machine.execMxdr hd a b n s
  | .cbld a n => Sys2Proof.Machine.execCbld a n s
  | .cpy bar a b c => Sys2Proof.Machine.execCpy bar a b c s
  | .cpyt bar a b c => Sys2Proof.Machine.execCpyt bar a b c s
  | .cpys bar a b c => Sys2Proof.Machine.execCpys bar a b c s
  | .bclose d n => Sys2Proof.Machine.execBclose d n s
  | .binit a b f => Sys2Proof.Machine.execBinit a b f s
  | .barr d a => Sys2Proof.Machine.execBarr d a s
  | .barrd d a => Sys2Proof.Machine.execBarrd d a s
  | .bexp a b => Sys2Proof.Machine.execBexp a b s
  | .wait a b kind => Sys2Proof.Machine.execWait a b kind s
  | .btest d a b kind => Sys2Proof.Machine.execBtest d a b kind s
  | .samoAdd d a b o sc w => Sys2Proof.Machine.execSamoAdd d a b o sc w s
  | .samoAnd d a b o sc w => Sys2Proof.Machine.execSamoAnd d a b o sc w s
  | .samoOr d a b o sc w => Sys2Proof.Machine.execSamoOr d a b o sc w s
  | .samoXor d a b o sc w => Sys2Proof.Machine.execSamoXor d a b o sc w s
  | .samoMin d a b o sc w => Sys2Proof.Machine.execSamoMin d a b o sc w s
  | .samoMax d a b o sc w => Sys2Proof.Machine.execSamoMax d a b o sc w s
  | .samoMinn d a b o sc w => Sys2Proof.Machine.execSamoMinn d a b o sc w s
  | .samoMaxn d a b o sc w => Sys2Proof.Machine.execSamoMaxn d a b o sc w s
  | .samoSwap d a b o sc w => Sys2Proof.Machine.execSamoSwap d a b o sc w s
  | .scas d a b o sc w => Sys2Proof.Machine.execScas d a b o sc w s
  | .samoFadd d a b o sc => Sys2Proof.Machine.execSamoFadd d a b o sc s
  | .sldo d a o sc w => Sys2Proof.Machine.execSldo d a o sc w s
  | .ssto a b o sc w => Sys2Proof.Machine.execSsto a b o sc w s
  | .lock a sc w => Sys2Proof.Machine.execLock a sc w s
  | .unlock a sc w => Sys2Proof.Machine.execUnlock a sc w s
  | .sredAdd a b o sc w => Sys2Proof.Machine.execSredAdd a b o sc w s
  | .sredAnd a b o sc w => Sys2Proof.Machine.execSredAnd a b o sc w s
  | .sredOr a b o sc w => Sys2Proof.Machine.execSredOr a b o sc w s
  | .sredXor a b o sc w => Sys2Proof.Machine.execSredXor a b o sc w s
  | .sredMin a b o sc w => Sys2Proof.Machine.execSredMin a b o sc w s
  | .sredMax a b o sc w => Sys2Proof.Machine.execSredMax a b o sc w s
  | .sredMinn a b o sc w => Sys2Proof.Machine.execSredMinn a b o sc w s
  | .sredMaxn a b o sc w => Sys2Proof.Machine.execSredMaxn a b o sc w s
  | .sredFadd a b o sc => Sys2Proof.Machine.execSredFadd a b o sc s
  | .fence o sc => Sys2Proof.Machine.execFence o sc s
  | .flush a b => Sys2Proof.Machine.execFlush a b s
  | .inv a b => Sys2Proof.Machine.execInv a b s
  | .vstat d n => Sys2Proof.Machine.execVstat d n s
  | .dlaunch d a b => Sys2Proof.Machine.execDlaunch d a b s
  | .trap n => Sys2Proof.Machine.execTrap n s
  | .brk n => Sys2Proof.Machine.execBrk n s
  | .curb d n => Sys2Proof.Machine.execCurb d n s
  | .vadd w => Sys2Proof.Machine.execVadd w s
  | .vsub w => Sys2Proof.Machine.execVsub w s
  | .vmul w => Sys2Proof.Machine.execVmul w s
  | .vmulh w => Sys2Proof.Machine.execVmulh w s
  | .vmad w => Sys2Proof.Machine.execVmad w s
  | .vmin w => Sys2Proof.Machine.execVmin w s
  | .vmax w => Sys2Proof.Machine.execVmax w s
  | .vabs w => Sys2Proof.Machine.execVabs w s
  | .vneg w => Sys2Proof.Machine.execVneg w s
  | .vand w => Sys2Proof.Machine.execVand w s
  | .vor w => Sys2Proof.Machine.execVor w s
  | .vxor w => Sys2Proof.Machine.execVxor w s
  | .vnot w => Sys2Proof.Machine.execVnot w s
  | .vshl w => Sys2Proof.Machine.execVshl w s
  | .vshr w => Sys2Proof.Machine.execVshr w s
  | .vsra w => Sys2Proof.Machine.execVsra w s
  | .vbfe w => Sys2Proof.Machine.execVbfe w s
  | .vbfi w => Sys2Proof.Machine.execVbfi w s
  | .vpopc w => Sys2Proof.Machine.execVpopc w s
  | .vclz w => Sys2Proof.Machine.execVclz w s
  | .vbrev w => Sys2Proof.Machine.execVbrev w s
  | .vfadd w => Sys2Proof.Machine.execVfadd w s
  | .vfsub w => Sys2Proof.Machine.execVfsub w s
  | .vfmul w => Sys2Proof.Machine.execVfmul w s
  | .vffma w => Sys2Proof.Machine.execVffma w s
  | .vfmin w => Sys2Proof.Machine.execVfmin w s
  | .vfmax w => Sys2Proof.Machine.execVfmax w s
  | .vfdiv w => Sys2Proof.Machine.execVfdiv w s
  | .vrcp w => Sys2Proof.Machine.execVrcp w s
  | .vrsq w => Sys2Proof.Machine.execVrsq w s
  | .vsqrt w => Sys2Proof.Machine.execVsqrt w s
  | .vexp2 w => Sys2Proof.Machine.execVexp2 w s
  | .vlog2 w => Sys2Proof.Machine.execVlog2 w s
  | .vsin w => Sys2Proof.Machine.execVsin w s
  | .vcos w => Sys2Proof.Machine.execVcos w s
  | .vfrnd w => Sys2Proof.Machine.execVfrnd w s
  | .vfcls w => Sys2Proof.Machine.execVfcls w s
  | .vcmp cc w => Sys2Proof.Machine.execVcmp cc w s
  | .vfcmp cc w => Sys2Proof.Machine.execVfcmp cc w s
  | .pand w => Sys2Proof.Machine.execPand w s
  | .por w => Sys2Proof.Machine.execPor w s
  | .pxor w => Sys2Proof.Machine.execPxor w s
  | .pandn w => Sys2Proof.Machine.execPandn w s
  | .vcvt w => Sys2Proof.Machine.execVcvt w s
  | .vquant w => Sys2Proof.Machine.execVquant w s
  | .vdeq w => Sys2Proof.Machine.execVdeq w s
  | .vpack w => Sys2Proof.Machine.execVpack w s
  | .vunpack w => Sys2Proof.Machine.execVunpack w s
  | .vscale w => Sys2Proof.Machine.execVscale w s
  | .vmov w => Sys2Proof.Machine.execVmov w s
  | .vmovk w => Sys2Proof.Machine.execVmovk w s
  | .vmovi w => Sys2Proof.Machine.execVmovi w s
  | .vsel w => Sys2Proof.Machine.execVsel w s
  | .vshfl w => Sys2Proof.Machine.execVshfl w s
  | .vbcast w => Sys2Proof.Machine.execVbcast w s
  | .vballot w => Sys2Proof.Machine.execVballot w s
  | .vred w => Sys2Proof.Machine.execVred w s
  | .vscan w => Sys2Proof.Machine.execVscan w s
  | .vput w => Sys2Proof.Machine.execVput w s
  | .vspec w => Sys2Proof.Machine.execVspec w s
  | .vld w => Sys2Proof.Machine.execVld w s
  | .vst w => Sys2Proof.Machine.execVst w s
  | .vlds w => Sys2Proof.Machine.execVlds w s
  | .vsts w => Sys2Proof.Machine.execVsts w s
  | .vamo w => Sys2Proof.Machine.execVamo w s
  | .vrdm w => Sys2Proof.Machine.execVrdm w s
  | .vtget w => Sys2Proof.Machine.execVtget w s
  | .vtset w => Sys2Proof.Machine.execVtset w s
  | .lbra w => Sys2Proof.Machine.execLbra w s
  | .mjoin w => Sys2Proof.Machine.execMjoin w s
  | .join w => Sys2Proof.Machine.execJoin w s
  | .lend w => Sys2Proof.Machine.execLend w s
  | .lkill w => Sys2Proof.Machine.execLkill w s
  | .lfmt w => Sys2Proof.Machine.execLfmt w s
  | .lnop w => Sys2Proof.Machine.execLnop w s
  | .lbrk w => Sys2Proof.Machine.execLbrk w s
  | .teamAdmission launch place => Sys2Proof.Machine.execTeamAdmission launch place s
  | .blockStart gid => Sys2Proof.Machine.execBlockStart gid s
  | .longLatencyComplete gid k => Sys2Proof.Machine.execLongLatencyComplete gid k s
  | .accessPerformedAtPort gid k => Sys2Proof.Machine.execAccessPerformedAtPort gid k s
  | .waitProbe gid => Sys2Proof.Machine.execWaitProbe gid s
  | .streamAgePromotion gid lane => Sys2Proof.Machine.execStreamAgePromotion gid lane s
  | .crittimeout p => Sys2Proof.Machine.execCrittimeout p s
  | .teamEnd key => Sys2Proof.Machine.execTeamEnd key s
  | .launchEnd launch => Sys2Proof.Machine.execLaunchEnd launch s
  | .copyBytesLanded core id n => Sys2Proof.Machine.execCopyBytesLanded core id n s
  | .copyCommandComplete core id => Sys2Proof.Machine.execCopyCommandComplete core id s
  | .sealedMessage core id => Sys2Proof.Machine.execSealedMessage core id s
  | .curbGrant die => Sys2Proof.Machine.execCurbGrant die s
  | .matrixOperation tandem => Sys2Proof.Machine.execMatrixOperation tandem s
  | .matrixCommandComplete tandem => Sys2Proof.Machine.execMatrixCommandComplete tandem s
  | .complexHandover tandem => Sys2Proof.Machine.execComplexHandover tandem s
  | .tileAccessPerformed key id => Sys2Proof.Machine.execTileAccessPerformed key id s
  | .sideLogReplay core k => Sys2Proof.Machine.execSideLogReplay core k s
  | .launchAccept q => Sys2Proof.Machine.execLaunchAccept q s
  | .launchStart launch => Sys2Proof.Machine.execLaunchStart launch s
  | .predictionStart q => Sys2Proof.Machine.execPredictionStart q s
  | .preemptSave p => Sys2Proof.Machine.execPreemptSave p s
  | .readmission p place => Sys2Proof.Machine.execReadmission p place s
  | .shootAcknowledge p => Sys2Proof.Machine.execShootAcknowledge p s
  | .moveComplete p => Sys2Proof.Machine.execMoveComplete p s
  | .samplerTag core quarter lane => Sys2Proof.Machine.execSamplerTag core quarter lane s
  | .sampleRecord core quarter => Sys2Proof.Machine.execSampleRecord core quarter s
  | .stretchEnd die => Sys2Proof.Machine.execStretchEnd die s
  | .halvingEnd die => Sys2Proof.Machine.execHalvingEnd die s
  | .bootLinkTimeout => Sys2Proof.Machine.execBootLinkTimeout s
  | .bootRetry => Sys2Proof.Machine.execBootRetry s
  | .collectiveContribution entry c => Sys2Proof.Machine.execCollectiveContribution entry c s
  | .collectiveResult entry bad data => Sys2Proof.Machine.execCollectiveResult entry bad data s
  | .queueEnable by_ q => Sys2Proof.Machine.execQueueEnable by_ q s
  | .doorbell by_ q val => Sys2Proof.Machine.execDoorbell by_ q val s
  | .registerWrite by_ r word val => Sys2Proof.Machine.execRegisterWrite by_ r word val s
  | .hostMemoryWrite by_ off size val => Sys2Proof.Machine.execHostMemoryWrite by_ off size val s
  | .hostMemoryRead by_ off size => Sys2Proof.Machine.execHostMemoryRead by_ off size s
  | .hostWindowWrite by_ off size val => Sys2Proof.Machine.execHostWindowWrite by_ off size val s
  | .hostWindowRead by_ off size => Sys2Proof.Machine.execHostWindowRead by_ off size s
  | .respond by_ p cmd => Sys2Proof.Machine.execRespond by_ p cmd s
  | .sverdResume core ctx => Sys2Proof.Machine.execSverdResume core ctx s
  | .hostHalt by_ p cmd => Sys2Proof.Machine.execHostHalt by_ p cmd s
  | .queueDisable by_ q => Sys2Proof.Machine.execQueueDisable by_ q s
  | .cancel by_ q val => Sys2Proof.Machine.execCancel by_ q val s
  | .gaitRecordWrite by_ q rec_ => Sys2Proof.Machine.execGaitRecordWrite by_ q rec_ s
  | .resize by_ p cmd => Sys2Proof.Machine.execResize by_ p cmd s
  | .shoot by_ p cmd => Sys2Proof.Machine.execShoot by_ p cmd s
  | .migrate by_ p cmd => Sys2Proof.Machine.execMigrate by_ p cmd s
  | .flip by_ p cmd => Sys2Proof.Machine.execFlip by_ p cmd s
  | .atsTranslationCompletion core asid va pte => Sys2Proof.Machine.execAtsTranslationCompletion core asid va pte s
  | .prgResponse p tag success => Sys2Proof.Machine.execPrgResponse p tag success s
  | .atsInvalidate p asid va npages => Sys2Proof.Machine.execAtsInvalidate p asid va npages s
  | .sverdForward core ctx => Sys2Proof.Machine.execSverdForward core ctx s
  | .sverdEnd core ctx => Sys2Proof.Machine.execSverdEnd core ctx s
  | .stqtailWrite core val => Sys2Proof.Machine.execStqtailWrite core val s
  | .ttailWrite by_ p val => Sys2Proof.Machine.execTtailWrite by_ p val s
  | .hostResume by_ p cmd => Sys2Proof.Machine.execHostResume by_ p cmd s
  | .hostEnd by_ p cmd => Sys2Proof.Machine.execHostEnd by_ p cmd s
  | .ctxsave by_ p cmd => Sys2Proof.Machine.execCtxsave by_ p cmd s
  | .ctxload by_ p cmd => Sys2Proof.Machine.execCtxload by_ p cmd s
  | .watchpointWrite by_ core k val => Sys2Proof.Machine.execWatchpointWrite by_ core k val s
  | .traceControlWrite by_ p val => Sys2Proof.Machine.execTraceControlWrite by_ p val s
  | .monitorClear by_ die m => Sys2Proof.Machine.execMonitorClear by_ die m s
  | .hflush by_ p cmd => Sys2Proof.Machine.execHflush by_ p cmd s
  | .hinv by_ p cmd => Sys2Proof.Machine.execHinv by_ p cmd s
  | .atomicop by_ op off size val cmp => Sys2Proof.Machine.execAtomicop by_ op off size val cmp s
  | .set by_ p k => Sys2Proof.Machine.execSet by_ p k s
  | .privateRangeWrite by_ p k val => Sys2Proof.Machine.execPrivateRangeWrite by_ p k val s
  | .ideKm stream key => Sys2Proof.Machine.execIdeKm stream key s
  | .ideIntegrityFailure stream => Sys2Proof.Machine.execIdeIntegrityFailure stream s
  | .lockInterfaceRequest p => Sys2Proof.Machine.execLockInterfaceRequest p s
  | .stopInterface p => Sys2Proof.Machine.execStopInterface p s
  | .functionLevelReset p => Sys2Proof.Machine.execFunctionLevelReset p s
  | .challenge nonce => Sys2Proof.Machine.execChallenge nonce s
  | .measurements nonce => Sys2Proof.Machine.execMeasurements nonce s
  | .smioFlit port f => Sys2Proof.Machine.execSmioFlit port f s
  | .nak port seq => Sys2Proof.Machine.execNak port seq s
  | .smioRemoteAccess op pa size val cmp => Sys2Proof.Machine.execSmioRemoteAccess op pa size val cmp s
  | .supervisorWindowAccess core off size write val => Sys2Proof.Machine.execSupervisorWindowAccess core off size write val s
  | .reset cause => Sys2Proof.Machine.execReset cause s
  | .dhcpv6Reply urls => Sys2Proof.Machine.execDhcpv6Reply urls s
  | .helperDataFetched data => Sys2Proof.Machine.execHelperDataFetched data s
  | .imageFetched data => Sys2Proof.Machine.execImageFetched data s
  | .droopAlarm die => Sys2Proof.Machine.execDroopAlarm die s
  | .powerAverage pkg dies parts => Sys2Proof.Machine.execPowerAverage pkg dies parts s
  | .supervisorCoreAccess core op pa size val => Sys2Proof.Machine.execSupervisorCoreAccess core op pa size val s
  | .llcEviction line => Sys2Proof.Machine.execLlcEviction line s
  | .uncorrectableError line => Sys2Proof.Machine.execUncorrectableError line s
  | .ultraEthernetLinkUp port => Sys2Proof.Machine.execUltraEthernetLinkUp port s
  | .bootStepFailure => Sys2Proof.Machine.execBootStepFailure s
  | .smioPortRetrain port => Sys2Proof.Machine.execSmioPortRetrain port s
  | .startInterfaceRequest p => Sys2Proof.Machine.execStartInterfaceRequest p s
  | .tdispError p => Sys2Proof.Machine.execTdispError p s

end Sys2Proof.Machine
end

