-- ==== Sys2Proof/Machine/Rv.lean ====
section
/-! DEFINITION. The RV64IMAC words of a supervisor core's hart (spec/01 R14): the fields of a 32-bit word, the expansion of a 16-bit one,
and the values that its arithmetic computes. The encodings and the values are those of the RISC-V architecture, which the spec names and does
not repeat (PRESUMED, log 18). -/

namespace Sys2Proof.Machine

/-- A number whose bits are taken from places of a word: for each (place in the word, length, place in the number). -/
def gather (w : Nat) (fs : List (Nat × Nat × Nat)) : Nat := fs.foldl (fun n f => n + bits w f.1 f.2.1 * 2 ^ f.2.2) 0
/-- The low n bits of a number read as two's complement, as a 64-bit word. -/
def rvSext (x n : Nat) : W64 := BitVec.ofInt 64 (sextNat x n)

/-! Fields of a 32-bit word. -/

/-- Destination register. -/
def rvRd (w : Nat) : Nat := bits w 7 5
/-- First source register. -/
def rvRs1 (w : Nat) : Nat := bits w 15 5
/-- Second source register. -/
def rvRs2 (w : Nat) : Nat := bits w 20 5
/-- funct3. -/
def rvF3 (w : Nat) : Nat := bits w 12 3
/-- Immediate of an I word. -/
def rvImmI (w : Nat) : W64 := rvSext (bits w 20 12) 12
/-- Immediate of an S word. -/
def rvImmS (w : Nat) : W64 := rvSext (gather w [(7, 5, 0), (25, 7, 5)]) 12
/-- Immediate of a B word. -/
def rvImmB (w : Nat) : W64 := rvSext (gather w [(8, 4, 1), (25, 6, 5), (7, 1, 11), (31, 1, 12)]) 13
/-- Immediate of a U word. -/
def rvImmU (w : Nat) : W64 := rvSext (bits w 12 20 * 4096) 32
/-- Immediate of a J word. -/
def rvImmJ (w : Nat) : W64 := rvSext (gather w [(21, 10, 1), (20, 1, 11), (12, 8, 12), (31, 1, 20)]) 21

/-! 32-bit words put together, for the expansion of 16-bit ones. -/

/-- An R word. -/
def rvR (op f3 f7 rd rs1 rs2 : Nat) : Nat := op + rd * 2 ^ 7 + f3 * 2 ^ 12 + rs1 * 2 ^ 15 + rs2 * 2 ^ 20 + f7 * 2 ^ 25
/-- An I word. -/
def rvI (op f3 rd rs1 imm : Nat) : Nat := op + rd * 2 ^ 7 + f3 * 2 ^ 12 + rs1 * 2 ^ 15 + imm % 4096 * 2 ^ 20
/-- An S word. -/
def rvS (f3 rs1 rs2 imm : Nat) : Nat := 0x23 + bits imm 0 5 * 2 ^ 7 + f3 * 2 ^ 12 + rs1 * 2 ^ 15 + rs2 * 2 ^ 20 + bits imm 5 7 * 2 ^ 25
/-- A B word. -/
def rvB (f3 rs1 rs2 imm : Nat) : Nat :=
  0x63 + bits imm 11 1 * 2 ^ 7 + bits imm 1 4 * 2 ^ 8 + f3 * 2 ^ 12 + rs1 * 2 ^ 15 + rs2 * 2 ^ 20 + bits imm 5 6 * 2 ^ 25 + bits imm 12 1 * 2 ^ 31
/-- A J word. -/
def rvJ (rd imm : Nat) : Nat :=
  0x6F + rd * 2 ^ 7 + bits imm 12 8 * 2 ^ 12 + bits imm 11 1 * 2 ^ 20 + bits imm 1 10 * 2 ^ 21 + bits imm 20 1 * 2 ^ 31
/-- The low n bits of a number extended by their sign to m bits. -/
def rvWiden (x n m : Nat) : Nat := if bit x (n - 1) then x % 2 ^ n + 2 ^ m - 2 ^ n else x % 2 ^ n

/-- Quadrant 0 of the 16-bit words. -/
def rvc0 (c : Nat) : Option Nat :=
  let rd := 8 + bits c 2 3
  let rs := 8 + bits c 7 3
  let w4 := gather c [(10, 3, 3), (6, 1, 2), (5, 1, 6)]
  let w8 := gather c [(10, 3, 3), (5, 2, 6)]
  match bits c 13 3 with
  | 0 =>
    let n := gather c [(11, 2, 4), (7, 4, 6), (6, 1, 2), (5, 1, 3)]
    if n = 0 then none else some (rvI 0x13 0 rd 2 n)
  | 2 => some (rvI 0x03 2 rd rs w4)
  | 3 => some (rvI 0x03 3 rd rs w8)
  | 6 => some (rvS 2 rs rd w4)
  | 7 => some (rvS 3 rs rd w8)
  | _ => none
/-- Quadrant 1 of the 16-bit words. -/
def rvc1 (c : Nat) : Option Nat :=
  let rd := bits c 7 5
  let r := 8 + bits c 7 3
  let r2 := 8 + bits c 2 3
  let n6 := gather c [(2, 5, 0), (12, 1, 5)]
  let i12 := rvWiden n6 6 12
  match bits c 13 3 with
  | 0 => some (rvI 0x13 0 rd rd i12)
  | 1 => if rd = 0 then none else some (rvI 0x1B 0 rd rd i12)
  | 2 => some (rvI 0x13 0 rd 0 i12)
  | 3 =>
    if rd = 2 then
      let n := gather c [(6, 1, 4), (2, 1, 5), (5, 1, 6), (3, 2, 7), (12, 1, 9)]
      if n = 0 then none else some (rvI 0x13 0 2 2 (rvWiden n 10 12))
    else if n6 = 0 then none else some (0x37 + rd * 2 ^ 7 + rvWiden n6 6 20 * 2 ^ 12)
  | 4 => match bits c 10 2 with
    | 0 => some (rvI 0x13 5 r r n6)
    | 1 => some (rvI 0x13 5 r r (n6 + 0x400))
    | 2 => some (rvI 0x13 7 r r i12)
    | _ => match bits c 12 1 * 4 + bits c 5 2 with
      | 0 => some (rvR 0x33 0 0x20 r r r2)
      | 1 => some (rvR 0x33 4 0 r r r2)
      | 2 => some (rvR 0x33 6 0 r r r2)
      | 3 => some (rvR 0x33 7 0 r r r2)
      | 4 => some (rvR 0x3B 0 0x20 r r r2)
      | 5 => some (rvR 0x3B 0 0 r r r2)
      | _ => none
  | 5 => some (rvJ 0 (rvWiden (gather c [(3, 3, 1), (11, 1, 4), (2, 1, 5), (7, 1, 6), (6, 1, 7), (9, 2, 8), (8, 1, 10), (12, 1, 11)]) 12 21))
  | k =>
    let n := rvWiden (gather c [(3, 2, 1), (10, 2, 3), (2, 1, 5), (5, 2, 6), (12, 1, 8)]) 9 13
    some (rvB (if k = 6 then 0 else 1) r 0 n)
/-- Quadrant 2 of the 16-bit words. -/
def rvc2 (c : Nat) : Option Nat :=
  let rd := bits c 7 5
  let rs2 := bits c 2 5
  match bits c 13 3 with
  | 0 => some (rvI 0x13 1 rd rd (gather c [(2, 5, 0), (12, 1, 5)]))
  | 2 => if rd = 0 then none else some (rvI 0x03 2 rd 2 (gather c [(4, 3, 2), (12, 1, 5), (2, 2, 6)]))
  | 3 => if rd = 0 then none else some (rvI 0x03 3 rd 2 (gather c [(5, 2, 3), (12, 1, 5), (2, 3, 6)]))
  | 4 =>
    if bits c 12 1 = 0 then
      if rs2 ≠ 0 then some (rvR 0x33 0 0 rd 0 rs2) else if rd = 0 then none else some (rvI 0x67 0 0 rd 0)
    else if rs2 ≠ 0 then some (rvR 0x33 0 0 rd rd rs2)
    else if rd = 0 then some 0x00100073
    else some (rvI 0x67 0 1 rd 0)
  | 6 => some (rvS 2 2 rs2 (gather c [(9, 4, 2), (7, 2, 6)]))
  | 7 => some (rvS 3 2 rs2 (gather c [(10, 3, 3), (7, 3, 6)]))
  | _ => none
/-- The 32-bit word that a 16-bit word stands for; none when it is illegal. -/
def rvExpand (c : Nat) : Option Nat :=
  match c % 4 with
  | 0 => rvc0 c
  | 1 => rvc1 c
  | 2 => rvc2 c
  | _ => none

/-! Values. -/

/-- The low 32 bits extended by their sign. -/
def rvWord (x : W64) : W64 := (x.setWidth 32).signExtend 64
/-- A comparison of BRANCH words; none for the unused codes. -/
def rvBranch (f3 : Nat) (a b : W64) : Option Bool :=
  match f3 with
  | 0 => some (a == b)
  | 1 => some (a != b)
  | 4 => some (a.slt b)
  | 5 => some (!a.slt b)
  | 6 => some (decide (a.toNat < b.toNat))
  | 7 => some (!decide (a.toNat < b.toNat))
  | _ => none
/-- The base operations on 64 bits by funct3; alt: subtraction and arithmetic shift. -/
def rvAlu (f3 : Nat) (alt : Bool) (a b : W64) : W64 :=
  match f3 with
  | 0 => if alt then a - b else a + b
  | 1 => a <<< (b.toNat % 64)
  | 2 => if a.slt b then 1 else 0
  | 3 => if a.toNat < b.toNat then 1 else 0
  | 4 => a ^^^ b
  | 5 => if alt then a.sshiftRight (b.toNat % 64) else a >>> (b.toNat % 64)
  | 6 => a ||| b
  | _ => a &&& b
/-- The base operations on 32 bits; none for the unused codes. -/
def rvAluW (f3 : Nat) (alt : Bool) (a b : W64) : Option W64 :=
  let x := a.setWidth 32
  let n := b.toNat % 32
  match f3 with
  | 0 => some (rvWord (if alt then a - b else a + b))
  | 1 => some ((x <<< n).signExtend 64)
  | 5 => some ((if alt then x.sshiftRight n else x >>> n).signExtend 64)
  | _ => none
/-- The operations of M on w bits, from the operands' signed and unsigned values. -/
def rvMulDiv (f3 w : Nat) (a b : Nat) : Int :=
  let sa := sextNat a w
  let sb := sextNat b w
  match f3 with
  | 0 => (a : Int) * b
  | 1 => sa * sb / 2 ^ w
  | 2 => sa * b / 2 ^ w
  | 3 => (a : Int) * b / 2 ^ w
  | 4 => if b = 0 then -1 else Int.tdiv sa sb
  | 5 => if b = 0 then -1 else ((a / b : Nat) : Int)
  | 6 => if b = 0 then sa else Int.tmod sa sb
  | _ => if b = 0 then sa else ((a % b : Nat) : Int)

end Sys2Proof.Machine
end

