-- ==== Sys2Proof/Machine/Hart.lean ====
section
/-! DEFINITION. The hart of a supervisor core (spec/01 R14, spec/22 R406): RV64IMAC with machine, supervisor and user mode, Sv57, its CSRs and
its traps. What the spec names and does not repeat is that of the RISC-V architecture (PRESUMED, log 18). -/

namespace Sys2Proof.Machine

/-! Registers. -/

/-- A register of a hart; x0 reads zero. -/
def Hart.get (h : Hart) (n : Nat) : W64 := if n = 0 then 0 else Tbl.get h.x n 0
/-- A register written; a write to x0 is discarded. -/
def Hart.put (h : Hart) (n : Nat) (v : W64) : Hart := if n = 0 then h else { h with x := Tbl.set h.x n v 0 }
/-- A CSR that is kept as it was written. -/
def Hart.csrAt (h : Hart) (n : Nat) : W64 := Tbl.get h.csr n 0
/-- Such a CSR written. -/
def Hart.csrPut (h : Hart) (n : Nat) (v : W64) : Hart := { h with csr := Tbl.set h.csr n v 0 }
/-- A bit of mstatus. -/
def Hart.status (h : Hart) (i : Nat) : Bool := (h.csrAt 0x300).getLsbD i
/-- Bits of mstatus written. -/
def Hart.setStatus (h : Hart) (lo len v : Nat) : Hart := h.csrPut 0x300 (BitVec.ofNat 64 (setBits (h.csrAt 0x300).toNat lo len v))
/-- MPP. -/
def Hart.mpp (h : Hart) : Nat := bits (h.csrAt 0x300).toNat 11 2
/-- The hart of a core changed. -/
def State.updHart (s : State) (core : Nat) (f : Hart → Hart) : State := s.updCore core (fun c => { c with hart := f c.hart })

/-! CSRs. -/

/-- mip: MEIP is set while STQHEAD and STQTAIL differ (R406); the supervisor bits are software's. -/
def State.mip (s : State) (core : Nat) : W64 :=
  let c := s.core core
  (c.hart.csrAt 0x344 &&& 0x222) ||| (if c.stqHead = c.stqTail then 0 else 0x800)
/-- PSAVE: SAVEBASE of the partition that owns the core, or 0 (R406). -/
def State.psave (s : State) (core : Nat) : W64 := (s.partOfCore core).elim 0 (fun p => BitVec.ofNat 64 (fld (s.part p).trap 0 64))
/-- The core's group watchpoint behind a CSR, and its word: the address or the control (R427). -/
def gwCsr (n : Nat) : Option (Nat × Nat) := if 0x7D0 ≤ n ∧ n < 0x7E0 then some ((n - 0x7D0) / 2, (n - 0x7D0) % 2) else none
/-- CSRs that are kept as they were written. -/
def csrKept (n : Nat) : Bool :=
  [0x302, 0x303, 0x304, 0x305, 0x306, 0x340, 0x341, 0x342, 0x343, 0x105, 0x106, 0x140, 0x141, 0x142, 0x143, 0x180].contains n
/-- A CSR read; none when there is none of the number. -/
def State.csrRead (s : State) (core n : Nat) : Option W64 :=
  let c := s.core core
  let h := c.hart
  if csrKept n then some (h.csrAt n)
  else match n with
    | 0x300 => some (h.csrAt 0x300 ||| 0xA00000000)
    | 0x301 => some 0x8000000000141105
    | 0x344 => some (s.mip core)
    | 0x100 => some ((h.csrAt 0x300 &&& 0xC0122) ||| 0x200000000)
    | 0x104 => some (h.csrAt 0x304 &&& h.csrAt 0x303)
    | 0x144 => some (s.mip core &&& h.csrAt 0x303)
    | 0xF11 => some 0
    | 0xF12 => some 0
    | 0xF13 => some 0
    | 0xF14 => some (BitVec.ofNat 64 core)
    | 0xF15 => some 0
    | 0x7C0 => some c.stqBase
    | 0x7C1 => some (c.stqHead.setWidth 64)
    | 0x7C2 => some (c.stqTail.setWidth 64)
    | 0x7C3 => some 0
    | 0x7C4 => some (c.svstat.setWidth 64)
    | 0x7C5 => some (s.psave core)
    | _ => (gwCsr n).map (fun w => (nth c.gw w.1 {}).word w.2)
/-- The bits of a kept CSR that a write may set. -/
def csrMask (n : Nat) : W64 :=
  match n with
  | 0x302 => 0xB3FF
  | 0x303 => 0x222
  | 0x304 => 0xAAA
  | 0x305 => ~~~ 2
  | 0x105 => ~~~ 2
  | 0x341 => ~~~ 1
  | 0x141 => ~~~ 1
  | _ => ~~~ 0
/-- A verdict of SVERD (R406, R407). -/
def State.sverd (s : State) (core : Nat) (v : W64) : State :=
  let run := fun (r : Res) => match r with
    | .next t => t
    | _ => s
  match fld v 8 2 with
  | 1 => run (execSverdResume core (v.setWidth 7) s)
  | 2 => run (execSverdForward core (v.setWidth 7) s)
  | 3 => run (execSverdEnd core (v.setWidth 7) s)
  | _ => s.updCore core (fun c => { c with svstat := 2 })
/-- A CSR written; a read-only one of a number that may be written keeps its value. -/
def State.csrWrite (s : State) (core n : Nat) (v : W64) : State :=
  let h := (s.core core).hart
  if n = 0x180 then
    if fld v 60 4 = 0 ∨ fld v 60 4 = 10 then s.updHart core (fun h => h.csrPut n v) else s
  else if csrKept n then s.updHart core (fun h => h.csrPut n (v &&& csrMask n))
  else match n with
    | 0x300 =>
      let v := if fld v 11 2 = 2 then v &&& ~~~ 0x1800 else v
      s.updHart core (fun h => h.csrPut n (v &&& 0x7E19AA))
    | 0x344 => s.updHart core (fun h => h.csrPut n (v &&& 0x222))
    | 0x100 => s.updHart core (fun h => h.csrPut 0x300 ((h.csrAt 0x300 &&& ~~~ 0xC0122) ||| (v &&& 0xC0122)))
    | 0x104 => s.updHart core (fun h => h.csrPut 0x304 ((h.csrAt 0x304 &&& ~~~ h.csrAt 0x303) ||| (v &&& h.csrAt 0x303)))
    | 0x144 =>
      let m := h.csrAt 0x303 &&& 2
      s.updHart core (fun h => h.csrPut 0x344 ((h.csrAt 0x344 &&& ~~~ m) ||| (v &&& m)))
    | 0x7C0 => s.updCore core (fun c => { c with stqBase := v &&& ~~~ 0x3FFF })
    | 0x7C2 => match execStqtailWrite core (v.setWidth 32) s with
      | .next t => t
      | _ => s
    | 0x7C3 => s.sverd core v
    | _ => match gwCsr n with
      | some w => s.updCore core (fun c =>
          let x := nth c.gw w.1 {}
          let a := if w.2 = 0 then v else x.word 0
          let b := if w.2 = 0 then x.word 1 else v
          { c with gw := setNth c.gw w.1 {} (x.write (BitVec.ofNat 128 (a.toNat + b.toNat * 2 ^ 64)) false) })
      | none => s

/-! Traps of the hart. -/

/-- A trap taken: to supervisor mode when it is delegated there and the hart is not in machine mode, else to machine mode. -/
def Hart.trap (h : Hart) (cause : Nat) (irq : Bool) (tval : W64) : Hart :=
  let code : W64 := BitVec.ofNat 64 (cause + if irq then 2 ^ 63 else 0)
  let vec := fun (t : W64) => (t &&& ~~~ 3) + (if irq && t.getLsbD 0 then BitVec.ofNat 64 (4 * cause) else 0)
  let deleg := (h.csrAt (if irq then 0x303 else 0x302)).getLsbD cause
  let h := { h with wfi := false }
  if h.priv ≤ 1 && deleg then
    let g := (((h.csrPut 0x141 h.pc).csrPut 0x142 code).csrPut 0x143 tval)
    let g := ((g.setStatus 5 1 (h.status 1).toNat).setStatus 1 1 0).setStatus 8 1 h.priv
    { g with priv := 1, pc := vec (h.csrAt 0x105) }
  else
    let g := (((h.csrPut 0x341 h.pc).csrPut 0x342 code).csrPut 0x343 tval)
    let g := ((g.setStatus 7 1 (h.status 3).toNat).setStatus 3 1 0).setStatus 11 2 h.priv
    { g with priv := 3, pc := vec (h.csrAt 0x305) }
/-- Return from machine mode. -/
def Hart.mret (h : Hart) : Hart :=
  let p := h.mpp
  let g := ((h.setStatus 3 1 (h.status 7).toNat).setStatus 7 1 1).setStatus 11 2 0
  let g := if p = 3 then g else g.setStatus 17 1 0
  { g with priv := p, pc := h.csrAt 0x341 }
/-- Return from supervisor mode. -/
def Hart.sret (h : Hart) : Hart :=
  let g := (((h.setStatus 1 1 (h.status 5).toNat).setStatus 5 1 1).setStatus 8 1 0).setStatus 17 1 0
  { g with priv := (h.status 8).toNat, pc := h.csrAt 0x141 }
/-- The interrupt that a hart takes now: those of machine mode first, each in the order of the architecture. -/
def State.hartIrq (s : State) (core : Nat) : Option Nat :=
  let h := (s.core core).hart
  let p := s.mip core &&& h.csrAt 0x304
  let m := p &&& ~~~ h.csrAt 0x303
  let sv := p &&& h.csrAt 0x303
  let first := fun (x : W64) => [11, 3, 7, 9, 1, 5].find? (fun i => x.getLsbD i)
  (if h.priv < 3 || h.status 3 then first m else none).orElse
    (fun _ => if h.priv < 1 || (h.priv == 1 && h.status 1) then first sv else none)

/-! Sv57. -/

/-- Kinds of access of a hart. -/
inductive HartAcc where
  | fetch | load | store
  deriving DecidableEq, Repr
/-- The cause of a page fault. -/
def HartAcc.pageFault : HartAcc → Nat
  | .fetch => 12 | .load => 13 | .store => 15
/-- The cause of an access fault. -/
def HartAcc.accessFault : HartAcc → Nat
  | .fetch => 1 | .load => 5 | .store => 7
/-- A leaf permits an access in a mode. A and D are kept by software: an access that finds A clear, or a store that finds D clear, faults. -/
def Hart.permits (h : Hart) (priv : Nat) (k : HartAcc) (pte : Nat) : Bool :=
  (if priv = 0 then bit pte 4 else !bit pte 4 || (k != .fetch && h.status 18)) && bit pte 6
  && (match k with
    | .fetch => bit pte 3
    | .load => bit pte 1 || (h.status 19 && bit pte 3)
    | .store => bit pte 2 && bit pte 7)
/-- Memory at a physical address exists: a hart reaches all of it (log 76). -/
def hartReach (pa : Nat) : Bool := regionOf pa != .none && decide (pa < 2 ^ 65)
/-- A walk of the tables from one of a level: the leaf as that of the 4 KiB page of the address; else whether memory that does not exist
was met. -/
def State.hartWalk (s : State) (a va : Nat) : Nat → Except Bool Nat
  | 0 => .error false
  | l + 1 =>
    let at_ := a + 8 * bits va (12 + 9 * l) 9
    if !hartReach at_ then .error true
    else
      let e := ofBytes (s.portRead at_ 8)
      let ppn := bits e 10 44
      if !bit e 0 || (!bit e 1 && bit e 2) || bits e 54 10 ≠ 0 then .error false
      else if bit e 1 || bit e 3 then
        if ppn % 2 ^ (9 * l) ≠ 0 then .error false
        else .ok (setBits e 10 44 (ppn + bits va 12 (9 * l)))
      else if bit e 4 || bit e 6 || bit e 7 then .error false
      else State.hartWalk s (ppn * 4096) va l
/-- The translation of an access of a hart, or the cause of its fault. A translation that it holds may serve (log 8). -/
def State.hartAddr (s : State) (core va : Nat) (k : HartAcc) : Except Nat Nat × State :=
  let h := (s.core core).hart
  let satp := (h.csrAt 0x180).toNat
  let priv := if k != .fetch && h.status 17 then h.mpp else h.priv
  if priv = 3 || bits satp 60 4 ≠ 10 then (.ok va, s)
  else if bits va 56 8 ≠ 0 ∧ bits va 56 8 ≠ 255 then (.error k.pageFault, s)
  else
    let key := tlbKey (bits satp 44 16) va
    let fresh := s.hartWalk (bits satp 0 44 * 4096) va 5
    let leaf : Except Bool Nat := match Tbl.find h.tlb key with
      | some e => if Config.tlbHit s.tick key then .ok e.toNat else fresh
      | none => fresh
    match leaf with
    | .error x => (.error (if x then k.accessFault else k.pageFault), s)
    | .ok e =>
      if h.permits priv k e then
        (.ok (bits e 10 44 * 4096 + va % 4096), s.updHart core (fun h => { h with tlb := Tbl.put h.tlb key (BitVec.ofNat 64 e) }))
      else (.error k.pageFault, s)

/-! Accesses. -/

/-- What an access of a hart comes to: a value, a trap, or a wait for a tile that a command writes (R282). -/
inductive HartRes (α : Type) where
  | ok (a : α) (s : State)
  | trap (cause : Nat) (tval : W64) (s : State)
  | wait
/-- The port of an aligned access that may be made now. -/
def State.hartPort (s : State) (core : Nat) (va : W64) (n : Nat) (k : HartAcc) : HartRes Nat :=
  if va.toNat % n ≠ 0 then .trap (if k = .load then 4 else 6) va s
  else match s.hartAddr core va.toNat k with
    | (.error c, s) => .trap c va s
    | (.ok pa, s) =>
      if !supReach pa n then .trap k.accessFault va s
      else if s.portBusy pa n (k == .store) then .wait
      else .ok pa s
/-- A load (R14, R174, R238): a cached read of device memory, else a read at its port. -/
def State.hartLoad (s : State) (core : Nat) (va : W64) (n : Nat) : HartRes Nat :=
  match s.hartPort core va n .load with
  | .trap c t s => .trap c t s
  | .wait => .wait
  | .ok pa s =>
    if regionOf pa = .dram then
      match s.supLoad core pa n with
      | (some bs, s) => .ok (ofBytes bs) s
      | (none, s) => .trap 5 va s
    else .ok (ofBytes (s.portRead pa n)) s
/-- An atomic, or the read of an LR (k): the old value, and the new one if it writes; performed at its port (R352 of spec/18, log 83). -/
def State.hartAmo (s : State) (core : Nat) (va : W64) (n : Nat) (k : HartAcc) (f : Nat → Option Nat) : HartRes Nat :=
  match s.hartPort core va n k with
  | .trap c t s => .trap c t s
  | .wait => .wait
  | .ok pa s =>
    if s.bad pa n then .trap k.accessFault va (s.logError pa core)
    else
      let s := if regionOf pa = .dram then s.llcTouch (pa / 64) else s
      let old := ofBytes (s.portRead pa n)
      .ok old (match f old with
        | some v => s.supWrite core pa (toBytes n v)
        | none => s)
/-- A halfword or word of code through the core's instruction cache (R14), at an even address. -/
def State.hartFetch (s : State) (core : Nat) (pc : W64) : HartRes (Nat × Nat) :=
  match s.hartAddr core pc.toNat .fetch with
  | (.error c, s) => .trap c pc s
  | (.ok a, s) =>
    if !hartReach a || s.bad a 2 then .trap 1 pc s
    else
      let r := s.codeBytes core 0 [(a, 2)]
      if r.1 % 4 ≠ 3 then .ok (r.1, 2) r.2
      else
        let pc2 := pc + 2
        match s.hartAddr core pc2.toNat .fetch with
        | (.error c, s) => .trap c pc2 s
        | (.ok b, s) =>
          if !hartReach b || s.bad b 2 then .trap 1 pc2 s
          else
            let r := s.codeBytes core 0 [(a, 2), (b, 2)]
            .ok (r.1, 4) r.2

/-! Instructions. -/

/-- The amo.op code of an AMO's funct5 (R241). -/
def rvAmo (f5 : Nat) : Option Nat :=
  match f5 with
  | 0 => some 0 | 1 => some 8 | 4 => some 3 | 8 => some 2 | 12 => some 1 | 16 => some 4 | 20 => some 5 | 24 => some 6 | 28 => some 7
  | _ => none
/-- The value of a load by funct3: its bytes, and whether its sign is extended. -/
def rvLoad (f3 : Nat) : Option (Nat × Bool) :=
  match f3 with
  | 0 => some (1, true) | 1 => some (2, true) | 2 => some (4, true) | 3 => some (8, true)
  | 4 => some (1, false) | 5 => some (2, false) | 6 => some (4, false)
  | _ => none
/-- A trap of the hart. -/
def State.hartTrap (s : State) (core cause : Nat) (tval : W64) : State := s.updHart core (fun h => h.trap cause false tval)
/-- An instruction with a result has been carried out. -/
def State.hartDone (s : State) (core len rd : Nat) (v : W64) : State :=
  s.updHart core (fun h => { (h.put rd v) with pc := h.pc + BitVec.ofNat 64 len })
/-- A result of an operation, or an illegal instruction. -/
def State.hartValue (s : State) (core len rd : Nat) (raw : W64) (v : Option W64) : State :=
  match v with
  | some v => s.hartDone core len rd v
  | none => s.hartTrap core 2 raw
/-- The value of an OP-IMM, OP-IMM-32, OP or OP-32 word. -/
def rvOp (w : Nat) (a b : W64) : Option W64 :=
  let f3 := rvF3 w
  let f7 := bits w 25 7
  let wide := bits w 3 1 = 0
  let reg := bits w 5 1 = 1
  let m := if wide then 64 else 32
  if reg then
    if f7 = 1 then
      if wide || f3 = 0 || 4 ≤ f3 then some (rvSext ((rvMulDiv f3 m (a.toNat % 2 ^ m) (b.toNat % 2 ^ m)) % 2 ^ m).toNat m) else none
    else if f7 = 0 || (f7 = 0x20 && (f3 = 0 || f3 = 5)) then
      if wide then some (rvAlu f3 (f7 = 0x20) a b) else rvAluW f3 (f7 = 0x20) a b
    else none
  else
    let i := rvImmI w
    if f3 = 1 || f3 = 5 then
      let hi := if wide then bits w 26 6 * 2 else f7
      if hi = 0 || (hi = 0x20 && f3 = 5) then
        (let n : W64 := BitVec.ofNat 64 (bits w 20 (if wide then 6 else 5))
        if wide then some (rvAlu f3 (hi = 0x20) a n) else rvAluW f3 (hi = 0x20) a n)
      else none
    else if wide then some (rvAlu f3 false a i) else rvAluW f3 false a i
/-- A SYSTEM word that reads or writes a CSR. An access from a lower privilege, or to a CSR that is not there, raises the illegal-instruction
exception (R406). -/
def State.hartCsr (s : State) (core w len : Nat) (raw : W64) : State :=
  let h := (s.core core).hart
  let n := bits w 20 12
  let f3 := rvF3 w
  let src : W64 := if f3 < 4 then h.get (rvRs1 w) else BitVec.ofNat 64 (rvRs1 w)
  let writes := f3 % 4 = 1 || rvRs1 w ≠ 0
  if h.priv < bits n 8 2 || (writes && bits n 10 2 = 3) || (n = 0x180 && h.priv = 1 && h.status 20) then s.hartTrap core 2 raw
  else match s.csrRead core n with
    | none => s.hartTrap core 2 raw
    | some old =>
      let v := if f3 % 4 = 1 then src else if f3 % 4 = 2 then old ||| src else old &&& ~~~ src
      let s := s.hartDone core len (rvRd w) old
      if writes then s.csrWrite core n v else s
/-- The other SYSTEM words. -/
def State.hartSystem (s : State) (core w len : Nat) (raw : W64) : State :=
  let h := (s.core core).hart
  let go := s.hartDone core len 0 0
  if w = 0x73 then s.hartTrap core (8 + h.priv) 0
  else if w = 0x100073 then s.hartTrap core 3 h.pc
  else if w = 0x30200073 && h.priv = 3 then s.updHart core Hart.mret
  else if w = 0x10200073 && (h.priv = 3 || (h.priv = 1 && !h.status 22)) then s.updHart core Hart.sret
  else if w = 0x10500073 && (h.priv = 3 || (h.priv = 1 && !h.status 21)) then go.updHart core (fun h => { h with wfi := true })
  else if bits w 25 7 = 9 && rvRd w = 0 && (h.priv = 3 || (h.priv = 1 && !h.status 20)) then go.updHart core (fun h => { h with tlb := [] })
  else s.hartTrap core 2 raw
/-- What follows an access: its state, its trap, or the state as it was. -/
def HartRes.into {α : Type} (r : HartRes α) (s : State) (core : Nat) (k : α → State → State) : State :=
  match r with
  | .ok a t => k a t
  | .trap c v t => t.hartTrap core c v
  | .wait => s
/-- An A word: LR, SC or an AMO, of 4 or 8 bytes. An LR reads at its port, as an AMO does (log 83); a reservation stands until its line is
written. -/
def State.hartAtomic (s : State) (core w len : Nat) (raw : W64) : State :=
  let h := (s.core core).hart
  let f5 := bits w 27 5
  let n := if rvF3 w = 2 then 4 else 8
  let va := h.get (rvRs1 w)
  let src := (h.get (rvRs2 w)).toNat % 2 ^ (8 * n)
  if rvF3 w ≠ 2 && rvF3 w ≠ 3 then s.hartTrap core 2 raw
  else if f5 = 2 && rvRs2 w = 0 then
    (s.hartPort core va n .load).into s core fun pa t => (t.hartAmo core va n .load (fun _ => none)).into s core fun v t =>
      (t.hartDone core len (rvRd w) (rvSext v (8 * n))).updHart core (fun h => { h with resv := some pa })
  else if f5 = 3 then
    (s.hartPort core va n .store).into s core fun pa t =>
      let ok := h.resv == some pa
      let t := t.updHart core (fun h => { h with resv := none })
      (if ok then t.supWrite core pa (toBytes n src) else t).hartDone core len (rvRd w) (if ok then 0 else 1)
  else match rvAmo f5 with
    | none => s.hartTrap core 2 raw
    | some o => (s.hartAmo core va n .store (fun m => some (amoValue o (8 * n) m src))).into s core fun v t =>
        t.hartDone core len (rvRd w) (rvSext v (8 * n))
/-- An instruction carried out: a 32-bit word, the length of what was fetched, and the bits fetched. -/
def State.hartExec (s : State) (core w len : Nat) (raw : W64) : State :=
  let h := (s.core core).hart
  let a := h.get (rvRs1 w)
  let b := h.get (rvRs2 w)
  let link := h.pc + BitVec.ofNat 64 len
  let jump := fun (s : State) (t : W64) => s.updHart core (fun h => { h with pc := t })
  match w % 128 with
  | 0x37 => s.hartDone core len (rvRd w) (rvImmU w)
  | 0x17 => s.hartDone core len (rvRd w) (h.pc + rvImmU w)
  | 0x6F => jump (s.hartDone core len (rvRd w) link) (h.pc + rvImmJ w)
  | 0x67 => if rvF3 w = 0 then jump (s.hartDone core len (rvRd w) link) ((a + rvImmI w) &&& ~~~ 1) else s.hartTrap core 2 raw
  | 0x63 => match rvBranch (rvF3 w) a b with
    | some true => jump s (h.pc + rvImmB w)
    | some false => s.hartDone core len 0 0
    | none => s.hartTrap core 2 raw
  | 0x03 => match rvLoad (rvF3 w) with
    | some (n, sx) => (s.hartLoad core (a + rvImmI w) n).into s core fun v t =>
        t.hartDone core len (rvRd w) (if sx then rvSext v (8 * n) else BitVec.ofNat 64 v)
    | none => s.hartTrap core 2 raw
  | 0x23 =>
    if 3 < rvF3 w then s.hartTrap core 2 raw
    else
      let n := 2 ^ rvF3 w
      (s.hartPort core (a + rvImmS w) n .store).into s core fun pa t =>
        (t.supWrite core pa (toBytes n b.toNat)).hartDone core len 0 0
  | 0x13 => s.hartValue core len (rvRd w) raw (rvOp w a b)
  | 0x1B => s.hartValue core len (rvRd w) raw (rvOp w a b)
  | 0x33 => s.hartValue core len (rvRd w) raw (rvOp w a b)
  | 0x3B => s.hartValue core len (rvRd w) raw (rvOp w a b)
  | 0x0F =>
    if rvF3 w = 0 then (s.updDie (dieOf core) (fun d => { d with l2r := [] })).hartDone core len 0 0
    else if rvF3 w = 1 then (s.updCore core (fun c => { c with ic := [] })).hartDone core len 0 0
    else s.hartTrap core 2 raw
  | 0x2F => s.hartAtomic core w len raw
  | 0x73 => if rvF3 w = 0 then s.hartSystem core w len raw else if rvF3 w = 4 then s.hartTrap core 2 raw else s.hartCsr core w len raw
  | _ => s.hartTrap core 2 raw
/-- The hart of a supervisor core takes an interrupt, or fetches and carries out its next instruction (R14); one that waits in WFI does so
once an interrupt is pending. -/
def State.hartStep (s : State) (core : Nat) : State :=
  let h := (s.core core).hart
  if !h.on then s
  else match s.hartIrq core with
    | some i => s.updHart core (fun h => h.trap i true 0)
    | none =>
      if h.wfi && s.mip core &&& h.csrAt 0x304 == 0 then s
      else
        let s := if h.wfi then s.updHart core (fun h => { h with wfi := false }) else s
        match s.hartFetch core h.pc with
        | .wait => s
        | .trap c t s => s.hartTrap core c t
        | .ok (w, len) s =>
          let raw : W64 := BitVec.ofNat 64 w
          if len = 4 then s.hartExec core w 4 raw
          else match rvExpand w with
            | some x => s.hartExec core x 2 raw
            | none => s.hartTrap core 2 raw
/-- Reservations whose line a write reaches are lost (R14). -/
def State.breakResv (s : State) (ws : List Wrote) : State :=
  (s.cores.filter (fun e => e.2.hart.resv.elim false (fun a => ws.any (fun w => (linesOf w.pa w.len).contains (a / 64))))).foldl
    (fun s e => s.updHart e.1 (fun h => { h with resv := none })) s

end Sys2Proof.Machine
end

