-- ==== Sys2Proof/Machine/Settle.lean ====
section
/-! DEFINITION. What follows elsewhere, in the same step, from the writes of a step: overreach conflicts (spec/10 R231), refuted
predictions (spec/20 R389), collective triggers (spec/25 R449), stores that leave over Smio (R447), lock grants (spec/11 R249), tests for orphan
waits (spec/10 R226), stops that become complete (spec/22 R400), and the stops of groups that a pre-emption waits for (spec/22 R414). -/

namespace Sys2Proof.Machine

/-- Groups whose overreach conflicts with one of the writes roll back, and the objects they wait at are tested (R226, R231). -/
def State.rollConflicts (s : State) (ws : List Wrote) : State :=
  (s.groups.filter (fun e => e.2.orun.isSome && ws.any (fun w => s.conflicts w e.1 e.2))).foldl
    (fun s e => (s.rollback e.1).retest e.2.key) s
/-- A write refutes a prediction (R389 READ): committed memory changed, by no agent of its chain, in a line that it has read. -/
def Wrote.refutes (w : Wrote) (id : Nat) (l : Launch) : Bool :=
  w.committed && w.launch != id && !l.chainIds.contains w.launch
  && l.reads.any (fun n => decide (w.pa / 64 ≤ n) && decide (64 * n < w.pa + w.len))
/-- Live predictions that a write refutes are marked. -/
def State.markRefuted (s : State) (ws : List Wrote) : State :=
  { s with launches := s.launches.map (fun (e : Nat × Launch) =>
      if e.2.pred && e.2.live && e.2.refute == 0 && ws.any (fun w => w.refutes e.1 e.2) then (e.1, { e.2 with refute := 2 }) else e) }
/-- A write to another package travels on its port (R447, R448). -/
def State.sendWrites (s : State) (ws : List Wrote) : State :=
  ws.foldl (fun s w => match regionOf w.pa with
    | .remote a => (match s.routeOf a with
      | some n => s.updSmio n Port.send
      | none => s)
    | _ => s) s
/-- The consequences of the writes recorded so far, whose record is then empty. -/
def State.afterWrites (s : State) : State :=
  let ws := s.wrote
  if ws.isEmpty then s
  else
    let s := (s.patchCode ws).trigger
    ((({ s with wrote := [] }.rollConflicts ws).markRefuted ws).sendWrites ws).breakResv ws
/-- Waiting trap records that name no group written where the queue of their partition's lowest core has room (R405). -/
def State.drainUnnamed (s : State) : State := s.parts.foldl (fun s e => if e.2.nwait.isEmpty then s else s.unnamed e.1 e.2.nwait) s
/-- The end of a step. -/
def State.settle (s : State) : State :=
  let s := s.afterWrites.grantAll.afterWrites.refuteMarked
  let s := s.runTests.drainUnnamed.parkReady.stopMoving.afterWrites
  (s.grantAll.afterWrites.runTests.parkReady)

end Sys2Proof.Machine
end

