-- ==== Sys2Proof/Machine/Sched.lean ====
section
/-! DEFINITION. What the machine may do next: the streams that its schedulers may issue (spec/05 R119-R122, spec/06 R141) and the events
by which its engines, queues and controllers go on. -/

namespace Sys2Proof.Machine

/-- One thing the machine may do. -/
inductive Act where
  /-- the scheduler of a quarter (4 x COREID + QUARTER) issues an S-instruction (R119) -/
  | scalar (k : Nat)
  /-- it issues an L-instruction (R119, R141) -/
  | lane (k : Nat)
  /-- an event of the opcode table -/
  | event (e : Instr)
  /-- the supervisor hart of a core takes a trap or carries out an instruction (R14) -/
  | hart (core : Nat)
  deriving DecidableEq, Repr

/-! The choice of a stream in a quarter (R120, R122). -/

/-- The class of a group: 0 critical, 1 high, 2 normal, 3 low (R122, R135). -/
def Group.class (g : Group) : Nat := if g.crit != 0 then 0 else g.cls.toNat
/-- The rank of a ready stream: ahead of every class, class, head of its class, age, context (R120). -/
def streamRank (promo cls last ctx : Nat) : List Nat :=
  if promo = 2 then [0, ctx] else if promo = 1 then [1, cls, 0, ctx] else [1, cls, 1, last, ctx]
/-- Lists of numbers in order. -/
def lexLe : List Nat → List Nat → Bool
  | [], _ => true
  | _ :: _, [] => false
  | a :: x, b :: y => decide (a < b) || (a == b && lexLe x y)
/-- The first by rank. -/
def firstOf (rank : Nat × Group → List Nat) : List (Nat × Group) → Option (Nat × Group)
  | [] => none
  | e :: r => match firstOf rank r with
    | none => some e
    | some x => if lexLe (rank e) (rank x) then some e else some x
/-- Ages looked at where streams compete (R120). -/
def State.promote (s : State) (lane : Bool) (rs : List (Nat × Group)) : List (Nat × Group) :=
  if rs.length ≤ 1 then rs
  else rs.map (fun e => match execStreamAgePromotion e.1 lane s with
    | .next t => (e.1, (t.group? e.1).getD e.2)
    | _ => e)
/-- The groups of a quarter whose S-stream may be tried now: not known to be held, and its scheduler free (R119). -/
def State.candS (s : State) (k : Nat) : List (Nat × Group) :=
  let core := k / 4
  if s.cyc core < Tbl.get (s.core core).freeS (k % 4) 0 then []
  else (s.groupsIn core (k % 4)).filter (fun e => s.readyS e.2 && s.mayIssue core (s.launchOf e.2).part)
/-- The groups of a quarter whose L-stream may be tried now, and its vector ALU free (R119). -/
def State.candL (s : State) (k : Nat) : List (Nat × Group) :=
  let core := k / 4
  if s.cyc core < Tbl.get (s.core core).freeL (k % 4) 0 then []
  else (s.groupsIn core (k % 4)).filter (fun e => s.readyL e.2 && s.mayIssue core (s.launchOf e.2).part)
/-- The group whose S-stream the scheduler of a quarter issues. -/
def State.bestS (s : State) (k : Nat) : Option (Nat × Group) :=
  firstOf (fun e => streamRank e.2.promoS e.2.class e.2.lastS (ctxOf e.1)) (s.promote false (s.candS k))
/-- The group whose L-stream the scheduler of a quarter issues. -/
def State.bestL (s : State) (k : Nat) : Option (Nat × Group) :=
  firstOf (fun e => streamRank e.2.promoL e.2.class e.2.lastL (ctxOf e.1)) (s.promote true (s.candL k))
/-- Quarters with a group, as 4 x COREID + QUARTER. -/
def State.quarters (s : State) : List Nat := (s.groups.map (fun e => e.1 / 32)).eraseDups
/-- The issues open to the schedulers in the present cycle: of each quarter its S-stream's first, so that of two stops of one cycle the
scalar one is found (R401). -/
def State.issues (s : State) : List Act :=
  s.quarters.flatMap (fun k =>
    if !(s.candS k).isEmpty then [.scalar k] else if (s.candL k).isEmpty then [] else [.lane k])

/-! The events that may fall inside the package. -/

/-- The indexes of a list that a test picks. -/
def indexes {α : Type} (l : List α) (ok : α → Bool) : List Nat := (l.zipIdx.filter (fun x => ok x.1)).map (·.2)
/-- Events of a group. -/
def State.groupEvents (s : State) (gid : Nat) (g : Group) : List Instr :=
  (if g.laneQ.isEmpty || g.running then [] else [.blockStart gid])
  ++ (indexes g.pend (fun x => x.acc == 0)).map (.longLatencyComplete gid)
  ++ (indexes g.posted (fun _ => true)).map (.accessPerformedAtPort gid)
  ++ (if (g.blocked.isSome || g.sHeld != 0) && s.probeAge gid g then [.waitProbe gid] else [])
/-- Events of a team. -/
def State.teamEvents (s : State) (key : Nat) (t : Team) : List Instr :=
  (if t.started && !s.groups.any (fun e => e.2.key == key) then [.teamEnd key] else [])
  ++ t.tileAccs.map (fun a => .tileAccessPerformed key a.id)
/-- Events of a launch. -/
def State.launchEvents (s : State) (id : Nat) (l : Launch) : List Instr :=
  (if l.st = .waiting then [.launchStart id] else [])
  ++ (if l.waiting then [.teamAdmission id {}] else [])
  ++ (if s.teams.any (fun e => e.1 / 2 ^ 32 == id) then [] else [.launchEnd id])
/-- Events of a copy command. -/
def State.copyEvents (s : State) (core : Nat) (c : CopyCmd) : List Instr :=
  if c.ended then [.copyCommandComplete core c.id]
  else [.copyBytesLanded core c.id (Config.copyBurst s.tick)] ++ (if c.kind == CopyKind.cpys then [.sealedMessage core c.id] else [])
/-- The stores that exited groups have left at a core, each by its context and its place beyond those of the group that stands there
now. -/
def State.lateEvents (s : State) (c : Core) : List Instr :=
  ((c.late.map (·.gid)).eraseDups).flatMap (fun gid =>
    let n := ((s.group? gid).map (fun g => g.posted.length)).getD 0
    (indexes (c.late.filter (fun x => x.gid == gid)) (fun _ => true)).map (fun i => .accessPerformedAtPort gid (n + i)))
/-- Events of a core: its copy engine, its side log, and what exited groups have left. -/
def State.coreEvents (s : State) (core : Nat) (c : Core) : List Instr :=
  c.copyQ.flatMap (s.copyEvents core) ++ (indexes c.sideLog (fun _ => true)).map (.sideLogReplay core) ++ s.lateEvents c
/-- Events of a die that fall as soon as a cycle begins: the ends of a stretch and of halving (R456), and the grants of the cycle
(R454). -/
def dieEvents (die : Nat) (d : Die) : List Instr :=
  (if d.stretch = 1 then [.stretchEnd die] else []) ++ (if d.halve = 1 then [.halvingEnd die] else [])
  ++ (if d.leaves.isEmpty || !d.edge then [] else [.curbGrant die])
/-- Events of a matrix complex. -/
def complexEvents (tandem : Nat) (x : Complex) : List Instr :=
  if x.owner.isNone then []
  else [.matrixOperation tandem, .matrixCommandComplete tandem] ++ (if x.releasing then [.complexHandover tandem] else [])
/-- Events of a queue. -/
def queueEvents (q : Nat) (x : Queue) : List Instr :=
  (if (x.en && x.doorbell != x.lastacc) || !x.kids.isEmpty then [.launchAccept q] else [])
  ++ (if x.en && x.gait.st == 1 then [.predictionStart q] else [])
/-- Events of a partition. -/
def partEvents (p : Nat) (x : Partition) : List Instr :=
  (if x.vacate.isEmpty then [] else [.preemptSave p]) ++ (if x.saved.isEmpty then [] else [.readmission p {}])
  ++ (if x.shoot.isSome then [.shootAcknowledge p] else []) ++ (if x.moves.isEmpty then [] else [.moveComplete p])
/-- Events of a collective entry: its contribution, when its root is on this package, and its result. -/
def collEvents (i : Nat) (c : Coll) : List Instr :=
  (if c.started && c.result.isNone && c.route = 31 then [.collectiveContribution (if c.leaf = 0 then i else c.rootEnt) { leaf := c.leaf }] else [])
  ++ (if c.result.isSome then [.collectiveResult i false []] else [])
/-- Events of the samplers (R435): a tag where one is due, and a record for each tag whose instruction has written back or has been
discarded. -/
def State.samplerEvents (s : State) : List Instr :=
  (s.quarters.filter s.sampleDue).flatMap (fun k => [.samplerTag (k / 4) (k % 4) false, .samplerTag (k / 4) (k % 4) true])
  ++ (s.tags.filter (fun e => s.tagDone e.2)).map (fun e => .sampleRecord (e.1 / 4) (e.1 % 4))
/-- Every event that may fall. -/
def State.events (s : State) : List Instr :=
  s.groups.flatMap (fun e => s.groupEvents e.1 e.2) ++ s.teams.flatMap (fun e => s.teamEvents e.1 e.2)
  ++ s.launches.flatMap (fun e => s.launchEvents e.1 e.2) ++ s.cores.flatMap (fun e => s.coreEvents e.1 e.2)
  ++ s.complexes.flatMap (fun e => complexEvents e.1 e.2)
  ++ s.queues.flatMap (fun e => queueEvents e.1 e.2) ++ s.parts.flatMap (fun e => partEvents e.1 e.2)
  ++ s.coll.flatMap (fun e => collEvents e.1 e.2) ++ s.samplerEvents
/-- The row of the table is an event (spec/95), not an instruction word. -/
def isEvent : Instr → Bool
  | .teamAdmission _ _ => true
  | .blockStart _ => true
  | .longLatencyComplete _ _ => true
  | .accessPerformedAtPort _ _ => true
  | .waitProbe _ => true
  | .streamAgePromotion _ _ => true
  | .crittimeout _ => true
  | .teamEnd _ => true
  | .launchEnd _ => true
  | .copyBytesLanded _ _ _ => true
  | .copyCommandComplete _ _ => true
  | .sealedMessage _ _ => true
  | .curbGrant _ => true
  | .matrixOperation _ => true
  | .matrixCommandComplete _ => true
  | .complexHandover _ => true
  | .tileAccessPerformed _ _ => true
  | .sideLogReplay _ _ => true
  | .registerWrite _ _ _ _ => true
  | .queueEnable _ _ => true
  | .queueDisable _ _ => true
  | .doorbell _ _ _ => true
  | .cancel _ _ _ => true
  | .launchAccept _ => true
  | .launchStart _ => true
  | .predictionStart _ => true
  | .gaitRecordWrite _ _ _ => true
  | .resize _ _ _ => true
  | .preemptSave _ => true
  | .readmission _ _ => true
  | .shoot _ _ _ => true
  | .shootAcknowledge _ => true
  | .migrate _ _ _ => true
  | .flip _ _ _ => true
  | .moveComplete _ => true
  | .respond _ _ _ => true
  | .atsTranslationCompletion _ _ _ _ => true
  | .prgResponse _ _ _ => true
  | .atsInvalidate _ _ _ _ => true
  | .sverdResume _ _ => true
  | .sverdForward _ _ => true
  | .sverdEnd _ _ => true
  | .stqtailWrite _ _ => true
  | .ttailWrite _ _ _ => true
  | .hostResume _ _ _ => true
  | .hostEnd _ _ _ => true
  | .hostHalt _ _ _ => true
  | .ctxsave _ _ _ => true
  | .ctxload _ _ _ => true
  | .watchpointWrite _ _ _ _ => true
  | .traceControlWrite _ _ _ => true
  | .samplerTag _ _ _ => true
  | .sampleRecord _ _ => true
  | .monitorClear _ _ _ => true
  | .hflush _ _ _ => true
  | .hinv _ _ _ => true
  | .hostMemoryWrite _ _ _ _ => true
  | .hostMemoryRead _ _ _ => true
  | .hostWindowWrite _ _ _ _ => true
  | .hostWindowRead _ _ _ => true
  | .atomicop _ _ _ _ _ _ => true
  | .collectiveContribution _ _ => true
  | .collectiveResult _ _ _ => true
  | .set _ _ _ => true
  | .privateRangeWrite _ _ _ _ => true
  | .ideKm _ _ => true
  | .ideIntegrityFailure _ => true
  | .lockInterfaceRequest _ => true
  | .stopInterface _ => true
  | .functionLevelReset _ => true
  | .challenge _ => true
  | .measurements _ => true
  | .smioFlit _ _ => true
  | .nak _ _ => true
  | .smioRemoteAccess _ _ _ _ _ => true
  | .supervisorWindowAccess _ _ _ _ _ => true
  | .reset _ => true
  | .bootLinkTimeout => true
  | .dhcpv6Reply _ => true
  | .helperDataFetched _ => true
  | .imageFetched _ => true
  | .bootRetry => true
  | .droopAlarm _ => true
  | .stretchEnd _ => true
  | .halvingEnd _ => true
  | .powerAverage _ _ _ => true
  | .supervisorCoreAccess _ _ _ _ _ => true
  | .llcEviction _ => true
  | .uncorrectableError _ => true
  | .ultraEthernetLinkUp _ => true
  | .bootStepFailure => true
  | .smioPortRetrain _ => true
  | .startInterfaceRequest _ => true
  | .tdispError _ => true
  | _ => false
/-- An event of the package itself, which falls when its condition comes about; the others come from outside. -/
def isInternal : Instr → Bool
  | .teamAdmission _ _ => true
  | .blockStart _ => true
  | .longLatencyComplete _ _ => true
  | .accessPerformedAtPort _ _ => true
  | .waitProbe _ => true
  | .streamAgePromotion _ _ => true
  | .crittimeout _ => true
  | .teamEnd _ => true
  | .launchEnd _ => true
  | .copyBytesLanded _ _ _ => true
  | .copyCommandComplete _ _ => true
  | .sealedMessage _ _ => true
  | .curbGrant _ => true
  | .matrixOperation _ => true
  | .matrixCommandComplete _ => true
  | .complexHandover _ => true
  | .tileAccessPerformed _ _ => true
  | .sideLogReplay _ _ => true
  | .launchAccept _ => true
  | .launchStart _ => true
  | .predictionStart _ => true
  | .preemptSave _ => true
  | .readmission _ _ => true
  | .shootAcknowledge _ => true
  | .moveComplete _ => true
  | .samplerTag _ _ _ => true
  | .sampleRecord _ _ => true
  | .stretchEnd _ => true
  | .halvingEnd _ => true
  | .bootLinkTimeout => true
  | .bootRetry => true
  | _ => false
/-- Events of the package that fall at their own time, as soon as a period begins in which it has come (R3). -/
def State.dueEvents (s : State) : List Instr :=
  s.dies.flatMap (fun e => dieEvents e.1 e.2)
  ++ (s.parts.filter (fun e => !e.2.vacate.isEmpty && decide (e.2.vacSince + 100000 ≤ s.stc))).map (fun e => .crittimeout e.1)
  ++ (s.parts.filter (fun e => e.2.shoot.isSome && decide (e.2.shootAt + 1999 ≤ s.stc))).map (fun e => .shootAcknowledge e.1)
/-- The supervisor harts that run (R14, R450). -/
def State.harts (s : State) : List Act := (s.cores.filter (fun e => e.2.hart.on)).map (fun e => .hart e.1)
/-- What the machine may do next in the present period, in the order in which it tries: the issues open, and events and the supervisor
harts while some may still fall in this period (log 6); one choice (log 5) says where the order begins. -/
def State.acts (s : State) : List Act :=
  let xs := s.issues ++ (if s.burst = 0 then [] else s.events.map .event ++ s.harts)
  if xs.length ≤ 1 then xs
  else
    let k := (Config.choice s.tick + s.tick) % xs.length
    xs.drop k ++ xs.take k

end Sys2Proof.Machine
end

