-- ==== Sys2Proof/Machine/Issue.lean ====
section
/-! DEFINITION. One action of the machine: a stream fetches, decodes and executes its next instruction (spec/03 R62-R64, spec/05 R119), or
an event falls; the time it takes (R3, R119, spec/26 R456, R459); and inputs from outside (log 5). -/

namespace Sys2Proof.Machine

/-! What an issue leaves (R119, R120, R453). -/

/-- An S-instruction of a group has issued (R119, R120): its scheduler issues no other in this cycle. -/
def State.issuedS (s : State) (gid : Nat) : State :=
  let core := coreOf gid
  let now := s.cyc core
  let s := s.updCore core (fun c => { c with freeS := Tbl.put c.freeS (quarterOf gid) (now + 1) })
  s.updGroup gid (fun g => { g with lastS := now, promoS := 0, sHeld := 0 })
/-- An L-instruction of a group has issued (R119, R120): it occupies its quarter's vector ALU for one cycle, of a 64-lane group for
two; the leave that its quarter had, or a `curb` obtained for it, is used up (R453). -/
def State.issuedL (s : State) (gid slot : Nat) : State :=
  let core := coreOf gid
  let q := quarterOf gid
  let now := s.cyc core
  let busy := if ((s.group? gid).getD {}).lanew = 64 then 2 else 1
  let s := s.updCore core (fun c => { c with freeL := Tbl.put c.freeL q (now + busy), lastL := Tbl.put c.lastL q now,
                                             lease := Tbl.del (Tbl.del c.lease (16 + q)) (20 + q) })
  s.updGroup gid (fun g =>
    let g := { g with lastL := now, promoL := 0 }
    if slot = 0 then { g with lHeld := 0 } else { g with lHeld1 := 0 })

/-! Issue. -/

/-- A refused side-log store stops its group at this boundary (R326): PAGESTORE, or PROTECT where its team window was re-mapped (R22). An
overreaching group rolls back first (R234). -/
def State.storeStop (s : State) (gid : Nat) (a : W64) (k : Nat) : State :=
  (s.updGroup gid (fun g => { g with pendStore := none })).stopAsync gid (if inTeamWin a.toNat then .protect else .pagestore) a k
/-- A code fetch on a page that is not present (R63, R325): the group is held, or, when the page has been refused, stops before the word
with the page's address. -/
def State.fetchWait (s : State) (gid : Nat) (g : Group) (k va : Nat) (trap : W64 → Res) (stall : State → Res) : Res :=
  if g.refusedTo k va then trap (pageOf va) else stall (s.holdOnPage gid g k va .ex)
/-- The S-stream of a group issues: fetch, decode, execute. -/
def State.scalarStep (s : State) (gid : Nat) (g : Group) : Res :=
  let f := s.fetchScalar gid g
  let s := { f.2 with cur := gid }
  match f.1 with
  | .flt c a => s.trapS gid g c (BitVec.ofNat 64 a)
  | .page va => s.fetchWait gid g 0 va (s.trapS gid g .pageload) State.stallS
  | .hold => s.stallS
  | .word w => match decodeScalar w with
    | .ok i => if i.legalIn g.vregs g.lanew (s.launchOf g).desc.lsize then exec i s else s.trapS gid g .illegal 0
    | .error _ => s.trapS gid g .illegal 0
/-- The next L-instruction of a quarter needs no leave, or has it (R423, R453): its ALU has not been idle for 256 cycles, or a grant stands
that the quarter asked for, or that a `curb` obtained in the last 256 cycles. The grant is used up when the instruction issues. -/
def State.quarterLeave (s : State) (gid : Nat) : Bool :=
  let c := s.core (coreOf gid)
  let q := quarterOf gid
  let now := s.cyc (coreOf gid)
  decide (now - Tbl.get c.lastL q 0 < 256) || (Tbl.find c.lease (20 + q)).isSome
  || (match Tbl.find c.lease (16 + q) with
    | some at_ => decide (now - at_ ≤ 256)
    | none => false)
/-- A path of a group issues: fetch, decode, leave, execute. -/
def State.laneStep (s : State) (gid slot : Nat) (g : Group) (p : Path) : Res :=
  let f := s.fetchLane gid g p.pc
  let s := { f.2 with cur := gid, slot := slot }
  match f.1 with
  | .flt c a => s.trapL gid g c (BitVec.ofNat 64 a) 0
  | .page va => s.fetchWait gid g (1 + slot) va (fun a => s.trapL gid g .pageload a 0) State.stallL
  | .hold => s.stallL
  | .word w => match decodeLane w with
    | .ok i =>
      if i.legalIn g.vregs g.lanew (s.launchOf g).desc.lsize then
        if s.quarterLeave gid then exec i (s.landEarly gid)
        else (s.askLeave (dieOf (coreOf gid)) 2 (4 * coreOf gid + quarterOf gid) (gid + 1)).stallL
      else s.trapL gid g .illegal 0 0
    | .error _ => s.trapL gid g .illegal 0 0
/-- A stream of the group stalled instead of issuing. -/
def State.stalled (s : State) (gid : Nat) (slot : Option Nat) : Bool :=
  (s.group? gid).elim false (fun g => (match slot with
    | none => g.sHeld
    | some 0 => g.lHeld
    | some _ => g.lHeld1) == s.epoch + 1)
/-- The stream's instruction has not issued (R82, R119): it stalled, or its group, as it was before, has stopped before it. -/
def State.unissued (s : State) (gid : Nat) (slot : Option Nat) (before : Group) : Bool :=
  s.stalled gid slot || (s.group? gid).elim false (fun g => g.stopped && (match slot with
    | none => g.spc == before.spc && g.ending.all (fun e => e.after == 0)
    | some _ => g.laneN == before.laneN))
/-- What a stream that has issued leaves: its times, its sampling, and a new epoch; a stall leaves none of them, a stop before the
instruction a new epoch only. before: the group as it was; pc: the word index of the instruction. -/
def State.afterIssue (s : State) (gid : Nat) (slot : Option Nat) (before : Group) (pc : W32) : State :=
  if s.stalled gid slot then s
  else
    let s := if s.unissued gid slot before then s
      else match slot with
        | none => (s.issuedS gid).sampleIssue gid before false pc
        | some k => (s.issuedL gid k).sampleIssue gid before true pc
    { s with epoch := s.epoch + 1 }
/-- A state of an outcome changed. -/
def onNext (r : Res) (f : State → State) : Res :=
  match r with
  | .next s => .next (f s)
  | .fault e => .fault e
  | .refused e => .refused e
/-- A group that was held on a page tries its instruction again: how long it was held is monitored (R436). -/
def State.pageReplay (s : State) (gid : Nat) (g : Group) : State :=
  match g.pageSince with
  | none => s
  | some t =>
    (s.updGroup gid (fun g => { g with pageSince := none })).monitor (coreOf gid) (s.launchOf g).part 8 (s.stc - t)
/-- The next instruction of a stream of a group is tried (slot none: its S-stream). What waited for side-log entries is tried afresh. -/
def State.attempt (s : State) (gid : Nat) (slot : Option Nat) : Res :=
  let s := match s.group? gid with
    | some g => if g.sideWait.isNone then s else s.setGroup gid { g with sideWait := none }
    | none => s
  match s.group? gid with
  | none => .next s
  | some g => match slot with
    | none => onNext (s.scalarStep gid g) (fun s => s.afterIssue gid slot g (BitVec.ofNat 32 (wordIndex (s.launchOf g) g.spc)))
    | some k => match g.path? k with
      | some p => onNext (s.laneStep gid k g p) (fun s => s.afterIssue gid slot g p.pc)
      | none => .next s
/-- A stream of a group issues. Updates held since a debug stop are applied before its instruction, if that issues (R426). -/
def State.issue (s : State) (gid : Nat) (slot : Option Nat) : Res :=
  match s.group? gid with
  | none => .next s
  | some g => match g.pendStore with
    | some a => .next { (s.storeStop gid a.1 a.2) with epoch := s.epoch + 1 }
    | none =>
      let s := s.pageReplay gid g
      if g.heldUpd.isEmpty then s.attempt gid slot
      else match (s.releaseHeld gid).attempt gid slot with
        | .next t => if t.unissued gid slot ((s.group? gid).getD g) then s.attempt gid slot else .next t
        | .fault e => .fault e
        | .refused e => .refused e

/-! A scheduler's cycle (R119-R122): its streams are tried; those that a stall holds are held, and of the others the first by R120
issues. -/

/-- Instructions that count in an order of the spec's when they issue in one cycle: arrivals at one object (R216), `talloc` (R287),
matrix commands (R296), by kind; 0 for the others. -/
def jointKind : Instr → Nat
  | .barr _ _ => 1
  | .barrd _ _ => 1
  | .talloc _ _ => 2
  | .mxrdy _ _ _ => 3
  | .mxa _ _ _ => 3
  | .mxs _ _ _ => 3
  | .mxdr _ _ _ _ => 3
  | .cbld _ _ => 3
  | _ => 0
/-- The kind of the instruction at which a group stands. -/
def State.jointAt (s : State) (e : Nat × Group) : Nat := (s.standsAt e.1 e.2).elim 0 jointKind
/-- The place of a group's instruction among those of its kind of one cycle: plain arrivals before drops, the leader's contexts before the
wheeler's, ascending CTXID (R216, R287, R296). -/
def State.jointRank (s : State) (e : Nat × Group) : Nat :=
  waiterBit (s.teamOf e.2) e.1 + (match s.standsAt e.1 e.2 with
    | some (.barrd _ _) => 256
    | _ => 0)
/-- A group at a `talloc` that has chosen no slots yet comes after another of its team that may issue in this cycle (R287): until that one
has, it frees nothing and chooses nothing. -/
def State.allocLater (s : State) (gid : Nat) (slot : Option Nat) : Bool :=
  slot.isNone && (match s.group? gid with
    | some g => g.allocHold.isNone && s.jointAt (gid, g) == 2 && s.quarters.any (fun q => (s.candS q).any (fun x =>
        x.1 != gid && x.2.key == g.key && s.jointAt x == 2 && decide (s.jointRank x < s.jointRank (gid, g))))
    | none => false)
/-- A stream tried: when it stalls it is held; when it would issue nothing has happened yet. -/
def State.tryStream (s : State) (gid : Nat) (slot : Option Nat) : State :=
  match s.issue gid slot with
  | .next t =>
    if !t.stalled gid slot then s
    else if s.allocLater gid slot then s.updGroup gid (fun g => { g with sHeld := s.epoch + 1 })
    else t
  | _ => s
/-- The S-streams of a quarter tried, where more than one may be ready. -/
def State.scanS (s : State) (k : Nat) : State :=
  let gs := s.candS k
  if gs.length ≤ 1 then s else gs.foldl (fun s e => s.tryStream e.1 none) s
/-- The paths of the L-streams of a quarter tried, where more than one may be ready. -/
def State.scanL (s : State) (k : Nat) : State :=
  let ps := (s.candL k).flatMap (fun e => (if s.readyPath e.2 0 then [(e.1, 0)] else []) ++ (if s.readyPath e.2 1 then [(e.1, 1)] else []))
  if ps.length ≤ 1 then s else ps.foldl (fun s p => s.tryStream p.1 (some p.2)) s
/-- The path that an L-stream issues: its ready one, of two either (R141). -/
def State.pathSlot (s : State) (g : Group) : Nat × State :=
  if s.readyPath g 0 && s.readyPath g 1 then
    let f := s.useFresh
    (if Config.pathChoice f.1 then 1 else 0, f.2)
  else (if s.readyPath g 0 then 0 else 1, s)
/-- The group first by its joint rank. -/
def State.firstJoint (s : State) (e : Nat × Group) : List (Nat × Group) → Nat × Group
  | [] => e
  | x :: r => s.firstJoint (if s.jointRank x < s.jointRank e then x else e) r
/-- The group whose S-instruction the scheduler of a quarter issues, if some S-stream is ready, and the state once those that stall are held:
its own choice, but before an instruction whose order in the cycle the spec gives, any other of its team and kind that comes first and that
another quarter issues in this cycle. -/
def State.chosenS (s : State) (k : Nat) : State × Option Nat :=
  let s := s.scanS k
  match s.bestS k with
  | none => (s, none)
  | some e =>
    let j := s.jointAt e
    if j = 0 then (s, some e.1)
    else
      let qs := s.quarters.filter (fun q => q != k && (s.candS q).any (fun x => x.2.key == e.2.key))
      if qs.isEmpty then (s, some e.1)
      else
        let s := qs.foldl (fun s q => (s.candS q).foldl (fun s x => s.tryStream x.1 none) s) s
        let xs := (qs.filterMap s.bestS).filter (fun x => x.2.key == e.2.key && s.jointAt x == j)
        (s, some (s.firstJoint e xs).1)
/-- The path whose L-instruction the scheduler of a quarter issues, if some L-stream is ready, as group and slot, and the state once those
that stall are held. -/
def State.chosenL (s : State) (k : Nat) : State × Option (Nat × Nat) :=
  let s := s.scanL k
  match s.bestL k with
  | some e =>
    let x := s.pathSlot e.2
    (x.2, some (e.1, x.1))
  | none => (s, none)
/-- The scheduler of a quarter issues an S-instruction. -/
def State.scalarIssue (s : State) (k : Nat) : Res :=
  match s.chosenS k with
  | (s, some gid) => s.issue gid none
  | (s, none) => .next s
/-- The scheduler of a quarter issues an L-instruction. -/
def State.laneIssue (s : State) (k : Nat) : Res :=
  match s.chosenL k with
  | (s, some e) => s.issue e.1 (some e.2)
  | (s, none) => .next s

/-! Events, and time. -/

/-- An event falls; none when it leaves the state as it is. -/
def State.fall (s : State) (e : Instr) : Option Res :=
  match exec e s with
  | .next t => if t = s then none else some (.next { t with epoch := t.epoch + 1 })
  | .fault f => some (.fault f)
  | .refused r => some (.refused r)
/-- The first of some actions that does something. -/
def State.tryActs (s : State) : List Act → Option Res
  | [] => none
  | .scalar k :: _ => some (s.scalarIssue k)
  | .lane k :: _ => some (s.laneIssue k)
  | .event e :: r => match s.fall e with
    | some t => some (onNext t (fun t => { t with burst := t.burst - 1, lull := 0 }))
    | none => State.tryActs s r
  | .hart c :: r =>
    let t := s.hartStep c
    if t = s then State.tryActs s r else some (.next { t with epoch := t.epoch + 1, burst := t.burst - 1, lull := 0 })
/-- An event carried out at its time. -/
def State.runDue (s : State) (e : Instr) : State :=
  match exec e s with
  | .next t => t
  | _ => s
/-- What a new period forgets of the last one (R216, R390). -/
def State.newPeriod (s : State) : State :=
  { s with zero := [], queues := s.queues.map (fun (e : Nat × Queue) => if e.2.readRef then (e.1, { e.2 with readRef := false }) else e) }
/-- The charges of a core cycle that has ended are delivered (R431). -/
def State.chargesDue (s : State) : State :=
  (s.groups.filter (fun e => e.2.pendCharge.isSome && !e.2.stopped && !e.2.stopping && (s.die (dieOf (coreOf e.1))).edge)).foldl
    (fun s e => s.deliver e.1) s
/-- A nominal period goes by (R3, R456): every scheduler has issued what it could in it. -/
def State.clock (s : State) : State :=
  let s := { s.newPeriod with
    cycles := s.cycles + 1, epoch := s.epoch + 1, lull := s.lull + 1,
    burst := max (Config.burst s.cycles) (if Config.patience ≤ s.lull then 1 else 0) }
  let s := s.dies.foldl (fun s e => s.updDie e.1 Die.clock) s
  let s := s.chargesDue.throttled.bootStep.traceRetry
  s.dueEvents.foldl State.runDue s
/-- The machine goes on by itself. -/
def State.goOn (s : State) : Res := (s.tryActs s.acts).getD (.next s.clock)
/-- An input waits: it is an event of the package's own that cannot fall yet, or a request that is not taken while another is carried
out (R282, R322). -/
def State.waits (s : State) (e : Instr) : Bool :=
  isInternal e || (match e with
    | .shoot _ _ _ => s.paging
    | .migrate _ _ _ => s.paging
    | .flip _ _ _ => s.paging
    | .respond _ _ _ => s.paging
    | .supervisorWindowAccess core off size write _ => s.portBusy (onchip core off) size write
    | .supervisorCoreAccess _ op pa size _ => s.portBusy pa size (op != .load)
    | _ => false)
/-- One action: the next input, else what the machine does by itself. -/
def State.act (s : State) : Res :=
  match s.agenda with
  | [] => s.goOn
  | e :: r =>
    if !isEvent e then .next { s with agenda := r }
    else match s.fall e with
      | some t => onNext t (fun t => { t with agenda := t.agenda.tail })
      | none => if s.waits e then s.goOn else .next { s with agenda := r }
/-- What ends a step that began at a tick: its consequences elsewhere; the next step's free values are new ones. -/
def State.finishStep (tick : Nat) (s : State) : State :=
  let s := s.settle.stampTags
  { s with tick := tick + 1, reached := [] }

end Sys2Proof.Machine
end

