-- ==== Sys2Proof/Machine/Load.lean ====
section
/-! DEFINITION. A machine with one resident group whose next instruction is a given word (log 1): what a launch of a one-group kernel
leaves when its team has been admitted, laid down at once. -/

namespace Sys2Proof.Machine

/-- Where the root page table of the load stands; its one leaf maps the first 256 TiB onto device memory (R318). -/
def loadRoot : Nat := 0x100000
/-- Where the load's scalar code begins, and its lane code. -/
def loadCode : Nat := 0x200000
/-- The kernel of the load: code without end, 240 lane registers, 64 KiB of scratch, 8 slots. -/
def loadDesc : Desc :=
  { scode := BitVec.ofNat 64 loadCode, lcode := BitVec.ofNat 64 loadCode, lsize := 0xFFFFFFFF, ssize := 0xFFFFFFFF, vregs := 30, scratch := 16,
    tiles := 8 }
/-- The load's launch: number 1, of queue 0 and partition 0, with its one team admitted. -/
def loadLaunch (tick : Nat) : Launch :=
  { desc := loadDesc, gridx := 1, gridy := 1, gridz := 1, root := BitVec.ofNat 64 loadRoot, st := .running, nextTeam := 1, startTick := tick,
    coresAtAcc := 2, order := 1 }
/-- Its team, on core 0. -/
def loadTeam : Team := { scratch := 0x10000, tiles := 8, started := true }
/-- Its group, at context 0 (R126, R133): about to issue its first scalar instruction. -/
def loadGroup (cycles : Nat) : Group :=
  { launch := 1, vregs := 240, reserve := 0x10000, spc := BitVec.ofNat 64 loadCode, live := lanesMask 32, lastS := cycles, lastL := cycles }
/-- The same group with its S-stream held and one block started, whose path is about to issue lane word 0 (R117). -/
def loadLanes (cycles epoch : Nat) : Group :=
  let p : Path := { pc := 0, mask := lanesMask 32 }
  { (loadGroup cycles) with laneQ := [{}], running := true, slot0 := some p, nextPath := 1, sHeld := epoch + 1 }
/-- The save area of the partition (R408) and its tandem 0 (R382); nothing of it stands in the way of a stop. -/
def loadPart : Partition := { rcd := 1 + (20 <<< 88), trap := 0x10000000 + (0xA00000 <<< 64) }
/-- The state with a word where the next fetch is made: 32 bits a scalar word, 96 bits a lane word. Nothing else may happen first. -/
def State.load1 (s : State) (nbits w : Nat) : State :=
  let n := if nbits ≤ 32 then 4 else 12
  let g := if nbits ≤ 32 then loadGroup s.cycles else loadLanes s.cycles s.epoch
  let lines := [loadRoot / 64, loadCode / 64]
  { s with
    mem := Memory.write (Memory.write s.mem loadRoot 8 0xDF) loadCode n w,
    llc := s.llc.filter (fun l => !lines.contains l.1), badLines := s.badLines.filter (fun l => !lines.contains l),
    groups := [(0, g)], teams := [(keyOf 1 0, loadTeam)], launches := [(1, loadLaunch s.tick)], nextLaunch := 2, nextOrder := 2,
    parts := [(0, loadPart)], queues := [(0, { rcd := 0x21 ||| (256 <<< 336) ||| (64 <<< 352), st := 1, lastacc := 1, doorbell := 1 })],
    cores := Tbl.set [] 0 { lastL := Tbl.set [] 0 s.cycles 0 } {}, dies := [], complexes := [], versions := [], locks := [], coll := [], tags := [],
    sampleIn := [],
    wrote := [], reached := [], zero := [], tests := [], agenda := [], burst := 0, bar2 := 0 }

end Sys2Proof.Machine
end

