-- ==== Sys2Proof/Machine/Step.lean ====
section
/-! DEFINITION. The step of the machine, and the state that is about to run a given word. -/

namespace Sys2Proof.Machine

/-- One step: one action (an input, an issue, an event of the package, or nothing but time), and what ends it. -/
def step (s : State) : Host.Outcome State Fault Refusal := onNext s.act (State.finishStep s.tick)
/-- The state whose next step fetches the instruction in the low bits of w (log 1). -/
def State.withFetchWord (s : State) (nbits w : Nat) : State := s.load1 nbits w

end Sys2Proof.Machine
end

