-- ==== Sys2Proof/Safety.lean ====
section
/-! DEFINITION. The terms in which claims about a step are made: what a frame is, when an instruction can issue, and what a
stop, a result and an access at a port are. -/

namespace Sys2Proof

/-- The 32-bit words of an instruction: one for a scalar word, three for a lane word (R62, R63), none for an event. -/
def Instr.words : Instr → Nat
  | .vadd _ | .vsub _ | .vmul _ | .vmulh _ | .vmad _ | .vmin _ | .vmax _ | .vabs _ | .vneg _ | .vand _
  | .vor _ | .vxor _ | .vnot _ | .vshl _ | .vshr _ | .vsra _ | .vbfe _ | .vbfi _ | .vpopc _ | .vclz _
  | .vbrev _ | .vfadd _ | .vfsub _ | .vfmul _ | .vffma _ | .vfmin _ | .vfmax _ | .vfdiv _ | .vrcp _ | .vrsq _
  | .vsqrt _ | .vexp2 _ | .vlog2 _ | .vsin _ | .vcos _ | .vfrnd _ | .vfcls _ | .vcmp _ _ | .vfcmp _ _ | .pand _
  | .por _ | .pxor _ | .pandn _ | .vcvt _ | .vquant _ | .vdeq _ | .vpack _ | .vunpack _ | .vscale _ | .vmov _
  | .vmovk _ | .vmovi _ | .vsel _ | .vshfl _ | .vbcast _ | .vballot _ | .vred _ | .vscan _ | .vput _ | .vspec _
  | .vld _ | .vst _ | .vlds _ | .vsts _ | .vamo _ | .vrdm _ | .vtget _ | .vtset _ | .lbra _ | .mjoin _
  | .join _ | .lend _ | .lkill _ | .lfmt _ | .lnop _ | .lbrk _ => 3
  | i => if Machine.isEvent i then 0 else 1

namespace Machine

/-! Frames. -/

/-- Nothing of the machine but one group has changed: no other group, no team, no register of the package, no byte of memory. -/
def OnlyGroup (s t : State) (gid : Nat) : Prop :=
  t = { s with groups := t.groups } ∧ ∀ k, k ≠ gid → t.group? k = s.group? k

/-- The model's read of one byte of memory: device memory as its home returns it (the LLC's line, else DRAM), and the byte of every
other memory: scratchpads, Casket slots, window SRAM, host memory (R11, R240). Register windows and batch objects are registers of
their groups. -/
def State.memByte (s : State) (a : Nat) : Byte :=
  match regionOf a with
  | .dram => s.comByte a
  | _ => Memory.byte s.mem a

/-- Every byte of memory reads as before, but for n bytes from an address. -/
def BytesOutside (s t : State) (pa n : Nat) : Prop := ∀ a, (a < pa ∨ pa + n ≤ a) → t.memByte a = s.memByte a

/-- Every byte of memory reads as before. -/
def SameBytes (s t : State) : Prop := ∀ a, t.memByte a = s.memByte a

/-- The byte of memory that the task of a group sees: of device memory what its chain of versions holds, else the committed byte (R334). -/
def State.taskByte (s : State) (g : Group) (a : Nat) : Byte :=
  match regionOf a with
  | .dram => s.chainByte (s.chainOf (s.teamOf g) (s.launchOf g)) a
  | _ => Memory.byte s.mem a

/-- The number, little-endian (R4), in n bytes that the task of a group sees. -/
def State.taskRead (s : State) (g : Group) (a : Nat) : Nat → Nat
  | 0 => 0
  | n + 1 => (s.taskByte g a).toNat + 256 * s.taskRead g (a + 1) n

/-- The version that the task of a group writes in device memory: the first of its chain; none for committed memory (R334, R336). -/
def State.taskHead (s : State) (g : Group) : Option Nat := (s.chainOf (s.teamOf g) (s.launchOf g)).head?

/-- n bytes of memory from an address hold a number, little-endian (R4), and every other byte reads as before. -/
def StoresAt (s t : State) (pa n v : Nat) : Prop := Memory.read t.mem pa n = v % 256 ^ n ∧ BytesOutside s t pa n

/-- One group, memory and what follows an access (its record, error marks, copies of remote lines, monitors, the level reached and free
values drawn) have changed, and nothing else: no other group, no team, launch, queue, partition or version. -/
def OnlyMemory (s t : State) (gid : Nat) : Prop :=
  t = { s with groups := t.groups, mem := t.mem, llc := t.llc, wrote := t.wrote, badLines := t.badLines, dies := t.dies, fresh := t.fresh,
               reached := t.reached }
    ∧ ∀ k, k ≠ gid → t.group? k = s.group? k

/-- The task of a group sees a number in n bytes from an address, and every other byte as before. A write that goes into a version leaves
every byte of committed memory as it was (R334), another one every byte outside those n. -/
def StoresFor (s t : State) (g : Group) (pa n v : Nat) : Prop :=
  t.taskRead g pa n = v % 256 ^ n ∧ (∀ a, (a < pa ∨ pa + n ≤ a) → t.taskByte g a = s.taskByte g a)
    ∧ if regionOf pa = .dram ∧ (s.taskHead g).isSome then SameBytes s t else BytesOutside s t pa n

/-- As OnlyMemory, where an access reaches device memory: the lines and masks of versions, the core's first-level caches and the die's
copies of remote lines may have changed too, and of a die else only its monitors. -/
def OnlyDevice (s t : State) (gid : Nat) : Prop :=
  t = { s with groups := t.groups, mem := t.mem, llc := t.llc, wrote := t.wrote, badLines := t.badLines, dies := t.dies, cores := t.cores,
               versions := t.versions, fresh := t.fresh, reached := t.reached }
    ∧ (∀ k, k ≠ gid → t.group? k = s.group? k)
    ∧ (∀ c, t.core c = { s.core c with l1 := (t.core c).l1, sc := (t.core c).sc })
    ∧ (∀ d, t.die d = { s.die d with l2r := (t.die d).l2r, mons := (t.die d).mons })
    ∧ (∀ v, (Tbl.find t.versions v).map (fun x => { x with lines := [] }) = (Tbl.find s.versions v).map (fun x => { x with lines := [] }))
    ∧ (Tbl.sorted s.cores = true → Tbl.sorted t.cores = true) ∧ (Tbl.sorted s.dies = true → Tbl.sorted t.dies = true)

/-- Nothing has changed but what an access of a group at a port changes. -/
def OnlyAccess (s t : State) (gid pa : Nat) : Prop := if regionOf pa = .dram then OnlyDevice s t gid else OnlyMemory s t gid

/-- Of a group, only its scalar registers, its scalar PC and what an issue of the S-stream ends (R399) have changed. -/
def OnlyScalar (g g' : Group) : Prop :=
  g' = { g with s := g'.s, spc := g'.spc, noWatch := g'.noWatch, sideWait := g'.sideWait, refused := g'.refused }

/-- An event is answered by a next state that has a property. -/
def Falls (s : State) (e : Instr) (P : State → Prop) : Prop := ∃ t, exec e s = .next t ∧ P t

/-! Scalar instructions. -/

/-- A scalar instruction of group g completes with one register result: register d holds v (nothing is written when d is s0,
R161), the next instruction is due, and nothing else has changed. -/
def ScalarResult (s : State) (g : Group) (i : Instr) (d : Reg) (v : W64) : Prop :=
  ∃ t g', exec i s = .next t ∧ OnlyGroup s t s.cur ∧ t.group? s.cur = some g' ∧ OnlyScalar g g'
    ∧ (∀ r, g'.reg r = if r = d ∧ d ≠ 0 then v else g.reg r) ∧ g'.spc = g.spc + 4

/-- A scalar instruction of group g completes, changes the group as f says and goes to its next instruction; nothing else has
changed. -/
def ScalarDone (s : State) (i : Instr) (g : Group) (f : Group → Group) : Prop :=
  exec i s = .next (s.setGroup s.cur (f g).advance)

/-- A scalar instruction completes in a state that has a property, its group being g1 gone to the next instruction, and no other group
changed. -/
def Completes (s : State) (i : Instr) (g1 : Group) (P : State → Prop) : Prop :=
  ∃ t, exec i s = .next t ∧ t.group? s.cur = some g1.advance ∧ (∀ k, k ≠ s.cur → t.group? k = s.group? k) ∧ P t

/-- A scalar instruction of group g takes a stop before itself: the record's cause and address field (R398, R400). -/
def StopsS (s : State) (g : Group) (i : Instr) (c : Cause) (addr : W64) : Prop :=
  exec i s = .next (s.stop s.cur { s.stopRecord s.cur g c false with addr := addr })

/-- A lane instruction of group g takes a stop before itself: the record's cause, address field and faulting lanes (R398, R400). -/
def StopsL (s : State) (g : Group) (i : Instr) (c : Cause) (addr fmask : W64) : Prop :=
  exec i s = .next (s.stop s.cur { s.stopRecord s.cur g c true with addr := addr, fmask := fmask })

/-- The S-stream of group g is held at its instruction until the machine has moved on: only the mark of the hold has changed. -/
def HeldS (s : State) (g : Group) (i : Instr) : Prop := exec i s = .next (s.setGroup s.cur { (g.heldBy 0) with sHeld := s.epoch + 1 })

/-- A transfer of group g goes to a scalar PC (R160): its registers read as regs says, and nothing else of the machine has changed. -/
def JumpsTo (s : State) (g : Group) (i : Instr) (regs : Reg → W64) (pc : W64) : Prop :=
  ∃ t g', exec i s = .next t ∧ OnlyGroup s t s.cur ∧ t.group? s.cur = some g' ∧ OnlyScalar g g' ∧ (∀ r, g'.reg r = regs r) ∧ g'.spc = pc

/-- The registers after a link has been written to s31 (R160). -/
def linked (g : Group) (r : Reg) : W64 := if r = 31 then g.spc + 4 else g.reg r

/-! Lane instructions. -/

/-- Path p of group g can issue a lane word that waits for no window (R123): the group is not overreaching, and every window of
the path that is still open covers this word. ctl: the word waits for every long-latency instruction of its path (R149). -/
structure CanIssue (s : State) (g : Group) (p : Path) (ctl : Bool) : Prop where
  here : s.group? s.cur = some g
  path : g.path? s.slot = some p
  windows : ∀ x ∈ g.pend, x.path = p.id → ctl = false ∧ 0 < x.left
  alone : g.orun = none

/-- The lanes that take part in a word (R181). -/
def takesPart (g : Group) (p : Path) (w : LaneWord) (l : Nat) : Bool := lane (g.active p &&& g.guard w) l

/-- Of a group, only its lane registers, its FLAGS and its paths' progress have changed. -/
def OnlyLanes (g g' : Group) : Prop :=
  g' = { g with v := g'.v, flags := g'.flags, slot0 := g'.slot0, slot1 := g'.slot1, pend := g'.pend, laneN := g'.laneN,
                sideWait := g'.sideWait, refused := g'.refused }

/-- A register of a lane of a group after a word whose results are n registers from vd: register vd + k of a lane that takes part holds
val k l, every other register and lane is as before, and a write to vz is discarded (R84, R179, R181). -/
def laneAfter (g : Group) (p : Path) (w : LaneWord) (n : Nat) (val : Nat → Nat → Nat) (r l : Nat) : W32 :=
  if takesPart g p w l && RegCode.isV w.vd && decide (w.vd.toNat ≤ r) && decide (r < w.vd.toNat + n) then
    BitVec.ofNat 32 (val (r - w.vd.toNat) l)
  else g.vreg r l
/-- FLAGS after the lanes that take part in a word have raised theirs: a bit that is set stays set (R92, R181). -/
def flagsAfter (g : Group) (p : Path) (w : LaneWord) (fl : Nat → Flags) : Flags :=
  g.flags ||| (lanesOf (g.active p &&& g.guard w)).foldl (fun f l => f ||| fl l) 0

/-- A short lane instruction of path p completes: n registers from its destination hold val in the lanes that take part, FLAGS
gains the flags they raise, the path stands at its next word, the windows of the path count the word (R123), every other register, lane
and path is as before, and nothing else has changed. -/
def LaneRows (s : State) (g : Group) (p : Path) (i : Instr) (w : LaneWord) (n : Nat) (val : Nat → Nat → Nat) (fl : Nat → Flags) : Prop :=
  ∃ t g', exec i s = .next t ∧ OnlyGroup s t s.cur ∧ t.group? s.cur = some g' ∧ OnlyLanes g g'
    ∧ (∀ r l, l < 64 → g'.vreg r l = laneAfter g p w n val r l) ∧ g'.flags = flagsAfter g p w fl
    ∧ g'.pend = g.pend.map (fun x => if x.path = p.id then { x with left := x.left - 1 } else x)
    ∧ g'.path? s.slot = some { p with pc := p.pc + 1, redo := none, far := 0, noWatch := false, last := g.laneN + 1 }
    ∧ g'.path? (1 - s.slot) = g.path? (1 - s.slot)
/-- The same for one result of the word's type: val l is the register's 32 bits, or the pair's 64 (R84). -/
def LaneResult (s : State) (g : Group) (p : Path) (i : Instr) (w : LaneWord) (val : Nat → Nat) (fl : Nat → Flags) : Prop :=
  LaneRows s g p i w w.ty.regs (fun k l => val l / 2 ^ (32 * k)) fl
/-- The elements of a result put together, lowest first (R84). -/
def elements (t : Ty) (f : Nat → Nat) : Nat := (List.range t.elems).foldr (fun e x => f e % 2 ^ tyBits t + 2 ^ tyBits t * x) 0
/-- The flags that the elements of a result raise. -/
def elementFlags (t : Ty) (f : Nat → Flags) : Flags := (List.range t.elems).foldl (fun x e => x ||| f e) 0

/-- A number narrowed to an integer type (R185): reduced mod 2^w, or with saturation taken to the nearer end of the type's range. -/
def narrowed (t : Ty) (sat : Bool) (r : Int) : Nat :=
  ((if sat then max (intMin t) (min (intMax t) r) else r) % (2 ^ tyBits t : Nat)).toNat
/-- The flag of a saturating instruction: SAT where the exact result lies outside the type (R185). -/
def satFlag (t : Ty) (sat : Bool) (r : Int) : Flags := if sat = true ∧ (r < intMin t ∨ intMax t < r) then flSAT else 0

/-- A long-latency lane instruction of path p issues, and completes later (R123-R125): with no lane taking part it does nothing and
opens no window; else it opens one window with its lookahead, no register changes, and LONG_LATENCY_COMPLETE leaves lane registers as after
says, gives FLAGS the flags raised and closes the window. P: what else the issue leaves. -/
def LaneLong (s : State) (g : Group) (p : Path) (i : Instr) (w : LaneWord) (after : Nat → Nat → W32) (fl : Nat → Flags)
    (P : State → Prop) : Prop :=
  (g.active p &&& g.guard w = 0 → exec i s = .next (s.setGroup s.cur (g.stepPath s.slot p)))
  ∧ (g.active p &&& g.guard w ≠ 0 → ∃ t x, exec i s = .next t ∧ P t ∧ (∀ k, k ≠ s.cur → t.group? k = s.group? k)
    ∧ t.group? s.cur = some { g.stepPath s.slot p with pend := (g.stepPath s.slot p).pend ++ [x] }
    ∧ x.path = p.id ∧ x.left = w.la.toNat ∧ x.acc = 0
    ∧ Falls t (.longLatencyComplete s.cur g.pend.length) (fun u => ∃ g', u.group? s.cur = some g' ∧ OnlyLanes g g'
        ∧ (∀ k, k ≠ s.cur → u.group? k = s.group? k) ∧ SameBytes t u ∧ g'.pend.length = g.pend.length
        ∧ (∀ r l, l < 64 → g'.vreg r l = after r l) ∧ g'.flags = flagsAfter g p w fl))
/-- The same for one result of the word's type, computed from registers alone (R197): at issue nothing but the group changes. -/
def LaneLater (s : State) (g : Group) (p : Path) (i : Instr) (w : LaneWord) (val : Nat → Nat) (fl : Nat → Flags) : Prop :=
  LaneLong s g p i w (laneAfter g p w w.ty.regs (fun k l => val l / 2 ^ (32 * k))) fl (fun t => OnlyGroup s t s.cur)
/-- What an integer or float reduction over lanes may answer (R199): the sum, and, or and exclusive or of their values, the least or
greatest of them; a float sum, minimum or maximum is that of the tree of R199. -/
def Combined (g : Group) (p : Path) (w : LaneWord) (op : Nat) (set_ : W64) (v : Nat) : Prop :=
  let x := fun l => g.readTy w.ty w.va l
  let ls := lanesOf set_
  match op with
  | 0 => v = ls.foldl (fun a l => a + x l) 0 % 2 ^ tyBits w.ty
  | 1 => v ∈ ls.map x ∧ ∀ l ∈ ls, intVal w.ty v ≤ intVal w.ty (x l)
  | 2 => v ∈ ls.map x ∧ ∀ l ∈ ls, intVal w.ty (x l) ≤ intVal w.ty v
  | 3 => v = ls.foldl (fun a l => a &&& x l) (2 ^ tyBits w.ty - 1)
  | 4 => v = ls.foldl (fun a l => a ||| x l) 0
  | 5 => v = ls.foldl (fun a l => a ^^^ x l) 0
  | _ => (redTree g p w op set_).map (·.1) = some v

/-- Of a group, only its predicates, its FLAGS and its paths' progress have changed. -/
def OnlyPredicates (g g' : Group) : Prop :=
  g' = { g with p := g'.p, flags := g'.flags, slot0 := g'.slot0, slot1 := g'.slot1, pend := g'.pend, laneN := g'.laneN,
                sideWait := g'.sideWait, refused := g'.refused }
/-- A lane word that writes predicates completes: predicate q of every lane of the group reads val q l (p7 reads 1, R180), FLAGS gains
fl, the path stands at its next word, and nothing else has changed. -/
def PredResult (s : State) (g : Group) (p : Path) (i : Instr) (val : Nat → Nat → Bool) (fl : Flags) : Prop :=
  ∃ t g', exec i s = .next t ∧ OnlyGroup s t s.cur ∧ t.group? s.cur = some g' ∧ OnlyPredicates g g'
    ∧ (∀ q l, l < g.lanew → lane (g'.pred q) l = if q = 7 then true else val q l) ∧ g'.flags = g.flags ||| fl
    ∧ g'.path? s.slot = some { p with pc := p.pc + 1, redo := none, far := 0, noWatch := false, last := g.laneN + 1 }
    ∧ g'.path? (1 - s.slot) = g.path? (1 - s.slot)
/-- A compare (R193): in every active lane the first destination holds the condition, the second its complement, both 0 where the
guard is false; inactive lanes and other predicates are as before. -/
def CompareResult (s : State) (g : Group) (p : Path) (i : Instr) (w : LaneWord) (c : Nat → Bool) (fl : Flags) : Prop :=
  PredResult s g p i (fun q l =>
    if lane (g.active p) l && q == w.vd.toNat / 4 % 8 then lane (g.guard w) l && !c l
    else if lane (g.active p) l && q == w.vd.toNat / 32 then lane (g.guard w) l && c l
    else lane (g.pred q) l) fl

/-- A lane control word of path p completes, its group becoming g1, and nothing else has changed. -/
def Controls (s : State) (i : Instr) (g1 : Group) : Prop := exec i s = .next (s.setGroup s.cur g1)

/-! Accesses. -/

/-- n bytes at a port are ordinary memory outside device memory: a scratchpad, of whatever core, or host memory. -/
def PlainMemory (pa n : Nat) : Prop :=
  (∃ core off, pa = onchip core off ∧ core < 160 ∧ off + n ≤ 0x400000) ∨ (2 ^ 64 ≤ pa ∧ pa + n ≤ 2 ^ 65)

/-- n bytes at a port are device memory that a task reaches as it is: within one line, of which the LLC holds no clean copy that DRAM no
longer equals (R240), and the task is no live prediction. A write finds the version that it goes to (R334, R336, R342) with the line in it,
or goes to committed memory, and nothing keeps the group's writes waiting. -/
structure DeviceMemory (s : State) (g : Group) (pa n : Nat) (rw : Rw) : Prop where
  dram : regionOf pa = .dram
  line : pa % 64 + n ≤ 64
  decided : ((s.launchOf g).pred && (s.launchOf g).live) = false
  current : ∀ l, Tbl.find s.llc (pa / 64) = some l → l.dirty = true ∨ l.data = s.dramLine (pa / 64)
  named : g.team < 2 ^ 32
  goes : rw ≠ .rd → g.stallLogged = false ∧ g.heldVer = false ∧ match s.taskHead g with
    | none => (s.launchOf g).desc.cls = 1 ∧ (s.launchOf g).taskParent = none
    | some v => (if (s.launchOf g).desc.cls = 1 then (s.launchOf g).taskParent else (s.teamOf g).version) = some v
        ∧ (s.vline v (pa / 64)).isSome = true

/-- A release at a scope finds nothing of the group still to be performed, and no version to publish (R247, R337). -/
def ReleasesAtOnce (s : State) (g : Group) (o : Order) (sc : Scope) : Prop :=
  o.releases = true → (1 ≤ sc.code → s.sideOf s.cur g = []) ∧ (3 ≤ sc.code → (s.teamOf g).version = none)

/-- An access of n bytes at va by a stream (0 the S-stream, 1 and 2 the paths in slots 0 and 1) is an ordinary one: it is aligned; its
address, in the team's scratch aperture, a team window or a mapped page, leads to port pa, with nothing of the translation left to be done
(R205, R258, R318); it meets no watchpoint; nothing of the group or its core stands in its way, and no lock request waits. -/
structure Access (s : State) (g : Group) (k va n pa : Nat) (rw : Rw) : Prop where
  here : s.group? s.cur = some g
  port : ∀ touch, s.locate s.cur g va n rw touch = (.port pa, s)
  unrefused : inTeamWin va = true → g.refusedTo k va = false
  kind : PlainMemory pa n ∨ DeviceMemory s g pa n rw
  aligned : va % n = 0
  unwatched : s.gwHit s.cur g k va n rw = false
  alone : g.orun = none
  settled : g.posted = []
  room : k = 0 → s.tableRoom s.cur 0 1 = true
  clear : ∀ wr, s.sideBlocks s.cur g va pa n wr = false
  unlocked : s.locks = []
  good : s.bad pa n = false

/-- An ordinary access in the issuing team's own scratchpad (R205, R208). -/
structure ScratchAccess (s : State) (g : Group) (k va n pa : Nat) (rw : Rw) : Prop where
  access : Access s g k va n pa rw
  inside : inAperture va = true
  plain : PlainMemory pa n

/-- An atomic at tandem scope or wider acts on the parent of the task's version (R338): the accesses that a statement is about are narrower, or
have no version. -/
def Narrow (s : State) (g : Group) (pa : Nat) (sc : Scope) : Prop := regionOf pa = .dram → sc.code < 2 ∨ s.taskHead g = none

/-- Every lane that takes part in a word makes an ordinary access of n bytes at va l, which leads to port pa l, also once other lanes have
made theirs. -/
structure LanesAccess (s : State) (g : Group) (p : Path) (w : LaneWord) (va pa : Nat → Nat) (n : Nat) (rw : Rw) : Prop where
  whole : p.redo = none
  lanes : ∀ l, takesPart g p w l = true → Access s g (1 + s.slot) (va l) n (pa l) rw
  stays : ∀ l, takesPart g p w l = true → ∀ (u : State) (touch : Bool), OnlyDevice s u s.cur →
    (∀ a, (∀ m, takesPart g p w m = true → a < pa m ∨ pa m + n ≤ a) → u.memByte a = s.memByte a) →
    u.locate s.cur g (va l) n rw touch = (.port (pa l), u)
/-- No two lanes that take part in a word touch a byte in common. -/
def LanesApart (g : Group) (p : Path) (w : LaneWord) (pa : Nat → Nat) (n : Nat) : Prop :=
  ∀ l m, takesPart g p w l = true → takesPart g p w m = true → l ≠ m → pa l + n ≤ pa m ∨ pa m + n ≤ pa l
/-- The task of a group sees v l in the n bytes at pa l for every lane that takes part, and every byte that no lane touches as before; so
does committed memory, of which writes into a version change nothing (R334). -/
def LanesStore (s t : State) (g : Group) (p : Path) (w : LaneWord) (pa v : Nat → Nat) (n : Nat) : Prop :=
  (∀ l, takesPart g p w l = true → t.taskRead g (pa l) n = v l % 256 ^ n)
  ∧ (∀ a, (∀ l, takesPart g p w l = true → a < pa l ∨ pa l + n ≤ a) → t.taskByte g a = s.taskByte g a ∧ t.memByte a = s.memByte a)
  ∧ ((s.taskHead g).isSome = true → ∀ a, regionOf a = .dram → t.memByte a = s.memByte a)

/-- No cache of a core, nor its die's copies of remote lines, holds the line of an address. -/
def State.uncached (s : State) (core pa : Nat) : Prop :=
  Tbl.find (s.core core).l1 (pa / 64) = none ∧ Tbl.find (s.core core).sc (pa / 64) = none ∧ Tbl.find (s.die (dieOf core)).l2r (pa / 64) = none

/-- The atomic and ordered scalar accesses at one address (R244, R246, R249), w: of 64 bits; each with its kind of access, whether it returns a value or waits for
one, as `lock` and `unlock` do (R176, R249), and the reduction that it is. -/
def orderedForms (d a b : Reg) (o : Order) (sc : Scope) (w : Bool) : List (Instr × Rw × Bool × Option Nat) :=
  [(.samoAdd d a b o sc w, .amo, true, none), (.samoAnd d a b o sc w, .amo, true, none), (.samoOr d a b o sc w, .amo, true, none),
   (.samoXor d a b o sc w, .amo, true, none), (.samoMin d a b o sc w, .amo, true, none), (.samoMax d a b o sc w, .amo, true, none),
   (.samoMinn d a b o sc w, .amo, true, none), (.samoMaxn d a b o sc w, .amo, true, none), (.samoSwap d a b o sc w, .amo, true, none),
   (.scas d a b o sc w, .amo, true, none), (.sldo d a o sc w, .rd, true, none), (.ssto a b o sc w, .wr, false, none),
   (.sredAdd a b o sc w, .amo, false, some 0), (.sredAnd a b o sc w, .amo, false, some 1), (.sredOr a b o sc w, .amo, false, some 2),
   (.sredXor a b o sc w, .amo, false, some 3), (.sredMin a b o sc w, .amo, false, some 4), (.sredMax a b o sc w, .amo, false, some 5),
   (.sredMinn a b o sc w, .amo, false, some 6), (.sredMaxn a b o sc w, .amo, false, some 7), (.lock a sc w, .amo, true, none),
   (.unlock a sc w, .amo, true, none)]
  ++ if w then [] else [(.samoFadd d a b o sc, .amo, true, none), (.sredFadd a b o sc, .amo, false, some 10)]

/-- A scalar access of a group: its address, bytes and kind, whether it returns a value or waits for one, the data that it stores or
combines, and the reduction that it is. free: a release part of it finds nothing to wait for. -/
inductive AccessForm (s : State) (g : Group) : Instr → W64 → Nat → Rw → Bool → W64 → Option Nat → (free : Prop) → Prop where
  | sld (d a : Reg) (sz : Size) (bp : Bool) (off : BitVec 12) :
      AccessForm s g (.sld d a sz bp off) (g.reg a + off.signExtend 64) sz.bytes .rd true (g.reg d) none True
  | sst (d a : Reg) (sz : Size) (off : BitVec 12) :
      AccessForm s g (.sst d a sz off) (g.reg a + off.signExtend 64) sz.bytes .wr false (g.reg d) none True
  | ordered (d a b : Reg) (o : Order) (sc : Scope) (w : Bool) (i : Instr) (rw : Rw) (ret : Bool) (op : Option Nat) :
      (i, rw, ret, op) ∈ orderedForms d a b o sc w →
      AccessForm s g i (g.reg a) (if w then 8 else 4) rw ret (g.reg b) op (ReleasesAtOnce s g o sc)

/-- A store or reduction of n bytes at a virtual address stands in a side-log entry (R326): its line, address space, bytes and issuer, and its
data or its reduction. -/
def Retired (e : SideEntry) (asid : BitVec 16) (iss : Issuer) (va n v : Nat) (op : Option Nat) : Prop :=
  e.va.toNat = va / 64 * 64 ∧ e.asid = asid ∧ e.iss = iss ∧ e.op = op ∧ (∀ i < n, e.mask.getLsbD (va % 64 + i) = true)
    ∧ (op = none → ∀ i < n, lineByte e.data (va % 64 + i) = BitVec.ofNat 8 (v / 256 ^ i))
    ∧ (op ≠ none → ∃ x ∈ e.reds, x.ea = va ∧ x.val = BitVec.ofNat 64 (v % 256 ^ n))

/-- Nothing has changed but what asking for pages of a partition and retiring into side logs change: the partitions' page requests, the ring that
holds their records, and the cores' side logs (R324, R326). -/
def OnlyAsks (s t : State) (gid p : Nat) : Prop :=
  t = { s with groups := t.groups, mem := t.mem, llc := t.llc, wrote := t.wrote, badLines := t.badLines, parts := t.parts, cores := t.cores,
               fresh := t.fresh }
    ∧ (∀ k, k ≠ gid → t.group? k = s.group? k)
    ∧ (∀ c, t.core c = { s.core c with sideLog := (t.core c).sideLog })
    ∧ (∀ q, t.part q = { s.part q with reqs := (t.part q).reqs, nextTag := (t.part q).nextTag, prqHead := (t.part q).prqHead,
                                        pageIrqs := (t.part q).pageIrqs })
    ∧ ∀ a, (a < fld (s.part p).rcd 160 64 ∨ fld (s.part p).rcd 160 64 + 32 * 2 ^ fld (s.part p).rcd 224 5 ≤ a) → t.memByte a = s.memByte a

/-- A lane instruction stops its group: the record's cause, address and faulting lanes, in a state that has a property (R243). -/
def StopsLanes (s : State) (i : Instr) (c : Cause) (addr fmask : W64) (P : State → Prop) : Prop :=
  ∃ u r, exec i s = .next (u.stop s.cur r) ∧ r.cause = c ∧ r.addr = addr ∧ r.fmask = fmask ∧ r.lane = true ∧ P u

/-- An instruction stops its group before itself in the state u that its checks have left: the record's cause and address field (R398, R400). -/
def StopsIn (s u : State) (g : Group) (i : Instr) (c : Cause) (addr : W64) : Prop :=
  exec i s = .next (u.stop s.cur { u.stopRecord s.cur g c false with addr := addr })

/-- An object operand names an object of the team in scratchpad memory that the group may reach (R212, R220). -/
structure ScratchObject (s : State) (g : Group) (va : W64) (rw : Rw) (o : ObjRef) : Prop where
  here : s.group? s.cur = some g
  check : s.objCheck s.cur g va.toNat rw = .ok o
  chip : ∃ core off, o.pa = onchip core off ∧ core < 160 ∧ off + 64 ≤ 0x400000
  alone : g.orun = none
  settled : g.posted = []

/-- The records that a stop of a context makes lie in device memory, in pages that their partition may write, each apart from the others:
its frame, the trap ring of its partition, and the trap queue of its core (R402, R406, R410, R445). -/
structure RecordsInMemory (s : State) (p gid : Nat) : Prop where
  frame : ∀ i < 512, regionOf (s.frameAt p gid + i) = .dram ∧ s.recordable p (s.frameAt p gid + i) = true
  ring : ∀ i < 64 * 2 ^ fld (s.part p).trap 192 5, regionOf (fld (s.part p).trap 128 64 + i) = .dram
    ∧ s.recordable p (fld (s.part p).trap 128 64 + i) = true
  queue : ∀ i < 16384, regionOf ((s.core (coreOf gid)).stqBase.toNat + i) = .dram
    ∧ s.recordable ((s.partOfCore (coreOf gid)).getD 16) ((s.core (coreOf gid)).stqBase.toNat + i) = true
  frameRing : overlaps (s.frameAt p gid) 512 (fld (s.part p).trap 128 64) (64 * 2 ^ fld (s.part p).trap 192 5) = false
  frameQueue : overlaps (s.frameAt p gid) 512 (s.core (coreOf gid)).stqBase.toNat 16384 = false

/-! Commands of the host. -/

/-- A page command of an operation finds everything in order (R321, R322): a requester that reaches the partition, no command being
carried out, the next sequence number, an aligned VA, and reserved fields zero. -/
structure PageReady (s : State) (r : Requester) (p : Nat) (cmd : BitVec 512) (op : Nat) : Prop where
  may : s.mayPart r p = true
  free : s.paging = false
  op : fld cmd 0 8 = op
  seq : fld cmd 32 32 = (fld (s.part p).ack 0 32 + 1) % 2 ^ 32
  low : fld cmd 10 6 = 0
  high : fld cmd 256 256 = 0
  aligned : fld cmd 64 12 = 0
/-- A page command is acknowledged (R322): STATUS, ACKSTC, the page interrupt, and DONESEQ. -/
def PageAnswered (s t : State) (p status seq : Nat) : Prop :=
  fld (t.part p).ack 32 8 = status ∧ fld (t.part p).ack 64 64 = s.stc ∧ fld (t.part p).ack 0 32 = seq
    ∧ (t.part p).pageIrqs = (s.part p).pageIrqs + 1
/-- A host command of an operation finds everything in order (R322, R408). -/
structure HostReady (s : State) (r : Requester) (p : Nat) (cmd : BitVec 128) (op : Nat) : Prop where
  may : s.mayPart r p = true
  op : fld cmd 0 8 = op
  zero : fld cmd 8 16 = 0
  seq : BitVec.ofNat 32 (fld cmd 96 32) = (s.part p).hdone + 1
/-- A host command has been taken and ended with a status (R408, R409). -/
def HostTaken (t : State) (p : Nat) (cmd : BitVec 128) (status : Nat) : Prop :=
  (t.part p).hdone = BitVec.ofNat 32 (fld cmd 96 32) ∧ (t.part p).hstatus = status
/-- A parked group goes on as its frame says (R403, R407): registers, PC, FMT, FLAGS and critical count come from the frame's bits. -/
def Reloaded (s : State) (g g' : Group) (gid : Nat) : Prop :=
  let w := ofBytes (s.portRead (s.frameAt (s.launchOf g).part gid) 512)
  g'.parked = none ∧ (∀ r : Reg, r ≠ 0 → g'.reg r = BitVec.ofNat 64 (bits w (64 * r.toNat) 64)) ∧ g'.spc = BitVec.ofNat 64 (bits w 2048 64)
    ∧ g'.fmt = BitVec.ofNat 19 (bits w 2112 19) ∧ g'.flags = BitVec.ofNat 7 (bits w 2144 7) ∧ g'.crit = BitVec.ofNat 8 (bits w 2632 8)
/-- A group parked on a record of its own that was delivered to a party, with nothing else pending for it. -/
def ParkedAt (s : State) (gid : Nat) (g : Group) (k : Park) (who : Handler) : Prop :=
  s.group? gid = some g ∧ g.parked = some k ∧ k.who = who ∧ k.silent = false ∧ k.rcd.iret = false ∧ g.pendHalt = false ∧ g.pendCharge = none

end Machine

end Sys2Proof
end

