-- ==== Sys2Proof/Certificates/Slice0/Obligations.lean ====
section
/-! DEFINITION. The statements about this model that are to be proved. Each says in its docstring which rules of the spec it rests on. -/

open Sys2Proof Sys2Proof.Machine


/-- For every well-formed instruction whose word is a scalar word, with every operand at every value the encoding admits, decoding the word that the
encoder gives answers that instruction; and the word has 32 bits. (R65, R66, R67, R68, R69, R70, R71, R72, spec/03_formats_and_opcode_map.md) -/
def Obligations.DecodeEncodeScalar : Prop :=
  ∀ i : Instr, i.words = 1 → i.wellFormed = true → decodeScalar (encode i) = .ok i ∧ encode i < 2 ^ 32

/-- For every well-formed instruction whose word is a lane word, with every guard, lookahead, register, type, modifier and x32 value the encoding admits,
decoding the word that the encoder gives answers that instruction; and the word has 96 bits. (R73, R74, R75, R76, R77, R78, R79, R80, R81,
spec/03_formats_and_opcode_map.md) -/
def Obligations.DecodeEncodeLane : Prop :=
  ∀ i : Instr, i.words = 3 → i.wellFormed = true → decodeLane (encode i) = .ok i ∧ encode i < 2 ^ 96

/-- If a scalar or lane word decodes to an instruction, the instruction is well-formed and its encoding is the word: no bit of a word is dropped, and no
word with a stray reserved bit decodes. (R66, R82, spec/03_formats_and_opcode_map.md) -/
def Obligations.EncodeDecodeWord : Prop :=
  ∀ (w : Nat) (i : Instr), (decodeScalar w = .ok i ∨ decodeLane w = .ok i) → i.wellFormed = true ∧ encode i = w

/-- The sample words of the spec: div s3,s4,s5; clz s1,s2; sext.w s6,s7; lih; srai; andi; sld.w.bp; sst.b; blt; bne; call; jr; callr; ret; lgo; spawn; srd
STC; srd FLAGS; stime; vadd.i32.sat; vshfl.xor; vred.fadd. (R67, R70, R133, R159, R166, R169, R170, R128, R137, R185, R198) -/
def Obligations.DecodeSpecWords : Prop :=
  decodeScalar 0x04642805 = .ok (.div 3 4 5) ∧ decodeScalar 0x04220017 = .ok (.clz 1 2)
  ∧ decodeScalar 0x04C7001C = .ok (.sextW 6 7) ∧ decodeScalar 0x28A089AC = .ok (.lih 5 0x89AC)
  ∧ decodeScalar 0x2042003F = .ok (.srai 2 2 63) ∧ decodeScalar 0x0C8400FF = .ok (.andi 4 4 0xFF)
  ∧ decodeScalar 0x34E29FF8 = .ok (.sld 7 2 .w true 0xFF8) ∧ decodeScalar 0x38E20003 = .ok (.sst 7 2 .b 3)
  ∧ decodeScalar 0x349EC010 = .ok (.sld 4 30 .d false 16) ∧ decodeScalar 0x44640005 = .ok (.blt 3 4 5)
  ∧ decodeScalar 0x4020FFFD = .ok (.bne 1 0 0xFFFD) ∧ decodeScalar 0x5BFFFFF0 = .ok (.call 0x3FFFFF0)
  ∧ decodeScalar 0x5C050000 = .ok (.jr 5) ∧ decodeScalar 0x5C060001 = .ok (.callr 6) ∧ decodeScalar 0x5C000002 = .ok .ret
  ∧ decodeScalar 0x60054100 = .ok (.lgo 5 8 4) ∧ decodeScalar 0x64890000 = .ok (.spawn 4 9)
  ∧ decodeScalar 0x64600005 = .ok (.srd 3 0) ∧ decodeScalar 0x64600445 = .ok (.srd 3 0x11) ∧ decodeScalar 0x64600008 = .ok (.stime 3)
  ∧ decodeLane 0x017003010200010000000000 = .ok (.vadd { gp := 7, vd := 3, va := 1, vb := 2, md := 1 })
  ∧ decodeLane 0x067004040001080400000001 = .ok (.vshfl { gp := 7, vd := 4, va := 4, vc := 1, md := 8, x32 := 1 })
  ∧ decodeLane 0x067008060006200700000000 = .ok (.vred { gp := 7, vd := 8, va := 6, vc := 6, ty := .f32 })

/-- When no input waits, the next action is the scheduler of quarter k and its choice is group gid, which has no held update, refused store or page wait
to see to, and the word fetched there decodes to an instruction that is legal for the group, the step is exec of that instruction in the state the
fetch leaves with the issuer named (field cur is the model's), followed by what an issue and a step leave (the scheduler's times, the consequences of
writes, time). (R62, R64, R82, R119, spec/05_groups_and_issue.md) -/
def Obligations.StepRunsScalarWord : Prop :=
  ∀ (s u : State) (k gid : Nat) (g : Machine.Group) (rest : List Act) (w : Nat) (s1 : State) (i : Instr),
    s.agenda = [] → s.acts = .scalar k :: rest → s.chosenS k = (u, some gid) → u.group? gid = some g →
    g.heldUpd = [] → g.pendStore = none → g.pageSince = none → g.sideWait = none →
    u.fetchScalar gid g = (.word w, s1) → decodeScalar w = .ok i →
    i.legalIn g.vregs g.lanew ({ s1 with cur := gid }.launchOf g).desc.lsize = true →
    step s = onNext (onNext (exec i { s1 with cur := gid })
        (fun t => t.afterIssue gid none g (BitVec.ofNat 32 (wordIndex (u.launchOf g) g.spc)))) (State.finishStep s.tick)

/-- When no input waits, the next action is the scheduler of quarter k and its choice is the path in a slot of group gid, which has no held update,
refused store or page wait to see to, the word fetched at its index decodes to an instruction legal for the group, and its quarter has leave (R453),
the step is exec of that instruction in the state the fetch leaves, with some elements of incomplete long-latency results already written (R125; which
is free, log 53), followed by what an issue and a step leave. (R63, R64, R82, R119, R453, spec/05_groups_and_issue.md) -/
def Obligations.StepRunsLaneWord : Prop :=
  ∀ (s u : State) (k gid slot : Nat) (g : Machine.Group) (p : Path) (rest : List Act) (w : Nat) (s1 : State) (i : Instr),
    s.agenda = [] → s.acts = .lane k :: rest → s.chosenL k = (u, some (gid, slot)) → u.group? gid = some g →
    g.heldUpd = [] → g.pendStore = none → g.pageSince = none → g.sideWait = none →
    g.path? slot = some p → u.fetchLane gid g p.pc = (.word w, s1) → decodeLane w = .ok i →
    i.legalIn g.vregs g.lanew ({ s1 with cur := gid, slot := slot }.launchOf g).desc.lsize = true →
    ({ s1 with cur := gid, slot := slot } : State).quarterLeave gid = true →
    step s = onNext (onNext (exec i (({ s1 with cur := gid, slot := slot } : State).landEarly gid))
        (fun t => t.afterIssue gid (some slot) g p.pc)) (State.finishStep s.tick)

/-- When the head of the agenda (log 5: the inputs and chosen events of a run) is an event that changes the state, the step is exec of it, the agenda goes
on, and the step ends as every step does. (R3, spec/05_groups_and_issue.md, spec/25_host_links_security.md) -/
def Obligations.StepTakesEvent : Prop :=
  ∀ (s t : State) (e : Instr) (r : List Instr), s.agenda = e :: r → isEvent e = true → exec e s = .next t → t ≠ s →
    step s = .next (State.finishStep s.tick { t with epoch := t.epoch + 1, agenda := t.agenda.tail })

/-- The tick numbers the free values of a step: it is the model's own counter (log 51), which no rule of the spec names, for the values that the spec
leaves undefined. From any state at all, a step that answers a next state has moved it on by exactly one, so no two steps of a run share a free value
drawn by their tick. (spec/00_scope.md) -/
def Obligations.EveryStepIsNew : Prop :=
  ∀ s t : State, step s = .next t → t.tick = s.tick + 1

/-- A scalar word that does not decode, or decodes to an instruction that is not legal for the group, stops its group with cause ILLEGAL and address 0,
naming the instruction that issued; the same for a lane word, with the LANE bit. A scalar PC outside the code range or not a multiple of four faults
ILLEGAL with the PC as address. (R62, R63, R82, R399, spec/03_formats_and_opcode_map.md) -/
def Obligations.IllegalWordStops : Prop :=
  ∀ (s : State) (gid : Nat) (g : Machine.Group),
    (∀ (w : Nat) (s1 : State), s.fetchScalar gid g = (.word w, s1) →
      (∀ i, decodeScalar w = .ok i → i.legalIn g.vregs g.lanew ({ s1 with cur := gid }.launchOf g).desc.lsize = false) →
      s.scalarStep gid g = ({ s1 with cur := gid } : State).trapS gid g .illegal 0)
    ∧ (∀ (slot : Nat) (p : Path) (w : Nat) (s1 : State), s.fetchLane gid g p.pc = (.word w, s1) →
      (∀ i, decodeLane w = .ok i → i.legalIn g.vregs g.lanew ({ s1 with cur := gid, slot := slot }.launchOf g).desc.lsize = false) →
      s.laneStep gid slot g p = ({ s1 with cur := gid, slot := slot } : State).trapL gid g .illegal 0 0)
    ∧ ((g.spc.toNat % 4 ≠ 0 ∨ g.spc.toNat < (s.launchOf g).desc.scode.toNat
        ∨ (s.launchOf g).desc.scode.toNat + 4 * (s.launchOf g).desc.ssize ≤ g.spc.toNat) →
      s.scalarStep gid g = ({ s with cur := gid } : State).trapS gid g .illegal g.spc)
    ∧ (∀ (slot : Nat) (p : Path), (s.launchOf g).desc.lsize ≤ p.pc.toNat →
      s.laneStep gid slot g p = ({ s with cur := gid, slot := slot } : State).trapL gid g .illegal 0 0)

/-- For every register choice and every state: add, sub, mul, mulh, mulhn, and, or, xor, shl, shr, sra, min, max, minn, maxn, slt, sltn, seq, sne,
sext.b/h/w and zext.b/h/w complete; the destination holds the result of R166 (nothing is written when it is s0), every other register, flag,
predicate, lane register, special register and byte of memory is as before, and the S-stream is at the next instruction. (R161, R166,
spec/07_scalar_stream.md) -/
def Obligations.ScalarAluResults : Prop :=
  ∀ (s : State) (g : Machine.Group), s.group? s.cur = some g → ∀ d a b : Reg,
    ScalarResult s g (.add d a b) d (g.reg a + g.reg b) ∧ ScalarResult s g (.sub d a b) d (g.reg a - g.reg b)
    ∧ ScalarResult s g (.mul d a b) d (g.reg a * g.reg b)
    ∧ ScalarResult s g (.mulh d a b) d (BitVec.ofInt 64 ((g.reg a).toInt * (g.reg b).toInt / 2 ^ 64))
    ∧ ScalarResult s g (.mulhn d a b) d (BitVec.ofNat 64 ((g.reg a).toNat * (g.reg b).toNat / 2 ^ 64))
    ∧ ScalarResult s g (.and d a b) d (g.reg a &&& g.reg b) ∧ ScalarResult s g (.or d a b) d (g.reg a ||| g.reg b)
    ∧ ScalarResult s g (.xor d a b) d (g.reg a ^^^ g.reg b)
    ∧ ScalarResult s g (.shl d a b) d (g.reg a <<< ((g.reg b).extractLsb' 0 6).toNat)
    ∧ ScalarResult s g (.shr d a b) d (g.reg a >>> ((g.reg b).extractLsb' 0 6).toNat)
    ∧ ScalarResult s g (.sra d a b) d ((g.reg a).sshiftRight ((g.reg b).extractLsb' 0 6).toNat)
    ∧ ScalarResult s g (.min d a b) d (if (g.reg b).toInt < (g.reg a).toInt then g.reg b else g.reg a)
    ∧ ScalarResult s g (.max d a b) d (if (g.reg a).toInt < (g.reg b).toInt then g.reg b else g.reg a)
    ∧ ScalarResult s g (.minn d a b) d (if g.reg b < g.reg a then g.reg b else g.reg a)
    ∧ ScalarResult s g (.maxn d a b) d (if g.reg a < g.reg b then g.reg b else g.reg a)
    ∧ ScalarResult s g (.slt d a b) d (if (g.reg a).toInt < (g.reg b).toInt then 1 else 0)
    ∧ ScalarResult s g (.sltn d a b) d (if g.reg a < g.reg b then 1 else 0)
    ∧ ScalarResult s g (.seq d a b) d (if g.reg a = g.reg b then 1 else 0)
    ∧ ScalarResult s g (.sne d a b) d (if g.reg a = g.reg b then 0 else 1)
    ∧ ScalarResult s g (.sextB d a) d (((g.reg a).setWidth 8).signExtend 64)
    ∧ ScalarResult s g (.sextH d a) d (((g.reg a).setWidth 16).signExtend 64)
    ∧ ScalarResult s g (.sextW d a) d (((g.reg a).setWidth 32).signExtend 64)
    ∧ ScalarResult s g (.zextB d a) d (((g.reg a).setWidth 8).setWidth 64)
    ∧ ScalarResult s g (.zextH d a) d (((g.reg a).setWidth 16).setWidth 64)
    ∧ ScalarResult s g (.zextW d a) d (((g.reg a).setWidth 32).setWidth 64)

/-- div, divn, rem and remn complete for all operands, with a quotient and a remainder such that: a zero divisor gives all ones and the dividend; -2^63 by
-1 gives -2^63 and 0; otherwise the signed quotient truncates toward zero, |m| < |b| and the remainder has the sign of the dividend; and always a =
q*b + m mod 2^64. (R167) -/
def Obligations.ScalarDivision : Prop :=
  ∀ (s : State) (g : Machine.Group), s.group? s.cur = some g → ∀ d a b : Reg, ∃ q m qn mn : W64,
    ScalarResult s g (.div d a b) d q ∧ ScalarResult s g (.rem d a b) d m
    ∧ ScalarResult s g (.divn d a b) d qn ∧ ScalarResult s g (.remn d a b) d mn
    ∧ q * g.reg b + m = g.reg a ∧ qn * g.reg b + mn = g.reg a
    ∧ (g.reg b = 0 → q = 0xFFFFFFFFFFFFFFFF ∧ qn = 0xFFFFFFFFFFFFFFFF ∧ m = g.reg a ∧ mn = g.reg a)
    ∧ (g.reg a = 0x8000000000000000 → g.reg b = 0xFFFFFFFFFFFFFFFF → q = 0x8000000000000000 ∧ m = 0)
    ∧ (g.reg b ≠ 0 → ¬ (g.reg a = 0x8000000000000000 ∧ g.reg b = 0xFFFFFFFFFFFFFFFF) →
        q.toInt = (g.reg a).toInt.tdiv (g.reg b).toInt ∧ m.toInt.natAbs < (g.reg b).toInt.natAbs
        ∧ (g.reg a).toInt = q.toInt * (g.reg b).toInt + m.toInt
        ∧ (0 < (g.reg a).toInt → 0 ≤ m.toInt) ∧ ((g.reg a).toInt < 0 → m.toInt ≤ 0)
        ∧ qn.toNat = (g.reg a).toNat / (g.reg b).toNat ∧ mn.toNat = (g.reg a).toNat % (g.reg b).toNat)

/-- clz completes with the number n of zero bits above the highest one bit, ctz with the number of zero bits below the lowest one bit (64 when the operand
is 0), and popc with the number of one bits; nothing else changes. (R161, R166, spec/07_scalar_stream.md) -/
def Obligations.ScalarBitCounts : Prop :=
  ∀ (s : State) (g : Machine.Group), s.group? s.cur = some g → ∀ d a : Reg,
    (∃ n, n ≤ 64 ∧ ScalarResult s g (.clz d a) d (BitVec.ofNat 64 n)
      ∧ (∀ i, i < n → (g.reg a).getLsbD (63 - i) = false) ∧ (n < 64 → (g.reg a).getLsbD (63 - n) = true))
    ∧ (∃ n, n ≤ 64 ∧ ScalarResult s g (.ctz d a) d (BitVec.ofNat 64 n)
      ∧ (∀ i, i < n → (g.reg a).getLsbD i = false) ∧ (n < 64 → (g.reg a).getLsbD n = true))
    ∧ ScalarResult s g (.popc d a) d (BitVec.ofNat 64 ((List.range 64).countP (fun i => (g.reg a).getLsbD i)))

/-- addi, andi, ori, xori, shli, shri, srai, slti, lih, lhh and lhx complete for every register, immediate and state with the values of R169 in the
destination (nothing is written when it is s0), and change nothing else. (R169) -/
def Obligations.ScalarImmediateResults : Prop :=
  ∀ (s : State) (g : Machine.Group), s.group? s.cur = some g → ∀ (d a : Reg) (imm : BitVec 16) (n : BitVec 6),
    ScalarResult s g (.addi d a imm) d (g.reg a + imm.signExtend 64)
    ∧ ScalarResult s g (.andi d a imm) d (g.reg a &&& imm.setWidth 64)
    ∧ ScalarResult s g (.ori d a imm) d (g.reg a ||| imm.setWidth 64)
    ∧ ScalarResult s g (.xori d a imm) d (g.reg a ^^^ imm.setWidth 64)
    ∧ ScalarResult s g (.shli d a n) d (g.reg a <<< n.toNat) ∧ ScalarResult s g (.shri d a n) d (g.reg a >>> n.toNat)
    ∧ ScalarResult s g (.srai d a n) d ((g.reg a).sshiftRight n.toNat)
    ∧ ScalarResult s g (.slti d a imm) d (if (g.reg a).toInt < (imm.signExtend 64 : W64).toInt then 1 else 0)
    ∧ ScalarResult s g (.lih d imm) d ((imm.setWidth 32 <<< 16 : W32).signExtend 64)
    ∧ ScalarResult s g (.lhh d a imm) d (g.reg a + (imm.signExtend 64 : W64) <<< 32)
    ∧ ScalarResult s g (.lhx d a imm) d (g.reg a + (imm.signExtend 64 : W64) <<< 48)

/-- beq, bne, blt, bge, bltn, bgen, jmp, call, and (with an aligned target) jr, callr and ret complete: the scalar PC is the target of R160, s31 holds PC
+ 4 after call and callr, every other register and every other part of the group is as before; no other group, no team, no byte at a port and no queue
changes when the group is not traced (a taken transfer of a traced group also writes its trace packet, R433). jr, callr and ret to an address that is
not a multiple of four stop with ALIGN before themselves, the target in the record, and no link is written. (R159, R160, R399, R433,
spec/06_paths_and_reconvergence.md) -/
def Obligations.BranchesAndJumps : Prop :=
  ∀ (s : State) (g : Machine.Group), s.group? s.cur = some g → s.traced (s.launchOf g) g.launch = false →
    ∀ (a b : Reg) (o : BitVec 16) (j : BitVec 26),
    (∀ (i : Instr) (c : Bool), (i, c) ∈ [(Instr.beq a b o, decide (g.reg a = g.reg b)), (.bne a b o, decide (g.reg a ≠ g.reg b)),
        (.blt a b o, decide ((g.reg a).toInt < (g.reg b).toInt)), (.bge a b o, decide ((g.reg b).toInt ≤ (g.reg a).toInt)),
        (.bltn a b o, decide (g.reg a < g.reg b)), (.bgen a b o, decide (g.reg b ≤ g.reg a))] →
      JumpsTo s g i g.reg (if c then g.spc + (o.signExtend 64 : W64) * 4 else g.spc + 4))
    ∧ JumpsTo s g (.jmp j) g.reg (g.spc + (j.signExtend 64 : W64) * 4)
    ∧ JumpsTo s g (.call j) (linked g) (g.spc + (j.signExtend 64 : W64) * 4)
    ∧ ((g.reg a).toNat % 4 = 0 → JumpsTo s g (.jr a) g.reg (g.reg a) ∧ JumpsTo s g (.callr a) (linked g) (g.reg a))
    ∧ ((g.reg 31).toNat % 4 = 0 → JumpsTo s g .ret g.reg (g.reg 31))
    ∧ ((g.reg a).toNat % 4 ≠ 0 → StopsS s g (.jr a) .align (g.reg a) ∧ StopsS s g (.callr a) .align (g.reg a))
    ∧ ((g.reg 31).toNat % 4 ≠ 0 → StopsS s g .ret .align (g.reg 31))

/-- srd of each of the 21 codes completes with the value R126 gives the register, zero-extended, and changes nothing else: the machine's time, the group's
identity and place, FMT, FLAGS and the class in force (0 while the critical count is above zero). (R9, R126, R137, spec/05_groups_and_issue.md) -/
def Obligations.SpecialRegisterReads : Prop :=
  ∀ (s : State) (g : Machine.Group), s.group? s.cur = some g → ∀ d : Reg, ∀ (c : BitVec 10) (v : W64),
    (c, v) ∈ [((0x00 : BitVec 10), (BitVec.ofNat 64 s.stc : W64)), (0x01, BitVec.ofNat 64 (s.cyc (s.cur / 128))), (0x02, BitVec.ofNat 64 g.lanew),
      (0x03, BitVec.ofNat 64 g.gidx), (0x04, BitVec.ofNat 64 ((s.launchOf g).desc.groups + 1)), (0x05, BitVec.ofNat 64 g.team),
      (0x06, BitVec.ofNat 64 ((s.launchOf g).gridx.toNat * (s.launchOf g).gridy.toNat * (s.launchOf g).gridz.toNat)),
      (0x07, BitVec.ofNat 64 g.launch), (0x08, BitVec.ofNat 64 (s.cur / 128)), (0x09, BitVec.ofNat 64 (s.cur % 128 / 32)),
      (0x0A, BitVec.ofNat 64 (s.cur / 128 / 2)), (0x0B, BitVec.ofNat 64 (s.launchOf g).part), (0x0C, BitVec.ofNat 64 (s.teamOf g).gangn),
      (0x0D, g.fmt.setWidth 64), (0x0E, g.spawnIdx), (0x0F, BitVec.ofNat 64 (s.launchOf g).parent), (0x10, (s.launchOf g).callidx),
      (0x11, g.flags.setWidth 64), (0x12, if g.crit = 0 then g.cls.setWidth 64 else 0), (0x13, BitVec.ofNat 64 (s.cur % 128)),
      (0x14, BitVec.ofNat 64 g.rb)] →
    ScalarResult s g (.srd d c) d v

/-- fmt and swr FMT write bits 18:0 of the source to FMT, swr FLAGS bits 6:0 to FLAGS; setprio writes the class; crit raises the critical count to at most
255 or lowers it to at least 0; yield, and mark in a group that is not traced, change nothing; each then goes to the next instruction. swr of any
other code stops with PRIV before itself, the code in the address field. (R92, R94, R122, R126, R135, R137, spec/05_groups_and_issue.md) -/
def Obligations.SpecialRegisterWrites : Prop :=
  ∀ (s : State) (g : Machine.Group), s.group? s.cur = some g → ∀ (a : Reg) (n : BitVec 5) (m c : BitVec 10),
    ScalarDone s (.fmt a) g (fun g => { g with fmt := (g.reg a).extractLsb' 0 19 })
    ∧ ScalarDone s (.swr a 0x0D) g (fun g => { g with fmt := (g.reg a).extractLsb' 0 19 })
    ∧ ScalarDone s (.swr a 0x11) g (fun g => { g with flags := (g.reg a).extractLsb' 0 7 })
    ∧ (c ≠ 0x0D → c ≠ 0x11 → StopsS s g (.swr a c) .priv (c.setWidth 64))
    ∧ ScalarDone s (.setprio n) g (fun g => { g with cls := n.setWidth 2 })
    ∧ ScalarDone s (.crit 1) g (fun g => { g with crit := if g.crit.toNat < 255 then g.crit + 1 else 255 })
    ∧ ScalarDone s (.crit 0) g (fun g => { g with crit := if g.crit = 0 then 0 else g.crit - 1 })
    ∧ ScalarDone s .yield g id
    ∧ (s.traced (s.launchOf g) g.launch = false → ScalarDone s (.mark a m) g id)

/-- lgo with room in the lane queue and no store of the group in flight appends a block with bits 31:0 of the start register, n parameters from
consecutive registers, FMT and (the model's) the cycle, after which it may start; lsync goes on when the lane queue is empty; spop takes the oldest
return value, and the flags of the lane words up to the one that put it count from then on (R93, R118); lqd reads both counts. A full lane queue, a
lane queue that is not empty and an empty return queue hold the S-stream, and stop with ORPHANWAIT where no party can end the wait (R130). (R93, R118,
R128, R129, R130, R131, spec/05_groups_and_issue.md) -/
def Obligations.LaneQueueInstructions : Prop :=
  ∀ (s : State) (g : Machine.Group), s.group? s.cur = some g → ∀ (d a b : Reg) (n : BitVec 5),
    (g.laneQ.length < 8 → g.posted = [] → ScalarDone s (.lgo a b n) g (fun g => { g with laneQ := g.laneQ ++
        [{ start := (g.reg a).extractLsb' 0 32, k := (List.range n.toNat).map (fun i => g.reg (b + BitVec.ofNat 5 i)), fmt := g.fmt,
           at_ := s.cycles }] }))
    ∧ (8 ≤ g.laneQ.length → g.vputFull = true → StopsS s g (.lgo a b n) .orphanwait 0)
    ∧ (8 ≤ g.laneQ.length → g.vputFull = false → HeldS s g (.lgo a b n))
    ∧ (g.laneQ = [] → g.pend = [] → ScalarDone s .lsync g id)
    ∧ ((g.laneQ ≠ [] ∨ g.pend ≠ []) → g.vputFull = true → StopsS s g .lsync .orphanwait 0)
    ∧ ((g.laneQ ≠ [] ∨ g.pend ≠ []) → g.vputFull = false → HeldS s g .lsync)
    ∧ (∀ x r, g.retQ = x :: r → ScalarDone s (.spop d) g (fun g =>
        { (g.joined (g.retAt.headD 0)).setReg d x with retQ := r, retAt := g.retAt.tail, vputFull := false }))
    ∧ (g.retQ = [] → g.laneQ = [] → g.pend = [] → StopsS s g (.spop d) .orphanwait 0)
    ∧ (g.retQ = [] → (g.laneQ ≠ [] ∨ g.pend ≠ []) → HeldS s g (.spop d))
    ∧ ScalarResult s g (.lqd d) d (BitVec.ofNat 64 (g.laneQ.length + 2 ^ 8 * g.retQ.length))

/-- For an ordinary access (Access: aligned, in bounds, its address in the team's aperture, a team window or a mapped page leading to a port in a
scratchpad, host memory or device memory, unwatched, nothing in its way), sld of every size, cached or bypass, and sldo without a release part
complete: the destination holds the bytes that the task sees at the port, zero-extended (s0 discards them), every byte of memory reads as before, and
nothing else changes but caches, monitors and copies of remote lines. A cached sld of device memory returns those bytes where no cache of its core or
die holds the line, and completes with some value otherwise (log 8, the model's choice of which caches). (R171, R172, R205, R208, R238, R246, R318,
R334, spec/07_scalar_stream.md) -/
def Obligations.ScratchLoads : Prop :=
  ∀ (s : State) (g : Machine.Group) (d a : Reg) (pa : Nat),
    (∀ (sz : Size) (bp : Bool) (off : BitVec 12), Access s g 0 (g.reg a + off.signExtend 64).toNat sz.bytes pa .rd →
      (∃ v, Completes s (.sld d a sz bp off) (g.setReg d v) (fun t => OnlyAccess s t s.cur pa ∧ SameBytes s t))
      ∧ ((bp = true ∨ regionOf pa ≠ .dram ∨ s.uncached (coreOf s.cur) pa) →
        Completes s (.sld d a sz bp off) (g.setReg d (BitVec.ofNat 64 (s.taskRead g pa sz.bytes)))
          (fun t => OnlyAccess s t s.cur pa ∧ SameBytes s t)))
    ∧ (∀ (o : Order) (sc : Scope) (w : Bool), o.releases = false →
      Access s g 0 (g.reg a).toNat (if w then 8 else 4) pa .rd →
      Completes s (.sldo d a o sc w) (g.setReg d (BitVec.ofNat 64 (s.taskRead g pa (if w then 8 else 4))))
        (fun t => OnlyAccess s t s.cur pa ∧ SameBytes s t))

/-- For an ordinary access (Access) of a scratchpad, host memory or device memory, sst of every size completes with the store accepted (every byte of
memory reads as before, the group's only other change is the next PC), and the event ACCESS_PERFORMED_AT_PORT then puts the low bytes of the data
register at the port and no other byte: the task sees them there, in committed memory or in the version at the head of its chain, which leaves
committed memory as it was. ssto does the same; that it is performed when it completes is the model's choice (log 7). (R171, R173, R205, R236, R237,
R246, R318, R334, R336, spec/07_scalar_stream.md) -/
def Obligations.ScratchStores : Prop :=
  ∀ (s : State) (g : Machine.Group) (d a : Reg) (pa : Nat),
    (∀ (sz : Size) (off : BitVec 12), Access s g 0 (g.reg a + off.signExtend 64).toNat sz.bytes pa .wr →
      ∃ p : Posted, p.pa = pa ∧ p.size = sz.bytes ∧ p.data.toNat = (g.reg d).toNat % 256 ^ sz.bytes
        ∧ Completes s (.sst d a sz off) { g with posted := [p] } (fun t => OnlyAccess s t s.cur pa ∧ SameBytes s t
          ∧ Falls t (.accessPerformedAtPort s.cur 0) (fun u => u.group? s.cur = some g.advance ∧ OnlyAccess s u s.cur pa
              ∧ StoresFor s u g pa sz.bytes (g.reg d).toNat)))
    ∧ (∀ (o : Order) (sc : Scope) (w : Bool), ReleasesAtOnce s g o sc →
      Access s g 0 (g.reg a).toNat (if w then 8 else 4) pa .wr →
      Completes s (.ssto a d o sc w) g (fun t => OnlyAccess s t s.cur pa ∧ StoresFor s t g pa (if w then 8 else 4) (g.reg d).toNat))

/-- For an ordinary access (Access) of a scratchpad, host memory or device memory, of 32 or 64 bits, in device memory at a scope narrower than tandem or
for a task without a version: each samo operation and scas complete: the task sees the new value of R246 computed from the old one and the operand,
the destination holds the old value zero-extended, every other byte and register is as before. (R244, R246, R247, R318, R334, R336,
spec/11_memory_and_atomics.md) -/
def Obligations.ScratchAtomics : Prop :=
  ∀ (s : State) (g : Machine.Group) (d a b : Reg) (pa : Nat) (o : Order) (sc : Scope) (w : Bool), ReleasesAtOnce s g o sc →
    Access s g 0 (g.reg a).toNat (if w then 8 else 4) pa .amo → Narrow s g pa sc →
    let n := if w then 8 else 4
    let m := s.taskRead g pa n
    let x := (g.reg b).toNat % 256 ^ n
    let sm := (BitVec.ofNat (8 * n) m).toInt
    let sx := (BitVec.ofNat (8 * n) x).toInt
    (∀ (i : Instr) (v : Nat), (i, v) ∈ [(Instr.samoAdd d a b o sc w, m + x), (.samoAnd d a b o sc w, m &&& x), (.samoOr d a b o sc w, m ||| x),
        (.samoXor d a b o sc w, m ^^^ x), (.samoMin d a b o sc w, if sm < sx then m else x), (.samoMax d a b o sc w, if sm < sx then x else m),
        (.samoMinn d a b o sc w, min m x), (.samoMaxn d a b o sc w, max m x), (.samoSwap d a b o sc w, x),
        (.scas d a b o sc w, if m = x then (g.reg (b + 1)).toNat else m)] →
      Completes s i (g.setReg d (BitVec.ofNat 64 m)) (fun t => OnlyAccess s t s.cur pa ∧ StoresFor s t g pa n v))
    ∧ (w = false → Completes s (.samoFadd d a b o sc) (g.setReg d (BitVec.ofNat 64 m)) (fun t => OnlyAccess s t s.cur pa
        ∧ StoresFor s t g pa 4 (convert .f32 .rne false (addVal .rne (FT.f32.val m) (FT.f32.val x)).1).1))

/-- For an ordinary access (Access) of a scratchpad, host memory or device memory (there at a scope narrower than tandem or for a task without a version),
each sred operation completes: the task sees the new value of R246, and every other byte and every register is as before. (R244, R246, R247, R318,
R334, R336, spec/11_memory_and_atomics.md) -/
def Obligations.ScratchReductions : Prop :=
  ∀ (s : State) (g : Machine.Group) (a b : Reg) (pa : Nat) (o : Order) (sc : Scope) (w : Bool), ReleasesAtOnce s g o sc →
    Access s g 0 (g.reg a).toNat (if w then 8 else 4) pa .amo → Narrow s g pa sc →
    let n := if w then 8 else 4
    let m := s.taskRead g pa n
    let x := (g.reg b).toNat % 256 ^ n
    let sm := (BitVec.ofNat (8 * n) m).toInt
    let sx := (BitVec.ofNat (8 * n) x).toInt
    (∀ (i : Instr) (v : Nat), (i, v) ∈ [(Instr.sredAdd a b o sc w, m + x), (.sredAnd a b o sc w, m &&& x), (.sredOr a b o sc w, m ||| x),
        (.sredXor a b o sc w, m ^^^ x), (.sredMin a b o sc w, if sm < sx then m else x), (.sredMax a b o sc w, if sm < sx then x else m),
        (.sredMinn a b o sc w, min m x), (.sredMaxn a b o sc w, max m x)] →
      Completes s i g (fun t => OnlyAccess s t s.cur pa ∧ StoresFor s t g pa n v))
    ∧ (w = false → Completes s (.sredFadd a b o sc) g (fun t => OnlyAccess s t s.cur pa
        ∧ StoresFor s t g pa 4 (convert .f32 .rne false (addVal .rne (FT.f32.val m) (FT.f32.val x)).1).1))

/-- For an ordinary access (Access) of a scratchpad, host memory or device memory (there at a scope narrower than tandem or for a task without a version):
lock of a word that is zero and that no request waits for completes with the holder code (one more than 128 times the core plus the context) in the
word and the critical count raised to at most 255; unlock completes with zero in the word and the count lowered to at least 0; every other byte and
register is as before. (R122, R247, R249, R318, R334, spec/11_memory_and_atomics.md) -/
def Obligations.ScratchLocks : Prop :=
  ∀ (s : State) (g : Machine.Group) (a : Reg) (pa : Nat) (sc : Scope) (w : Bool),
    Access s g 0 (g.reg a).toNat (if w then 8 else 4) pa .amo → Narrow s g pa sc →
    let n := if w then 8 else 4
    (s.taskRead g pa n = 0 → s.locks = [] → s.cur < 20480 →
      Completes s (.lock a sc w) { g with crit := if g.crit.toNat < 255 then g.crit + 1 else 255, lockReq := none }
        (fun t => OnlyAccess s t s.cur pa ∧ StoresFor s t g pa n (1 + s.cur)))
    ∧ (ReleasesAtOnce s g .rel sc → Completes s (.unlock a sc w) { g with crit := if g.crit = 0 then 0 else g.crit - 1 }
        (fun t => OnlyAccess s t s.cur pa ∧ StoresFor s t g pa n 0))

/-- Every sld, sst, samo, scas, sldo, ssto, sred, lock and unlock that is misaligned stops with ALIGN and the effective address, before any other check.
An aligned one stops with SCRATCHBOUNDS or PROTECT where the translation of its address says so (PROTECT also in a team window that was re-mapped
while it waited), and with WATCH, the hit counted, where it leads to a port and a group watchpoint of the core matches. On a page that is not present,
one that returns a value (lock and unlock among them) stops with PAGELOAD once its page has been refused, and else holds its group on the page, which
is asked for; one that returns nothing completes with an entry in the side log: its line, address space, bytes, issuer and its data or reduction, and
its page is asked for. A refused store of a group stops it at its next issue with PAGESTORE, or PROTECT in a team window, the address being the
entry's and the place that of the path that issued it, where that lives. (R22, R171, R176, R205, R208, R244, R318, R325, R326, R428,
spec/07_scalar_stream.md) -/
def Obligations.ScalarAccessFaults : Prop :=
  ∀ (s : State) (g : Machine.Group), s.group? s.cur = some g → g.orun = none →
    let l := s.launchOf g
    let c := coreOf s.cur
    (∀ i ea n rw ret val op free, AccessForm s g i ea n rw ret val op free →
      let asked := fun (t : State) => inTeamWin ea.toNat = false →
        ∃ r ∈ (t.part l.part).reqs, r.va = BitVec.ofNat 64 (ea.toNat / 4096 * 4096) ∧ r.asid = l.asid
      (ea.toNat % n ≠ 0 → StopsS s g i .align ea)
      ∧ (ea.toNat % n = 0 → s.tableRoom s.cur 0 1 = true →
        (inTeamWin ea.toNat = true → g.refusedTo 0 ea.toNat = true → StopsS s g i .protect ea)
        ∧ ((inTeamWin ea.toNat = true → g.refusedTo 0 ea.toNat = false) → ∀ u,
          (∀ e ∈ [Cause.scratchbounds, .protect], s.locate s.cur g ea.toNat n rw false = (.flt e, u) → StopsIn s u g i e ea)
          ∧ (∀ pa, s.locate s.cur g ea.toNat n rw false = (.port pa, u) → s.gwHit s.cur g 0 ea.toNat n rw = true →
            StopsIn s (u.gwCount s.cur g ea.toNat n rw) g i .watch ea)
          ∧ (s.locate s.cur g ea.toNat n rw false = (.missing, u) →
            (ret = true → g.refusedTo 0 ea.toNat = true → StopsIn s u g i .pageload ea)
            ∧ (ret = true → g.refusedTo 0 ea.toNat = false → ∃ t g', exec i s = .next t ∧ t.group? s.cur = some g'
                ∧ (0, pageOf ea.toNat) ∈ g'.pageWait ∧ g'.spc = g.spc ∧ g'.s = g.s ∧ asked t)
            ∧ (ret = false → s.gwHit s.cur g 0 ea.toNat n rw = false → g.posted = [] → (s.core c).sideLog = [] → free →
                ∃ t e, exec i s = .next t ∧ t.group? s.cur = some g.advance ∧ (t.core c).sideLog = [e]
                  ∧ Retired e l.asid (g.issuer s.cur) ea.toNat n val.toNat op ∧ asked t)))))
    ∧ (∀ (slot : Option Nat) (a : W64) (k : Nat), g.pendStore = some (a, k) → ∃ r,
        s.issue s.cur slot = .next { ((s.setGroup s.cur { g with pendStore := none }).stop s.cur r) with epoch := s.epoch + 1 }
        ∧ r.cause = (if inTeamWin a.toNat then .protect else .pagestore) ∧ r.addr = a ∧ r.lane = false ∧ r.ovrb = false ∧ r.spc = g.spc
        ∧ ∀ p, g.pathNamed k = some p → r.lpc = p.pc ∧ r.amask = p.mask)

/-- In a group with no store in flight, no side-log entry and no version to publish: fence completes, discarding copies of remote lines only for an
acquire at device or system scope; flush, outside a live prediction, completes with no dirty committed line left on the pages of the range, and inv
with no line of the range left in any cache: the LLCs, the first-level caches and scalar caches of all cores, and the dies' copies of remote lines,
once no translation is still asked of the host; vstat writes the counts of n, the entries of incomplete lane loads among them, and stime the time;
only the destination register of vstat and stime changes in the group. (R239, R247, R248, R251, R253, R327, spec/11_memory_and_atomics.md) -/
def Obligations.FencesAndMaintenance : Prop :=
  ∀ (s : State) (g : Machine.Group) (a b d : Reg), s.group? s.cur = some g → g.orun = none → g.posted = [] → s.sideOf s.cur g = [] →
    (s.teamOf g).version = none →
    (∀ (o : Order) (sc : Scope), Completes s (.fence o sc) g (fun t => SameBytes s t ∧ OnlyMemory s t s.cur
      ∧ (o.acquires = true → 4 ≤ sc.code → (t.die (dieOf (coreOf s.cur))).l2r = []) ∧ (o.acquires = false ∨ sc.code < 4 → t.dies = s.dies)))
    ∧ (∀ ls u, s.linesUnder (coreOf s.cur) (s.launchOf g) (linesOf (g.reg a).toNat (g.reg b).toNat) = .ok ls u →
      (((s.launchOf g).pred && (s.launchOf g).live) = false → Completes s (.flush a b) g (fun t =>
        ∀ n ∈ ls, ∀ l, Tbl.find t.llc n = some l → l.dirty = false))
      ∧ Completes s (.inv a b) g (fun t => ∀ n ∈ ls, Tbl.find t.llc n = none
          ∧ (∀ c, Tbl.find (t.core c).l1 n = none ∧ Tbl.find (t.core c).sc n = none) ∧ ∀ e, Tbl.find (t.die e).l2r n = none))
    ∧ ScalarResult s g (.vstat d 0) d (BitVec.ofNat 64 ((if g.lockReq.isSome then 1 else 0) + g.pend.foldl (fun n x => n + x.entries) 0
        + 2 ^ 16 * s.tableFree (coreOf s.cur)))
    ∧ ScalarResult s g (.vstat d 1) d (g.lost.setWidth 64) ∧ ScalarResult s g (.vstat d 2) d g.lostVa
    ∧ ScalarResult s g (.stime d) d (BitVec.ofNat 64 s.stc)

/-- spawn answers status 1 when 32 spawned groups live or no context is free, status 2 when no rows or no reserve fit, changing nothing else; otherwise it
completes with status 0 and a new group of the caller's team on the caller's core, at the lowest free context, with the lowest free spawned index, s8
to s15 of the caller and every other register zero, FMT 0x2044, normal class and its PC from the source register. exit, with the lane queue empty, no
posted quarter waiting, no store in flight, no charge pending and no group of the team waiting on an object, leaves no group at the context. (R109,
R111, R133, R134, R283, spec/05_groups_and_issue.md) -/
def Obligations.SpawnAndExit : Prop :=
  ∀ (s : State) (g : Machine.Group) (d a : Reg), s.group? s.cur = some g → g.orun = none → g.posted = [] → s.sideOf s.cur g = [] →
    ((s.spawnIndex g.key = none ∨ nextCtx (s.ctxUsed (coreOf s.cur)) = none) → ScalarResult s g (.spawn d a) d 1)
    ∧ (∀ j ctx, s.spawnIndex g.key = some j → nextCtx (s.ctxUsed (coreOf s.cur)) = some ctx → 128 * coreOf s.cur + ctx ≠ s.cur →
      let rows := positions rowCap (32 * g.lanew) (rowBytes g.vregs g.lanew) (s.rowsUsed (coreOf s.cur))
      let res := positions scratchCap 4096 4096 (s.scratchUsed (coreOf s.cur))
      ((rows = [] ∨ res = []) → ScalarResult s g (.spawn d a) d 2)
      ∧ (rows ≠ [] → res ≠ [] → ∃ t n, exec (.spawn d a) s = .next t ∧ t.group? s.cur = some (g.setReg d 0).advance
        ∧ t.group? (128 * coreOf s.cur + ctx) = some n
        ∧ (∀ k, k ≠ s.cur → k ≠ 128 * coreOf s.cur + ctx → t.group? k = s.group? k)
        ∧ n.gidx = 32 + j ∧ n.launch = g.launch ∧ n.team = g.team ∧ n.lanew = g.lanew ∧ n.vregs = g.vregs
        ∧ n.rb ∈ rows ∧ n.reserve ∈ res ∧ n.spc = g.reg a ∧ n.fmt = 0x2044 ∧ n.flags = 0 ∧ n.cls = 2 ∧ n.crit = 0 ∧ n.v = [] ∧ n.p = []
        ∧ n.spawnIdx = (s.teamOf g).spawned
        ∧ ∀ r : Reg, n.reg r = if 8 ≤ r.toNat ∧ r.toNat ≤ 15 then g.reg r else 0))
    ∧ (g.laneQ = [] → g.pend = [] → g.pendCharge = none → (s.teamOf g).tags = [] → (∀ e ∈ s.groups, e.2.blocked = none) →
      ∃ t, exec .exit s = .next t ∧ t.group? s.cur = none ∧ SameBytes s t ∧ (∀ k, k ≠ s.cur → t.group? k = s.group? k))

/-- On an object of the team in its scratchpad that no group waits on, is bound to or is held at: binit writes FLAGS, EXPECT and zeros; bexp adds to
XBYTES; barr and barrd count one arrival (barrd also one drop), return the phase in which they arrived, and when the condition of Complete then holds
the phase number goes up by one, ARRIVED, DROPS, XBYTES and LANDED are zero and EXPECT is less by the drops; of two arrivals of one cycle at an object
with EXPECT 0 the second returns the phase that the first completed and completes none (R216). Bytes outside the object are as before. (R212, R215,
R216, R220, R221, R222, R223, spec/10_scratch_and_barriers.md) -/
def Obligations.BarrierArrivals : Prop :=
  ∀ (s : State) (g : Machine.Group) (d a b : Reg) (o : ObjRef), ScratchObject s g (g.reg a) .amo o →
    (∀ e ∈ s.groups, e.2.blocked = none ∧ e.2.orun = none) →
    let w := s.obj o.pa
    (bits w 256 256 = 0 → (g.reg b).toNat % 2 ^ 32 ≠ 0 → ∀ f : BitVec 3, Completes s (.binit a b f) g (fun t =>
        StoresAt s t o.pa 64 (f.toNat * 2 ^ 32 + (g.reg b).toNat % 2 ^ 32 * 2 ^ 64)))
    ∧ ((canComplete (setBits w 128 64 (oXbytes w + (g.reg b).toNat)) = false) → Completes s (.bexp a b) g (fun t =>
        oXbytes (t.obj o.pa) = (oXbytes w + (g.reg b).toNat) % 2 ^ 64 ∧ BytesOutside s t o.pa 64))
    ∧ (s.sideOf s.cur g = [] → (oExpect w = 0 ∨ oArrived w ≠ oExpect w) → bits w 256 256 = 0 → ∀ (i : Instr) (drop : Bool),
      (i, drop) ∈ [(Instr.barr d a, false), (.barrd d a, true)] →
      let x := countArrival w drop
      let last := (oPhase w + 2 ^ 32 - 1) % 2 ^ 32
      (oExpect w = 0 → (o.pa, last) ∈ s.zero → Completes s i (g.setReg d (BitVec.ofNat 64 last)) (SameBytes s))
      ∧ ((oExpect w = 0 → (o.pa, last) ∉ s.zero) → Completes s i (g.setReg d (BitVec.ofNat 64 (oPhase w))) (fun t => BytesOutside s t o.pa 64
        ∧ (oExpect w ≠ 0 → oArrived w + 1 < oExpect w →
          oArrived (t.obj o.pa) = oArrived w + 1 ∧ oPhase (t.obj o.pa) = oPhase w ∧ oExpect (t.obj o.pa) = oExpect w
          ∧ oDrops (t.obj o.pa) = if drop then min 0xFFFF (oDrops w + 1) else oDrops w)
        ∧ (canComplete x = true → oPhase (t.obj o.pa) = (oPhase w + 1) % 2 ^ 32 ∧ oArrived (t.obj o.pa) = 0 ∧ oDrops (t.obj o.pa) = 0
          ∧ oXbytes (t.obj o.pa) = 0 ∧ oLanded (t.obj o.pa) = 0 ∧ oExpect (t.obj o.pa) = oExpect w - oDrops x))))

/-- wait on an object goes on when its phase is done, and otherwise, when some party can still complete the phase, leaves the group blocked at the
instruction with its bit set in WAITERS; wait on a batch goes on when the batch is done, blocks while it is not, and stops with BATCHAHEAD when it has
not been closed; btest writes the done bit and the phase, or for a batch the done and ahead bits and the number done. (R218, R220, R224, R225, R226,
spec/10_scratch_and_barriers.md) -/
def Obligations.WaitsAndTests : Prop :=
  ∀ (s : State) (g : Machine.Group) (d a b : Reg),
    let n : W32 := (g.reg b).setWidth 32
    (∀ o, ScratchObject s g (g.reg a) .amo o → ∀ k : WaitKind, k ∈ [WaitKind.obj, .objOr] →
      let w := s.obj o.pa
      let dist := (oPhase w + 2 ^ 32 - n.toNat) % 2 ^ 32
      (1 ≤ dist → dist < 2 ^ 31 → ScalarDone s (.wait a b k) g (fun g => { g with noOver := none }))
      ∧ ((dist = 0 ∨ 2 ^ 31 ≤ dist) → (k = .obj ∨ oOvr w = false) →
        oExpect w ≤ oArrived w + ((s.groupsOf g.key).filter (fun e => mayUse (s.teamOf g) o w e.1 && !e.2.blockedOn o.va && e.1 != s.cur)).length →
        ∃ t, exec (.wait a b k) s = .next t
          ∧ t.group? s.cur = some { g with blocked := some { obj := BitVec.ofNat 64 o.va, kind := 0, n := n, since := s.cyc (coreOf s.cur) } }
          ∧ bit (t.obj o.pa) (256 + waiterBit (s.teamOf g) s.cur) = true ∧ BytesOutside s t o.pa 64))
    ∧ (s.group? s.cur = some g → g.orun = none → ∀ (k : WaitKind) (bo : Batch), (k = .copy ∧ bo = g.copyB) ∨ (k = .matrix ∧ bo = g.matB) →
      let ahead := decide (1 ≤ (n - bo.closed).toNat ∧ (n - bo.closed).toNat < 2 ^ 31)
      let past := decide ((bo.done - n).toNat < 2 ^ 31)
      (ahead = true → StopsS s g (.wait a b k) .batchahead 0)
      ∧ (ahead = false → past = true → ScalarDone s (.wait a b k) g id)
      ∧ (ahead = false → past = false → ∃ t bl, exec (.wait a b k) s = .next t ∧ OnlyGroup s t s.cur
          ∧ t.group? s.cur = some { g with blocked := some bl } ∧ bl.kind = (if k = .matrix then 2 else 1) ∧ bl.n = n)
      ∧ ScalarResult s g (.btest d a b k) d (BitVec.ofNat 64 ((!ahead && past).toNat + 2 * ahead.toNat + 2 ^ 32 * bo.done.toNat)))
    ∧ (∀ o, ScratchObject s g (g.reg a) .rd o → ∀ k : WaitKind, k ∈ [WaitKind.obj, .objOr] →
      let w := s.obj o.pa
      let dist := (oPhase w + 2 ^ 32 - n.toNat) % 2 ^ 32
      ScalarResult s g (.btest d a b k) d (BitVec.ofNat 64 ((decide (1 ≤ dist ∧ dist < 2 ^ 31)).toNat + 2 ^ 32 * oPhase w)))

/-- With a place free at the engine and no store of the group in flight, cpy and cpyt (and tld and tst on a tile the group owns) complete with exactly one
command more in the core's queue, at its end, holding the operands read at issue, the issuer and the number of the open batch, and with the group's
copy batch counting it as open and live; no byte of memory changes. bclose returns the new number closed and leaves none open. (R254, R265, R266,
R267, R268, R269, R274, spec/12_copy_engines.md) -/
def Obligations.CopyCommandsIssue : Prop :=
  ∀ (s : State) (g : Machine.Group) (r a b c : Reg) (h : Hnd), s.group? s.cur = some g → g.orun = none → g.posted = [] →
    (s.core (coreOf s.cur)).copyQ.length < 256 → (s.core (coreOf s.cur)).held = [] →
    let took := fun (i : Instr) (P : CopyCmd → Prop) => Completes s i { g with copyB := { g.copyB with opn := g.copyB.opn + 1, live := g.copyB.live ++ [(g.copyB.closed + 1).toNat] }, cpysHdr := none }
      (fun t => SameBytes s t ∧ t.nextCmd = s.nextCmd + 1 ∧ ∃ x, (t.core (coreOf s.cur)).copyQ = (s.core (coreOf s.cur)).copyQ ++ [x]
        ∧ x.id = s.nextCmd ∧ x.iss = g.issuer s.cur ∧ x.batch = (g.copyB.closed + 1).toNat ∧ x.status = none ∧ x.left = [] ∧ P x)
    took (.cpy r a b c) (fun x => x.kind = .cpy ∧ x.dst = g.reg a ∧ x.src = g.reg b ∧ x.len = g.reg c ∧ x.bar = g.reg r ∧ x.hasBar = (r != 0))
    ∧ (s.gwHit s.cur g 0 (g.reg a).toNat 64 .rd = false →
      took (.cpyt r a b c) (fun x => x.kind = .cpyt ∧ x.dst = g.reg a ∧ x.src = g.reg b ∧ x.len = g.reg (b + 1) ∧ x.far = g.reg c
        ∧ x.bar = g.reg r ∧ x.hasBar = (r != 0))
      ∧ ∀ x, Tbl.find (s.teamOf g).handles h.toNat = some x → x.owner = g.gidx →
        took (.tld h a b) (fun y => y.kind = .tld ∧ y.dst = g.reg a ∧ y.src = g.reg b ∧ y.len = g.reg (b + 1) ∧ y.tile = x ∧ y.hasBar = false)
        ∧ took (.tst h a b) (fun y => y.kind = .tst ∧ y.dst = g.reg a ∧ y.src = g.reg b ∧ y.len = g.reg (b + 1) ∧ y.tile = x ∧ y.hasBar = false))
    ∧ (∀ m : BitVec 5, ∃ g1 t, exec (.bclose r m) s = .next t ∧ OnlyGroup s t s.cur ∧ t.group? s.cur = some g1
        ∧ (let x := if m = 1 then g.matB else g.copyB
           let y := if m = 1 then g1.matB else g1.copyB
           y.closed = x.closed + 1 ∧ y.opn = 0 ∧ (r ≠ 0 → g1.reg r = (x.closed + 1).setWidth 64)
           ∧ (∀ q, q ≠ r → g1.reg q = g.reg q) ∧ g1.spc = g.spc + 4))

/-- For a message header that lies, aligned, in the team's own scratchpad, with no prediction and a place free at the engine, cpys completes with one
command more at the end of the core's queue, holding the operands and the header read: for a valid header when every part of the destination is one
that R271 step 3 accepts (the check finds none amiss; with a destination all in the team's own scratch aperture it never does, in the allocation or
past it, which the engine finds later, log 59, and then no byte of memory changes), and for a header whose length is zero or above 65536 or whose
reserved word is not zero, which ends with the status of R271. Where the check finds a part amiss the group stops with SEALED and that address, with
its own address for a destination that begins in a team window; a message address that is not a multiple of 16 stops it with ALIGN. (R265, R271,
spec/12_copy_engines.md) -/
def Obligations.SealedCopyIssue : Prop :=
  ∀ (s : State) (g : Machine.Group) (r a b c : Reg), ((s.launchOf g).pred && (s.launchOf g).live) = false →
    (s.group? s.cur = some g → g.orun = none → (g.reg b).toNat % 16 ≠ 0 → StopsS s g (.cpys r a b c) .align (g.reg b))
    ∧ ∀ pa, ScratchAccess s g 0 (g.reg b).toNat 16 pa .rd → g.cpysHdr = none → g.refusedTo 0 (g.reg b).toNat = false →
    let hdr := Memory.read s.mem pa 16
    let len := bits hdr 64 32
    let read := (s.reach (coreOf s.cur) pa).updGroup s.cur (fun g => { g with cpysHdr := some (BitVec.ofNat 128 hdr) })
    let took := fun (P : State → Prop) => ∃ t x, exec (.cpys r a b c) s = .next t ∧ P t
        ∧ t.group? s.cur = some { g with copyB := { g.copyB with opn := g.copyB.opn + 1, live := g.copyB.live ++ [(g.copyB.closed + 1).toNat] } }.advance
        ∧ (t.core (coreOf s.cur)).copyQ = (s.core (coreOf s.cur)).copyQ ++ [x] ∧ x.kind = .cpys ∧ x.dst = g.reg a ∧ x.src = g.reg b
        ∧ x.sel = g.reg c ∧ x.hdr = BitVec.ofNat 128 hdr ∧ x.bar = g.reg r ∧ x.hasBar = (r != 0) ∧ x.iss = g.issuer s.cur
    ((s.core (coreOf s.cur)).copyQ.length < 256 → (s.core (coreOf s.cur)).held = [] →
      ((bits hdr 96 32 ≠ 0 ∨ len = 0 ∨ 65536 < len) → took (SameBytes s))
      ∧ (bits hdr 96 32 = 0 → 0 < len → len ≤ 65536 →
        (∀ u, read.sealedDst s.cur g (g.reg a).toNat len = .ok none u → took (fun _ => True))
        ∧ ((∀ i < len, inAperture (((g.reg a).toNat + i) % 2 ^ 64) = true) → took (SameBytes s))))
    ∧ (bits hdr 96 32 = 0 → 0 < len → len ≤ 65536 →
      (∀ va u, read.sealedDst s.cur g (g.reg a).toNat len = .ok (some va) u → exec (.cpys r a b c) s = u.trapS s.cur g .sealed (BitVec.ofNat 64 va))
      ∧ (inTeamWin (g.reg a).toNat = true → inAperture (g.reg a).toNat = false → exec (.cpys r a b c) s = read.trapS s.cur g .sealed (g.reg a)))

/-- talloc of a valid shape on a free run of slots binds the handle to the lowest run with the geometry and the caller as owner; an invalid shape stops
with ILLEGAL, a handle of another group with HANDLEOWNER, no run with TILEQUOTA. On a tile the group owns, tgive makes a live group of the team its
owner, tfree frees the handle, tzero queues one access to the whole tile; a free handle stops with HANDLEFREE, a foreign one with HANDLEOWNER. tinfo
writes its word and changes nothing else. (R277, R278, R281, R283, R287, R288, R289, R291, R292, spec/13_casket_tiles.md) -/
def Obligations.TileHandles : Prop :=
  ∀ (s : State) (g : Machine.Group) (h : Hnd) (a d : Reg), s.group? s.cur = some g → g.orun = none →
    let t := s.teamOf g
    (geometry t (g.reg a) = none → StopsS s g (.talloc h a) .illegal (g.reg a))
    ∧ (∀ e x, geometry t (g.reg a) = some e → Tbl.find t.handles h.toNat = some x → x.owner ≠ g.gidx →
      StopsS s g (.talloc h a) .handleowner (h.setWidth 64))
    ∧ (∀ e, geometry t (g.reg a) = some e → Tbl.find t.handles h.toNat = none → g.allocHold = none → t.tandem = false →
      (∀ f, lowestRun e.slots t.tiles (t.slotFree 0) = some f → Completes s (.talloc h a) g (fun u => SameBytes s u ∧
        ∃ t', u.team? g.key = some t' ∧ t'.tiles = t.tiles ∧ ∃ x, Tbl.find t'.handles h.toNat = some x ∧ x.rows = e.rows ∧ x.rowb = e.rowb
          ∧ x.first0 = t.f0 + f ∧ x.nslot = e.slots ∧ x.owner = g.gidx ∧ ∀ k, k ≠ h.toNat → Tbl.find t'.handles k = Tbl.find t.handles k))
      ∧ (lowestRun e.slots t.tiles (fun j => !t.slotBound 0 j) = none → lowestRun e.slots t.tiles (t.slotFree 0) = none →
        StopsS s g (.talloc h a) .tilequota (BitVec.ofNat 64 e.slots)))
    ∧ (Tbl.find t.handles h.toNat = none → ∀ i ∈ [Instr.tgive h a, .tfree h, .tzero h, .tld h a d, .tst h a d], StopsS s g i .handlefree (h.setWidth 64))
    ∧ (∀ x, Tbl.find t.handles h.toNat = some x → x.owner ≠ g.gidx →
      ∀ i ∈ [Instr.tgive h a, .tfree h, .tzero h, .tld h a d, .tst h a d], StopsS s g i .handleowner (h.setWidth 64))
    ∧ (∀ x, Tbl.find t.handles h.toNat = some x → x.owner = g.gidx →
      ((∃ e ∈ s.groupsOf g.key, e.2.gidx = (g.reg a).toNat) → Completes s (.tgive h a) g (fun u => SameBytes s u ∧
        ∃ t', u.team? g.key = some t' ∧ Tbl.find t'.handles h.toNat = some { x with owner := (g.reg a).toNat }))
      ∧ ((∀ e ∈ s.groupsOf g.key, e.2.gidx ≠ (g.reg a).toNat) → StopsS s g (.tgive h a) .handleowner (g.reg a))
      ∧ Completes s (.tfree h) g (fun u => SameBytes s u ∧ ∃ t', u.team? g.key = some t' ∧ Tbl.find t'.handles h.toNat = none
          ∧ ∀ k, k ≠ h.toNat → Tbl.find t'.handles k = Tbl.find t.handles k)
      ∧ Completes s (.tzero h) g (fun u => SameBytes s u ∧ ∃ t' acc, u.team? g.key = some t' ∧ t'.tileAccs = t.tileAccs ++ [acc]
          ∧ acc.op = .zeroW ∧ acc.h = x ∧ acc.wr = true ∧ acc.lo = 0 ∧ acc.len = x.rows * x.rowb ∧ acc.id = t.nextAcc))
    ∧ ScalarResult s g (.tinfo d h) d (tileInfo t s.cur g h)

/-- mxacq of a free complex makes the team its owner, and of one owned by another queues the team; every other matrix instruction of a team that has not
acquired it stops with MXOWNER. In a team that has, with room in the queue and no store in flight: mxrdy, mxa, mxs, mxdr and cbld (whose operands pass
the checks of R309) complete with one command more at the end of the team's queue, holding their operands, and the matrix batch counting it (a command
accepted at once, R296, may also have its shape record read); mxrel gives the acquisition up. (R296, R304, R306, R307, R309, R310, R312, R314,
spec/14_matrix_complex.md) -/
def Obligations.MatrixIssue : Prop :=
  ∀ (s : State) (g : Machine.Group) (t : Team) (hd ha : Hnd) (a b : Reg) (tag n : BitVec 6) (q : BitVec 2) (vn : BitVec 8),
    s.group? s.cur = some g → g.orun = none → g.posted = [] → s.team? g.key = some t →
    let X := s.complex (tandemOf t.core)
    let took := fun (i : Instr) (P : MxCmd → Prop) => Completes s i { g with matB := { g.matB with opn := g.matB.opn + 1, live := g.matB.live ++ [(g.matB.closed + 1).toNat] } }
      (fun u => ∃ t' c, u.team? g.key = some t' ∧ t'.mxQ.length = t.mxQ.length + 1 ∧ t'.mxQ.getLast? = some c
        ∧ t'.mxQ.map (fun x => (x.op, x.iss, x.batch)) = t.mxQ.map (fun x => (x.op, x.iss, x.batch)) ++ [(c.op, c.iss, c.batch)]
        ∧ c.iss = g.issuer s.cur ∧ c.batch = (g.matB.closed + 1).toNat ∧ (c.op ≠ .mxdr → c.status = none)
        ∧ ((∀ x ∈ t'.mxQ, x.op ≠ .mxdr) → SameBytes s u) ∧ P c)
    (t.acq = true → ScalarDone s .mxacq g id)
    ∧ (t.acq = false → X.owner = none → Completes s .mxacq g (fun u => (u.complex (tandemOf t.core)).owner = some g.key
        ∧ (∃ t', u.team? g.key = some t' ∧ t'.acq = true ∧ t'.mxQ.length = t.mxQ.length)
        ∧ (t.mxQ = [] → SameBytes s u ∧ u.team? g.key = some { t with acq := true })))
    ∧ (∀ k, t.acq = false → X.owner = some k → X.waiters.length < 8 → Completes s .mxacq g (fun u => SameBytes s u
        ∧ (u.complex (tandemOf t.core)).owner = some k ∧ (u.complex (tandemOf t.core)).waiters = X.waiters ++ [(g.key, false)]
        ∧ u.team? g.key = some { t with acq := true }))
    ∧ (t.acq = false → ∀ i ∈ [Instr.mxrel, .mxrdy tag q vn, .mxa hd ha tag, .mxs hd ha tag, .mxdr hd a b n, .cbld a n], StopsS s g i .mxowner 0)
    ∧ (t.acq = true → Completes s .mxrel g (fun u => SameBytes s u ∧ ∃ t', u.team? g.key = some t' ∧ t'.acq = false))
    ∧ (t.acq = true → t.tandem = false → t.mxQ.length < 16 →
      (s.quarterReady s.cur g t vn.toNat = true → (∀ x ∈ t.tags, ¬ (x.tag = tag.toNat ∧ x.q = q.toNat)) →
        took (.mxrdy tag q vn) (fun c => c.op = .rdy ∧ c.tag = tag.toNat ∧ c.q = q.toNat ∧ c.vn = vn.toNat))
      ∧ ((g.reg a).toNat % 32 = 0 → took (.cbld a n) (fun c => c.op = .cbld ∧ c.rcd = g.reg a ∧ c.n = n.toNat))
      ∧ ((g.reg a).toNat % 32 ≠ 0 → StopsS s g (.cbld a n) .align (g.reg a))
      ∧ (∀ x, t.handleCheck g hd = .ok x → took (.mxdr hd a b n) (fun c => c.op = .mxdr ∧ c.d = x ∧ c.fmt = g.fmt ∧ c.rcd = g.reg a
          ∧ c.c0 = g.reg b ∧ c.c1 = g.reg (b + 1) ∧ c.n = n.toNat))
      ∧ (∀ x y, t.handleCheck g hd = .ok x → t.handleCheck g ha = .ok y → (mxFormat (fmtA g.fmt) (fmtB g.fmt)).isSome = true →
          x.rows = 256 → x.rowb = 256 → y.rows = 256 →
          (y.rowb = mxRowb (fmtA g.fmt) (fmtScale g.fmt) false → took (.mxa hd ha tag) (fun c => c.op = .mxa ∧ c.d = x ∧ c.a = y ∧ c.tag = tag.toNat ∧ c.fmt = g.fmt))
          ∧ (y.rowb = mxRowb (fmtA g.fmt) (fmtScale g.fmt) true → took (.mxs hd ha tag) (fun c => c.op = .mxs ∧ c.d = x ∧ c.a = y ∧ c.tag = tag.toNat ∧ c.fmt = g.fmt))))

/-- A command address that is not a multiple of 64 stops with ALIGN; a queue that is not enabled, is of another partition or is named with bits above 13
answers 2, and 1024 children of the partition answer 1, changing nothing else. Otherwise, for a command in the team's own scratchpad with nothing in
the way, dlaunch completes with status 0, the queue holds one child more, at the end, with the command's 256 bytes, and the launch counts it. (R176,
R380, R381, spec/20_queues_and_run_ahead.md) -/
def Obligations.DeviceLaunch : Prop :=
  ∀ (s : State) (g : Machine.Group) (d a b : Reg), s.group? s.cur = some g → g.orun = none →
    let l := s.launchOf g
    let q := if b = 0 then l.q else (g.reg b).toNat % 2 ^ 14
    let Q := s.queue q
    ((g.reg a).toNat % 64 ≠ 0 → StopsS s g (.dlaunch d a b) .align (g.reg a))
    ∧ ((g.reg a).toNat % 64 = 0 → ((b ≠ 0 ∧ 2 ^ 14 ≤ (g.reg b).toNat) ∨ fld Q.rcd 0 1 ≠ 1 ∨ fld Q.rcd 8 4 ≠ l.part) → ScalarResult s g (.dlaunch d a b) d 2)
    ∧ ((g.reg a).toNat % 64 = 0 → (b = 0 ∨ (g.reg b).toNat < 2 ^ 14) → fld Q.rcd 0 1 = 1 → fld Q.rcd 8 4 = l.part → 1024 ≤ s.childCount l.part →
      ScalarResult s g (.dlaunch d a b) d 1)
    ∧ ((b = 0 ∨ (g.reg b).toNat < 2 ^ 14) → fld Q.rcd 0 1 = 1 → fld Q.rcd 8 4 = l.part → s.childCount l.part < 1024 → s.sideOf s.cur g = [] →
      (s.teamOf g).version = none → (s.team? g.key).isSome = true →
      ∀ pa, (g.reg a).toNat + 256 < 2 ^ 64 → (∀ i < 4, ScratchAccess s g 0 ((g.reg a).toNat + 64 * i) 64 (pa + 64 * i) .rd) →
      ∃ t k, exec (.dlaunch d a b) s = .next t ∧ t.group? s.cur = some (g.setReg d 0).advance ∧ SameBytes s t
        ∧ (t.queue q).kids = Q.kids ++ [k] ∧ k.cmd = BitVec.ofNat 2048 (Memory.read s.mem pa 256) ∧ k.parent = g.launch ∧ k.team = g.team
        ∧ k.call = (s.teamOf g).calls.toNat
        ∧ ∀ l', s.launch? g.launch = some l' → t.launch? g.launch = some { l' with children := l'.children + 1 })

/-- trap n and brk n take the stop TRAPINSN or BRK with n in the address field, the group to resume four bytes on. curb whose grants have all arrived
completes with the cycles it waited; one that still waits for a grant holds the S-stream. (R399, R421, R422, R423, spec/22_traps_and_preemption.md) -/
def Obligations.SystemCallsAndLeave : Prop :=
  ∀ (s : State) (g : Machine.Group), s.group? s.cur = some g → ∀ (n : BitVec 10) (m : BitVec 5) (d : Reg),
    exec (.trap n) s = .next (s.stop s.cur { s.stopRecord s.cur g .trapinsn false with addr := n.setWidth 64 } 4)
    ∧ exec (.brk n) s = .next (s.stop s.cur { s.stopRecord s.cur g .brk false with addr := n.setWidth 64 } 4)
    ∧ (g.curbAsk = 2 → ScalarDone s (.curb d m) g (fun g => { g.setReg d (BitVec.ofNat 64 (s.cyc (coreOf s.cur) - g.curbSince)) with curbAsk := 0 }))
    ∧ (2 < g.curbAsk → HeldS s g (.curb d m))

/-- For a group that runs and is not overreaching, of a launch that is no live prediction and is not traced, with nothing in flight, in a partition whose
frames, ring and trap queue lie apart in device memory: a stop whose cause some party claims leaves the group parked with the record and, in its
scalar PC, the address at which it resumes, its registers, class, count and streams as they were, and its frame in memory at the frame of its context.
A record for the supervisor alone is written to the core's queue and its head goes up; one for the host alone, with room in the ring, to the ring,
with its head and the trap interrupt. That frame and record are in memory in the state right after the stop is the model's reading (log 21): the spec
does not say when they are written. (R398, R399, R400, R402, R403, R405, R406, R410, spec/22_traps_and_preemption.md) -/
def Obligations.StopParksGroup : Prop :=
  ∀ (s : State) (gid : Nat) (g : Machine.Group) (r : TrapRec) (after : W64), s.group? gid = some g → g.orun = none → g.stopped = false →
    ((s.launchOf g).pred && (s.launchOf g).live) = false → g.pend = [] → g.posted = [] → g.blocked = none →
    s.traced (s.launchOf g) g.launch = false → gid < 20480 → r.nostop = false →
    let p := (s.launchOf g).part
    let P := s.part p
    let c := s.core (coreOf gid)
    let q := c.stqBase.toNat + 64 * (c.stqHead.toNat % 256)
    let ring := fld P.trap 128 64 + 64 * (fld P.trap 256 32 % 2 ^ fld P.trap 192 5)
    RecordsInMemory s p gid →
    ∀ h, route (P.claims r.cause) = h → h.1 ≠ .nobody →
    let t := s.stop gid r after
    ∃ g', t.group? gid = some g' ∧ g'.parked = some { rcd := r, who := h.1, slot := s.slot } ∧ g'.spc = g.spc + after
      ∧ (∀ x, g'.reg x = g.reg x) ∧ g'.v = g.v ∧ g'.p = g.p ∧ g'.fmt = g.fmt ∧ g'.flags = g.flags ∧ g'.slot0 = g.slot0 ∧ g'.slot1 = g.slot1
      ∧ g'.stack = g.stack ∧ g'.laneQ = g.laneQ ∧ g'.retQ = g.retQ ∧ g'.cls = g.cls ∧ g'.crit = g.crit
      ∧ (∀ i < 512, t.memByte (s.frameAt p gid + i) = nth (toBytes 512 g'.frame) i 0)
      ∧ (h = (.sup, false) → (t.core (coreOf gid)).stqHead = c.stqHead + 1 ∧ ∀ i < 64, t.memByte (q + i) = nth (toBytes 64 r.word) i 0)
      ∧ (h = (.host, false) → (BitVec.ofNat 32 (fld P.trap 256 32) - BitVec.ofNat 32 (fld P.trap 288 32)).toNat < 2 ^ fld P.trap 192 5 → P.hwait = [] →
          fld (t.part p).trap 256 32 = (fld P.trap 256 32 + 1) % 2 ^ 32 ∧ (t.part p).trapIrqs = P.trapIrqs + 1
          ∧ ∀ i < 64, t.memByte (ring + i) = nth (toBytes 64 r.word) i 0)
      ∧ ∀ k, k ≠ gid → t.group? k = s.group? k

/-- The record that a stop of an instruction makes holds the cause, the LANE bit, core, context, group index, launch, team, scalar PC, publication count
and time; a lane stop names the issuing path's index and mask, another stop those of the live path that issued last (R158). The routing of R405: DEV
alone to the supervisor; HOST alone to the host; both without EXCL to the supervisor with an advisory copy to the host; HOST with EXCL to the host
alone; neither to nobody, with an advisory copy to the host. (R158, R398, R405, spec/22_traps_and_preemption.md) -/
def Obligations.StopNamesItsPlace : Prop :=
  (∀ (s : State) (gid : Nat) (g : Machine.Group) (c : Cause) (ln : Bool),
      let r := s.stopRecord gid g c ln
      r.cause = c ∧ r.lane = ln ∧ r.core = gid / 128 ∧ r.ctx = gid % 128 ∧ r.gidx = g.gidx ∧ r.launch = BitVec.ofNat 32 g.launch
      ∧ r.team = BitVec.ofNat 32 g.team ∧ r.spc = g.spc ∧ r.stc = BitVec.ofNat 64 s.stc ∧ r.pubcount = (s.teamOf g).pubcount
      ∧ r.adv = false ∧ r.nostop = false ∧ r.iret = false ∧ r.addr = 0
      ∧ (∀ p, ln = true → g.path? s.slot = some p → r.lpc = p.pc ∧ r.amask = p.mask)
      ∧ (∀ p q, ln = false → ((g.slot0 = some p ∧ (g.slot1 = none ∨ (g.slot1 = some q ∧ q.last < p.last)))
          ∨ (g.slot1 = some p ∧ (g.slot0 = none ∨ (g.slot0 = some q ∧ q.last < p.last)))) → r.lpc = p.pc ∧ r.amask = p.mask))
    ∧ (∀ excl, route (true, false, excl) = (.sup, false)) ∧ route (false, true, false) = (.host, false)
    ∧ route (true, true, false) = (.sup, true) ∧ (∀ dev, route (dev, true, true) = (.host, false))
    ∧ (∀ excl, route (false, false, excl) = (.nobody, true))

/-- For every integer type, register, parameter or immediate operand, guard and saturation bit, vadd, vsub, vmul, vmulh (the product's upper half), vmad,
vmin, vmax, vabs and vneg of a path that can issue complete: each element of the destination is the exact result on the elements' values, wrapped or
(with the bit) saturated; FLAGS.SAT is raised exactly where saturation changed a result; every other lane, register, flag, predicate and byte of
memory is as before, and the path goes on. (R84, R179, R181, R182, R184, R185, spec/08_lane_stream.md) -/
def Obligations.LaneIntegerArithmetic : Prop :=
  ∀ (s : State) (g : Machine.Group) (p : Path) (w : LaneWord), CanIssue s g p false → tyFloat w.ty = none →
    let a := fun l e => intVal w.ty (elem w.ty (g.readTy w.ty w.va l) e)
    let b := fun l e => intVal w.ty (elem w.ty (g.readB w l) e)
    let c := fun l e => intVal w.ty (elem w.ty (g.readTy w.ty w.vc l) e)
    ∀ (i : Instr) (r : Nat → Nat → Int), (i, r) ∈ [(Instr.vadd w, fun l e => a l e + b l e), (.vsub w, fun l e => a l e - b l e),
        (.vmul w, fun l e => a l e * b l e), (.vmulh w, fun l e => (a l e * b l e) / (2 ^ tyBits w.ty : Nat)),
        (.vmad w, fun l e => a l e * b l e + c l e), (.vmin w, fun l e => if b l e < a l e then b l e else a l e),
        (.vmax w, fun l e => if a l e < b l e then b l e else a l e), (.vabs w, fun l e => if a l e < 0 then -a l e else a l e),
        (.vneg w, fun l e => -a l e)] →
      LaneResult s g p i w (fun l => elements w.ty (fun e => narrowed w.ty w.sat (r l e)))
        (fun l => elementFlags w.ty (fun e => satFlag w.ty w.sat (r l e)))

/-- For every integer type and operand form: vand, vor, vxor, vnot; vshl, vshr and vsra by the low bits of b (vsra fills with the element's top bit
whatever the signedness); vbfe with its field zero- or sign-extended, vbfi with b's low bits in the field; vpopc, vclz (the width on zero) and vbrev
complete with those elements in the lanes that take part, raise no flag and leave everything else as it is. (R84, R181, R182, R184, R186,
spec/08_lane_stream.md) -/
def Obligations.LaneBitOperations : Prop :=
  ∀ (s : State) (g : Machine.Group) (p : Path) (w : LaneWord), CanIssue s g p false → tyFloat w.ty = none →
    let n := tyBits w.ty
    let a := fun l e => BitVec.ofNat n (elem w.ty (g.readTy w.ty w.va l) e)
    let b := fun l e => BitVec.ofNat n (elem w.ty (g.readB w l) e)
    (∀ (i : Instr) (r : Nat → Nat → BitVec n), (i, r) ∈ [(Instr.vand w, fun l e => a l e &&& b l e), (.vor w, fun l e => a l e ||| b l e),
        (.vxor w, fun l e => a l e ^^^ b l e), (.vnot w, fun l e => ~~~ a l e), (.vshl w, fun l e => a l e <<< ((b l e).toNat % n)),
        (.vshr w, fun l e => a l e >>> ((b l e).toNat % n)), (.vsra w, fun l e => (a l e).sshiftRight ((b l e).toNat % n)),
        (.vpopc w, fun l e => BitVec.ofNat n ((List.range n).countP (fun j => (a l e).getLsbD j))),
        (.vclz w, fun l e => BitVec.ofNat n (n - Nat.log2 (2 * (a l e).toNat + 1))),
        (.vbrev w, fun l e => (a l e).reverse)] →
      LaneResult s g p i w (fun l => elements w.ty (fun e => (r l e).toNat)) (fun _ => 0))
    ∧ (let lsb := bits w.x32.toNat 0 6
       let len := bits w.x32.toNat 8 6
       ((Instr.vbfe w).wellFormed = true → LaneResult s g p (.vbfe w) w (fun l =>
          let f := BitVec.ofNat len (g.read32 w.va l / 2 ^ lsb)
          if w.ty = .i32 then (f.signExtend 32).toNat else f.toNat) (fun _ => 0))
       ∧ ((Instr.vbfi w).wellFormed = true → LaneResult s g p (.vbfi w) w (fun l =>
          ((BitVec.ofNat 32 (g.read32 w.va l)) &&& ~~~ (BitVec.ofNat 32 (2 ^ len - 1) <<< lsb)
            ||| (BitVec.ofNat 32 (g.read32 w.vb l) &&& BitVec.ofNat 32 (2 ^ len - 1)) <<< lsb).toNat) (fun _ => 0)))

/-- vfadd, vfsub, vfmul and vffma complete with the exact result on the operands (their signs flipped as md says, subnormals flushed with FTZ) rounded
once in the path's rounding mode, saturated with the bit; vfmin and vfmax with R189's choice, vfrnd with the nearest integral value of the mode, vfcls
with one class bit per element and no flag. FLAGS gains what R92 raises; nothing else changes. (R90, R92, R181, R187, R188, R189, R192,
spec/08_lane_stream.md) -/
def Obligations.LaneFloatArithmetic : Prop :=
  ∀ (s : State) (g : Machine.Group) (p : Path) (w : LaneWord) (T : FT), CanIssue s g p false → tyFloat w.ty = some T →
    let z := fmtFtz p.fmt
    let m := fmtRnd p.fmt
    let a := fun l e => ftzIn T z (negElem T w.negA (elem w.ty (g.readTy w.ty w.va l) e))
    let b := fun l e => ftzIn T z (negElem T w.negB (elem w.ty (g.readB w l) e))
    let c := fun l e => ftzIn T z (elem w.ty (g.readTy w.ty w.vc l) e)
    ∀ (i : Instr) (r : Nat → Nat → Nat × Flags), (i, r) ∈
       [(Instr.vfadd w, fun l e => finish T m w.sat z (addVal m (T.val (a l e)) (T.val (b l e)))),
        (.vfsub w, fun l e => finish T m w.sat z (addVal m (T.val (a l e)) (T.val (b l e ^^^ 2 ^ T.mag)))),
        (.vfmul w, fun l e => finish T m w.sat z (mulVal (T.val (a l e)) (T.val (b l e)))),
        (.vffma w, fun l e => finish T m w.sat z (fmaVal m (T.val (a l e)) (T.val (b l e)) (T.val (c l e)))),
        (.vfmin w, fun l e => minMax T z false (a l e) (b l e)), (.vfmax w, fun l e => minMax T z true (a l e) (b l e)),
        (.vfrnd w, fun l e => ftzOut T z (roundIntegral T m (a l e))),
        (.vfcls w, fun l e => (classBit T (elem w.ty (g.readTy w.ty w.va l) e), 0))] →
      LaneResult s g p i w (fun l => elements w.ty (fun e => (r l e).1)) (fun l => elementFlags w.ty (fun e => (r l e).2))

/-- vcmp and vfcmp complete for every condition: in each active lane the first destination holds guard and condition, the second guard and not condition
(so both are 0 where the guard is false); vfcmp reads flushed and sign-flipped operands, a NaN makes only ne and un hold, and an ordered condition on
a NaN (any condition on a signalling one) raises NV in the lanes that take part. pand, por, pxor and pandn write one predicate in the lanes that take
part. p7 reads 1 always; other lanes, predicates, registers and memory are as before. (R73, R79, R180, R181, R193, R194, spec/08_lane_stream.md) -/
def Obligations.LanePredicates : Prop :=
  ∀ (s : State) (g : Machine.Group) (p : Path) (w : LaneWord), CanIssue s g p false → g.lanew ≤ 64 →
    (∀ cc : Cond, (w.vd.toNat / 4 % 8 ≠ w.vd.toNat / 32 ∨ w.vd.toNat / 32 = 7) →
      (cc ≠ .un → cc ≠ .ord → CompareResult s g p (.vcmp cc w) w (fun l =>
        let x := intVal w.ty (g.readTy w.ty w.va l)
        let y := intVal w.ty (g.readB w l)
        match cc with
        | .eq => decide (x = y) | .ne => decide (x ≠ y) | .lt => decide (x < y) | .le => decide (x ≤ y)
        | .gt => decide (x > y) | .ge => decide (x ≥ y) | .un => false | .ord => true) 0)
      ∧ ∀ T, tyFloat w.ty = some T →
        let x := fun l => ftzIn T (fmtFtz p.fmt) (negElem T w.negA (elem w.ty (g.readTy w.ty w.va l) 0))
        let y := fun l => ftzIn T (fmtFtz p.fmt) (negElem T w.negB (elem w.ty (g.readB w l) 0))
        let nan := fun l => (T.val (x l)).isNan || (T.val (y l)).isNan
        let snan := fun l => (T.val (x l)).isSnan || (T.val (y l)).isSnan
        let ordered := [Cond.lt, .le, .gt, .ge].contains cc
        CompareResult s g p (.vfcmp cc w) w (fun l =>
          if nan l then cc == .ne || cc == .un else match cc with
          | .eq => decide (T.ord (x l) = T.ord (y l)) | .ne => decide (T.ord (x l) ≠ T.ord (y l))
          | .lt => decide (T.ord (x l) < T.ord (y l)) | .le => decide (T.ord (x l) ≤ T.ord (y l))
          | .gt => decide (T.ord (x l) > T.ord (y l)) | .ge => decide (T.ord (x l) ≥ T.ord (y l)) | .un => false | .ord => true)
          (if (lanesOf (g.active p &&& g.guard w)).any (fun l => snan l || (ordered && nan l)) then flNV else 0))
    ∧ (∀ (i : Instr) (f : Bool → Bool → Bool), (i, f) ∈ [(Instr.pand w, fun a b => a && b), (.por w, fun a b => a || b),
        (.pxor w, fun a b => a != b), (.pandn w, fun a b => a && !b)] →
      PredResult s g p i (fun q l => if takesPart g p w l && q == w.vd.toNat / 32
        then f (lane (g.pred (w.va.toNat / 32)) l) (lane (g.pred (w.vb.toNat / 32)) l) else lane (g.pred q) l) 0)

/-- vcvt converts element e to element e; vpack the elements of va, then those of vb; vunpack those of the part of va that x32[6:4] names; vdeq every
element of va (a codebook entry for q4, a float, or a signed byte), scaled by the E8 code in vb when vb is no vz, over consecutive registers; vscale
each element of va scaled alike. Each is rounded once in the path's mode, saturated with the bit, FLAGS gains what R92 raises, and nothing else
changes. (R88, R89, R91, R100, R102, R103, R104, R106, R107, spec/04_number_formats.md) -/
def Obligations.LaneConversions : Prop :=
  ∀ (s : State) (g : Machine.Group) (p : Path) (w : LaneWord), CanIssue s g p false →
    let d := w.ty.elems
    let n := w.srcTy.elems
    let cv := fun (x : Nat) => convertElem w.ty w.srcTy (fmtRnd p.fmt) w.sat x
    let E := fun (c : BitVec 8) l e => elem w.srcTy (g.read32 c l) e
    (let r := fun l e => cv (elem w.srcTy (g.readTy w.srcTy w.va l) e);
      LaneResult s g p (.vcvt w) w (fun l => elements w.ty (fun e => (r l e).1)) (fun l => elementFlags w.ty (fun e => (r l e).2)))
    ∧ (d = 2 * n → w.ty.wide = false →
      let r := fun l e => cv (if e < n then E w.va l e else E w.vb l (e - n))
      LaneResult s g p (.vpack w) w (fun l => elements w.ty (fun e => (r l e).1)) (fun l => elementFlags w.ty (fun e => (r l e).2)))
    ∧ (w.ty.wide = false →
      let r := fun l e => convertElem w.ty w.srcTy (fmtRnd p.fmt) false (E w.va l (bits w.x32.toNat 4 3 * d + e))
      LaneResult s g p (.vunpack w) w (fun l => elements w.ty (fun e => (r l e).1)) (fun l => elementFlags w.ty (fun e => (r l e).2)))
    ∧ (∀ T, tyFloat w.ty = some T → w.ty.wide = false →
      let scale := fun l (x : Val) => if w.vb.toNat = 0xFF then x
        else if g.read32 w.vb l % 256 = 0xFF then .nan false else x.scale ((g.read32 w.vb l % 256 : Nat) - 127)
      (let r := fun k l e => convert T (fmtRnd p.fmt) w.sat (scale l (match w.srcTy with
          | .q4x8 => FT.bf16.val (bits (g.param (bits w.x32.toNat 4 4 + E w.va l (k * d + e) / 4)).toNat (16 * (E w.va l (k * d + e) % 4)) 16)
          | .e4m3x4 => FT.e4m3.val (E w.va l (k * d + e))
          | .e5m2x4 => FT.e5m2.val (E w.va l (k * d + e))
          | _ => Val.ofInt (BitVec.ofNat 8 (E w.va l (k * d + e))).toInt));
        tyBits w.srcTy ≤ 8 → LaneRows s g p (.vdeq w) w (n / d) (fun k l => elements w.ty (fun e => (r k l e).1))
          (fun l => (List.range (n / d)).foldl (fun f k => f ||| elementFlags w.ty (fun e => (r k l e).2)) 0))
      ∧ (let r := fun l e => convert T (fmtRnd p.fmt) w.sat (scale l (T.val (elem w.ty (g.read32 w.va l) e)));
        LaneResult s g p (.vscale w) w (fun l => elements w.ty (fun e => (r l e).1)) (fun l => elementFlags w.ty (fun e => (r l e).2))))

/-- vmov copies a register or pair, a block parameter of the executing block (0 where the block has none) or zero; vmovk all 64 bits of a parameter to a
pair; vmovi the immediate, sign-extended for a pair; vsel one operand or the other by the selector predicate of the lane; vspec the lane, group, team
and mask values of R201. Each raises no flag and changes nothing else; a destination vz discards the result. (R74, R128, R178, R179, R180, R195, R196,
R201, spec/08_lane_stream.md) -/
def Obligations.LaneMoves : Prop :=
  ∀ (s : State) (g : Machine.Group) (p : Path) (w : LaneWord), CanIssue s g p false →
    let src := fun (c : BitVec 8) (k l : Nat) => if c.toNat < 0xF0 then (g.vreg (c.toNat + k) l).toNat
      else if c.toNat < 0xFF then ((g.laneQ.head?.map (fun b => (b.k.getD (c.toNat - 0xF0) 0).toNat)).getD 0) / 2 ^ (32 * k) % 2 ^ 32 else 0
    let imm := fun (k : Nat) => if w.ty = .i64 then (w.x32.signExtend 64).toNat / 2 ^ (32 * k) else w.x32.toNat / 2 ^ (32 * k)
    LaneRows s g p (.vmov w) w w.ty.regs (src w.va) (fun _ => 0)
    ∧ (RegCode.isK w.va = true → LaneRows s g p (.vmovk w) w 2 (src w.va) (fun _ => 0))
    ∧ LaneRows s g p (.vmovi w) w w.ty.regs (fun k _ => imm k) (fun _ => 0)
    ∧ LaneRows s g p (.vsel w) w w.ty.regs (fun k l => if lane (g.pred (w.vc.toNat / 32)) l then src w.va k l
        else if w.immB then imm k else src w.vb k l) (fun _ => 0)
    ∧ (∀ n (v : Nat → Nat), w.x32.toNat = n → (n, v) ∈ [(0, fun l => l), (1, fun _ => g.lanew), (2, fun _ => g.gidx), (3, fun _ => g.team),
        (4, fun _ => (p.mask &&& g.live).toNat % 2 ^ 32), (5, fun _ => (p.mask &&& g.live).toNat / 2 ^ 32), (6, fun _ => g.live.toNat % 2 ^ 32),
        (7, fun _ => g.live.toNat / 2 ^ 32), (8, fun _ => s.cur % 128), (9, fun _ => s.cur / 128)] →
      LaneRows s g p (.vspec w) w 1 (fun _ l => v l) (fun _ => 0))

/-- vfdiv, vsqrt, vrcp, vrsq, vexp2, vlog2, vsin, vcos and vquant of a path that can issue open one window with the lookahead of the word (none when no
lane takes part) and change no register; LONG_LATENCY_COMPLETE then writes, in the lanes that took part, the rounded quotient or root, the value
within the bounds of R190 (a free value of the model within them, log 10), or the eight quantised registers and the status word, and gives FLAGS the
flags raised. (R105, R123, R124, R125, R187, R188, R190, spec/05_groups_and_issue.md) -/
def Obligations.LaneLongArithmetic : Prop :=
  ∀ (s : State) (g : Machine.Group) (p : Path) (w : LaneWord) (T : FT), CanIssue s g p false → fits g.vregs w.vd w.ty.regs = true →
    (tyFloat w.ty = some T → w.ty.wide = false →
      let z := fmtFtz p.fmt
      let a := fun l e => ftzIn T z (negElem T w.negA (elem w.ty (g.readTy w.ty w.va l) e))
      let b := fun l e => ftzIn T z (negElem T w.negB (elem w.ty (g.readB w l) e))
      ∀ (i : Instr) (r : Nat → Nat → Nat × Flags), (i, r) ∈
         [(Instr.vfdiv w, fun l e => finish T (fmtRnd p.fmt) w.sat z (divVal (T.val (a l e)) (T.val (b l e)))),
          (.vsqrt w, fun l e => finish T (fmtRnd p.fmt) w.sat z (sqrtVal (T.val (a l e)))),
          (.vrcp w, fun l e => rcp z w.sat (a l e)), (.vrsq w, fun l e => rsq z (a l e)), (.vexp2 w, fun l e => exp2 z w.sat (a l e)),
          (.vlog2 w, fun l e => log2f z (a l e)), (.vsin w, fun l e => sinCos z false (a l e)), (.vcos w, fun l e => sinCos z true (a l e))] →
        LaneLater s g p i w (fun l => elements w.ty (fun e => (r l e).1)) (fun l => elementFlags w.ty (fun e => (r l e).2)))
    ∧ (tyFloat w.srcTy = some T → RegCode.isV w.va = true → fits g.vregs w.vd 8 = true → fits g.vregs w.vc 1 = true → w.srcTy.wide = false →
      let n := w.srcTy.elems
      let x := fun l => (List.range 32).map (fun j => T.val (elem w.srcTy (g.vreg (w.va.toNat + j / n) l).toNat (j % n)))
      let q := fun l => quantise (match w.ty with
        | .e4m3x4 => QT.e4m3
        | .e5m2x4 => QT.e5m2
        | _ => QT.i8) (fmtRnd p.fmt) (fmtRetry p.fmt) (fmtQsat p.fmt) (x l)
      w.ty.elems = 4 → LaneLong s g p (.vquant w) w (fun r l =>
        if takesPart g p w l && RegCode.isV w.vc && r == w.vc.toNat then
          BitVec.ofNat 32 ((q l).code + 2 ^ 8 * (q l).tries + 2 ^ 11 * (q l).ovf.toNat + 2 ^ 12 * (q l).nonfin.toNat)
        else laneAfter g p w 8 (fun k l => elements w.ty (fun e => (q l).y.getD (4 * k + e) 0)) r l)
        (fun l => (q l).flags) (fun t => OnlyGroup s t s.cur))

/-- A path that can issue: vshfl reads the lane that its mode and operand name, vbcast one lane, a lane outside the path's mask supplying zero; vballot
the mask of lanes taking part whose predicate is set; vred the combination of R199 over the lanes taking part, vscan that over the lanes up to each
lane (below it for the exclusive form, the identity when there is none). Results are those of the registers at issue, written at completion; nothing
else changes. (R124, R197, R198, R199, spec/08_lane_stream.md) -/
def Obligations.CrossLaneResults : Prop :=
  ∀ (s : State) (g : Machine.Group) (p : Path) (w : LaneWord), CanIssue s g p false → fits g.vregs w.vd w.ty.regs = true →
    let src := fun (j : Nat) => if lane p.mask j then g.readTy w.ty w.va j else 0
    let part := g.active p &&& g.guard w
    let op := w.vc.toNat % 16
    (∀ m, m = w.vc.toNat % 4 → LaneLater s g p (.vshfl w) w (fun l =>
        let b := if w.immB then w.x32.toNat else g.read32 w.vb l
        src (if m = 0 then b % g.lanew else if m = 1 then l ^^^ (b % g.lanew)
          else if m = 2 then (if l < b then l else l - b) else if g.lanew ≤ l + b then l else l + b)) (fun _ => 0))
    ∧ LaneLater s g p (.vbcast w) w (fun _ => src (w.x32.toNat % 64)) (fun _ => 0)
    ∧ LaneLater s g p (.vballot w) w (fun _ => (part &&& g.pred (w.va.toNat / 32)).toNat) (fun _ => 0)
    ∧ (op ≤ 8 → (if 6 ≤ op then w.ty = .f32 else w.ty ∈ [Ty.i32, .n32, .i64, .n64]) →
      (∃ v fl, (part ≠ 0 → Combined g p w op part v) ∧ (op < 6 → fl = 0) ∧ LaneLater s g p (.vred w) w (fun _ => v) (fun _ => fl))
      ∧ ∃ (v : Nat → Nat) (fl : Nat → Flags), LaneLater s g p (.vscan w) w v fl ∧ ∀ l, takesPart g p w l = true →
        let below := part &&& lanesMask (if bit w.vc.toNat 4 then l else l + 1)
        (op < 6 → fl l = 0) ∧ (below ≠ 0 → Combined g p w op below (v l)) ∧ (below = 0 → v l = redIdentity w.ty op))

/-- Where every lane that takes part makes an ordinary access (Access: of a scratchpad, host memory or device memory): vlds, vld and vrdm issue, every
byte of memory reads as before, and at completion each such lane's destination holds the bytes that the task sees at its port, zero-extended (a vld of
device memory through L1 completes with some value, log 8); vsts and vst, when no two lanes overlap, leave each lane's bytes at its port and every
byte that no lane touches as before, and complete with no register changed. A lane whose offset is misaligned stops vlds and vsts with ALIGN, the
lowest such lane's offset in the address field, before any lane is performed. In a vst, one lane whose address may not be written stops the group with
PROTECT, the address of the lowest such lane, all lanes that take part and no byte changed; with all lanes on pages that are not present it retires
each into the side log and issues. A vld or vrdm whose lanes may all not be read stops with PROTECT, and one whose lanes all lie on pages refused to
it with PAGELOAD; with all on pages not yet answered it holds the group on every one of them. (R210, R211, R238, R241, R242, R243, R246, R318, R325,
R326, R334, spec/10_scratch_and_barriers.md) -/
def Obligations.LaneScratchAccesses : Prop :=
  ∀ (s : State) (g : Machine.Group) (p : Path) (w : LaneWord) (pa : Nat → Nat), CanIssue s g p false → (s.setGroup s.cur g).tableRoom s.cur (1 + s.slot) 64 = true →
    (s.core (coreOf s.cur)).sideLog.length ≤ 256 →
    let n := tyBytes w.ty
    let off := fun l => (g.read32 w.va l + g.read32 w.vb l + w.x32.toNat) % 2 ^ 32
    let ea := fun l => (BitVec.ofNat 64 (g.read64 w.va l) + (BitVec.ofNat 32 (g.read32 w.vb l)).signExtend 64 + w.x32.signExtend 64).toNat
    let got := laneAfter g p w w.ty.regs (fun k l => s.taskRead g (pa l) n / 2 ^ (32 * k))
    let data := fun l => g.readTy w.ty w.vd l
    let part := g.active p &&& g.guard w
    let k := 1 + s.slot
    (fits g.vregs w.vd w.ty.regs = true →
      (LanesAccess s g p w (fun l => aperture + off l) pa n .rd → LaneLong s g p (.vlds w) w got (fun _ => 0) (SameBytes s))
      ∧ (LanesAccess s g p w ea pa n .rd → LaneLong s g p (.vrdm w) w got (fun _ => 0) (SameBytes s)
          ∧ (∃ val, LaneLong s g p (.vld w) w (laneAfter g p w w.ty.regs val) (fun _ => 0) (SameBytes s))
          ∧ ((bit w.vc.toNat 7 = true ∨ ∀ l, takesPart g p w l = true → regionOf (pa l) ≠ .dram) → LaneLong s g p (.vld w) w got (fun _ => 0) (SameBytes s))))
    ∧ (LanesApart g p w pa n →
      (LanesAccess s g p w (fun l => aperture + off l) pa n .wr →
        LaneLong s g p (.vsts w) w g.vreg (fun _ => 0) (fun t => LanesStore s t g p w pa data n))
      ∧ (LanesAccess s g p w ea pa n .wr → ReleasesAtOnce s g (vcOrder w) (vcScope w) →
        LaneLong s g p (.vst w) w g.vreg (fun _ => 0) (fun t => LanesStore s t g p w pa data n)))
    ∧ (∀ l0, p.redo = none → takesPart g p w l0 = true → off l0 % n ≠ 0 → (∀ l, l < l0 → takesPart g p w l = true → off l % n = 0) →
      ∀ i ∈ [Instr.vlds w, .vsts w], ∃ g1, g1 = g.setPath s.slot (some { p with redo := some part, far := farthest ((0, p.far) :: s.reached) })
        ∧ exec i s = ((s.setGroup s.cur g).setGroup s.cur g1).trapL s.cur g1 .align (BitVec.ofNat 64 (off l0)) part)
    ∧ (∀ loc : Nat → Loc, p.redo = none → (∀ l, takesPart g p w l = true → ea l % n = 0 ∧ (inTeamWin (ea l) = true → g.refusedTo k (ea l) = false)) →
      (∀ l, takesPart g p w l = true → ∀ touch, (s.setGroup s.cur g).locate s.cur g (ea l) n .wr touch = (loc l, s.setGroup s.cur g)
        ∧ s.gwHit s.cur g k (ea l) n .wr = false ∧ (loc l = .flt .protect ∨ loc l = .missing)) →
      (∀ l0, takesPart g p w l0 = true → loc l0 = .flt .protect → (∀ l, l < l0 → takesPart g p w l = true → loc l = .missing) →
        vcOrder w = .rlx → StopsLanes s (.vst w) .protect (BitVec.ofNat 64 (ea l0)) part (SameBytes s))
      ∧ (part ≠ 0 → (∀ l, takesPart g p w l = true → loc l = .missing ∧ ∀ u, OnlyAsks s u s.cur (s.launchOf g).part →
          u.locate s.cur g (ea l) n .wr true = (.missing, u)) → g.posted = [] → (s.core (coreOf s.cur)).sideLog = [] →
        ReleasesAtOnce s g (vcOrder w) (vcScope w) → LanesApart g p w ea n → ∃ t x, exec (.vst w) s = .next t
          ∧ t.group? s.cur = some { g.stepPath s.slot p with pend := (g.stepPath s.slot p).pend ++ [x] } ∧ x.path = p.id ∧ x.left = w.la.toNat
          ∧ ∀ l, takesPart g p w l = true → ∃ e ∈ (t.core (coreOf s.cur)).sideLog, Retired e (s.launchOf g).asid (g.issuer s.cur) (ea l) n (data l) none))
    ∧ (∀ (loc : Nat → Loc) (l0 : Nat), p.redo = none → takesPart g p w l0 = true → (∀ l, l < l0 → takesPart g p w l = false) →
      (∀ l, takesPart g p w l = true → ea l % n = 0 ∧ (inTeamWin (ea l) = true → g.refusedTo k (ea l) = false)
        ∧ ∀ touch, (s.setGroup s.cur g).locate s.cur g (ea l) n .rd touch = (loc l, s.setGroup s.cur g)) →
      ∀ i ∈ [Instr.vld w, .vrdm w],
        ((∀ l, takesPart g p w l = true → loc l = .flt .protect) → StopsLanes s i .protect (BitVec.ofNat 64 (ea l0)) part (SameBytes s))
        ∧ ((∀ l, takesPart g p w l = true → loc l = .missing) →
          ((∀ l, takesPart g p w l = true → g.refusedTo k (ea l) = true) → StopsLanes s i .pageload (BitVec.ofNat 64 (ea l0)) part (SameBytes s))
          ∧ ((∀ l, takesPart g p w l = true → g.refusedTo k (ea l) = false) → ∃ t g', exec i s = .next t ∧ t.group? s.cur = some g'
              ∧ (∀ r l, g'.vreg r l = g.vreg r l) ∧ ∀ l, takesPart g p w l = true → (g.streamId k, pageOf (ea l)) ∈ g'.pageWait)))

/-- Where every lane that takes part makes an ordinary atomic access (Access: of a scratchpad, host memory or device memory, there at a scope narrower
than tandem or for a task without a version) and no two lanes overlap: the task sees in each lane's word the new value of R246 (add, and, or, xor,
signed and unsigned minimum and maximum, swap, compare and swap, float add), every byte that no lane touches is as before, and at completion each
lane's destination holds the old value; with vd = 0xFF no register changes. With all lanes' addresses ones that may not be written it stops with
PROTECT; with all on pages refused to it and a destination, with PAGELOAD; with all on pages not present, it holds the group on each page if it has a
destination, and else retires each lane's reduction into the side log and issues. (R80, R243, R244, R245, R246, R247, R318, R325, R326, R334,
spec/11_memory_and_atomics.md) -/
def Obligations.LaneAtomics : Prop :=
  ∀ (s : State) (g : Machine.Group) (p : Path) (w : LaneWord) (pa : Nat → Nat), CanIssue s g p false → (s.setGroup s.cur g).tableRoom s.cur (1 + s.slot) 64 = true →
    (s.core (coreOf s.cur)).sideLog.length ≤ 256 → fits g.vregs w.vd w.ty.regs = true → (w.vd.toNat < 0xF0 ∨ w.vd = 0xFF) →
    w.ty ∈ [Ty.i32, .n32, .i64, .n64, .f32] → ReleasesAtOnce s g (amoOrder w) (amoScope w) →
    let n := tyBytes w.ty
    let ea := fun l => g.read64 w.va l
    let m := fun l => s.taskRead g (pa l) n
    let x := fun l => g.readTy w.ty w.vb l
    let sgn := fun (v : Nat) => (BitVec.ofNat (8 * n) v).toInt
    let part := g.active p &&& g.guard w
    let k := 1 + s.slot
    (LanesApart g p w pa n → LanesAccess s g p w ea pa n .amo → (∀ l, takesPart g p w l = true → Narrow s g (pa l) (amoScope w)) →
      ∀ (op : Nat) (v : Nat → Nat), bits w.x32.toNat 0 5 = op → (op, v) ∈ [(0, fun l => m l + x l), (1, fun l => m l &&& x l), (2, fun l => m l ||| x l),
        (3, fun l => m l ^^^ x l), (4, fun l => if sgn (m l) < sgn (x l) then m l else x l), (5, fun l => if sgn (m l) < sgn (x l) then x l else m l),
        (6, fun l => min (m l) (x l)), (7, fun l => max (m l) (x l)), (8, x), (9, fun l => if m l = g.readTy w.ty w.vc l then x l else m l),
        (10, fun l => (convert .f32 .rne false (addVal .rne (FT.f32.val (m l)) (FT.f32.val (x l))).1).1)] →
      LaneLong s g p (.vamo w) w (laneAfter g p w w.ty.regs (fun k l => m l / 2 ^ (32 * k))) (fun _ => 0)
        (fun t => LanesStore s t g p w pa v n))
    ∧ (∀ (loc : Nat → Loc) (l0 : Nat), p.redo = none → takesPart g p w l0 = true → (∀ l, l < l0 → takesPart g p w l = false) →
      (∀ l, takesPart g p w l = true → ea l % n = 0 ∧ (inTeamWin (ea l) = true → g.refusedTo k (ea l) = false) ∧ s.gwHit s.cur g k (ea l) n .amo = false
        ∧ ∀ touch, (s.setGroup s.cur g).locate s.cur g (ea l) n .amo touch = (loc l, s.setGroup s.cur g)) → g.posted = [] →
      ((∀ l, takesPart g p w l = true → loc l = .flt .protect) → StopsLanes s (.vamo w) .protect (BitVec.ofNat 64 (ea l0)) part (SameBytes s))
      ∧ ((∀ l, takesPart g p w l = true → loc l = .missing) →
        (w.vd ≠ 0xFF → (∀ l, takesPart g p w l = true → g.refusedTo k (ea l) = true) →
          StopsLanes s (.vamo w) .pageload (BitVec.ofNat 64 (ea l0)) part (SameBytes s))
        ∧ (w.vd ≠ 0xFF → (∀ l, takesPart g p w l = true → g.refusedTo k (ea l) = false) → ∃ t g', exec (.vamo w) s = .next t ∧ t.group? s.cur = some g'
            ∧ (∀ r l, g'.vreg r l = g.vreg r l) ∧ ∀ l, takesPart g p w l = true → (g.streamId k, pageOf (ea l)) ∈ g'.pageWait)
        ∧ (w.vd = 0xFF → (s.core (coreOf s.cur)).sideLog = [] → (∀ l, takesPart g p w l = true → ∀ u, OnlyAsks s u s.cur (s.launchOf g).part →
            u.locate s.cur g (ea l) n .amo true = (.missing, u)) → ∃ t y, exec (.vamo w) s = .next t
            ∧ t.group? s.cur = some { g.stepPath s.slot p with pend := (g.stepPath s.slot p).pend ++ [y] } ∧ y.path = p.id ∧ y.left = w.la.toNat
            ∧ ∀ l, takesPart g p w l = true → ∃ e ∈ (t.core (coreOf s.cur)).sideLog,
                Retired e (s.launchOf g).asid (g.issuer s.cur) (ea l) n (x l) (some (bits w.x32.toNat 0 5)))))

/-- On a tile that the group owns, in a team of one core with no access pending: vtget opens its window and places a read of the row,
TILE_ACCESS_PERFORMED and LONG_LATENCY_COMPLETE then give each lane that took part its element (0 past the row's end), memory as before; vtset places
a write, whose performance puts each lane's element that lies in the row into it and changes no other byte; performing the access of tzero makes every
byte of the tile zero and no other. A free handle stops with HANDLEFREE, a foreign one with HANDLEOWNER, a row past the tile with PROTECT. (R281,
R282, R291, R293, R294, spec/13_casket_tiles.md) -/
def Obligations.TileRowAccesses : Prop :=
  ∀ (s : State) (g : Machine.Group) (p : Path) (w : LaneWord) (t : Team), CanIssue s g p false → s.team? g.key = some t → p.redo = none →
    let h := bits w.x32.toNat 0 6
    let r := (bits w.x32.toNat 8 10 + g.read32 w.va 0) % 2 ^ 32
    let n := tyBytes w.ty
    let part := g.active p &&& g.guard w
    (∀ (k : Nat) (u : Team) (acc : TileAcc), s.team? k = some u → u.tandem = false → u.away = false → u.tileAccs = [acc] → acc.op = .zeroW →
        acc.lo = 0 → acc.len = acc.h.rows * acc.h.rowb → Falls s (.tileAccessPerformed k acc.id) (fun v =>
          let base := onchip u.core (0x580000 + acc.h.first0 * 0x4000)
          Memory.read v.mem base (acc.h.rows * acc.h.rowb) = 0 ∧ BytesOutside s v base (acc.h.rows * acc.h.rowb)))
    ∧ (Tbl.find t.handles h = none → StopsL s g (.vtget w) .handlefree (BitVec.ofNat 64 h) 0 ∧ StopsL s g (.vtset w) .handlefree (BitVec.ofNat 64 h) 0)
    ∧ ∀ x, Tbl.find t.handles h = some x →
      (x.owner ≠ g.gidx → StopsL s g (.vtget w) .handleowner (BitVec.ofNat 64 h) 0 ∧ StopsL s g (.vtset w) .handleowner (BitVec.ofNat 64 h) 0)
      ∧ (x.owner = g.gidx → x.rows ≤ r → StopsL s g (.vtget w) .protect (BitVec.ofNat 64 r) 0 ∧ StopsL s g (.vtset w) .protect (BitVec.ofNat 64 r) 0)
      ∧ (x.owner = g.gidx → r < x.rows → t.tandem = false → t.away = false → t.tileAccs = [] → 0 < t.nextAcc →
        (s.groups.find? (fun e => e.2.issued (g.issuer s.cur)) = some (s.cur, g)) → (∀ e ∈ s.groups, e.2.issued (g.issuer s.cur) = true → e.1 = s.cur) →
        g.stopped = false → g.stopping = false → (∀ y ∈ g.pend, y.acc = 0) →
        let base := onchip t.core (0x580000 + x.first0 * 0x4000 + r * x.rowb)
        (part = 0 → exec (.vtget w) s = .next (s.setGroup s.cur (g.stepPath s.slot p)) ∧ exec (.vtset w) s = .next (s.setGroup s.cur (g.stepPath s.slot p)))
        ∧ (part ≠ 0 → fits g.vregs w.vd w.ty.regs = true → ∃ t1, exec (.vtget w) s = .next t1 ∧ SameBytes s t1
          ∧ Falls t1 (.tileAccessPerformed g.key t.nextAcc) (fun t2 => SameBytes s t2
            ∧ Falls t2 (.longLatencyComplete s.cur g.pend.length) (fun u => ∃ g', u.group? s.cur = some g' ∧ OnlyLanes g g'
              ∧ ∀ q l, l < 64 → g'.vreg q l = laneAfter g p w w.ty.regs (fun k l =>
                  (if n * (l + 1) ≤ x.rowb then Memory.read s.mem (base + n * l) n else 0) / 2 ^ (32 * k)) q l)))
        ∧ (part ≠ 0 → ∃ t1, exec (.vtset w) s = .next t1 ∧ SameBytes s t1
          ∧ Falls t1 (.tileAccessPerformed g.key t.nextAcc) (fun t2 =>
            (∀ l, takesPart g p w l = true → n * (l + 1) ≤ x.rowb → Memory.read t2.mem (base + n * l) n = g.readTy w.ty w.vd l % 256 ^ n)
            ∧ ∀ a, (∀ l, takesPart g p w l = true → n * (l + 1) ≤ x.rowb → a < base + n * l ∨ base + n * (l + 1) ≤ a) → t2.memByte a = s.memByte a)))

/-- For a path of an untraced group with no long-latency instruction incomplete. lbra: no lane taken goes on, all taken goes to the target, else the path
splits, the taken lanes in the free slot or pushed as an entry. mjoin pushes a join entry (a live sibling below it). join at the top join entry's
index adds the lanes to ARRIVED and ends the path while the sibling lives, and otherwise releases the arrived lanes at the next index. lend ends the
path, and the block with the last one; lkill removes lanes; lfmt sets the path's FMT; lnop does nothing. A full stack stops with STACKOVF, lend under
a join entry with LENDDIV. (R139, R144, R145, R149, R150, R151, R152, R153, R154, R155, spec/06_paths_and_reconvergence.md) -/
def Obligations.LaneControlPaths : Prop :=
  ∀ (s : State) (g : Machine.Group) (p : Path) (w : LaneWord), CanIssue s g p true → s.traced (s.launchOf g) g.launch = false →
    let q := g.issuedPath { p with mask := p.mask &&& g.live }
    let G := g.stepPath s.slot q
    let sib := g.path? (1 - s.slot)
    let k := q.mask &&& g.guard w
    let f := q.mask &&& ~~~ (g.guard w)
    let here := fun (x : Path) => G.setPath s.slot (some x)
    let gone := G.setPath s.slot none
    (k = 0 → Controls s (.lbra w) G)
    ∧ (k ≠ 0 → f = 0 → Controls s (.lbra w) (here { q with pc := w.x32 }))
    ∧ (k ≠ 0 → f ≠ 0 → sib = none → ∃ g1, Controls s (.lbra w) g1 ∧ g1.path? s.slot = some { q with pc := p.pc + 1, mask := f }
        ∧ (∃ y, g1.path? (1 - s.slot) = some y ∧ y.pc = w.x32 ∧ y.mask = k ∧ y.fmt = p.fmt ∧ y.redo = none) ∧ g1.stack = g.stack ∧ g1.live = g.live ∧ g1.v = g.v)
    ∧ (k ≠ 0 → f ≠ 0 → sib ≠ none → g.stack.length < 64 → ∃ g1 e, Controls s (.lbra w) g1 ∧ g1.path? s.slot = some { q with pc := p.pc + 1, mask := f }
        ∧ g1.path? (1 - s.slot) = sib ∧ g1.stack = e :: g.stack ∧ e.kind = .pathE ∧ e.index = w.x32 ∧ e.mask = k ∧ e.fmt = p.fmt ∧ e.arrived = 0)
    ∧ (k ≠ 0 → f ≠ 0 → sib ≠ none → 64 ≤ g.stack.length → StopsL s g (.lbra w) .stackovf 0 0)
    ∧ (let below := match sib with
         | some y => ({ kind := .pathE, index := y.pc, mask := y.mask, arrived := 0, fmt := y.fmt, id := y.id, redo := y.redo,
                         far := y.far, last := y.last, noWatch := y.noWatch } : StackEnt) :: g.stack
         | none => g.stack
       (below.length < 64 → Controls s (.mjoin w) { G.setPath (1 - s.slot) none with stack :=
          { kind := .joinE, index := w.x32, mask := q.mask, arrived := 0, fmt := p.fmt } :: below })
       ∧ (64 ≤ below.length → StopsL s g (.mjoin w) .stackovf 0 0))
    ∧ ((∀ e, g.level = some e → e.index ≠ p.pc) → Controls s (.join w) G)
    ∧ (∀ e r, g.stack = e :: r → e.kind = .joinE → e.index = p.pc →
        (sib ≠ none → Controls s (.join w) { gone with stack := { e with arrived := e.arrived ||| q.mask } :: r })
        ∧ (sib = none → q.mask ≠ 0 → (∀ x ∈ r.head?, x.kind = .joinE) → ∃ g1 y, Controls s (.join w) g1 ∧ g1.stack = r
            ∧ g1.slot0 = some y ∧ g1.slot1 = none ∧ y.pc = e.index + 1 ∧ y.mask = (e.arrived ||| q.mask) &&& g.live ∧ y.fmt = e.fmt))
    ∧ (g.level ≠ none → StopsL s g (.lend w) .lenddiv 0 0)
    ∧ (g.stack = [] → sib ≠ none → Controls s (.lend w) gone)
    ∧ (g.stack = [] → sib = none → Controls s (.lend w) { G with laneQ := g.laneQ.tail, running := false, slot0 := none, slot1 := none, stack := [] })
    ∧ (g.live &&& ~~~ k = 0 → Controls s (.lkill w) { G with live := 0, laneQ := g.laneQ.tail, running := false, slot0 := none, slot1 := none, stack := [] })
    ∧ (g.live &&& ~~~ k ≠ 0 → f ≠ 0 → Controls s (.lkill w) { here { q with pc := p.pc + 1, mask := f } with live := g.live &&& ~~~ k })
    ∧ (g.live &&& ~~~ k ≠ 0 → f = 0 → sib ≠ none → g.stack = [] → Controls s (.lkill w) { gone with live := g.live &&& ~~~ k })
    ∧ Controls s (.lfmt w) (here { q with pc := p.pc + 1, fmt := w.x32.extractLsb' 0 19 })

/-- lnop moves the path to its next word and counts toward windows. lbrk with no guarded lane true goes on; else the group takes the stop BRK after the
word with x32[15:0] as address and the true lanes as faulting lanes. vput with no lane taking part goes on; else, with room in the return queue, the
value of the lowest lane is appended, sign-extended for i32 and zero-extended for n32; with a full queue the path is held and the queue is as before.
(R119, R156, R157, R200, R399, spec/06_paths_and_reconvergence.md) -/
def Obligations.LaneNopBreakAndPut : Prop :=
  ∀ (s : State) (g : Machine.Group) (p : Path) (w : LaneWord), CanIssue s g p false →
    Controls s (.lnop w) (g.stepPath s.slot p)
    ∧ (let q := { p with mask := p.mask &&& g.live }
       let b := q.mask &&& g.guard w
       (∀ x ∈ g.pend, x.path ≠ p.id) →
       (b = 0 → Controls s (.lbrk w) (g.stepPath s.slot q))
       ∧ (b ≠ 0 → exec (.lbrk w) s = .next ((s.setGroup s.cur (g.stepPath s.slot q)).stop s.cur
            { s.stopRecord s.cur g .brk true with addr := (w.x32.extractLsb' 0 16).setWidth 64, fmask := b })))
    ∧ (g.active p &&& g.guard w = 0 → Controls s (.vput w) (g.stepPath s.slot p))
    ∧ (∀ l, takesPart g p w l = true → (∀ m, m < l → takesPart g p w m = false) →
       (g.retQ.length < 16 → Controls s (.vput w) ({ g with retAt := g.retAt ++ [g.laneN + 1], retQ := g.retQ ++ [match w.ty with
            | .i32 => (BitVec.ofNat 32 (g.read32 w.va l)).signExtend 64
            | .i64 => BitVec.ofNat 64 (g.read64 w.va l)
            | .n64 => BitVec.ofNat 64 (g.read64 w.va l)
            | _ => BitVec.ofNat 64 (g.read32 w.va l)] }.stepPath s.slot p))
       ∧ (16 ≤ g.retQ.length → ∃ t g', exec (.vput w) s = .next t ∧ OnlyGroup s t s.cur ∧ t.group? s.cur = some g'
            ∧ g' = { g with vputFull := true, lHeld := g'.lHeld, lHeld1 := g'.lHeld1, heldVer := g'.heldVer, sideWait := g'.sideWait }))

/-- State.reset has no group, team, launch, version, lock or bad line, memory in canonical form with every byte zero, STC 0, BOOTSTAT stage 0, PCAP 2600,
DRTH 25, GMAX 8, DREN 1, disabled queues with AHEAD 2, VBUDGET 256 and PBUDGET 64, partitions without tandems with WPRBLOG 20, and claim tables of DEV
for every cause but HALT, which is HOST and EXCL. From any state RESET leaves no group, team, launch or version, all package memory zero, host memory
as it was (log 4), and the cause in RSTCAUSE. (R368, R382, R404, R460, R461, R462, spec/26_power_and_bring_up.md) -/
def Obligations.ResetLeavesTheMachine : Prop :=
  Memory.wf State.reset.mem = true ∧ (∀ a, State.reset.memByte a = 0) ∧ State.reset.groups = [] ∧ State.reset.teams = []
  ∧ State.reset.launches = [] ∧ State.reset.versions = [] ∧ State.reset.locks = [] ∧ State.reset.badLines = [] ∧ State.reset.stc = 0
  ∧ State.reset.boot.stage = 0 ∧ fld State.reset.pkg 0 16 = 2600
  ∧ (∀ d, fld (State.reset.die d).reg 0 8 = 25 ∧ fld (State.reset.die d).reg 8 8 = 8 ∧ fld (State.reset.die d).reg 16 1 = 1)
  ∧ (∀ q, fld (State.reset.queue q).rcd 0 1 = 0 ∧ fld (State.reset.queue q).rcd 4 4 = 2 ∧ fld (State.reset.queue q).rcd 336 11 = 256
      ∧ fld (State.reset.queue q).rcd 352 11 = 64 ∧ (State.reset.queue q).st = 0)
  ∧ (∀ p, fld (State.reset.part p).rcd 0 80 = 0 ∧ fld (State.reset.part p).rcd 88 6 = 20 ∧ (State.reset.part p).tdi = .unlocked
      ∧ ∀ c : Cause, (State.reset.part p).claims c = if c = .halt then (false, true, true) else (true, false, false))
  ∧ ∀ (s : State) (cause : BitVec 8), Falls s (.reset cause) (fun t => t.groups = [] ∧ t.teams = [] ∧ t.launches = [] ∧ t.versions = []
      ∧ t.boot.stage = 0 ∧ fld t.pkg 32 8 = cause.toNat ∧ fld t.pkg 0 16 = 2600 ∧ (∀ a, a < 2 ^ 64 → t.memByte a = 0)
      ∧ ∀ a, 2 ^ 64 ≤ a → t.memByte a = Memory.byte s.mem a)

/-- A command or register write of a VF that is not the partition's leaves the whole machine as it was; so does a VF's RESIZE, watchpoint, monitor,
private range, partition record, die, package, routing table or collective table register write (log 52), and a write to a queue of another partition.
Before the boot has ended the same holds for every requester, and a host access to memory or the window only answers Unsupported Request. (R439, R440,
R450, spec/25_host_links_security.md) -/
def Obligations.RequestersWithoutRights : Prop :=
  ∀ (s : State) (r : Requester) (p q i n : Nat) (c1 : BitVec 128) (c2 : BitVec 192) (c5 : BitVec 512) (rc : BitVec 4096) (w : W32) (x : W64)
    (y : BitVec 512) (core : Option Nat) (op : AtomicOp),
    let commands := [Instr.respond r p c5, .shoot r p c5, .migrate r p c5, .flip r p c5, .hostHalt r p c1, .hostResume r p c1, .hostEnd r p c1,
      .ctxsave r p c1, .ctxload r p c1, .ttailWrite r p w, .traceControlWrite r p c1, .hflush r p c2, .hinv r p c2, .set r p i,
      .registerWrite r (.trapBlock p) n x, .registerWrite r (.sampler p) n x, .registerWrite r (.seal p i) n x]
    let pfOnly := [Instr.resize r p c2, .watchpointWrite r core i c1, .monitorClear r n i, .privateRangeWrite r p i c1,
      .registerWrite r (.partRec p) n x, .registerWrite r (.monitor p i) n x, .registerWrite r (.dieReg i) n x, .registerWrite r .pkgReg n x,
      .registerWrite r (.ewHits i) n x, .registerWrite r (.gwHits p i) n x, .registerWrite r (.route i) n x, .registerWrite r (.coll i) n x]
    let queues := [Instr.queueEnable r q, .queueDisable r q, .doorbell r q w, .cancel r q w, .gaitRecordWrite r q rc,
      .registerWrite r (.queueRec q) n x]
    ((∃ v, r.vf = some v ∧ v ≠ p) → ∀ e ∈ commands, exec e s = .next s)
    ∧ (r.vf ≠ none → ∀ e ∈ pfOnly, exec e s = .next s)
    ∧ ((∃ v, r.vf = some v ∧ v ≠ (s.queue q).part) → ∀ e ∈ queues, exec e s = .next s)
    ∧ (s.boot.stage ≠ 6 → (∀ e ∈ commands ++ pfOnly ++ queues, exec e s = .next s)
      ∧ ∀ e ∈ [Instr.hostMemoryWrite r i n y, .hostMemoryRead r i n, .hostWindowWrite r i n x, .hostWindowRead r i n, .atomicop r op i n x x],
          exec e s = .next { s with hostUr := true })

/-- A block at the head of the lane queue of a group that is not stopped starts as one path with the live-lane mask, the captured FMT and an empty stack,
or is removed when no lane lives. A ready stream of age 256 goes to the head of its class, of age 256 N ahead of all. A group blocked on a matrix
batch that only it could let go on stops with WAITCYCLE once its probe period has passed, and never when WPRBLOG is 0. A critical group is stopped,
with a NOSTOP record, once a vacating has lasted 100 µs, and not before. A lone request that fits GMAX is granted: it leaves the controller, MAXWAIT
counts its wait, and the engine command or the curb that asked has its grant. (R117, R120, R227, R228, R416, R423, R454, spec/05_groups_and_issue.md) -/
def Obligations.GroupTimingEvents : Prop :=
  ∀ (s : State) (gid p die : Nat) (g : Machine.Group), s.group? gid = some g →
    (∀ b r, g.running = false → g.stopped = false → g.stopping = false → g.laneQ = b :: r → b.at_ < s.cycles → s.traced (s.launchOf g) g.launch = false →
      exec (.blockStart gid) s = .next (s.setGroup gid (
        if g.live = 0 then { g with laneQ := r, slot0 := none, slot1 := none, stack := [] }
        else { g with running := true, stack := [], slot0 := some { pc := b.start, mask := g.live, fmt := b.fmt, id := g.nextPath }, slot1 := none,
                      nextPath := g.nextPath + 1 })))
    ∧ (let n := fun (ok : Machine.Group → Bool) => ((s.groupsIn (coreOf gid) (quarterOf gid)).filter (fun e => ok e.2)).length;
       (s.readyS g = true → 256 ≤ s.cyc (coreOf gid) - g.lastS → exec (.streamAgePromotion gid false) s = .next (s.setGroup gid
         { g with promoS := if 256 * n s.readyS ≤ s.cyc (coreOf gid) - g.lastS then 2 else 1 }))
       ∧ (s.readyL g = true → 256 ≤ s.cyc (coreOf gid) - g.lastL → exec (.streamAgePromotion gid true) s = .next (s.setGroup gid
         { g with promoL := if 256 * n s.readyL ≤ s.cyc (coreOf gid) - g.lastL then 2 else 1 }))
       ∧ (s.cyc (coreOf gid) - g.lastS < 256 → exec (.streamAgePromotion gid false) s = .next s))
    ∧ (∀ b t c r, g.blocked = some b → b.kind = 2 → g.stopped = false → g.stopping = false → g.pageWait = [] → s.team? g.key = some t →
      (s.complex (tandemOf t.core)).owner = some g.key → t.mxQ = c :: r → c.op = .mxa → c.started = false →
      (∃ i < 4, ∀ x ∈ t.tags, ¬ (x.tag = c.tag ∧ x.q = i)) → s.groupsOf g.key = [(gid, g)] → s.probeAge gid g = true →
      exec (.waitProbe gid) s = .next (s.stop gid { s.stopRecord gid g .waitcycle false with addr := b.obj }))
    ∧ (fld (s.part (s.launchOf g).part).rcd 88 6 = 0 → exec (.waitProbe gid) s = .next s)
    ∧ (s.stc < (s.part p).vacSince + 100000 → exec (.crittimeout p) s = .next s)
    ∧ ((s.part p).vacate ≠ [] → (s.part p).vacSince + 100000 ≤ s.stc →
      s.groups.filter (fun e => (s.launchOf e.2).part == p && s.moved e.2 && e.2.crit != 0 && !e.2.stopping && !e.2.stopped) = [(gid, g)] →
      let u := s.rollback gid;
      ∀ g1, u.group? gid = some g1 → exec (.crittimeout p) s = .next (((u.recordEvent p
        { u.stopRecord gid g1 .crittimeout false with addr := g1.crit.setWidth 64, ovrb := g.orun.isSome } true).stopForMove gid).retest g1.key))
    ∧ (∀ x, (s.die die).leaves = [x] → x.since < s.cyc (20 * die) → (s.die die).grantAt ≠ s.cyc (20 * die) + 1 → leaveWeight x.cls ≤ fld (s.die die).reg 8 8 → Falls s (.curbGrant die) (fun t =>
        (t.die die).leaves = [] ∧ fld (t.die die).reg 64 32 = min 0xFFFFFFFF (max (fld (s.die die).reg 64 32) (s.cyc (20 * die) - x.since))
        ∧ (x.curb = true → x.id = gid → t.group? gid = some { g with curbAsk := g.curbAsk - 1 })
        ∧ (x.cls = 1 → x.curb = false → (t.core x.who).copyQ = (s.core x.who).copyQ.map (fun c => if c.id = x.id then { c with granted := true } else c))
        ∧ SameBytes s t))

/-- QUEUE_ENABLE of a valid record with a save area leaves the queue IDLE with its counters at zero, of another record stops it with cause 3;
QUEUE_DISABLE of a queue without launches leaves it IDLE; DOORBELL takes a value after LASTACC and restarts; CANCEL fails the launch of that number
with status 8 and admits no more; a gait record is taken or refused. LAUNCH_ACCEPT stops the queue with RINGERR or BADSEQ, refuses a command with its
number taken, or brings its launch in, waiting. LAUNCH_START runs a launch whose order and dependences are met, with status 9 and no team when a
STRICT dependence failed. PREDICTION_START, with no lower queue's prediction to start, brings in a live prediction, or halts the gait when the
descriptor cannot be read. (R368, R370, R371, R373, R374, R375, R377, R379, R386, R393, spec/20_queues_and_run_ahead.md) -/
def Obligations.QueueEvents : Prop :=
  ∀ (s : State) (r : Requester) (q : Nat),
    let Q := s.queue q
    let only := fun (t : State) => ∀ k, k ≠ q → t.queue k = s.queue k
    (s.mayQueue r q = true → Q.en = false → Falls s (.queueEnable r q) (fun t => t = { s with queues := t.queues } ∧ only t
        ∧ (t.queue q).rcd = setFld Q.rcd 0 1 1
        ∧ (if validRecord (setFld Q.rcd 0 1 1) && (s.part Q.part).hasSave then (t.queue q).st = 0 ∧ (t.queue q).cause = 0 ∧ (t.queue q).lastacc = 0
             ∧ (t.queue q).lastdone = 0 ∧ (t.queue q).doorbell = 0 ∧ (t.queue q).hlogcur = 0 ∧ (t.queue q).gait = {}
           else (t.queue q).st = 2 ∧ (t.queue q).cause = 3)))
    ∧ (s.mayQueue r q = true → Q.en = true → (∀ e ∈ s.launches, e.2.q ≠ q) → Falls s (.queueDisable r q) (fun t => t = { s with queues := t.queues }
        ∧ only t ∧ (t.queue q).rcd = setFld Q.rcd 0 1 0 ∧ (t.queue q).st = 0))
    ∧ (∀ v : W32, s.mayQueue r q = true → Q.en = true → seqAfter v Q.lastacc = true → ¬ (Q.st = 2 ∧ Q.cause = 3) →
        exec (.doorbell r q v) s = .next (s.setQueue q { Q with doorbell := v, st := 1, cause := 0 }))
    ∧ (∀ v : W32, seqAfter v Q.lastacc = false → exec (.doorbell r q v) s = .next s)
    ∧ (∀ (v : W32) (id : Nat) (l : Launch), s.mayQueue r q = true → s.launches.find? (fun e => e.2.q == q && e.2.seq == v && e.2.parent == 0
          && !(e.2.pred && e.2.live)) = some (id, l) → s.launch? id = some l → (∀ e ∈ s.teams, e.1 / 2 ^ 32 ≠ id) →
        exec (.cancel r q v) s = .next (s.setLaunch id { l with status := if l.status = 0 then 8 else l.status, stopAdmit := true }))
    ∧ (∀ rc : BitVec 4096, s.mayQueue r q = true → s.livePreds q = [] → Falls s (.gaitRecordWrite r q rc) (fun t => only t
        ∧ match Q.gait.write rc Q.lastacc with
          | some g => (t.queue q).gait = g ∧ (t.queue q).gaiterr = false
          | none => (t.queue q).gait = Q.gait ∧ (t.queue q).gaiterr = true))
    ∧ (let n := Q.lastacc + 1;
       let slot := s.rawRead (bit Q.rcd.toNat 12) (fld Q.rcd 128 64 + 256 * (n.toNat % 2 ^ fld Q.rcd 16 5)) 256;
       Q.wait = none → Q.readRef = false → s.readyKid q = none → Q.en = true → Q.st = 1 → seqAfter Q.doorbell Q.lastacc = true →
        (slot = none → Falls s (.launchAccept q) (fun t => t = { s with queues := t.queues } ∧ (t.queue q).st = 2 ∧ (t.queue q).cause = 2))
        ∧ (∀ bs, slot = some bs → let c := cmdOf (BitVec.ofNat 2048 (ofBytes bs)) false;
            (c.seq ≠ n → Falls s (.launchAccept q) (fun t => t = { s with queues := t.queues } ∧ (t.queue q).st = 2 ∧ (t.queue q).cause = 1))
            ∧ (c.seq = n → s.livePreds q = [] → ∀ (d : Option Desc) (w : BitVec 512) (s1 : State),
                s.readDesc (newLaunch q Q.part c {} (BitVec.ofNat 16 (fld Q.rcd 32 16)) (BitVec.ofNat 64 (fld Q.rcd 64 64))
                  (s.part Q.part).tandems.length s.nextOrder (BitVec.ofNat 64 s.stc)) = (.ok d w, s1) → s.idFree d = true →
                (s1.refusal q Q.part c (.ok d w) ≠ 0 → Falls s (.launchAccept q) (fun t => (t.queue q).lastacc = n ∧ t.launches = s1.launches))
                ∧ (s1.refusal q Q.part c (.ok d w) = 0 → Falls s (.launchAccept q) (fun t => (t.queue q).lastacc = n
                    ∧ ∃ id l, t.launch? id = some l ∧ l.st = .waiting ∧ l.q = q ∧ l.seq = n ∧ some l.desc = d ∧ l.args = c.args ∧ l.status = 0)))))
    ∧ (∀ id l, s.launch? id = some l → l.st = .waiting → (l.parent ≠ 0 ∨ (s.depsMet l = true ∧ s.lets l.q (l.seq - 1) = true)) →
        Falls s (.launchStart id) (fun t => (∀ k, k ≠ id → t.launch? k = s.launch? k) ∧ ∃ l', t.launch? id = some l' ∧ l'.st = .running
          ∧ (if l.parent = 0 ∧ s.depFailed l = true then l'.stopAdmit = true ∧ l'.status = if l.status = 0 then 9 else l.status
             else l'.stopAdmit = l.stopAdmit ∧ l'.status = l.status)))
    ∧ (let g := Q.gait;
       let c := g.predict g.nextseq;
       let l := { newLaunch q Q.part c {} (BitVec.ofNat 16 (fld Q.rcd 32 16)) (BitVec.ofNat 64 (fld Q.rcd 64 64)) (s.part Q.part).tandems.length
                    s.nextOrder 0 with pred := true, live := true, slots0 := g.all };
       Q.en = true → g.st = 1 → g.halted = none → g.hostHold = false → s.liveCount < 64 → s.versions.length + 64 ≤ 4096 →
       s.lets q (g.nextseq - 1) = true → (g.nextseq - Q.lastacc).toNat ≤ Q.ahead →
       (∀ e ∈ s.queues, e.1 < q → (s.predictNext e.1).1 = false) →
        (∀ st s1, s.readDesc l = (.fail st, s1) →
          exec (.predictionStart q) s = .next (s.updQueue q (fun x => { x with gait := { g with halted := some g.nextseq } })))
        ∧ (∀ d w s1, s.readDesc l = (.ok (some d) w, s1) → noFit d c.teamN (s.part Q.part).tandems.length = false → c.teamN < 2 ^ 32 →
            (g.nextseq - Q.lastacc).toNat ≤ effLimit Q.ahead d.ahead → Falls s (.predictionStart q) (fun t =>
              (t.queue q).gait.nextseq = g.nextseq + 1
              ∧ ∃ id l', t.launch? id = some l' ∧ l'.st = .running ∧ l'.pred = true ∧ l'.live = true ∧ l'.seq = g.nextseq ∧ l'.desc = d)))

/-- TEAM_ADMISSION at a place where every reservation can be met starts the team there: its ranges, each declared group at its context with the launch's
arguments in s1 to s16, FMT 0x2044 and normal class, its scratch and slots zero. TEAM_END removes a team that is over and keeps its hallmark;
LAUNCH_END removes a launch whose teams are done and tells its queue or its parent. CTXSAVE without resident teams, CTXLOAD after it and RESIZE that
removes no tandem end with status 0 and their effect; RESIZE with a wrong SEQ with BADSEQ. PREEMPT_SAVE of a quiet team lays its image away and frees
its core; READMISSION at a place brings it back with its scalar and predicate registers. That the place which admission and readmission take is the
one that the event names is the model's choice (log 14), and so is that the registers come back as the model's saved team has them, whatever the save
area holds (log 71). (R111, R116, R162, R376, R378, R381, R383, R414, R418, R420, R441, spec/05_groups_and_issue.md) -/
def Obligations.TeamAndLaunchEvents : Prop :=
  ∀ (s : State),
    (∀ id l (pl : Place), s.launch? id = some l → s.mayAdmit id l = true → l.desc.gangp = 0 → l.rerun = false → l.desc.tandem = false →
      l.desc.sdsize = 0 → (s.unitsFor l l.nextTeam).contains pl.core = true → s.placeOk l.desc.need pl = true →
      Falls s (.teamAdmission id pl) (fun t =>
        (∃ T, t.team? (keyOf id l.nextTeam) = some T ∧ T.core = pl.core ∧ T.scratch = 4096 * l.desc.scratch ∧ T.sb0 = pl.sb0 ∧ T.f0 = pl.f0
          ∧ T.tiles = l.desc.tiles ∧ T.gangn = 1)
        ∧ (∃ l', t.launch? id = some l' ∧ l'.nextTeam = l.nextTeam + 1)
        ∧ (∀ i ≤ l.desc.groups, ∃ g, t.group? (128 * pl.core + nth pl.ctxs i 0) = some g ∧ g.gidx = i ∧ g.launch = id ∧ g.team = l.nextTeam
            ∧ g.spc = l.desc.scode ∧ g.rb = nth pl.rbs i 0 ∧ g.reserve = nth pl.reserves i 0 ∧ g.fmt = 0x2044 ∧ g.cls = 2 ∧ g.v = []
            ∧ ∀ r : Reg, g.reg r = if 1 ≤ r.toNat ∧ r.toNat ≤ 16 then nth l.args (r.toNat - 1) 0 else 0)
        ∧ (∀ o < 4096 * l.desc.scratch, Memory.byte t.mem (onchip pl.core (pl.sb0 + o)) = 0)
        ∧ ∀ o < 16384 * l.desc.tiles, Memory.byte t.mem (onchip pl.core (0x580000 + 16384 * pl.f0 + o)) = 0))
    ∧ (∀ key T, s.team? key = some T → s.teamOver key T = true → T.version = none → Falls s (.teamEnd key) (fun t =>
        t.team? key = none ∧ (∀ k, k ≠ key → t.team? k = s.team? k) ∧ t.groups = s.groups ∧ SameBytes s t
        ∧ ∀ l, s.launch? (key / 2 ^ 32) = some l → ∃ l', t.launch? (key / 2 ^ 32) = some l' ∧ Tbl.get l'.hmarks (key % 2 ^ 32) 0 = T.hallmark))
    ∧ (∀ id l, s.launch? id = some l → l.st = .running → s.teamsDone id l = true → l.version.any s.pubHeld = false → l.desc.cls ≠ 2 → (l.pred && l.live) = false → l.children = 0 →
        Falls s (.launchEnd id) (fun t => t.launch? id = none
          ∧ (l.parent = 0 → (t.queue l.q).irqs = (s.queue l.q).irqs + l.irq.toNat)
          ∧ ∀ P, l.parent ≠ 0 → l.parent ≠ id → s.launch? l.parent = some P → ∃ P', t.launch? l.parent = some P' ∧ P'.children = P.children - 1))
    ∧ (∀ (r : Requester) (p : Nat) (cmd : BitVec 128), HostReady s r p cmd 4 → hGidx cmd ≠ 0xFF → hTeam cmd ≠ 0xFFFFFFFF →
        (s.part p).ctxsaved = false → (s.part p).vacate = [] → (s.part p).resizing = false → s.saveFits p [] = true →
        s.teamsOn (s.part p).tandems = [] → (∀ e ∈ s.teams, e.2.moving = false) → Falls s (.ctxsave r p cmd) (fun t => HostTaken t p cmd 0
          ∧ (t.part p).ctxsaved = true ∧ (t.part p).vacate = [] ∧ t.groups = s.groups ∧ t.teams = s.teams ∧ SameBytes s t))
    ∧ (∀ (r : Requester) (p : Nat) (cmd : BitVec 128), HostReady s r p cmd 5 → hGidx cmd ≠ 0xFF → hTeam cmd ≠ 0xFFFFFFFF →
        (s.part p).ctxsaved = true → (s.part p).vacCtx = false → Falls s (.ctxload r p cmd) (fun t => HostTaken t p cmd 0
          ∧ (t.part p).ctxsaved = false ∧ t = { s with parts := t.parts }))
    ∧ (∀ (r : Requester) (p : Nat) (cmd : BitVec 192), s.mayPf r = true → p < 16 →
        (fld cmd 32 32 ≠ (fld (s.part p).pcmd 192 32 + 1) % 2 ^ 32 → Falls s (.resize r p cmd) (fun t => fld (t.part p).pcmd 224 8 = 4
          ∧ (t.part p).rcd = (s.part p).rcd ∧ t = { s with parts := t.parts }))
        ∧ (fld cmd 32 32 = (fld (s.part p).pcmd 192 32 + 1) % 2 ^ 32 → fld cmd 0 8 = 1 → (s.part p).tdi = .unlocked → (s.part p).resizing = false →
          bit (s.part p).trace.toNat 0 = false →
          (s.part p).vacate = [] → (∀ t < 80, bit (fld (s.part p).rcd 0 80) t = true → bit (fld cmd 64 80) t = true) →
          (∀ t < 80, ∀ q ∈ s.parts, q.1 ≠ p → bit (fld cmd 64 80) t = true → bit (fld q.2.rcd 0 80) t = false) →
          Falls s (.resize r p cmd) (fun t => fld (t.part p).rcd 0 80 = fld cmd 64 80 ∧ fld (t.part p).pcmd 224 8 = 0
            ∧ fld (t.part p).pcmd 192 32 = fld cmd 32 32 ∧ t.groups = s.groups ∧ t.teams = s.teams ∧ SameBytes s t)))
    ∧ (∀ p key T, (s.part p).vacate ≠ [] → (∀ e ∈ s.groups, e.2.posted = []) → (∀ c ∈ s.cores, c.2.late = []) → s.team? key = some T →
        s.teams.filter (fun e => e.2.moving && !e.2.away && ((s.launch? (e.1 / 2 ^ 32)).getD {}).part == p) = [(key, T)] →
        s.teamQuiet (decide ((s.part p).vacSince + 100000 ≤ s.stc)) key T = true → (∀ e ∈ s.teamsOn (s.part p).vacate, e.2.moving = true) →
        Falls s (.preemptSave p) (fun t => (∃ x, (t.part p).saved = (s.part p).saved ++ [x] ∧ x.key = key) ∧ (t.part p).vacate = []
          ∧ t.groupsOf key = [] ∧ ∃ T', t.team? key = some T' ∧ T'.away = true))
    ∧ (∀ p (pl : Place) y T l, (s.part p).saved = [y] → (s.part p).ctxsaved = false → s.team? y.key = some T → s.launch? (y.key / 2 ^ 32) = some l →
        s.gangOf y.key T = [(y.key, T)] → (s.unitsFor l (y.key % 2 ^ 32)).contains pl.core = true → s.placeOk (y.need T l.desc) pl = true →
        (∀ e ∈ y.groups, e.2.parked = none ∧ e.2.ending = none ∧ e.2.pendHalt = false ∧ e.2.pendCharge = none) → (∀ c ∈ s.cores, c.2.sideLog = []) →
        Falls s (.readmission p pl) (fun t =>
          (t.part p).saved = [] ∧ (∃ T', t.team? y.key = some T' ∧ T'.core = pl.core ∧ T'.away = false ∧ T'.moving = false)
          ∧ ∀ i e, y.groups[i]? = some e → ∃ g, t.group? (128 * (pl.core + (coreOf e.1 - T.core)) + nth pl.ctxs i 0) = some g ∧ g.s = e.2.s
              ∧ g.p = e.2.p ∧ g.spc = e.2.spc ∧ g.rb = nth pl.rbs i 0 ∧ g.stopping = false ∧ g.blocked = none))

/-- The engine takes a copy in its turn and lands its bytes: one unit of a cpy reads a byte and writes it, and the unit is no longer left. A completed
copy leaves its engine and counts in its issuer's batch, with its status when it is an error. The first cpys of a stream whose counter is the next
spends it and takes the key; a wrong counter ends it with REPLAY and fails the stream. At the head of the complex's owner, once those of its commands
that can be are accepted, mxrdy passes, an mxa whose quarters are posted and that has leave takes them, and a started one whose accesses have their
turn is performed; a performed command retires into its issuer's matrix batch; and a released complex with no old command passes to the next team that
waits. That a mxa takes its quarters once it has leave is the model's reading (log 33: R304 takes the quarters before leave), and the unit in which a
copy lands is its choice (log 29). (R254, R266, R267, R270, R271, R272, R273, R296, R303, R304, R307, R310) -/
def Obligations.EngineAndComplexEvents : Prop :=
  ∀ (s : State) (core id td : Nat),
    let batch := fun (b b' : Batch) (status : BitVec 8) => b'.errs = (if status = 0 then b.errs else b.errs + 1)
      ∧ b'.lasterr = (if status = 0 then b.lasterr else status) ∧ b'.live.length = b.live.length - 1
    (∀ c, s.cmd? core id = some c → c.status = none → c.stalled = none → c.stallSince = none → c.kind = .cpy → c.hasBar = false →
      (c.taken = false → s.copyTurn core c = true → ∀ n, exec (.copyBytesLanded core id n) s =
        .next (s.setCmd core { c with since := s.cyc core, taken := true, left := if c.len = 0 then [] else [(0, c.len.toNat)] }))
      ∧ (c.taken = true → c.left = [(0, c.len.toNat)] → 0 < c.len.toNat → c.acc = 0 → c.joins 0 = false → (c.len.toNat ≤ 65536 ∨ c.granted = true) → ∀ b s1 s2,
        s.engRead core c.iss.key c.src.toNat 1 = .ok [b] s1 → s1.engWrite core c.iss.key c.dst.toNat [b] = .ok () s2 → s2.ew = [] → s2.badLines = [] →
        exec (.copyBytesLanded core id 0) s =
          .next ((s2.setCmd core { c with left := if c.len.toNat = 1 then [] else [(1, c.len.toNat - 1)] }).keepCode s c.id)))
    ∧ (∀ c gid g, s.cmd? core id = some c → c.ended = true → c.hasBar = false → s.issuer? c.iss = some (gid, g) → s.group? gid = some g →
      g.debugStop = false → g.blocked = none → c.batch ∈ g.copyB.live → Falls s (.copyCommandComplete core id) (fun t =>
        (t.core core).copyQ = (s.core core).copyQ.filter (fun y => y.id != id)
        ∧ ∃ g', t.group? gid = some g' ∧ g' = { g with copyB := g'.copyB } ∧ batch g.copyB g'.copyB (c.status.getD 0) ∧ SameBytes s t))
    ∧ (∀ c rest, (s.core core).copyQ = c :: rest → c.id = id → c.kind = .cpys → c.taken = true → c.status = none → c.stalled = none → c.left = [] →
      c.plain = [] → c.spent = false → fld c.hdr 96 32 = 0 → 0 < fld c.hdr 64 32 → fld c.hdr 64 32 ≤ 65536 → fld c.sel 0 32 < 64 →
      let p := ((s.launch? (c.iss.key / 2 ^ 32)).getD {}).part
      let x := fun (u : State) => Tbl.get (u.part p).seals (fld c.sel 0 6) {}
      (x s).st = 1 → Falls s (.sealedMessage core id) (fun t =>
        if fld c.hdr 0 64 = (x s).next.toNat then x t = { x s with next := (x s).next + 1 }
          ∧ t.cmd? core id = some { c with spent := true, skey := (x s).key, sid := (x s).sid }
        else x t = { x s with st := 2 } ∧ t.cmd? core id = some { c with status := some stReplay }))
    ∧ (let u := (s.complex td).owner.elim s (fun k => s.acceptAll k);
      ∀ key t c, u.mxHead td = some (key, t, c) → u.team? key = some t → c.status = none → c.stalled = none → c.stallSince = none → c.taken = true →
        (c.op = .rdy → exec (.matrixOperation td) s = .next (u.setTeam key { t with mxQ := t.mxQ.tail }))
        ∧ (c.op = .mxa → c.started = true → t.accReady c.accA = true → t.accReady c.accD = true → Falls s (.matrixOperation td) (fun v =>
            v.groups = u.groups ∧ ∃ t', v.team? key = some t' ∧ t'.mxQ = { c with status := some 0 } :: t.mxQ.tail))
        ∧ (c.op = .mxa → c.started = false → c.granted = true → u.sideBy c.iss = [] → (∀ i < 4, ∃ x ∈ t.tags, x.tag = c.tag ∧ x.q = i) →
            Falls s (.matrixOperation td) (fun v => SameBytes u v ∧ ∃ t' c', v.team? key = some t' ∧ t'.mxQ = c' :: t.mxQ.tail ∧ c'.started = true
              ∧ c'.bq.length = 4 ∧ t'.tags = t.tags.filter (fun x => x.tag != c.tag))))
    ∧ (∀ key t c, s.mxHead td = some (key, t, c) → s.team? key = some t →
      ∀ st gid g, c.status = some st → s.issuer? c.iss = some (gid, g) → s.group? gid = some g → g.debugStop = false → g.blocked = none →
          c.batch ∈ g.matB.live → Falls s (.matrixCommandComplete td) (fun u => SameBytes s u
            ∧ (∃ t', u.team? key = some t' ∧ t'.mxQ = t.mxQ.tail)
            ∧ ∃ g', u.group? gid = some g' ∧ g' = { g with matB := g'.matB } ∧ batch g.matB g'.matB st))
    ∧ (∀ key t, (s.complex td).owner = some key → (s.complex td).releasing = true → s.team? key = some t → (∀ c ∈ t.mxQ, c.old = false) →
      (∀ x ∈ t.tags, x.old = false) → exec (.complexHandover td) s = .next (match (s.complex td).waiters with
        | [] => s.setComplex td {}
        | (k, rel) :: r => (s.setComplex td { owner := some k, waiters := r, releasing := rel }).acceptAll k))

/-- With no store outstanding, SHOOT drops every held translation of its pages in every core, and SHOOT_ACKNOWLEDGE ends it with OK. MIGRATE and FLIP of
mapped 4 KiB pages begin a move that holds their old frames; MOVE_COMPLETE ends it with OK, or, in host-assisted mode, with READY. RESPOND to an
unanswered request ends it, and a group of its core and context that waits for the page goes on, or finds it refused. In host-assisted mode ATS
completions enter the core's TLBs, or leave word that the page is absent (the model's choice, log 19: R320 says only that no entry is held),
invalidations drop what they name, and a page response answers. An entry of a side log whose page is present, with nothing that must come before it,
is performed, publishes the version that its release names, and leaves the log; one whose page is not present asks for it. (R320, R321, R322, R323,
R324, R325, R326, R328, R330, R331, spec/16_translation_and_pages.md) -/
def Obligations.PageEvents : Prop :=
  ∀ (s : State) (r : Requester) (p : Nat) (cmd : BitVec 512),
    let seq := BitVec.ofNat 32 (fld cmd 32 32)
    let still := (∀ e ∈ s.groups, e.2.posted = [] ∧ e.2.orun = none) ∧ (∀ c ∈ s.cores, c.2.late = []) ∧ s.locks = []
    let known := s.oldPages p (pcAsid cmd) (pcVa cmd) (pcPages cmd)
    let moves := fun (flip : Bool) (t : State) => ∃ m, (t.part p).moves = [m] ∧ m.flip = flip ∧ m.asid.toNat = pcAsid cmd ∧ m.va.toNat = pcVa cmd
      ∧ m.npages = pcPages cmd ∧ m.newpa.toNat = pcNew cmd ∧ m.olds = (pagesOf known).map (·.frame) ∧ m.ready = false ∧ m.asked = false ∧ SameBytes s t
    let begins := fun (flip : Bool) => fld cmd 160 32 = 0 → 1 ≤ pcPages cmd → pcPages cmd ≤ 512 → s.newFrames flip (pcNew cmd) (pcPages cmd) = true →
      (s.part p).moves = [] → (∀ k ∈ known, ∃ o, k = .page o ∧ o.small = true ∧ s.frameMoving o.frame = false) →
      Falls s (if flip then .flip r p cmd else .migrate r p cmd) (moves flip)
    let cuts := fun (t : State) (asid first n : Nat) => ∀ c,
      (t.core c).tlb = (s.core c).tlb.filter (fun e => !shot (shootAsid false asid) first (shootRange n) e)
      ∧ (t.core c).wtlb = (s.core c).wtlb.filter (fun e => !shot (shootAsid false asid) first (shootRange n) e)
    (PageReady s r p cmd 1 → fld cmd 160 32 = 0 → fld cmd 192 64 = 0 → fld cmd 8 2 = 0 → still → Falls s (.shoot r p cmd) (fun t =>
        (t.part p).shoot = some seq ∧ SameBytes s t ∧ t.groups = s.groups ∧ cuts t (pcAsid cmd) (pcVa cmd / 4096) (pcPages cmd)))
    ∧ (∀ n, (s.part p).shoot = some n → still → Falls s (.shootAcknowledge p) (fun t => (t.part p).shoot = none ∧ PageAnswered s t p 0 n.toNat
        ∧ t = { s with parts := t.parts }))
    ∧ (PageReady s r p cmd 2 → begins false) ∧ (PageReady s r p cmd 3 → begins true)
    ∧ (∀ m, (s.part p).moves = [m] → m.ready = false → m.asked = false → m.flip = false → still →
        s.crowded = none → (fld (s.part p).rcd 80 1 = 1 → Falls s (.moveComplete p) (fun t => (t.part p).moves = [{ m with ready := true }] ∧ PageAnswered s t p 1 m.seq.toNat
          ∧ t = { s with parts := t.parts }))
        ∧ (fld (s.part p).rcd 80 1 = 0 → Falls s (.moveComplete p) (fun t => (t.part p).moves = [] ∧ PageAnswered s t p 0 m.seq.toNat)))
    ∧ (PageReady s r p cmd 4 → pcNew cmd ≤ 1 → ∀ x, (s.part p).reqs = [x] → x.tag.toNat = fld cmd 160 32 → (∀ c ∈ s.cores, c.2.sideLog = []) →
        Falls s (.respond r p cmd) (fun t => (t.part p).reqs = [] ∧ PageAnswered s t p 0 seq.toNat ∧ SameBytes s t
          ∧ ∀ gid g l k, s.group? gid = some g → coreOf gid = x.core → s.launch? g.launch = some l → l.part = p → l.asid = x.asid →
              g.pageWait = [(k, x.va)] →
              t.group? gid = some { g with pageWait := [], refused := if pcNew cmd = 0 then g.refused else g.refused ++ [(k, x.va)] }))
    ∧ (fld (s.part p).rcd 80 1 = 1 → ∀ (tag : W32) (ok : Bool) (x : PageReq), (s.part p).reqs = [x] → x.tag = tag → (∀ c ∈ s.cores, c.2.sideLog = []) →
        Falls s (.prgResponse p tag ok) (fun t => (t.part p).reqs = [] ∧ SameBytes s t))
    ∧ (fld (s.part p).rcd 80 1 = 1 → still → ∀ (core asid : Nat) (va pte : W64), s.partOfCore core = some p → asid < 2 ^ 16 →
        Falls s (.atsTranslationCompletion core asid va pte) (fun t =>
          let key := leafKey asid va.toNat pte.toNat
          let leaf := tlbLeaf pte.toNat 0
          let u := s.core core
          let v := t.core core
          t = { s with cores := t.cores, parts := t.parts }
          ∧ (if bit pte.toNat 0 then Tbl.find v.tlb key = some leaf ∧ Tbl.find v.wtlb key = some leaf
              ∧ ∀ k, k ≠ key → Tbl.find v.tlb k = Tbl.find u.tlb k ∧ Tbl.find v.wtlb k = Tbl.find u.wtlb k
             else t.cores = s.cores ∧ tlbKey asid va.toNat ∈ (t.part p).noPage)))
    ∧ (fld (s.part p).rcd 80 1 = 1 → still → ∀ (asid : Nat) (va : W64) (n : Nat), Falls s (.atsInvalidate p asid va n) (fun t =>
        t = { s with cores := t.cores, dies := t.dies } ∧ cuts t asid (va.toNat / 4096) n))
    ∧ (∀ core e rest, (s.core core).sideLog = e :: rest → inTeamWin e.va.toNat = false →
        let l := (s.launch? (e.iss.key / 2 ^ 32)).getD {}
        (∀ pa s1 s2, e.op = none → s.translate core l e.va.toNat .wr true = (.port pa, s1) → s1.portBusy pa 64 true = false → s1.entryWaits e pa = false →
          s1.deadEntry e pa = false → (s1.entryPub e).any s1.pubHeld = false →
          s1.replayPut core (s1.liveGid e.iss) e.iss.key e.va.toNat pa e.runs = .ok () s2 →
          exec (.sideLogReplay core 0) s = .next ((((s2.heal s1.wrote.length).pubEntry e).grantAll).popEntry core 0))
        ∧ (∀ s1, e.op = none → s.translate core l e.va.toNat .wr true = (.missing, s1) →
          exec (.sideLogReplay core 0) s = .next (s1.requestPage core (ctxOf e.iss.gid) l e.va.toNat .wr false)))

/-- SVERD RESUME on a group parked for its supervisor reloads its frame and lets it go on; FORWARD passes it to the host; END ends its task; each leaves
SVSTAT 0, and a context with nothing parked leaves it 1. A host command out of sequence changes HSTATUS to BADSEQ only; RESUME of a group parked for
the host reloads it, END ends the task it names, HALT stops a running group with HALT for the host and is kept for a parked one, each with status 0;
one that names no launch of the partition with 1. STQTAIL consumes records; TTAIL is written. (R403, R406, R407, R408, R409, R410, R411, R412,
spec/22_traps_and_preemption.md) -/
def Obligations.VerdictEvents : Prop :=
  ∀ (s : State) (core : Nat) (ctx : BitVec 7) (r : Requester) (p : Nat) (cmd : BitVec 128),
    let gid := 128 * core + ctx.toNat
    let stack := fun (gid : Nat) (g : Machine.Group) => (s.readStack (reserveAt gid g) g.stack.reverse 64).isSome = true
    (∀ g k, ParkedAt s gid g k .sup → stack gid g → Falls s (.sverdResume core ctx) (fun t => (t.core core).svstat = 0
        ∧ ∃ g', t.group? gid = some g' ∧ Reloaded s g g' gid))
    ∧ (∀ g k, ParkedAt s gid g k .sup → Falls s (.sverdForward core ctx) (fun t => (t.core core).svstat = 0
        ∧ ∃ g', t.group? gid = some g' ∧ g'.parked = some { k with who := .host }))
    ∧ (∀ g k T, ParkedAt s gid g k .sup → s.groupsOf g.key = [(gid, g)] → s.team? g.key = some T → Falls s (.sverdEnd core ctx) (fun t =>
        (t.core core).svstat = 0 ∧ t.group? gid = none ∧ ∃ T', t.team? g.key = some T' ∧ T'.dying = true))
    ∧ ((∀ g, s.group? gid = some g → g.parked = none) → ∀ e ∈ [Instr.sverdResume core ctx, .sverdForward core ctx, .sverdEnd core ctx],
        exec e s = .next (s.updCore core (fun c => { c with svstat := 1 })))
    ∧ (∀ (e : Instr) (op : Nat), (e, op) ∈ [(Instr.hostResume r p cmd, 1), (.hostEnd r p cmd, 2), (.hostHalt r p cmd, 3), (.ctxsave r p cmd, 4),
          (.ctxload r p cmd, 5)] → s.mayPart r p = true → fld cmd 0 8 = op →
        (BitVec.ofNat 32 (fld cmd 96 32) ≠ (s.part p).hdone + 1 → Falls s e (fun t => (t.part p).hdone = (s.part p).hdone ∧ (t.part p).hstatus = 3
          ∧ t = { s with parts := t.parts }))
        ∧ (HostReady s r p cmd op → op < 4 → hGidx cmd ≠ 0xFF → hTeam cmd ≠ 0xFFFFFFFF → s.hostLaunch p cmd = false → Falls s e (fun t =>
            HostTaken t p cmd 1 ∧ t = { s with parts := t.parts })))
    ∧ (∀ gid g k, HostReady s r p cmd 1 → hGidx cmd ≠ 0xFF → hTeam cmd ≠ 0xFFFFFFFF → s.hostLaunch p cmd = true → ParkedAt s gid g k .host →
        stack gid g → s.groups.find? (fun e => namesGroup cmd e.2 && s.atHost p e.2) = some (gid, g) → Falls s (.hostResume r p cmd) (fun t =>
          HostTaken t p cmd 0 ∧ ∃ g', t.group? gid = some g' ∧ Reloaded s g g' gid))
    ∧ (∀ T l, HostReady s r p cmd 2 → s.hostLaunch p cmd = true → s.launch? (hLaunch cmd) = some l → (l.pred && l.live) = false → hGidx cmd = 0xFF →
        hTeam cmd < 2 ^ 32 → let key := keyOf (hLaunch cmd) (hTeam cmd); s.teams = [(key, T)] → T.dying = false →
        (∀ e ∈ s.groupsOf key, e.2.parked = none) → Falls s (.hostEnd r p cmd) (fun t => HostTaken t p cmd 0 ∧ t.groupsOf key = []
          ∧ ∃ T', t.team? key = some T' ∧ T'.dying = true))
    ∧ (∀ gid g, HostReady s r p cmd 3 → s.hostLaunch p cmd = true → (s.part p).saved = [] → s.group? gid = some g → g.orun = none → g.ending = none →
        s.groups.filter (fun e => namesGroup cmd e.2) = [(gid, g)] →
        (∀ k, g.parked = some k → k.rcd.cause ≠ .halt → Falls s (.hostHalt r p cmd) (fun t => HostTaken t p cmd 0
          ∧ t.group? gid = some { g with pendHalt := true }))
        ∧ (g.parked = none → ((s.launchOf g).pred && (s.launchOf g).live) = false → (s.launchOf g).part = p → g.pend = [] → g.posted = [] →
            g.blocked = none → (s.part p).claims .halt = (false, true, true) → Falls s (.hostHalt r p cmd) (fun t => HostTaken t p cmd 0
              ∧ ∃ g' k, t.group? gid = some g' ∧ g'.parked = some k ∧ k.rcd.cause = .halt ∧ k.who = .host ∧ g'.spc = g.spc)))
    ∧ (∀ v : W32, s.stqLate core = [] → exec (.stqtailWrite core v) s = .next (s.setCore core
        { (s.core core) with stqTail := v, stqNostop := (s.core core).stqNostop.drop (min (v - (s.core core).stqTail).toNat (s.core core).stqNostop.length) }))
    ∧ (∀ v : W32, s.mayPart r p = true → (s.part p).hwait = [] → exec (.ttailWrite r p v) s =
        .next (s.updPart p (fun x => { x with trap := setFld x.trap 288 32 v.toNat })))

/-- A host write through BAR2 lands in DRAM past every cache, or is lost in a page that the host is moving, and a read returns DRAM's bytes, or
Unsupported Request on an error (the model's reading, log 23); through BAR4 the window is read, written and changed atomically. HFLUSH leaves no dirty
line and HINV no line of its range, with DONE and status 0. An evicted dirty line is in DRAM afterwards; an uncorrectable error marks its line. A read
or atomic from another package at the window returns what was there. A supervisor reads and writes its own scratchpad window, and its stores and AMOs
act at the port; that its FENCE discards its die's copies is the model's choice (log 47). (R240, R250, R252, R439, R442, R448, R14, R19,
spec/11_memory_and_atomics.md) -/
def Obligations.HostMemoryEvents : Prop :=
  ∀ (s : State) (r : Requester) (off size : Nat) (v : W64) (y : BitVec 512),
    let inWindow := fun (pa : Nat) => pa + size ≤ 0x1FF00100000
    (s.bar2Serves r off size 64 = true →
      (s.hostLost off = false → Falls s (.hostMemoryWrite r off size y) (fun t => Memory.read t.mem off size = y.toNat % 256 ^ size
        ∧ (∀ n, (Tbl.find t.llc n).map (fun l => (l.dirty, l.data)) = (Tbl.find s.llc n).map (fun l => (l.dirty, l.data)))
        ∧ t.hostUr = false ∧ t.groups = s.groups ∧ ∀ a, (a < off ∨ off + size ≤ a) → Memory.byte t.mem a = Memory.byte s.mem a))
      ∧ (s.hostLost off = true → exec (.hostMemoryWrite r off size y) s = .next { s with hostUr := false }))
    ∧ (s.bar2Serves r off size 8 = true → (s.bad off size = false → exec (.hostMemoryRead r off size) s =
          .next { s with hostRead := BitVec.ofNat 64 (Memory.read s.mem off size), hostUr := false })
      ∧ (s.bad off size = true → Falls s (.hostMemoryRead r off size) (fun t => t.hostUr = true ∧ t.hostRead = s.hostRead ∧ SameBytes s t)))
    ∧ (∀ pa, s.bar4At r off size = some pa → inWindow pa →
      Falls s (.hostWindowWrite r off size v) (fun t => StoresAt s t pa size v.toNat ∧ t.hostUr = false ∧ t.groups = s.groups)
      ∧ exec (.hostWindowRead r off size) s = .next { s with hostRead := BitVec.ofNat 64 (Memory.read s.mem pa size), hostUr := false }
      ∧ ∀ (op : AtomicOp) (c : W64), (size = 4 ∨ size = 8) → off % size = 0 →
          let m := Memory.read s.mem pa size
          Falls s (.atomicop r op off size v c) (fun t => t.hostRead = BitVec.ofNat 64 m ∧ t.hostUr = false ∧ StoresAt s t pa size (match op with
            | .fetchAdd => m + v.toNat
            | .swap => v.toNat
            | .cas => if m = c.toNat % 256 ^ size then v.toNat else m)))
    ∧ (∀ (p : Nat) (cmd : BitVec 192) (e : Instr) (op : Nat), (e, op) ∈ [(Instr.hflush r p cmd, 1), (.hinv r p cmd, 2)] → s.mayPart r p = true →
      fld cmd 0 8 = op →
      (fld cmd 32 32 ≠ (fld (s.part p).hmem 192 32 + 1) % 2 ^ 32 → Falls s e (fun t => fld (t.part p).hmem 224 8 = 3 ∧ t = { s with parts := t.parts }))
      ∧ (fld cmd 32 32 = (fld (s.part p).hmem 192 32 + 1) % 2 ^ 32 → fld cmd 64 64 % 64 = 0 → fld cmd 128 64 % 64 = 0 → fld cmd 128 64 ≤ 2 ^ 32 →
          inDram (fld cmd 64 64) (fld cmd 128 64) = true → Falls s e (fun t => fld (t.part p).hmem 224 8 = 0 ∧ fld (t.part p).hmem 192 32 = fld cmd 32 32
            ∧ fld (t.part p).hmem 256 64 = s.stc ∧ ∀ n, inRange (fld cmd 64 64) (fld cmd 128 64) n = true →
              match Tbl.find t.llc n with
              | none => True
              | some l => op = 1 ∧ l.dirty = false)))
    ∧ (∀ line l, Tbl.sorted s.llc = true → Tbl.find s.llc line = some l → Falls s (.llcEviction line) (fun t => Tbl.find t.llc line = none
        ∧ (l.dirty = true → Memory.read t.mem (64 * line) 64 = l.data.toNat) ∧ ∀ k, k ≠ line → Tbl.find t.llc k = Tbl.find s.llc k))
    ∧ (∀ line, Falls s (.uncorrectableError line) (fun t => line ∈ t.badLines ∧ t = { s with badLines := t.badLines }))
    ∧ (∀ hpa a o (c : W64), s.remoteAt hpa size = some a → regionOf a = .window o → inWindow a → s.bad a size = false →
      let m := Memory.read s.mem a size
      Falls s (.smioRemoteAccess .read hpa size v c) (fun t => t.remote = toBytes size m ∧ SameBytes s t)
      ∧ Falls s (.smioRemoteAccess .write hpa size v c) (fun t => t.remote = [] ∧ StoresAt s t a size v.toNat)
      ∧ Falls s (.smioRemoteAccess .atomicAdd hpa size v c) (fun t => t.remote = toBytes size m ∧ StoresAt s t a size (m + v.toNat)))
    ∧ (∀ core, s.served = true → core < 160 → 0 < size → size ≤ 8 →
      (off + size ≤ 0x400000 → let pa := onchip core off;
        Falls s (.supervisorWindowAccess core off size true v) (fun t => StoresAt s t pa size v.toNat ∧ t.groups = s.groups)
        ∧ exec (.supervisorWindowAccess core off size false v) s = .next { s with supRead := BitVec.ofNat 64 (Memory.read s.mem pa size) }
        ∧ (off % 64 + size ≤ 64 → s.bad pa size = false →
            Falls s (.supervisorCoreAccess core .store pa size v) (fun t => StoresAt s t pa size v.toNat ∧ t.groups = s.groups)
            ∧ exec (.supervisorCoreAccess core .load pa size v) s = .next { s with supRead := BitVec.ofNat 64 (Memory.read s.mem pa size) }
            ∧ Falls s (.supervisorCoreAccess core .amoAdd pa size v) (fun t => t.supRead = BitVec.ofNat 64 (Memory.read s.mem pa size)
                ∧ StoresAt s t pa size (Memory.read s.mem pa size + v.toNat))))
      ∧ ∀ pa, exec (.supervisorCoreAccess core .fence pa size v) s = .next (s.updDie (dieOf core) (fun d => { d with l2r := [] })))

/-- A write of the package register clamps PCAP to 1000 to 2600; of a routing entry replaces the word; of STQBASE clears its low 14 bits; of an enabled
queue's record changes PRIO and AHEAD alone (that it leaves EN, which has events of its own, is the model's reading, log 24); of a partition record of
an enabled partition nothing. A watchpoint is armed when EN is set and its address is a multiple of its length; trace control that sets EN starts the
cores of the partition afresh, with a SYNC on every one of them (the model's reading, log 35); a monitor clears; a sampled stream is tagged and its
record written. A droop alarm counts, and with the end of the core cycle in which it falls the stretch of 6 cycles begins, which bring a clock edge in
every second period; 64 halved cycles follow it; a power average is shown, ends halving below PCAP less 50 W, and above PCAP leaves halved what is.
(R368, R382, R406, R427, R432, R435, R436, R439, R448, R456, R459, R460) -/
def Obligations.RegisterAndDebugEvents : Prop :=
  ∀ (s : State) (r : Requester) (v : W64) (p die : Nat),
    (s.mayPf r = true → exec (.registerWrite r .pkgReg 0 v) s = .next { s with pkg := setFld s.pkg 0 16 (min 2600 (max 1000 (v.toNat % 2 ^ 16))) })
    ∧ (∀ i < 64, s.mayPf r = true → Falls s (.registerWrite r (.route i) 0 v) (fun t => fld (Tbl.get t.routes i 0) 0 64 = v.toNat
        ∧ fld (Tbl.get t.routes i 0) 64 64 = fld (Tbl.get s.routes i 0) 64 64 ∧ t = { s with routes := t.routes }))
    ∧ (∀ c < 160, Falls s (.registerWrite r (.stqBase c) 0 v) (fun t => (t.core c).stqBase.toNat = v.toNat / 2 ^ 14 * 2 ^ 14
        ∧ t = { s with cores := t.cores }))
    ∧ (∀ q, s.mayQueue r q = true → (s.queue q).en = true → fld v 4 4 ≤ 8 → Falls s (.registerWrite r (.queueRec q) 0 v) (fun t =>
        fld (t.queue q).rcd 2 2 = fld v 2 2 ∧ fld (t.queue q).rcd 4 4 = fld v 4 4 ∧ fld (t.queue q).rcd 0 2 = fld (s.queue q).rcd 0 2
        ∧ fld (t.queue q).rcd 8 1016 = fld (s.queue q).rcd 8 1016 ∧ t = { s with queues := t.queues }))
    ∧ (∀ w, s.partEnabled p = true → exec (.registerWrite r (.partRec p) w v) s = .next s ∧ exec (.registerWrite r (.trapBlock p) w v) s = .next s)
    ∧ (∀ (c i : Nat) (x : BitVec 128), s.mayPf r = true → c < 160 → i < 8 → fld x 67 1 = 0 → fld x 68 6 ≤ 47 → fld x 74 6 = 0 → fld x 84 12 = 0 →
        fld x 113 15 = 0 → Falls s (.watchpointWrite r (some c) i x) (fun t => t = { s with cores := t.cores } ∧ ∃ w, nth (t.core c).gw i {} = w
          ∧ w.addr.toNat = fld x 0 64 ∧ (w.en = true ↔ fld x 64 1 = 1 ∧ fld x 0 64 % 2 ^ fld x 68 6 = 0) ∧ w.hits = (nth (s.core c).gw i {}).hits))
    ∧ (∀ x : BitVec 128, s.mayPart r p = true → fld (s.part p).trace 0 1 = 0 → fld x 0 1 = 1 → Falls s (.traceControlWrite r p x) (fun t =>
        fld (t.part p).trace 0 2 = fld x 0 2 ∧ fld (t.part p).trace 8 5 = fld x 8 5 ∧ fld (t.part p).trace 16 32 = fld x 16 32
        ∧ fld (t.part p).trace 64 64 = fld x 64 64 ∧ ∀ td ∈ (s.part p).tandems, ∀ c ∈ [2 * td, 2 * td + 1],
            (t.core c).tdrop = 0 ∧ (t.core c).tloss = 0
              ∧ (s.groups = [] → 4 ≤ fld x 8 5 → (t.core c).twptr = 16 ∧ (t.core c).tfull = false)))
    ∧ (∀ m < 64, die < 8 → s.mayPf r = true → Falls s (.monitorClear r die m) (fun t => ∃ x, Tbl.get (t.die die).mons m {} = x ∧ x.mn = 0xFFFFFFFF
        ∧ x.mx = 0 ∧ x.bins = [] ∧ x.ctl = (Tbl.get (s.die die).mons m {}).ctl))
    ∧ (∀ core quarter gid g, core < 160 → quarter < 4 → s.sampleDue (4 * core + quarter) = true →
        (s.groupsIn core quarter).find? (fun e => s.sampled e.2 && s.readyS e.2) = some (gid, g) → Falls s (.samplerTag core quarter false) (fun t =>
          ∃ x, Tbl.find t.tags (4 * core + quarter) = some x ∧ x.gid = gid ∧ x.lane = false ∧ t = { s with tags := t.tags }))
    ∧ (∀ core quarter x q, Tbl.find s.tags (4 * core + quarter) = some x → s.tagDone x = true → s.partOfCore core = some q →
        bit (s.part q).sampler.toNat 0 = true → Falls s (.sampleRecord core quarter) (fun t => Tbl.find t.tags (4 * core + quarter) = none
          ∧ (t.part q).srec = (s.part q).srec + 1))
    ∧ (die < 8 → fld (s.die die).reg 16 1 = 1 → Falls s (.droopAlarm die) (fun t => (t.die die).alarm = true ∧ (t.die die).stretch = (s.die die).stretch
        ∧ (t.die die).halve = (s.die die).halve ∧ fld (t.die die).reg 32 32 = min 0xFFFFFFFF (fld (s.die die).reg 32 32 + 1) ∧ t = { s with dies := t.dies }))
    ∧ ((s.die die).stretch = 1 → Falls s (.stretchEnd die) (fun t => (t.die die).stretch = 0 ∧ (t.die die).halve = 65
        ∧ (t.die die).lost = (s.die die).lost ∧ t = { s with dies := t.dies }))
    ∧ ((s.die die).halve = 1 → Falls s (.halvingEnd die) (fun t => (t.die die).halve = 0 ∧ t = { s with dies := t.dies }))
    ∧ ((s.die die).alarm = true → ((s.die die).stretch % 2 = 0 ∨ (s.die die).stretch = 1) →
        (s.die die).clock = { s.die die with alarm := false, stretch := 13, halve := 0 })
    ∧ (∀ n < 7, (List.range (2 * n)).foldl (fun d _ => d.clock) { s.die die with alarm := false, stretch := 13 } =
        { s.die die with alarm := false, stretch := 13 - 2 * n, lost := (s.die die).lost + n })
    ∧ (∀ (a : BitVec 16) (ds ps : List (BitVec 16)), Falls s (.powerAverage a ds ps) (fun t => fld t.pkg 16 16 = a.toNat ∧ fld t.pkg 0 16 = fld s.pkg 0 16
        ∧ ∀ q < 16, (t.part q).power = (nth ps q 0).toNat ∧ (a.toNat + 50 < fld s.pkg 0 16 → (t.part q).halved = false)
          ∧ (fld s.pkg 0 16 < a.toNat → (s.part q).tandems ≠ [] → (s.part q).halved = true → (t.part q).halved = true)))

/-- SET loads a key that is staged whole, with its counter, and nothing else; a private range that may be set is set; an IDE key makes its stream secure,
and a failure makes it Insecure. A TDI is locked, started, and stopped back to unlocked; a function level reset, a TDISP error or an IDE failure of a
TDI that is locked or running, without queues and tasks, ends in ERROR with its sealed keys erased. CHALLENGE and MEASUREMENTS answer with what they
sign. The boot goes from link to reply, helper data, image and firmware; a failed check or step counts an attempt with its error, a link timeout takes
port 1, and after 60 s the boot begins again at step 3. That STOP_INTERFACE leads from ERROR to unlocked is the model's choice (log 25), and so are
the count of attempts, the error of a failed one and the start of the wait (log 26) and what the evidence of a lock holds (log 75). (R443, R444, R445,
R446, R450, R451, R452, spec/25_host_links_security.md) -/
def Obligations.SecurityAndBootEvents : Prop :=
  ∀ (s : State) (r : Requester) (p i : Nat),
    let slot := fun (u : State) => Tbl.get (u.part p).seals i {}
    (s.maySeal r p = true → i < 64 → Falls s (.set r p i) (fun t => slot t = if (slot s).fresh = 0xFFFFFFFF then
        { slot s with key := (slot s).staged, next := (slot s).nextReg, st := 1, staged := 0, fresh := 0 } else slot s))
    ∧ (∀ v : BitVec 128, s.mayPf r = true → p < 16 → i < 8 → s.frozen p = false → s.rangeOk p (setFld v 96 32 0) = true →
        Falls s (.privateRangeWrite r p i v) (fun t => nth (t.part p).priv i 0 = setFld v 96 32 0 ∧ t = { s with parts := t.parts }))
    ∧ (∀ (n : Nat) (k : BitVec 256), n < 18 → Falls s (.ideKm n k) (fun t => Tbl.find t.ide n = some k ∧ n ∉ t.ideBad))
    ∧ (Falls s (.ideIntegrityFailure 1) (fun t => 1 ∈ t.ideBad ∧ t = { s with ideBad := t.ideBad }))
    ∧ (s.served = true → p < 16 → (s.part p).tdi = .unlocked → s.partEnabled p = false →
        let u := s.updPart p (fun x => { x with tdi := .locked }); exec (.lockInterfaceRequest p) s = .next { u with spdm := u.evidence p })
    ∧ (s.served = true → p < 16 → (s.part p).tdi = .locked → exec (.startInterfaceRequest p) s = .next (s.updPart p (fun x => { x with tdi := .run })))
    ∧ (p < 16 → (s.part p).tdi ≠ .unlocked → Falls s (.stopInterface p) (fun t => (t.part p).tdi = .unlocked
        ∧ ((s.part p).priv = [] → SameBytes s t)))
    ∧ (p < 16 → s.frozen p = true → s.queuesOf p = [] → s.tasksOf p = [] →
        ∀ e ∈ [Instr.functionLevelReset p, .tdispError p, .ideIntegrityFailure (2 + p)], Falls s e (fun t => (t.part p).tdi = .error
          ∧ (∀ k x, Tbl.find (t.part p).seals k = some x → x.key = 0 ∧ x.st = 0) ∧ t.groups = s.groups ∧ t.teams = s.teams ∧ SameBytes s t))
    ∧ (∀ n : List Byte, s.served = true → exec (.challenge n) s = .next { s with spdm := s.signed (n ++ s.boot.cert) }
        ∧ exec (.measurements n) s = .next { s with spdm := s.signed (n ++ s.measured) })
    ∧ (s.boot.retry < 4 → s.boot.err ≠ 3 →
      (s.boot.stage = 0 → Falls s (.ultraEthernetLinkUp s.boot.port) (fun t => t.boot.stage = 2 ∧ t.boot.linkUp = true ∧ t.boot.mac = macOf))
      ∧ (s.boot.stage = 1 → s.boot.port = 0 → s.boot.since + 2000000000 ≤ s.stc → Falls s .bootLinkTimeout (fun t => t.boot.port = 1
          ∧ t.boot.stage = 1 ∧ t = { s with boot := t.boot }))
      ∧ (∀ us : List (List Byte), s.boot.stage = 2 → us.length = 2 → Falls s (.dhcpv6Reply us) (fun t => t.boot.stage = 3 ∧ t.boot.urls = us
          ∧ t = { s with boot := t.boot }))
      ∧ (∀ data, s.boot.stage = 3 → Falls s (.helperDataFetched data) (fun t => t = { s with boot := t.boot }
          ∧ if (Config.reconstruct Config.puf data).2 then t.boot.stage = 4 ∧ t.boot.seed = (Config.reconstruct Config.puf data).1
            else t.boot.stage = 3 ∧ t.boot.err = 3))
      ∧ (∀ data, s.boot.stage = 4 → Falls s (.imageFetched data) (fun t => t = { s with boot := t.boot } ∧ t.boot.stage = 5 ∧ t.boot.image = data
          ∧ t.boot.err = 0))
      ∧ (s.boot.stage = 5 → s.boot.err = 0 → let x := Config.parseImage s.boot.image
          if imageErr x = 0 then s.bootVerify.boot.stage = 6 ∧ ∀ y, x = some y → s.bootVerify.boot.svn = y.svn ∧ s.bootVerify.boot.config = y.config
          else s.bootVerify.boot.err = imageErr x ∧ s.bootVerify.boot.stage = 5 ∧ s.bootVerify.boot.retry = s.boot.retry + 1)
      ∧ (1 ≤ s.boot.stage → s.boot.stage < 6 → Falls s .bootStepFailure (fun t => t = { s with boot := t.boot } ∧ t.boot.stage = s.boot.stage
          ∧ t.boot.err = (if s.boot.stage = 1 then 1 else if s.boot.stage = 2 then 2 else 4) ∧ t.boot.retry = s.boot.retry + 1
          ∧ t.boot.tries.toNat = min 255 (s.boot.tries.toNat + 1))))
    ∧ (s.boot.stage ≠ 6 → 4 ≤ s.boot.retry → s.boot.since + 60000000000 ≤ s.stc → Falls s .bootRetry (fun t => t.boot.stage = 2 ∧ t.boot.retry = 0
        ∧ t = { s with boot := t.boot }))

/-- A flit with a right CRC and the number expected is taken, any other changes nothing. A NAK of a flit that the replay buffer holds replays from it, and
the sixteenth in a row of one flit takes the port down; one of another number changes nothing. A retrained port is up again with nothing to replay;
that its numbers start at 0, and that a NAK of a flit no longer held is nothing, are the model's choice (log 13). At a root, a contribution is held,
that of a participant on the package being the committed bytes of its SRC once it has started; the one that completes the round gives every
participant on the package the combined result and clears the held ones; one whose settings differ gives every participant on the package an empty
result marked as bad. A result that reaches a started participant (the one kept for it, else, when its root is on another package, the one that the
event brings) ends its round, advances its epoch and writes the new epoch to DONE; a good one puts its bytes at DST, a bad one sets bit 63 of DONE and
leaves DST; every other byte is as before. (R351, R447, R449, spec/17_versions_and_hallmarks.md, spec/25_host_links_security.md) -/
def Obligations.LinkEvents : Prop :=
  ∀ (s : State) (port : Nat),
    (∀ f : Flit, port < 16 → (s.smio port).up = true →
      (f.seq = (s.smio port).rxSeq → f.crc = Config.flitCrc f.seq f.payload →
        Falls s (.smioFlit port f) (fun t => t = { s with ports := t.ports } ∧ (t.smio port).rxSeq = (s.smio port).rxSeq + 1))
      ∧ ((f.seq ≠ (s.smio port).rxSeq ∨ f.crc ≠ Config.flitCrc f.seq f.payload) → exec (.smioFlit port f) s = .next s))
    ∧ (∀ n : BitVec 12, port < 16 → (s.smio port).up = true →
      (n ∉ (s.smio port).replay → exec (.nak port n) s = .next s)
      ∧ (n ∈ (s.smio port).replay →
        ((s.smio port).nak ≠ some n → Falls s (.nak port n) (fun t => (t.smio port).up = true ∧ (t.smio port).nak = some n ∧ (t.smio port).retries = 1
          ∧ (t.smio port).replay.head? = some n ∧ t = { s with ports := t.ports }))
        ∧ ((s.smio port).nak = some n → (s.smio port).retries < 15 → Falls s (.nak port n) (fun t => (t.smio port).up = true
          ∧ (t.smio port).retries = (s.smio port).retries + 1 ∧ (t.smio port).replay.head? = some n ∧ t = { s with ports := t.ports }))
        ∧ ((s.smio port).nak = some n → (s.smio port).retries = 15 → Falls s (.nak port n) (fun t => (t.smio port).up = false))))
    ∧ (port < 16 → (s.smio port).up = false → Falls s (.smioPortRetrain port) (fun t => (t.smio port).up = true ∧ (t.smio port).rxSeq = 0
        ∧ (t.smio port).txSeq = 0 ∧ (t.smio port).replay = [] ∧ t = { s with ports := t.ports }))
    ∧ (∀ (i : Nat) (c : Contribution), let R := s.collOf i;
      R.en = true → R.leaf = 0 → R.route = 31 → R.result = none → Tbl.find R.contrib c.leaf = none → c.leaf < R.n → (i, R) ∈ s.locals i →
      let round := fun (op ty n len : Nat) (data : List Byte) =>
        let held := Tbl.put R.contrib c.leaf data
        (R.agrees op ty n len = false → Falls s (.collectiveContribution i c) (fun t => (t.collOf i).contrib = [] ∧ SameBytes s t
          ∧ ∀ e ∈ s.locals i, (t.collOf e.1).result = some [] ∧ (t.collOf e.1).bad = true))
        ∧ (R.agrees op ty n len = true → held.length < R.n → Falls s (.collectiveContribution i c) (fun t => SameBytes s t
          ∧ Tbl.find (t.collOf i).contrib c.leaf = some data ∧ (t.collOf i).result = none))
        ∧ (R.agrees op ty n len = true → held.length = R.n → Falls s (.collectiveContribution i c) (fun t => (t.collOf i).contrib = [] ∧ SameBytes s t
          ∧ ∀ e ∈ s.locals i, (t.collOf e.1).result = some ({ R with contrib := held } : Coll).combine ∧ (t.collOf e.1).bad = false))
      ((∀ e ∈ s.locals i, e.2.leaf ≠ c.leaf) → round c.op c.ty c.n c.len c.data)
      ∧ ∀ k P, (s.locals i).find? (fun e => e.2.leaf == c.leaf) = some (k, P) →
        (P.started = false → exec (.collectiveContribution i c) s = .next s)
        ∧ (P.started = true → (∀ j < P.len, regionOf (P.src + j) = .dram) →
          (∀ n ∈ linesOf P.src P.len, ∀ l, Tbl.find s.llc n = some l → l.dirty = true ∨ l.data = s.dramLine n) →
          round P.op P.ty P.n P.len ((List.range P.len).map (fun j => s.memByte (P.src + j)))))
    ∧ (∀ (i : Nat) (data : List Byte) (bad : Bool) (d : List Byte) (b : Bool), let C := s.collOf i;
      C.en = true → C.started = true → (C.result = some d ∧ b = C.bad ∨ C.result = none ∧ C.route ≠ 31 ∧ d = data ∧ b = bad) →
      (∀ j < C.len, regionOf (C.dst + j) = .dram) →
      Falls s (.collectiveResult i bad data) (fun t => (t.collOf i).epoch = (C.epoch + 1) % 2 ^ 32
        ∧ (t.collOf i).started = false ∧ (t.collOf i).result = none
        ∧ Memory.read t.mem (C.trig + 8) 8 = (C.epoch + 1) % 2 ^ 32 + (if b then 2 ^ 63 else 0)
        ∧ (b = false → ∀ j < C.len, t.memByte (C.dst + j) = nth d j 0)
        ∧ ∀ a, (a < C.trig + 8 ∨ C.trig + 16 ≤ a) → (b = true ∨ a < C.dst ∨ C.dst + C.len ≤ a) → t.memByte a = s.memByte a))
end

