-- ==== Sys2Proof/Laws/Tbl.lean ====
section
/-! SUPPORT. Laws of sparse tables and of byte memory: an entry reads as it was put, every other is untouched, and every
operation keeps the canonical form. -/

namespace Sys2Proof.Machine

/-! Reads after writes. -/

@[simp] theorem Tbl.find_nil {α : Type} (k : Nat) : Tbl.find ([] : Tbl α) k = none := rfl

@[simp] theorem Tbl.find_put_self {α : Type} (t : Tbl α) (k : Nat) (v : α) : Tbl.find (Tbl.put t k v) k = some v := by
  induction t with
  | nil => simp [Tbl.put, Tbl.find]
  | cons e r ih =>
    obtain ⟨a, x⟩ := e
    by_cases h : a = k
    · simp [Tbl.put, Tbl.find, h]
    · by_cases h' : k < a <;> simp [Tbl.put, Tbl.find, h, h', ih]

theorem Tbl.find_put_other {α : Type} (t : Tbl α) (k : Nat) (v : α) (j : Nat) (h : j ≠ k) :
    Tbl.find (Tbl.put t k v) j = Tbl.find t j := by
  induction t with
  | nil => simp [Tbl.put, Tbl.find, h.symm]
  | cons e r ih =>
    obtain ⟨a, x⟩ := e
    by_cases ha : a = k
    · subst ha; simp [Tbl.put, Tbl.find, h.symm]
    · by_cases h' : k < a
      · simp [Tbl.put, Tbl.find, ha, h', h.symm]
      · simp [Tbl.put, Tbl.find, ha, h', ih]

@[simp] theorem Tbl.find_del_self {α : Type} (t : Tbl α) (k : Nat) : Tbl.find (Tbl.del t k) k = none := by
  induction t with
  | nil => rfl
  | cons e r ih =>
    obtain ⟨a, x⟩ := e
    by_cases h : a = k <;> simp [Tbl.del, Tbl.find, h, ih]

theorem Tbl.find_del_other {α : Type} (t : Tbl α) (k j : Nat) (h : j ≠ k) : Tbl.find (Tbl.del t k) j = Tbl.find t j := by
  induction t with
  | nil => rfl
  | cons e r ih =>
    obtain ⟨a, x⟩ := e
    by_cases ha : a = k
    · subst ha; simp [Tbl.del, Tbl.find, h.symm, ih]
    · simp [Tbl.del, Tbl.find, ha, ih]

@[simp] theorem Tbl.get_set_self {α : Type} [DecidableEq α] (t : Tbl α) (k : Nat) (v d : α) : Tbl.get (Tbl.set t k v d) k d = v := by
  unfold Tbl.get Tbl.set
  by_cases h : v = d <;> simp [h]

theorem Tbl.get_set_other {α : Type} [DecidableEq α] (t : Tbl α) (k : Nat) (v d : α) (j : Nat) (h : j ≠ k) :
    Tbl.get (Tbl.set t k v d) j d = Tbl.get t j d := by
  unfold Tbl.get Tbl.set
  by_cases hv : v = d
  · simp [hv, Tbl.find_del_other _ _ _ h]
  · simp [hv, Tbl.find_put_other _ _ _ _ h]

/-! Rising keys. -/

/-- Every key of a table is above a bound. -/
def Tbl.above {α : Type} (n : Nat) (t : Tbl α) : Prop := ∀ e ∈ t, n < e.1

theorem Tbl.sorted_cons {α : Type} (e : Nat × α) (r : Tbl α) : Tbl.sorted (e :: r) = true ↔ Tbl.above e.1 r ∧ Tbl.sorted r = true := by
  obtain ⟨a, x⟩ := e
  simp [Tbl.sorted, Tbl.above]

theorem Tbl.mem_put {α : Type} (t : Tbl α) (k : Nat) (v : α) (e : Nat × α) (h : e ∈ Tbl.put t k v) : e = (k, v) ∨ e ∈ t := by
  induction t with
  | nil => simpa [Tbl.put] using h
  | cons f r ih =>
    obtain ⟨a, x⟩ := f
    by_cases ha : a = k
    · simp [Tbl.put, ha] at h ⊢; tauto
    · by_cases h' : k < a
      · simpa [Tbl.put, ha, h'] using h
      · simp [Tbl.put, ha, h'] at h ⊢; rcases h with h | h
        · exact .inr (.inl h)
        · rcases ih h with h | h
          · exact .inl h
          · exact .inr (.inr h)

theorem Tbl.mem_del {α : Type} (t : Tbl α) (k : Nat) (e : Nat × α) (h : e ∈ Tbl.del t k) : e ∈ t ∧ e.1 ≠ k := by
  induction t with
  | nil => simp [Tbl.del] at h
  | cons f r ih =>
    obtain ⟨a, x⟩ := f
    by_cases ha : a = k
    · rw [Tbl.del, if_pos ha] at h; exact ⟨List.mem_cons_of_mem _ (ih h).1, (ih h).2⟩
    · rw [Tbl.del, if_neg ha, List.mem_cons] at h
      rcases h with h | h
      · subst h; exact ⟨List.mem_cons_self, ha⟩
      · exact ⟨List.mem_cons_of_mem _ (ih h).1, (ih h).2⟩

theorem Tbl.sorted_put {α : Type} (t : Tbl α) (k : Nat) (v : α) (h : Tbl.sorted t = true) : Tbl.sorted (Tbl.put t k v) = true := by
  induction t with
  | nil => simp [Tbl.put, Tbl.sorted]
  | cons f r ih =>
    obtain ⟨a, x⟩ := f
    obtain ⟨hb, hr⟩ := (Tbl.sorted_cons _ _).1 h
    by_cases ha : a = k
    · subst ha; rw [Tbl.put, if_pos rfl]; exact (Tbl.sorted_cons _ _).2 ⟨hb, hr⟩
    · by_cases h' : k < a
      · rw [Tbl.put, if_neg ha, if_pos h']
        refine (Tbl.sorted_cons _ _).2 ⟨fun e he => ?_, h⟩
        rcases List.mem_cons.1 he with rfl | he
        · exact h'
        · exact Nat.lt_trans h' (hb e he)
      · rw [Tbl.put, if_neg ha, if_neg h']
        refine (Tbl.sorted_cons _ _).2 ⟨fun e he => ?_, ih hr⟩
        rcases Tbl.mem_put _ _ _ _ he with rfl | he
        · exact Nat.lt_of_le_of_ne (Nat.le_of_not_lt h') ha
        · exact hb e he

theorem Tbl.sorted_del {α : Type} (t : Tbl α) (k : Nat) (h : Tbl.sorted t = true) : Tbl.sorted (Tbl.del t k) = true := by
  induction t with
  | nil => rfl
  | cons f r ih =>
    obtain ⟨a, x⟩ := f
    obtain ⟨hb, hr⟩ := (Tbl.sorted_cons _ _).1 h
    by_cases ha : a = k
    · rw [Tbl.del, if_pos ha]; exact ih hr
    · rw [Tbl.del, if_neg ha]; exact (Tbl.sorted_cons _ _).2 ⟨fun e he => hb e (Tbl.mem_del _ _ _ he).1, ih hr⟩

theorem Tbl.sorted_filter {α : Type} (t : Tbl α) (p : Nat × α → Bool) (h : Tbl.sorted t = true) : Tbl.sorted (t.filter p) = true := by
  induction t with
  | nil => rfl
  | cons f r ih =>
    obtain ⟨hb, hr⟩ := (Tbl.sorted_cons _ _).1 h
    by_cases hp : p f
    · rw [List.filter_cons_of_pos hp]
      exact (Tbl.sorted_cons _ _).2 ⟨fun e he => hb e (List.mem_filter.1 he).1, ih hr⟩
    · rw [List.filter_cons_of_neg hp]; exact ih hr

/-! Byte memory keeps its canonical form. -/

/-- The entry found at a key is one of the table's. -/
theorem Tbl.mem_of_find {α : Type} (t : Tbl α) (k : Nat) (v : α) (h : Tbl.find t k = some v) : (k, v) ∈ t := by
  induction t with
  | nil => exact nomatch h
  | cons e r ih =>
    obtain ⟨a, b⟩ := e
    unfold Tbl.find at h
    split at h
    · rename_i hk; subst hk; cases h; exact List.mem_cons_self
    · exact List.mem_cons_of_mem _ (ih h)

/-- Putting an entry that the table has already leaves it as it was. -/
theorem Tbl.put_same {α : Type} (t : Tbl α) (k : Nat) (v : α) (hs : Tbl.sorted t = true) (h : Tbl.find t k = some v) : Tbl.put t k v = t := by
  induction t with
  | nil => exact nomatch h
  | cons e r ih =>
    obtain ⟨a, b⟩ := e
    unfold Tbl.find at h
    split at h
    · rename_i hk; subst hk; cases h; simp [Tbl.put]
    · rename_i hk
      obtain ⟨ha, hr⟩ := (Tbl.sorted_cons (a, b) r).mp hs
      have := ha _ (Tbl.mem_of_find r k v h)
      simp only at this
      simp only [Tbl.put]; rw [if_neg hk, if_neg (by omega), ih hr h]

/-- Setting an entry, not the default, to what it is leaves the table as it was. -/
theorem Tbl.set_get {α : Type} [DecidableEq α] (t : Tbl α) (k : Nat) (d : α) (hs : Tbl.sorted t = true) (h : Tbl.get t k d ≠ d) :
    Tbl.set t k (Tbl.get t k d) d = t := by
  unfold Tbl.set; rw [if_neg h]
  unfold Tbl.get at h ⊢
  cases hf : Tbl.find t k with
  | none => rw [hf] at h; exact absurd rfl h
  | some v => exact Tbl.put_same t k v hs hf

theorem Memory.wf_iff (m : Memory) : Memory.wf m = true ↔ Tbl.sorted m = true ∧ ∀ c ∈ m, c.2 ≠ 0 := by
  simp [Memory.wf]

theorem Memory.wf_nil : Memory.wf [] = true := rfl

theorem Memory.wf_setByte (m : Memory) (a : Nat) (b : Byte) (h : Memory.wf m = true) : Memory.wf (Memory.setByte m a b) = true := by
  rw [Memory.wf_iff] at h ⊢
  unfold Memory.setByte Tbl.set
  by_cases hb : b = 0
  · simp only [hb, if_true]
    exact ⟨Tbl.sorted_del _ _ h.1, fun c hc => h.2 c (Tbl.mem_del _ _ _ hc).1⟩
  · rw [if_neg hb]
    refine ⟨Tbl.sorted_put _ _ _ h.1, fun c hc => ?_⟩
    rcases Tbl.mem_put _ _ _ _ hc with rfl | hc
    · exact hb
    · exact h.2 c hc

theorem Memory.wf_write (m : Memory) (a n v : Nat) (h : Memory.wf m = true) : Memory.wf (Memory.write m a n v) = true := by
  induction n generalizing m a v with
  | zero => exact h
  | succ n ih => exact ih _ _ _ (Memory.wf_setByte _ _ _ h)

theorem Memory.wf_writeList (m : Memory) (a : Nat) (bs : List Byte) (h : Memory.wf m = true) :
    Memory.wf (Memory.writeList m a bs) = true := by
  induction bs generalizing m a with
  | nil => exact h
  | cons b r ih => exact ih _ _ (Memory.wf_setByte _ _ _ h)

theorem Memory.wf_clear (m : Memory) (a n : Nat) (h : Memory.wf m = true) : Memory.wf (Memory.clear m a n) = true := by
  rw [Memory.wf_iff] at h ⊢
  exact ⟨Tbl.sorted_filter _ _ h.1, fun c hc => h.2 c (List.mem_filter.1 hc).1⟩

theorem Memory.wf_restore (m : Memory) (a n : Nat) (img : Memory) (h : Memory.wf m = true) :
    Memory.wf (Memory.restore m a n img) = true := by
  unfold Memory.restore
  have h' := Memory.wf_clear m a n h
  generalize Memory.clear m a n = x at h'
  induction img generalizing x with
  | nil => exact h'
  | cons c r ih =>
    rw [List.foldl_cons]
    refine ih _ ?_
    split
    · exact Memory.wf_setByte _ _ _ h'
    · exact h'

/-! Bytes read as written. -/

@[simp] theorem Memory.byte_setByte_self (m : Memory) (a : Nat) (b : Byte) : Memory.byte (Memory.setByte m a b) a = b := Tbl.get_set_self _ _ _ _

theorem Memory.byte_setByte_other (m : Memory) (a : Nat) (b : Byte) (j : Nat) (h : j ≠ a) :
    Memory.byte (Memory.setByte m a b) j = Memory.byte m j := Tbl.get_set_other _ _ _ _ _ h

theorem Memory.byte_write_outside (m : Memory) (a n v j : Nat) (h : j < a ∨ a + n ≤ j) :
    Memory.byte (Memory.write m a n v) j = Memory.byte m j := by
  induction n generalizing m a v with
  | zero => rfl
  | succ n ih =>
    rw [Memory.write, ih _ _ _ (by omega), Memory.byte_setByte_other _ _ _ _ (by omega)]

theorem Memory.read_congr (m m' : Memory) (a n : Nat) (h : ∀ j, a ≤ j → j < a + n → Memory.byte m j = Memory.byte m' j) :
    Memory.read m a n = Memory.read m' a n := by
  induction n generalizing a with
  | zero => rfl
  | succ n ih => rw [Memory.read, Memory.read, h a (by omega) (by omega), ih (a + 1) (fun j h1 h2 => h j (by omega) (by omega))]

theorem lowByte_mod (v n : Nat) : v % 256 ^ (n + 1) = v % 256 + 256 * (v / 256 % 256 ^ n) := by
  rw [Nat.pow_succ', Nat.mod_mul]

/-- Bytes written read back (R4). -/
theorem Memory.read_write (m : Memory) (a n v : Nat) : Memory.read (Memory.write m a n v) a n = v % 256 ^ n := by
  induction n generalizing m a v with
  | zero => simp [Memory.read, Nat.mod_one]
  | succ n ih =>
    rw [Memory.write, Memory.read, ih, Memory.byte_write_outside _ _ _ _ _ (.inl (Nat.lt_succ_self a))]
    simp only [Memory.byte_setByte_self, BitVec.toNat_ofNat]
    exact (lowByte_mod v n).symm

theorem Memory.byte_writeList_outside (m : Memory) (a : Nat) (bs : List Byte) (j : Nat) (h : j < a ∨ a + bs.length ≤ j) :
    Memory.byte (Memory.writeList m a bs) j = Memory.byte m j := by
  induction bs generalizing m a with
  | nil => rfl
  | cons b r ih =>
    simp only [List.length_cons] at h
    rw [Memory.writeList, ih _ _ (by omega), Memory.byte_setByte_other _ _ _ _ (by omega)]

theorem Memory.byte_clear (m : Memory) (a n j : Nat) (h : j < a ∨ a + n ≤ j) : Memory.byte (Memory.clear m a n) j = Memory.byte m j := by
  unfold Memory.byte Memory.clear Tbl.get
  congr 1
  induction m with
  | nil => rfl
  | cons c r ih =>
    obtain ⟨k, x⟩ := c
    by_cases hk : k = j
    · have : (!(decide (a ≤ k) && decide (k < a + n))) = true := by simp; omega
      rw [List.filter_cons_of_pos (by exact this)]; simp [Tbl.find, hk]
    · by_cases hp : (!(decide (a ≤ k) && decide (k < a + n))) = true
      · rw [List.filter_cons_of_pos (by exact hp)]; simp only [Tbl.find, if_neg hk, ih]
      · rw [List.filter_cons_of_neg (by exact hp)]; simp only [Tbl.find, if_neg hk, ih]

/-! Byte lists and numbers (R4). -/

@[simp] theorem toBytes_length (n v : Nat) : (toBytes n v).length = n := by
  induction n generalizing v with
  | zero => rfl
  | succ n ih => simp [toBytes, ih]

theorem ofBytes_toBytes (n v : Nat) : ofBytes (toBytes n v) = v % 256 ^ n := by
  induction n generalizing v with
  | zero => simp [toBytes, ofBytes, Nat.mod_one]
  | succ n ih =>
    simp only [toBytes, ofBytes, ih, BitVec.toNat_ofNat]
    exact (lowByte_mod v n).symm

@[simp] theorem Memory.readList_length (m : Memory) (a n : Nat) : (Memory.readList m a n).length = n := by
  induction n generalizing a with
  | zero => rfl
  | succ n ih => simp [Memory.readList, ih]

theorem ofBytes_readList (m : Memory) (a n : Nat) : ofBytes (Memory.readList m a n) = Memory.read m a n := by
  induction n generalizing a with
  | zero => rfl
  | succ n ih => simp [Memory.readList, ofBytes, Memory.read, ih]

end Sys2Proof.Machine
end

