-- ==== Sys2Proof/Laws/State.lean ====
section
/-! SUPPORT. One lemma per field and update of the state (true by rfl), what each lookup returns after each update, and
the same for the updates of a group. -/

namespace Sys2Proof.Machine

/-! `State.setGroup`. -/

@[simp] theorem State.setGroup_epoch (s : State) (k : Nat) (x : Group) : (s.setGroup k x).epoch = s.epoch := rfl
@[simp] theorem State.setGroup_landWait (s : State) (k : Nat) (x : Group) : (s.setGroup k x).landWait = s.landWait := rfl
@[simp] theorem State.setGroup_wrote (s : State) (k : Nat) (x : Group) : (s.setGroup k x).wrote = s.wrote := rfl
@[simp] theorem State.setGroup_tick (s : State) (k : Nat) (x : Group) : (s.setGroup k x).tick = s.tick := rfl
@[simp] theorem State.setGroup_burst (s : State) (k : Nat) (x : Group) : (s.setGroup k x).burst = s.burst := rfl
@[simp] theorem State.setGroup_lull (s : State) (k : Nat) (x : Group) : (s.setGroup k x).lull = s.lull := rfl
@[simp] theorem State.setGroup_zero (s : State) (k : Nat) (x : Group) : (s.setGroup k x).zero = s.zero := rfl
@[simp] theorem State.setGroup_tests (s : State) (k : Nat) (x : Group) : (s.setGroup k x).tests = s.tests := rfl
@[simp] theorem State.setGroup_fresh (s : State) (k : Nat) (x : Group) : (s.setGroup k x).fresh = s.fresh := rfl
@[simp] theorem State.setGroup_cycles (s : State) (k : Nat) (x : Group) : (s.setGroup k x).cycles = s.cycles := rfl
@[simp] theorem State.setGroup_stcZero (s : State) (k : Nat) (x : Group) : (s.setGroup k x).stcZero = s.stcZero := rfl
@[simp] theorem State.setGroup_agenda (s : State) (k : Nat) (x : Group) : (s.setGroup k x).agenda = s.agenda := rfl
@[simp] theorem State.setGroup_cur (s : State) (k : Nat) (x : Group) : (s.setGroup k x).cur = s.cur := rfl
@[simp] theorem State.setGroup_slot (s : State) (k : Nat) (x : Group) : (s.setGroup k x).slot = s.slot := rfl
@[simp] theorem State.setGroup_mem (s : State) (k : Nat) (x : Group) : (s.setGroup k x).mem = s.mem := rfl
@[simp] theorem State.setGroup_llc (s : State) (k : Nat) (x : Group) : (s.setGroup k x).llc = s.llc := rfl
@[simp] theorem State.setGroup_codePre (s : State) (k : Nat) (x : Group) : (s.setGroup k x).codePre = s.codePre := rfl
@[simp] theorem State.setGroup_badLines (s : State) (k : Nat) (x : Group) : (s.setGroup k x).badLines = s.badLines := rfl
@[simp] theorem State.setGroup_groups (s : State) (k : Nat) (x : Group) : (s.setGroup k x).groups = Tbl.put s.groups k x := rfl
@[simp] theorem State.setGroup_teams (s : State) (k : Nat) (x : Group) : (s.setGroup k x).teams = s.teams := rfl
@[simp] theorem State.setGroup_launches (s : State) (k : Nat) (x : Group) : (s.setGroup k x).launches = s.launches := rfl
@[simp] theorem State.setGroup_nextLaunch (s : State) (k : Nat) (x : Group) : (s.setGroup k x).nextLaunch = s.nextLaunch := rfl
@[simp] theorem State.setGroup_nextOrder (s : State) (k : Nat) (x : Group) : (s.setGroup k x).nextOrder = s.nextOrder := rfl
@[simp] theorem State.setGroup_nextCmd (s : State) (k : Nat) (x : Group) : (s.setGroup k x).nextCmd = s.nextCmd := rfl
@[simp] theorem State.setGroup_cores (s : State) (k : Nat) (x : Group) : (s.setGroup k x).cores = s.cores := rfl
@[simp] theorem State.setGroup_dies (s : State) (k : Nat) (x : Group) : (s.setGroup k x).dies = s.dies := rfl
@[simp] theorem State.setGroup_complexes (s : State) (k : Nat) (x : Group) : (s.setGroup k x).complexes = s.complexes := rfl
@[simp] theorem State.setGroup_queues (s : State) (k : Nat) (x : Group) : (s.setGroup k x).queues = s.queues := rfl
@[simp] theorem State.setGroup_parts (s : State) (k : Nat) (x : Group) : (s.setGroup k x).parts = s.parts := rfl
@[simp] theorem State.setGroup_versions (s : State) (k : Nat) (x : Group) : (s.setGroup k x).versions = s.versions := rfl
@[simp] theorem State.setGroup_locks (s : State) (k : Nat) (x : Group) : (s.setGroup k x).locks = s.locks := rfl
@[simp] theorem State.setGroup_ew (s : State) (k : Nat) (x : Group) : (s.setGroup k x).ew = s.ew := rfl
@[simp] theorem State.setGroup_coll (s : State) (k : Nat) (x : Group) : (s.setGroup k x).coll = s.coll := rfl
@[simp] theorem State.setGroup_routes (s : State) (k : Nat) (x : Group) : (s.setGroup k x).routes = s.routes := rfl
@[simp] theorem State.setGroup_ports (s : State) (k : Nat) (x : Group) : (s.setGroup k x).ports = s.ports := rfl
@[simp] theorem State.setGroup_remote (s : State) (k : Nat) (x : Group) : (s.setGroup k x).remote = s.remote := rfl
@[simp] theorem State.setGroup_tags (s : State) (k : Nat) (x : Group) : (s.setGroup k x).tags = s.tags := rfl
@[simp] theorem State.setGroup_sampleIn (s : State) (k : Nat) (x : Group) : (s.setGroup k x).sampleIn = s.sampleIn := rfl
@[simp] theorem State.setGroup_reached (s : State) (k : Nat) (x : Group) : (s.setGroup k x).reached = s.reached := rfl
@[simp] theorem State.setGroup_pkg (s : State) (k : Nat) (x : Group) : (s.setGroup k x).pkg = s.pkg := rfl
@[simp] theorem State.setGroup_boot (s : State) (k : Nat) (x : Group) : (s.setGroup k x).boot = s.boot := rfl
@[simp] theorem State.setGroup_ide (s : State) (k : Nat) (x : Group) : (s.setGroup k x).ide = s.ide := rfl
@[simp] theorem State.setGroup_ideBad (s : State) (k : Nat) (x : Group) : (s.setGroup k x).ideBad = s.ideBad := rfl
@[simp] theorem State.setGroup_bar2 (s : State) (k : Nat) (x : Group) : (s.setGroup k x).bar2 = s.bar2 := rfl
@[simp] theorem State.setGroup_bar4 (s : State) (k : Nat) (x : Group) : (s.setGroup k x).bar4 = s.bar4 := rfl
@[simp] theorem State.setGroup_hostRead (s : State) (k : Nat) (x : Group) : (s.setGroup k x).hostRead = s.hostRead := rfl
@[simp] theorem State.setGroup_hostUr (s : State) (k : Nat) (x : Group) : (s.setGroup k x).hostUr = s.hostUr := rfl
@[simp] theorem State.setGroup_supRead (s : State) (k : Nat) (x : Group) : (s.setGroup k x).supRead = s.supRead := rfl
@[simp] theorem State.setGroup_spdm (s : State) (k : Nat) (x : Group) : (s.setGroup k x).spdm = s.spdm := rfl

/-! `State.delGroup`. -/

@[simp] theorem State.delGroup_epoch (s : State) (k : Nat) : (s.delGroup k).epoch = s.epoch := by
  unfold State.delGroup; split <;> rfl
@[simp] theorem State.delGroup_landWait (s : State) (k : Nat) : (s.delGroup k).landWait = s.landWait := by
  unfold State.delGroup; split <;> rfl
@[simp] theorem State.delGroup_wrote (s : State) (k : Nat) : (s.delGroup k).wrote = s.wrote := by
  unfold State.delGroup; split <;> rfl
@[simp] theorem State.delGroup_tick (s : State) (k : Nat) : (s.delGroup k).tick = s.tick := by
  unfold State.delGroup; split <;> rfl
@[simp] theorem State.delGroup_burst (s : State) (k : Nat) : (s.delGroup k).burst = s.burst := by
  unfold State.delGroup; split <;> rfl
@[simp] theorem State.delGroup_lull (s : State) (k : Nat) : (s.delGroup k).lull = s.lull := by
  unfold State.delGroup; split <;> rfl
@[simp] theorem State.delGroup_zero (s : State) (k : Nat) : (s.delGroup k).zero = s.zero := by
  unfold State.delGroup; split <;> rfl
@[simp] theorem State.delGroup_tests (s : State) (k : Nat) : (s.delGroup k).tests = s.tests := by
  unfold State.delGroup; split <;> rfl
@[simp] theorem State.delGroup_fresh (s : State) (k : Nat) : (s.delGroup k).fresh = s.fresh := by
  unfold State.delGroup; split <;> rfl
@[simp] theorem State.delGroup_cycles (s : State) (k : Nat) : (s.delGroup k).cycles = s.cycles := by
  unfold State.delGroup; split <;> rfl
@[simp] theorem State.delGroup_stcZero (s : State) (k : Nat) : (s.delGroup k).stcZero = s.stcZero := by
  unfold State.delGroup; split <;> rfl
@[simp] theorem State.delGroup_agenda (s : State) (k : Nat) : (s.delGroup k).agenda = s.agenda := by
  unfold State.delGroup; split <;> rfl
@[simp] theorem State.delGroup_cur (s : State) (k : Nat) : (s.delGroup k).cur = s.cur := by
  unfold State.delGroup; split <;> rfl
@[simp] theorem State.delGroup_slot (s : State) (k : Nat) : (s.delGroup k).slot = s.slot := by
  unfold State.delGroup; split <;> rfl
@[simp] theorem State.delGroup_mem (s : State) (k : Nat) : (s.delGroup k).mem = s.mem := by
  unfold State.delGroup; split <;> rfl
@[simp] theorem State.delGroup_llc (s : State) (k : Nat) : (s.delGroup k).llc = s.llc := by
  unfold State.delGroup; split <;> rfl
@[simp] theorem State.delGroup_codePre (s : State) (k : Nat) : (s.delGroup k).codePre = s.codePre := by
  unfold State.delGroup; split <;> rfl
@[simp] theorem State.delGroup_badLines (s : State) (k : Nat) : (s.delGroup k).badLines = s.badLines := by
  unfold State.delGroup; split <;> rfl
@[simp] theorem State.delGroup_teams (s : State) (k : Nat) : (s.delGroup k).teams = s.teams := by
  unfold State.delGroup; split <;> rfl
@[simp] theorem State.delGroup_launches (s : State) (k : Nat) : (s.delGroup k).launches = s.launches := by
  unfold State.delGroup; split <;> rfl
@[simp] theorem State.delGroup_nextLaunch (s : State) (k : Nat) : (s.delGroup k).nextLaunch = s.nextLaunch := by
  unfold State.delGroup; split <;> rfl
@[simp] theorem State.delGroup_nextOrder (s : State) (k : Nat) : (s.delGroup k).nextOrder = s.nextOrder := by
  unfold State.delGroup; split <;> rfl
@[simp] theorem State.delGroup_nextCmd (s : State) (k : Nat) : (s.delGroup k).nextCmd = s.nextCmd := by
  unfold State.delGroup; split <;> rfl
@[simp] theorem State.delGroup_dies (s : State) (k : Nat) : (s.delGroup k).dies = s.dies := by
  unfold State.delGroup; split <;> rfl
@[simp] theorem State.delGroup_complexes (s : State) (k : Nat) : (s.delGroup k).complexes = s.complexes := by
  unfold State.delGroup; split <;> rfl
@[simp] theorem State.delGroup_queues (s : State) (k : Nat) : (s.delGroup k).queues = s.queues := by
  unfold State.delGroup; split <;> rfl
@[simp] theorem State.delGroup_parts (s : State) (k : Nat) : (s.delGroup k).parts = s.parts := by
  unfold State.delGroup; split <;> rfl
@[simp] theorem State.delGroup_versions (s : State) (k : Nat) : (s.delGroup k).versions = s.versions := by
  unfold State.delGroup; split <;> rfl
@[simp] theorem State.delGroup_locks (s : State) (k : Nat) : (s.delGroup k).locks = s.locks := by
  unfold State.delGroup; split <;> rfl
@[simp] theorem State.delGroup_ew (s : State) (k : Nat) : (s.delGroup k).ew = s.ew := by
  unfold State.delGroup; split <;> rfl
@[simp] theorem State.delGroup_coll (s : State) (k : Nat) : (s.delGroup k).coll = s.coll := by
  unfold State.delGroup; split <;> rfl
@[simp] theorem State.delGroup_routes (s : State) (k : Nat) : (s.delGroup k).routes = s.routes := by
  unfold State.delGroup; split <;> rfl
@[simp] theorem State.delGroup_ports (s : State) (k : Nat) : (s.delGroup k).ports = s.ports := by
  unfold State.delGroup; split <;> rfl
@[simp] theorem State.delGroup_remote (s : State) (k : Nat) : (s.delGroup k).remote = s.remote := by
  unfold State.delGroup; split <;> rfl
@[simp] theorem State.delGroup_tags (s : State) (k : Nat) : (s.delGroup k).tags = s.tags := by
  unfold State.delGroup; split <;> rfl
@[simp] theorem State.delGroup_sampleIn (s : State) (k : Nat) : (s.delGroup k).sampleIn = s.sampleIn := by
  unfold State.delGroup; split <;> rfl
@[simp] theorem State.delGroup_reached (s : State) (k : Nat) : (s.delGroup k).reached = s.reached := by
  unfold State.delGroup; split <;> rfl
@[simp] theorem State.delGroup_pkg (s : State) (k : Nat) : (s.delGroup k).pkg = s.pkg := by
  unfold State.delGroup; split <;> rfl
@[simp] theorem State.delGroup_boot (s : State) (k : Nat) : (s.delGroup k).boot = s.boot := by
  unfold State.delGroup; split <;> rfl
@[simp] theorem State.delGroup_ide (s : State) (k : Nat) : (s.delGroup k).ide = s.ide := by
  unfold State.delGroup; split <;> rfl
@[simp] theorem State.delGroup_ideBad (s : State) (k : Nat) : (s.delGroup k).ideBad = s.ideBad := by
  unfold State.delGroup; split <;> rfl
@[simp] theorem State.delGroup_bar2 (s : State) (k : Nat) : (s.delGroup k).bar2 = s.bar2 := by
  unfold State.delGroup; split <;> rfl
@[simp] theorem State.delGroup_bar4 (s : State) (k : Nat) : (s.delGroup k).bar4 = s.bar4 := by
  unfold State.delGroup; split <;> rfl
@[simp] theorem State.delGroup_hostRead (s : State) (k : Nat) : (s.delGroup k).hostRead = s.hostRead := by
  unfold State.delGroup; split <;> rfl
@[simp] theorem State.delGroup_hostUr (s : State) (k : Nat) : (s.delGroup k).hostUr = s.hostUr := by
  unfold State.delGroup; split <;> rfl
@[simp] theorem State.delGroup_supRead (s : State) (k : Nat) : (s.delGroup k).supRead = s.supRead := by
  unfold State.delGroup; split <;> rfl
@[simp] theorem State.delGroup_spdm (s : State) (k : Nat) : (s.delGroup k).spdm = s.spdm := by
  unfold State.delGroup; split <;> rfl

/-! `State.setTeam`. -/

@[simp] theorem State.setTeam_epoch (s : State) (k : Nat) (x : Team) : (s.setTeam k x).epoch = s.epoch := rfl
@[simp] theorem State.setTeam_landWait (s : State) (k : Nat) (x : Team) : (s.setTeam k x).landWait = s.landWait := rfl
@[simp] theorem State.setTeam_wrote (s : State) (k : Nat) (x : Team) : (s.setTeam k x).wrote = s.wrote := rfl
@[simp] theorem State.setTeam_tick (s : State) (k : Nat) (x : Team) : (s.setTeam k x).tick = s.tick := rfl
@[simp] theorem State.setTeam_burst (s : State) (k : Nat) (x : Team) : (s.setTeam k x).burst = s.burst := rfl
@[simp] theorem State.setTeam_lull (s : State) (k : Nat) (x : Team) : (s.setTeam k x).lull = s.lull := rfl
@[simp] theorem State.setTeam_zero (s : State) (k : Nat) (x : Team) : (s.setTeam k x).zero = s.zero := rfl
@[simp] theorem State.setTeam_tests (s : State) (k : Nat) (x : Team) : (s.setTeam k x).tests = s.tests := rfl
@[simp] theorem State.setTeam_fresh (s : State) (k : Nat) (x : Team) : (s.setTeam k x).fresh = s.fresh := rfl
@[simp] theorem State.setTeam_cycles (s : State) (k : Nat) (x : Team) : (s.setTeam k x).cycles = s.cycles := rfl
@[simp] theorem State.setTeam_stcZero (s : State) (k : Nat) (x : Team) : (s.setTeam k x).stcZero = s.stcZero := rfl
@[simp] theorem State.setTeam_agenda (s : State) (k : Nat) (x : Team) : (s.setTeam k x).agenda = s.agenda := rfl
@[simp] theorem State.setTeam_cur (s : State) (k : Nat) (x : Team) : (s.setTeam k x).cur = s.cur := rfl
@[simp] theorem State.setTeam_slot (s : State) (k : Nat) (x : Team) : (s.setTeam k x).slot = s.slot := rfl
@[simp] theorem State.setTeam_mem (s : State) (k : Nat) (x : Team) : (s.setTeam k x).mem = s.mem := rfl
@[simp] theorem State.setTeam_llc (s : State) (k : Nat) (x : Team) : (s.setTeam k x).llc = s.llc := rfl
@[simp] theorem State.setTeam_codePre (s : State) (k : Nat) (x : Team) : (s.setTeam k x).codePre = s.codePre := rfl
@[simp] theorem State.setTeam_badLines (s : State) (k : Nat) (x : Team) : (s.setTeam k x).badLines = s.badLines := rfl
@[simp] theorem State.setTeam_groups (s : State) (k : Nat) (x : Team) : (s.setTeam k x).groups = s.groups := rfl
@[simp] theorem State.setTeam_teams (s : State) (k : Nat) (x : Team) : (s.setTeam k x).teams = Tbl.put s.teams k x := rfl
@[simp] theorem State.setTeam_launches (s : State) (k : Nat) (x : Team) : (s.setTeam k x).launches = s.launches := rfl
@[simp] theorem State.setTeam_nextLaunch (s : State) (k : Nat) (x : Team) : (s.setTeam k x).nextLaunch = s.nextLaunch := rfl
@[simp] theorem State.setTeam_nextOrder (s : State) (k : Nat) (x : Team) : (s.setTeam k x).nextOrder = s.nextOrder := rfl
@[simp] theorem State.setTeam_nextCmd (s : State) (k : Nat) (x : Team) : (s.setTeam k x).nextCmd = s.nextCmd := rfl
@[simp] theorem State.setTeam_cores (s : State) (k : Nat) (x : Team) : (s.setTeam k x).cores = s.cores := rfl
@[simp] theorem State.setTeam_dies (s : State) (k : Nat) (x : Team) : (s.setTeam k x).dies = s.dies := rfl
@[simp] theorem State.setTeam_complexes (s : State) (k : Nat) (x : Team) : (s.setTeam k x).complexes = s.complexes := rfl
@[simp] theorem State.setTeam_queues (s : State) (k : Nat) (x : Team) : (s.setTeam k x).queues = s.queues := rfl
@[simp] theorem State.setTeam_parts (s : State) (k : Nat) (x : Team) : (s.setTeam k x).parts = s.parts := rfl
@[simp] theorem State.setTeam_versions (s : State) (k : Nat) (x : Team) : (s.setTeam k x).versions = s.versions := rfl
@[simp] theorem State.setTeam_locks (s : State) (k : Nat) (x : Team) : (s.setTeam k x).locks = s.locks := rfl
@[simp] theorem State.setTeam_ew (s : State) (k : Nat) (x : Team) : (s.setTeam k x).ew = s.ew := rfl
@[simp] theorem State.setTeam_coll (s : State) (k : Nat) (x : Team) : (s.setTeam k x).coll = s.coll := rfl
@[simp] theorem State.setTeam_routes (s : State) (k : Nat) (x : Team) : (s.setTeam k x).routes = s.routes := rfl
@[simp] theorem State.setTeam_ports (s : State) (k : Nat) (x : Team) : (s.setTeam k x).ports = s.ports := rfl
@[simp] theorem State.setTeam_remote (s : State) (k : Nat) (x : Team) : (s.setTeam k x).remote = s.remote := rfl
@[simp] theorem State.setTeam_tags (s : State) (k : Nat) (x : Team) : (s.setTeam k x).tags = s.tags := rfl
@[simp] theorem State.setTeam_sampleIn (s : State) (k : Nat) (x : Team) : (s.setTeam k x).sampleIn = s.sampleIn := rfl
@[simp] theorem State.setTeam_reached (s : State) (k : Nat) (x : Team) : (s.setTeam k x).reached = s.reached := rfl
@[simp] theorem State.setTeam_pkg (s : State) (k : Nat) (x : Team) : (s.setTeam k x).pkg = s.pkg := rfl
@[simp] theorem State.setTeam_boot (s : State) (k : Nat) (x : Team) : (s.setTeam k x).boot = s.boot := rfl
@[simp] theorem State.setTeam_ide (s : State) (k : Nat) (x : Team) : (s.setTeam k x).ide = s.ide := rfl
@[simp] theorem State.setTeam_ideBad (s : State) (k : Nat) (x : Team) : (s.setTeam k x).ideBad = s.ideBad := rfl
@[simp] theorem State.setTeam_bar2 (s : State) (k : Nat) (x : Team) : (s.setTeam k x).bar2 = s.bar2 := rfl
@[simp] theorem State.setTeam_bar4 (s : State) (k : Nat) (x : Team) : (s.setTeam k x).bar4 = s.bar4 := rfl
@[simp] theorem State.setTeam_hostRead (s : State) (k : Nat) (x : Team) : (s.setTeam k x).hostRead = s.hostRead := rfl
@[simp] theorem State.setTeam_hostUr (s : State) (k : Nat) (x : Team) : (s.setTeam k x).hostUr = s.hostUr := rfl
@[simp] theorem State.setTeam_supRead (s : State) (k : Nat) (x : Team) : (s.setTeam k x).supRead = s.supRead := rfl
@[simp] theorem State.setTeam_spdm (s : State) (k : Nat) (x : Team) : (s.setTeam k x).spdm = s.spdm := rfl

/-! `State.setLaunch`. -/

@[simp] theorem State.setLaunch_epoch (s : State) (k : Nat) (x : Launch) : (s.setLaunch k x).epoch = s.epoch := rfl
@[simp] theorem State.setLaunch_landWait (s : State) (k : Nat) (x : Launch) : (s.setLaunch k x).landWait = s.landWait := rfl
@[simp] theorem State.setLaunch_wrote (s : State) (k : Nat) (x : Launch) : (s.setLaunch k x).wrote = s.wrote := rfl
@[simp] theorem State.setLaunch_tick (s : State) (k : Nat) (x : Launch) : (s.setLaunch k x).tick = s.tick := rfl
@[simp] theorem State.setLaunch_burst (s : State) (k : Nat) (x : Launch) : (s.setLaunch k x).burst = s.burst := rfl
@[simp] theorem State.setLaunch_lull (s : State) (k : Nat) (x : Launch) : (s.setLaunch k x).lull = s.lull := rfl
@[simp] theorem State.setLaunch_zero (s : State) (k : Nat) (x : Launch) : (s.setLaunch k x).zero = s.zero := rfl
@[simp] theorem State.setLaunch_tests (s : State) (k : Nat) (x : Launch) : (s.setLaunch k x).tests = s.tests := rfl
@[simp] theorem State.setLaunch_fresh (s : State) (k : Nat) (x : Launch) : (s.setLaunch k x).fresh = s.fresh := rfl
@[simp] theorem State.setLaunch_cycles (s : State) (k : Nat) (x : Launch) : (s.setLaunch k x).cycles = s.cycles := rfl
@[simp] theorem State.setLaunch_stcZero (s : State) (k : Nat) (x : Launch) : (s.setLaunch k x).stcZero = s.stcZero := rfl
@[simp] theorem State.setLaunch_agenda (s : State) (k : Nat) (x : Launch) : (s.setLaunch k x).agenda = s.agenda := rfl
@[simp] theorem State.setLaunch_cur (s : State) (k : Nat) (x : Launch) : (s.setLaunch k x).cur = s.cur := rfl
@[simp] theorem State.setLaunch_slot (s : State) (k : Nat) (x : Launch) : (s.setLaunch k x).slot = s.slot := rfl
@[simp] theorem State.setLaunch_mem (s : State) (k : Nat) (x : Launch) : (s.setLaunch k x).mem = s.mem := rfl
@[simp] theorem State.setLaunch_llc (s : State) (k : Nat) (x : Launch) : (s.setLaunch k x).llc = s.llc := rfl
@[simp] theorem State.setLaunch_codePre (s : State) (k : Nat) (x : Launch) : (s.setLaunch k x).codePre = s.codePre := rfl
@[simp] theorem State.setLaunch_badLines (s : State) (k : Nat) (x : Launch) : (s.setLaunch k x).badLines = s.badLines := rfl
@[simp] theorem State.setLaunch_groups (s : State) (k : Nat) (x : Launch) : (s.setLaunch k x).groups = s.groups := rfl
@[simp] theorem State.setLaunch_teams (s : State) (k : Nat) (x : Launch) : (s.setLaunch k x).teams = s.teams := rfl
@[simp] theorem State.setLaunch_launches (s : State) (k : Nat) (x : Launch) : (s.setLaunch k x).launches = Tbl.put s.launches k x := rfl
@[simp] theorem State.setLaunch_nextLaunch (s : State) (k : Nat) (x : Launch) : (s.setLaunch k x).nextLaunch = s.nextLaunch := rfl
@[simp] theorem State.setLaunch_nextOrder (s : State) (k : Nat) (x : Launch) : (s.setLaunch k x).nextOrder = s.nextOrder := rfl
@[simp] theorem State.setLaunch_nextCmd (s : State) (k : Nat) (x : Launch) : (s.setLaunch k x).nextCmd = s.nextCmd := rfl
@[simp] theorem State.setLaunch_cores (s : State) (k : Nat) (x : Launch) : (s.setLaunch k x).cores = s.cores := rfl
@[simp] theorem State.setLaunch_dies (s : State) (k : Nat) (x : Launch) : (s.setLaunch k x).dies = s.dies := rfl
@[simp] theorem State.setLaunch_complexes (s : State) (k : Nat) (x : Launch) : (s.setLaunch k x).complexes = s.complexes := rfl
@[simp] theorem State.setLaunch_queues (s : State) (k : Nat) (x : Launch) : (s.setLaunch k x).queues = s.queues := rfl
@[simp] theorem State.setLaunch_parts (s : State) (k : Nat) (x : Launch) : (s.setLaunch k x).parts = s.parts := rfl
@[simp] theorem State.setLaunch_versions (s : State) (k : Nat) (x : Launch) : (s.setLaunch k x).versions = s.versions := rfl
@[simp] theorem State.setLaunch_locks (s : State) (k : Nat) (x : Launch) : (s.setLaunch k x).locks = s.locks := rfl
@[simp] theorem State.setLaunch_ew (s : State) (k : Nat) (x : Launch) : (s.setLaunch k x).ew = s.ew := rfl
@[simp] theorem State.setLaunch_coll (s : State) (k : Nat) (x : Launch) : (s.setLaunch k x).coll = s.coll := rfl
@[simp] theorem State.setLaunch_routes (s : State) (k : Nat) (x : Launch) : (s.setLaunch k x).routes = s.routes := rfl
@[simp] theorem State.setLaunch_ports (s : State) (k : Nat) (x : Launch) : (s.setLaunch k x).ports = s.ports := rfl
@[simp] theorem State.setLaunch_remote (s : State) (k : Nat) (x : Launch) : (s.setLaunch k x).remote = s.remote := rfl
@[simp] theorem State.setLaunch_tags (s : State) (k : Nat) (x : Launch) : (s.setLaunch k x).tags = s.tags := rfl
@[simp] theorem State.setLaunch_sampleIn (s : State) (k : Nat) (x : Launch) : (s.setLaunch k x).sampleIn = s.sampleIn := rfl
@[simp] theorem State.setLaunch_reached (s : State) (k : Nat) (x : Launch) : (s.setLaunch k x).reached = s.reached := rfl
@[simp] theorem State.setLaunch_pkg (s : State) (k : Nat) (x : Launch) : (s.setLaunch k x).pkg = s.pkg := rfl
@[simp] theorem State.setLaunch_boot (s : State) (k : Nat) (x : Launch) : (s.setLaunch k x).boot = s.boot := rfl
@[simp] theorem State.setLaunch_ide (s : State) (k : Nat) (x : Launch) : (s.setLaunch k x).ide = s.ide := rfl
@[simp] theorem State.setLaunch_ideBad (s : State) (k : Nat) (x : Launch) : (s.setLaunch k x).ideBad = s.ideBad := rfl
@[simp] theorem State.setLaunch_bar2 (s : State) (k : Nat) (x : Launch) : (s.setLaunch k x).bar2 = s.bar2 := rfl
@[simp] theorem State.setLaunch_bar4 (s : State) (k : Nat) (x : Launch) : (s.setLaunch k x).bar4 = s.bar4 := rfl
@[simp] theorem State.setLaunch_hostRead (s : State) (k : Nat) (x : Launch) : (s.setLaunch k x).hostRead = s.hostRead := rfl
@[simp] theorem State.setLaunch_hostUr (s : State) (k : Nat) (x : Launch) : (s.setLaunch k x).hostUr = s.hostUr := rfl
@[simp] theorem State.setLaunch_supRead (s : State) (k : Nat) (x : Launch) : (s.setLaunch k x).supRead = s.supRead := rfl
@[simp] theorem State.setLaunch_spdm (s : State) (k : Nat) (x : Launch) : (s.setLaunch k x).spdm = s.spdm := rfl

/-! `State.setCore`. -/

@[simp] theorem State.setCore_epoch (s : State) (k : Nat) (x : Core) : (s.setCore k x).epoch = s.epoch := rfl
@[simp] theorem State.setCore_landWait (s : State) (k : Nat) (x : Core) : (s.setCore k x).landWait = s.landWait := rfl
@[simp] theorem State.setCore_wrote (s : State) (k : Nat) (x : Core) : (s.setCore k x).wrote = s.wrote := rfl
@[simp] theorem State.setCore_tick (s : State) (k : Nat) (x : Core) : (s.setCore k x).tick = s.tick := rfl
@[simp] theorem State.setCore_burst (s : State) (k : Nat) (x : Core) : (s.setCore k x).burst = s.burst := rfl
@[simp] theorem State.setCore_lull (s : State) (k : Nat) (x : Core) : (s.setCore k x).lull = s.lull := rfl
@[simp] theorem State.setCore_zero (s : State) (k : Nat) (x : Core) : (s.setCore k x).zero = s.zero := rfl
@[simp] theorem State.setCore_tests (s : State) (k : Nat) (x : Core) : (s.setCore k x).tests = s.tests := rfl
@[simp] theorem State.setCore_fresh (s : State) (k : Nat) (x : Core) : (s.setCore k x).fresh = s.fresh := rfl
@[simp] theorem State.setCore_cycles (s : State) (k : Nat) (x : Core) : (s.setCore k x).cycles = s.cycles := rfl
@[simp] theorem State.setCore_stcZero (s : State) (k : Nat) (x : Core) : (s.setCore k x).stcZero = s.stcZero := rfl
@[simp] theorem State.setCore_agenda (s : State) (k : Nat) (x : Core) : (s.setCore k x).agenda = s.agenda := rfl
@[simp] theorem State.setCore_cur (s : State) (k : Nat) (x : Core) : (s.setCore k x).cur = s.cur := rfl
@[simp] theorem State.setCore_slot (s : State) (k : Nat) (x : Core) : (s.setCore k x).slot = s.slot := rfl
@[simp] theorem State.setCore_mem (s : State) (k : Nat) (x : Core) : (s.setCore k x).mem = s.mem := rfl
@[simp] theorem State.setCore_llc (s : State) (k : Nat) (x : Core) : (s.setCore k x).llc = s.llc := rfl
@[simp] theorem State.setCore_codePre (s : State) (k : Nat) (x : Core) : (s.setCore k x).codePre = s.codePre := rfl
@[simp] theorem State.setCore_badLines (s : State) (k : Nat) (x : Core) : (s.setCore k x).badLines = s.badLines := rfl
@[simp] theorem State.setCore_groups (s : State) (k : Nat) (x : Core) : (s.setCore k x).groups = s.groups := rfl
@[simp] theorem State.setCore_teams (s : State) (k : Nat) (x : Core) : (s.setCore k x).teams = s.teams := rfl
@[simp] theorem State.setCore_launches (s : State) (k : Nat) (x : Core) : (s.setCore k x).launches = s.launches := rfl
@[simp] theorem State.setCore_nextLaunch (s : State) (k : Nat) (x : Core) : (s.setCore k x).nextLaunch = s.nextLaunch := rfl
@[simp] theorem State.setCore_nextOrder (s : State) (k : Nat) (x : Core) : (s.setCore k x).nextOrder = s.nextOrder := rfl
@[simp] theorem State.setCore_nextCmd (s : State) (k : Nat) (x : Core) : (s.setCore k x).nextCmd = s.nextCmd := rfl
@[simp] theorem State.setCore_cores (s : State) (k : Nat) (x : Core) : (s.setCore k x).cores = Tbl.set s.cores k x {} := rfl
@[simp] theorem State.setCore_dies (s : State) (k : Nat) (x : Core) : (s.setCore k x).dies = s.dies := rfl
@[simp] theorem State.setCore_complexes (s : State) (k : Nat) (x : Core) : (s.setCore k x).complexes = s.complexes := rfl
@[simp] theorem State.setCore_queues (s : State) (k : Nat) (x : Core) : (s.setCore k x).queues = s.queues := rfl
@[simp] theorem State.setCore_parts (s : State) (k : Nat) (x : Core) : (s.setCore k x).parts = s.parts := rfl
@[simp] theorem State.setCore_versions (s : State) (k : Nat) (x : Core) : (s.setCore k x).versions = s.versions := rfl
@[simp] theorem State.setCore_locks (s : State) (k : Nat) (x : Core) : (s.setCore k x).locks = s.locks := rfl
@[simp] theorem State.setCore_ew (s : State) (k : Nat) (x : Core) : (s.setCore k x).ew = s.ew := rfl
@[simp] theorem State.setCore_coll (s : State) (k : Nat) (x : Core) : (s.setCore k x).coll = s.coll := rfl
@[simp] theorem State.setCore_routes (s : State) (k : Nat) (x : Core) : (s.setCore k x).routes = s.routes := rfl
@[simp] theorem State.setCore_ports (s : State) (k : Nat) (x : Core) : (s.setCore k x).ports = s.ports := rfl
@[simp] theorem State.setCore_remote (s : State) (k : Nat) (x : Core) : (s.setCore k x).remote = s.remote := rfl
@[simp] theorem State.setCore_tags (s : State) (k : Nat) (x : Core) : (s.setCore k x).tags = s.tags := rfl
@[simp] theorem State.setCore_sampleIn (s : State) (k : Nat) (x : Core) : (s.setCore k x).sampleIn = s.sampleIn := rfl
@[simp] theorem State.setCore_reached (s : State) (k : Nat) (x : Core) : (s.setCore k x).reached = s.reached := rfl
@[simp] theorem State.setCore_pkg (s : State) (k : Nat) (x : Core) : (s.setCore k x).pkg = s.pkg := rfl
@[simp] theorem State.setCore_boot (s : State) (k : Nat) (x : Core) : (s.setCore k x).boot = s.boot := rfl
@[simp] theorem State.setCore_ide (s : State) (k : Nat) (x : Core) : (s.setCore k x).ide = s.ide := rfl
@[simp] theorem State.setCore_ideBad (s : State) (k : Nat) (x : Core) : (s.setCore k x).ideBad = s.ideBad := rfl
@[simp] theorem State.setCore_bar2 (s : State) (k : Nat) (x : Core) : (s.setCore k x).bar2 = s.bar2 := rfl
@[simp] theorem State.setCore_bar4 (s : State) (k : Nat) (x : Core) : (s.setCore k x).bar4 = s.bar4 := rfl
@[simp] theorem State.setCore_hostRead (s : State) (k : Nat) (x : Core) : (s.setCore k x).hostRead = s.hostRead := rfl
@[simp] theorem State.setCore_hostUr (s : State) (k : Nat) (x : Core) : (s.setCore k x).hostUr = s.hostUr := rfl
@[simp] theorem State.setCore_supRead (s : State) (k : Nat) (x : Core) : (s.setCore k x).supRead = s.supRead := rfl
@[simp] theorem State.setCore_spdm (s : State) (k : Nat) (x : Core) : (s.setCore k x).spdm = s.spdm := rfl

/-! `State.setDie`. -/

@[simp] theorem State.setDie_epoch (s : State) (k : Nat) (x : Die) : (s.setDie k x).epoch = s.epoch := rfl
@[simp] theorem State.setDie_landWait (s : State) (k : Nat) (x : Die) : (s.setDie k x).landWait = s.landWait := rfl
@[simp] theorem State.setDie_wrote (s : State) (k : Nat) (x : Die) : (s.setDie k x).wrote = s.wrote := rfl
@[simp] theorem State.setDie_tick (s : State) (k : Nat) (x : Die) : (s.setDie k x).tick = s.tick := rfl
@[simp] theorem State.setDie_burst (s : State) (k : Nat) (x : Die) : (s.setDie k x).burst = s.burst := rfl
@[simp] theorem State.setDie_lull (s : State) (k : Nat) (x : Die) : (s.setDie k x).lull = s.lull := rfl
@[simp] theorem State.setDie_zero (s : State) (k : Nat) (x : Die) : (s.setDie k x).zero = s.zero := rfl
@[simp] theorem State.setDie_tests (s : State) (k : Nat) (x : Die) : (s.setDie k x).tests = s.tests := rfl
@[simp] theorem State.setDie_fresh (s : State) (k : Nat) (x : Die) : (s.setDie k x).fresh = s.fresh := rfl
@[simp] theorem State.setDie_cycles (s : State) (k : Nat) (x : Die) : (s.setDie k x).cycles = s.cycles := rfl
@[simp] theorem State.setDie_stcZero (s : State) (k : Nat) (x : Die) : (s.setDie k x).stcZero = s.stcZero := rfl
@[simp] theorem State.setDie_agenda (s : State) (k : Nat) (x : Die) : (s.setDie k x).agenda = s.agenda := rfl
@[simp] theorem State.setDie_cur (s : State) (k : Nat) (x : Die) : (s.setDie k x).cur = s.cur := rfl
@[simp] theorem State.setDie_slot (s : State) (k : Nat) (x : Die) : (s.setDie k x).slot = s.slot := rfl
@[simp] theorem State.setDie_mem (s : State) (k : Nat) (x : Die) : (s.setDie k x).mem = s.mem := rfl
@[simp] theorem State.setDie_llc (s : State) (k : Nat) (x : Die) : (s.setDie k x).llc = s.llc := rfl
@[simp] theorem State.setDie_codePre (s : State) (k : Nat) (x : Die) : (s.setDie k x).codePre = s.codePre := rfl
@[simp] theorem State.setDie_badLines (s : State) (k : Nat) (x : Die) : (s.setDie k x).badLines = s.badLines := rfl
@[simp] theorem State.setDie_groups (s : State) (k : Nat) (x : Die) : (s.setDie k x).groups = s.groups := rfl
@[simp] theorem State.setDie_teams (s : State) (k : Nat) (x : Die) : (s.setDie k x).teams = s.teams := rfl
@[simp] theorem State.setDie_launches (s : State) (k : Nat) (x : Die) : (s.setDie k x).launches = s.launches := rfl
@[simp] theorem State.setDie_nextLaunch (s : State) (k : Nat) (x : Die) : (s.setDie k x).nextLaunch = s.nextLaunch := rfl
@[simp] theorem State.setDie_nextOrder (s : State) (k : Nat) (x : Die) : (s.setDie k x).nextOrder = s.nextOrder := rfl
@[simp] theorem State.setDie_nextCmd (s : State) (k : Nat) (x : Die) : (s.setDie k x).nextCmd = s.nextCmd := rfl
@[simp] theorem State.setDie_cores (s : State) (k : Nat) (x : Die) : (s.setDie k x).cores = s.cores := rfl
@[simp] theorem State.setDie_dies (s : State) (k : Nat) (x : Die) : (s.setDie k x).dies = Tbl.set s.dies k x {} := rfl
@[simp] theorem State.setDie_complexes (s : State) (k : Nat) (x : Die) : (s.setDie k x).complexes = s.complexes := rfl
@[simp] theorem State.setDie_queues (s : State) (k : Nat) (x : Die) : (s.setDie k x).queues = s.queues := rfl
@[simp] theorem State.setDie_parts (s : State) (k : Nat) (x : Die) : (s.setDie k x).parts = s.parts := rfl
@[simp] theorem State.setDie_versions (s : State) (k : Nat) (x : Die) : (s.setDie k x).versions = s.versions := rfl
@[simp] theorem State.setDie_locks (s : State) (k : Nat) (x : Die) : (s.setDie k x).locks = s.locks := rfl
@[simp] theorem State.setDie_ew (s : State) (k : Nat) (x : Die) : (s.setDie k x).ew = s.ew := rfl
@[simp] theorem State.setDie_coll (s : State) (k : Nat) (x : Die) : (s.setDie k x).coll = s.coll := rfl
@[simp] theorem State.setDie_routes (s : State) (k : Nat) (x : Die) : (s.setDie k x).routes = s.routes := rfl
@[simp] theorem State.setDie_ports (s : State) (k : Nat) (x : Die) : (s.setDie k x).ports = s.ports := rfl
@[simp] theorem State.setDie_remote (s : State) (k : Nat) (x : Die) : (s.setDie k x).remote = s.remote := rfl
@[simp] theorem State.setDie_tags (s : State) (k : Nat) (x : Die) : (s.setDie k x).tags = s.tags := rfl
@[simp] theorem State.setDie_sampleIn (s : State) (k : Nat) (x : Die) : (s.setDie k x).sampleIn = s.sampleIn := rfl
@[simp] theorem State.setDie_reached (s : State) (k : Nat) (x : Die) : (s.setDie k x).reached = s.reached := rfl
@[simp] theorem State.setDie_pkg (s : State) (k : Nat) (x : Die) : (s.setDie k x).pkg = s.pkg := rfl
@[simp] theorem State.setDie_boot (s : State) (k : Nat) (x : Die) : (s.setDie k x).boot = s.boot := rfl
@[simp] theorem State.setDie_ide (s : State) (k : Nat) (x : Die) : (s.setDie k x).ide = s.ide := rfl
@[simp] theorem State.setDie_ideBad (s : State) (k : Nat) (x : Die) : (s.setDie k x).ideBad = s.ideBad := rfl
@[simp] theorem State.setDie_bar2 (s : State) (k : Nat) (x : Die) : (s.setDie k x).bar2 = s.bar2 := rfl
@[simp] theorem State.setDie_bar4 (s : State) (k : Nat) (x : Die) : (s.setDie k x).bar4 = s.bar4 := rfl
@[simp] theorem State.setDie_hostRead (s : State) (k : Nat) (x : Die) : (s.setDie k x).hostRead = s.hostRead := rfl
@[simp] theorem State.setDie_hostUr (s : State) (k : Nat) (x : Die) : (s.setDie k x).hostUr = s.hostUr := rfl
@[simp] theorem State.setDie_supRead (s : State) (k : Nat) (x : Die) : (s.setDie k x).supRead = s.supRead := rfl
@[simp] theorem State.setDie_spdm (s : State) (k : Nat) (x : Die) : (s.setDie k x).spdm = s.spdm := rfl

/-! `State.setComplex`. -/

@[simp] theorem State.setComplex_epoch (s : State) (k : Nat) (x : Complex) : (s.setComplex k x).epoch = s.epoch := rfl
@[simp] theorem State.setComplex_landWait (s : State) (k : Nat) (x : Complex) : (s.setComplex k x).landWait = s.landWait := rfl
@[simp] theorem State.setComplex_wrote (s : State) (k : Nat) (x : Complex) : (s.setComplex k x).wrote = s.wrote := rfl
@[simp] theorem State.setComplex_tick (s : State) (k : Nat) (x : Complex) : (s.setComplex k x).tick = s.tick := rfl
@[simp] theorem State.setComplex_burst (s : State) (k : Nat) (x : Complex) : (s.setComplex k x).burst = s.burst := rfl
@[simp] theorem State.setComplex_lull (s : State) (k : Nat) (x : Complex) : (s.setComplex k x).lull = s.lull := rfl
@[simp] theorem State.setComplex_zero (s : State) (k : Nat) (x : Complex) : (s.setComplex k x).zero = s.zero := rfl
@[simp] theorem State.setComplex_tests (s : State) (k : Nat) (x : Complex) : (s.setComplex k x).tests = s.tests := rfl
@[simp] theorem State.setComplex_fresh (s : State) (k : Nat) (x : Complex) : (s.setComplex k x).fresh = s.fresh := rfl
@[simp] theorem State.setComplex_cycles (s : State) (k : Nat) (x : Complex) : (s.setComplex k x).cycles = s.cycles := rfl
@[simp] theorem State.setComplex_stcZero (s : State) (k : Nat) (x : Complex) : (s.setComplex k x).stcZero = s.stcZero := rfl
@[simp] theorem State.setComplex_agenda (s : State) (k : Nat) (x : Complex) : (s.setComplex k x).agenda = s.agenda := rfl
@[simp] theorem State.setComplex_cur (s : State) (k : Nat) (x : Complex) : (s.setComplex k x).cur = s.cur := rfl
@[simp] theorem State.setComplex_slot (s : State) (k : Nat) (x : Complex) : (s.setComplex k x).slot = s.slot := rfl
@[simp] theorem State.setComplex_mem (s : State) (k : Nat) (x : Complex) : (s.setComplex k x).mem = s.mem := rfl
@[simp] theorem State.setComplex_llc (s : State) (k : Nat) (x : Complex) : (s.setComplex k x).llc = s.llc := rfl
@[simp] theorem State.setComplex_codePre (s : State) (k : Nat) (x : Complex) : (s.setComplex k x).codePre = s.codePre := rfl
@[simp] theorem State.setComplex_badLines (s : State) (k : Nat) (x : Complex) : (s.setComplex k x).badLines = s.badLines := rfl
@[simp] theorem State.setComplex_groups (s : State) (k : Nat) (x : Complex) : (s.setComplex k x).groups = s.groups := rfl
@[simp] theorem State.setComplex_teams (s : State) (k : Nat) (x : Complex) : (s.setComplex k x).teams = s.teams := rfl
@[simp] theorem State.setComplex_launches (s : State) (k : Nat) (x : Complex) : (s.setComplex k x).launches = s.launches := rfl
@[simp] theorem State.setComplex_nextLaunch (s : State) (k : Nat) (x : Complex) : (s.setComplex k x).nextLaunch = s.nextLaunch := rfl
@[simp] theorem State.setComplex_nextOrder (s : State) (k : Nat) (x : Complex) : (s.setComplex k x).nextOrder = s.nextOrder := rfl
@[simp] theorem State.setComplex_nextCmd (s : State) (k : Nat) (x : Complex) : (s.setComplex k x).nextCmd = s.nextCmd := rfl
@[simp] theorem State.setComplex_cores (s : State) (k : Nat) (x : Complex) : (s.setComplex k x).cores = s.cores := rfl
@[simp] theorem State.setComplex_dies (s : State) (k : Nat) (x : Complex) : (s.setComplex k x).dies = s.dies := rfl
@[simp] theorem State.setComplex_complexes (s : State) (k : Nat) (x : Complex) : (s.setComplex k x).complexes = Tbl.set s.complexes k x {} := rfl
@[simp] theorem State.setComplex_queues (s : State) (k : Nat) (x : Complex) : (s.setComplex k x).queues = s.queues := rfl
@[simp] theorem State.setComplex_parts (s : State) (k : Nat) (x : Complex) : (s.setComplex k x).parts = s.parts := rfl
@[simp] theorem State.setComplex_versions (s : State) (k : Nat) (x : Complex) : (s.setComplex k x).versions = s.versions := rfl
@[simp] theorem State.setComplex_locks (s : State) (k : Nat) (x : Complex) : (s.setComplex k x).locks = s.locks := rfl
@[simp] theorem State.setComplex_ew (s : State) (k : Nat) (x : Complex) : (s.setComplex k x).ew = s.ew := rfl
@[simp] theorem State.setComplex_coll (s : State) (k : Nat) (x : Complex) : (s.setComplex k x).coll = s.coll := rfl
@[simp] theorem State.setComplex_routes (s : State) (k : Nat) (x : Complex) : (s.setComplex k x).routes = s.routes := rfl
@[simp] theorem State.setComplex_ports (s : State) (k : Nat) (x : Complex) : (s.setComplex k x).ports = s.ports := rfl
@[simp] theorem State.setComplex_remote (s : State) (k : Nat) (x : Complex) : (s.setComplex k x).remote = s.remote := rfl
@[simp] theorem State.setComplex_tags (s : State) (k : Nat) (x : Complex) : (s.setComplex k x).tags = s.tags := rfl
@[simp] theorem State.setComplex_sampleIn (s : State) (k : Nat) (x : Complex) : (s.setComplex k x).sampleIn = s.sampleIn := rfl
@[simp] theorem State.setComplex_reached (s : State) (k : Nat) (x : Complex) : (s.setComplex k x).reached = s.reached := rfl
@[simp] theorem State.setComplex_pkg (s : State) (k : Nat) (x : Complex) : (s.setComplex k x).pkg = s.pkg := rfl
@[simp] theorem State.setComplex_boot (s : State) (k : Nat) (x : Complex) : (s.setComplex k x).boot = s.boot := rfl
@[simp] theorem State.setComplex_ide (s : State) (k : Nat) (x : Complex) : (s.setComplex k x).ide = s.ide := rfl
@[simp] theorem State.setComplex_ideBad (s : State) (k : Nat) (x : Complex) : (s.setComplex k x).ideBad = s.ideBad := rfl
@[simp] theorem State.setComplex_bar2 (s : State) (k : Nat) (x : Complex) : (s.setComplex k x).bar2 = s.bar2 := rfl
@[simp] theorem State.setComplex_bar4 (s : State) (k : Nat) (x : Complex) : (s.setComplex k x).bar4 = s.bar4 := rfl
@[simp] theorem State.setComplex_hostRead (s : State) (k : Nat) (x : Complex) : (s.setComplex k x).hostRead = s.hostRead := rfl
@[simp] theorem State.setComplex_hostUr (s : State) (k : Nat) (x : Complex) : (s.setComplex k x).hostUr = s.hostUr := rfl
@[simp] theorem State.setComplex_supRead (s : State) (k : Nat) (x : Complex) : (s.setComplex k x).supRead = s.supRead := rfl
@[simp] theorem State.setComplex_spdm (s : State) (k : Nat) (x : Complex) : (s.setComplex k x).spdm = s.spdm := rfl

/-! `State.setQueue`. -/

@[simp] theorem State.setQueue_epoch (s : State) (k : Nat) (x : Queue) : (s.setQueue k x).epoch = s.epoch := rfl
@[simp] theorem State.setQueue_landWait (s : State) (k : Nat) (x : Queue) : (s.setQueue k x).landWait = s.landWait := rfl
@[simp] theorem State.setQueue_wrote (s : State) (k : Nat) (x : Queue) : (s.setQueue k x).wrote = s.wrote := rfl
@[simp] theorem State.setQueue_tick (s : State) (k : Nat) (x : Queue) : (s.setQueue k x).tick = s.tick := rfl
@[simp] theorem State.setQueue_burst (s : State) (k : Nat) (x : Queue) : (s.setQueue k x).burst = s.burst := rfl
@[simp] theorem State.setQueue_lull (s : State) (k : Nat) (x : Queue) : (s.setQueue k x).lull = s.lull := rfl
@[simp] theorem State.setQueue_zero (s : State) (k : Nat) (x : Queue) : (s.setQueue k x).zero = s.zero := rfl
@[simp] theorem State.setQueue_tests (s : State) (k : Nat) (x : Queue) : (s.setQueue k x).tests = s.tests := rfl
@[simp] theorem State.setQueue_fresh (s : State) (k : Nat) (x : Queue) : (s.setQueue k x).fresh = s.fresh := rfl
@[simp] theorem State.setQueue_cycles (s : State) (k : Nat) (x : Queue) : (s.setQueue k x).cycles = s.cycles := rfl
@[simp] theorem State.setQueue_stcZero (s : State) (k : Nat) (x : Queue) : (s.setQueue k x).stcZero = s.stcZero := rfl
@[simp] theorem State.setQueue_agenda (s : State) (k : Nat) (x : Queue) : (s.setQueue k x).agenda = s.agenda := rfl
@[simp] theorem State.setQueue_cur (s : State) (k : Nat) (x : Queue) : (s.setQueue k x).cur = s.cur := rfl
@[simp] theorem State.setQueue_slot (s : State) (k : Nat) (x : Queue) : (s.setQueue k x).slot = s.slot := rfl
@[simp] theorem State.setQueue_mem (s : State) (k : Nat) (x : Queue) : (s.setQueue k x).mem = s.mem := rfl
@[simp] theorem State.setQueue_llc (s : State) (k : Nat) (x : Queue) : (s.setQueue k x).llc = s.llc := rfl
@[simp] theorem State.setQueue_codePre (s : State) (k : Nat) (x : Queue) : (s.setQueue k x).codePre = s.codePre := rfl
@[simp] theorem State.setQueue_badLines (s : State) (k : Nat) (x : Queue) : (s.setQueue k x).badLines = s.badLines := rfl
@[simp] theorem State.setQueue_groups (s : State) (k : Nat) (x : Queue) : (s.setQueue k x).groups = s.groups := rfl
@[simp] theorem State.setQueue_teams (s : State) (k : Nat) (x : Queue) : (s.setQueue k x).teams = s.teams := rfl
@[simp] theorem State.setQueue_launches (s : State) (k : Nat) (x : Queue) : (s.setQueue k x).launches = s.launches := rfl
@[simp] theorem State.setQueue_nextLaunch (s : State) (k : Nat) (x : Queue) : (s.setQueue k x).nextLaunch = s.nextLaunch := rfl
@[simp] theorem State.setQueue_nextOrder (s : State) (k : Nat) (x : Queue) : (s.setQueue k x).nextOrder = s.nextOrder := rfl
@[simp] theorem State.setQueue_nextCmd (s : State) (k : Nat) (x : Queue) : (s.setQueue k x).nextCmd = s.nextCmd := rfl
@[simp] theorem State.setQueue_cores (s : State) (k : Nat) (x : Queue) : (s.setQueue k x).cores = s.cores := rfl
@[simp] theorem State.setQueue_dies (s : State) (k : Nat) (x : Queue) : (s.setQueue k x).dies = s.dies := rfl
@[simp] theorem State.setQueue_complexes (s : State) (k : Nat) (x : Queue) : (s.setQueue k x).complexes = s.complexes := rfl
@[simp] theorem State.setQueue_queues (s : State) (k : Nat) (x : Queue) : (s.setQueue k x).queues = Tbl.set s.queues k x {} := rfl
@[simp] theorem State.setQueue_parts (s : State) (k : Nat) (x : Queue) : (s.setQueue k x).parts = s.parts := rfl
@[simp] theorem State.setQueue_versions (s : State) (k : Nat) (x : Queue) : (s.setQueue k x).versions = s.versions := rfl
@[simp] theorem State.setQueue_locks (s : State) (k : Nat) (x : Queue) : (s.setQueue k x).locks = s.locks := rfl
@[simp] theorem State.setQueue_ew (s : State) (k : Nat) (x : Queue) : (s.setQueue k x).ew = s.ew := rfl
@[simp] theorem State.setQueue_coll (s : State) (k : Nat) (x : Queue) : (s.setQueue k x).coll = s.coll := rfl
@[simp] theorem State.setQueue_routes (s : State) (k : Nat) (x : Queue) : (s.setQueue k x).routes = s.routes := rfl
@[simp] theorem State.setQueue_ports (s : State) (k : Nat) (x : Queue) : (s.setQueue k x).ports = s.ports := rfl
@[simp] theorem State.setQueue_remote (s : State) (k : Nat) (x : Queue) : (s.setQueue k x).remote = s.remote := rfl
@[simp] theorem State.setQueue_tags (s : State) (k : Nat) (x : Queue) : (s.setQueue k x).tags = s.tags := rfl
@[simp] theorem State.setQueue_sampleIn (s : State) (k : Nat) (x : Queue) : (s.setQueue k x).sampleIn = s.sampleIn := rfl
@[simp] theorem State.setQueue_reached (s : State) (k : Nat) (x : Queue) : (s.setQueue k x).reached = s.reached := rfl
@[simp] theorem State.setQueue_pkg (s : State) (k : Nat) (x : Queue) : (s.setQueue k x).pkg = s.pkg := rfl
@[simp] theorem State.setQueue_boot (s : State) (k : Nat) (x : Queue) : (s.setQueue k x).boot = s.boot := rfl
@[simp] theorem State.setQueue_ide (s : State) (k : Nat) (x : Queue) : (s.setQueue k x).ide = s.ide := rfl
@[simp] theorem State.setQueue_ideBad (s : State) (k : Nat) (x : Queue) : (s.setQueue k x).ideBad = s.ideBad := rfl
@[simp] theorem State.setQueue_bar2 (s : State) (k : Nat) (x : Queue) : (s.setQueue k x).bar2 = s.bar2 := rfl
@[simp] theorem State.setQueue_bar4 (s : State) (k : Nat) (x : Queue) : (s.setQueue k x).bar4 = s.bar4 := rfl
@[simp] theorem State.setQueue_hostRead (s : State) (k : Nat) (x : Queue) : (s.setQueue k x).hostRead = s.hostRead := rfl
@[simp] theorem State.setQueue_hostUr (s : State) (k : Nat) (x : Queue) : (s.setQueue k x).hostUr = s.hostUr := rfl
@[simp] theorem State.setQueue_supRead (s : State) (k : Nat) (x : Queue) : (s.setQueue k x).supRead = s.supRead := rfl
@[simp] theorem State.setQueue_spdm (s : State) (k : Nat) (x : Queue) : (s.setQueue k x).spdm = s.spdm := rfl

/-! `State.setPart`. -/

@[simp] theorem State.setPart_epoch (s : State) (k : Nat) (x : Partition) : (s.setPart k x).epoch = s.epoch := rfl
@[simp] theorem State.setPart_landWait (s : State) (k : Nat) (x : Partition) : (s.setPart k x).landWait = s.landWait := rfl
@[simp] theorem State.setPart_wrote (s : State) (k : Nat) (x : Partition) : (s.setPart k x).wrote = s.wrote := rfl
@[simp] theorem State.setPart_tick (s : State) (k : Nat) (x : Partition) : (s.setPart k x).tick = s.tick := rfl
@[simp] theorem State.setPart_burst (s : State) (k : Nat) (x : Partition) : (s.setPart k x).burst = s.burst := rfl
@[simp] theorem State.setPart_lull (s : State) (k : Nat) (x : Partition) : (s.setPart k x).lull = s.lull := rfl
@[simp] theorem State.setPart_zero (s : State) (k : Nat) (x : Partition) : (s.setPart k x).zero = s.zero := rfl
@[simp] theorem State.setPart_tests (s : State) (k : Nat) (x : Partition) : (s.setPart k x).tests = s.tests := rfl
@[simp] theorem State.setPart_fresh (s : State) (k : Nat) (x : Partition) : (s.setPart k x).fresh = s.fresh := rfl
@[simp] theorem State.setPart_cycles (s : State) (k : Nat) (x : Partition) : (s.setPart k x).cycles = s.cycles := rfl
@[simp] theorem State.setPart_stcZero (s : State) (k : Nat) (x : Partition) : (s.setPart k x).stcZero = s.stcZero := rfl
@[simp] theorem State.setPart_agenda (s : State) (k : Nat) (x : Partition) : (s.setPart k x).agenda = s.agenda := rfl
@[simp] theorem State.setPart_cur (s : State) (k : Nat) (x : Partition) : (s.setPart k x).cur = s.cur := rfl
@[simp] theorem State.setPart_slot (s : State) (k : Nat) (x : Partition) : (s.setPart k x).slot = s.slot := rfl
@[simp] theorem State.setPart_mem (s : State) (k : Nat) (x : Partition) : (s.setPart k x).mem = s.mem := rfl
@[simp] theorem State.setPart_llc (s : State) (k : Nat) (x : Partition) : (s.setPart k x).llc = s.llc := rfl
@[simp] theorem State.setPart_codePre (s : State) (k : Nat) (x : Partition) : (s.setPart k x).codePre = s.codePre := rfl
@[simp] theorem State.setPart_badLines (s : State) (k : Nat) (x : Partition) : (s.setPart k x).badLines = s.badLines := rfl
@[simp] theorem State.setPart_groups (s : State) (k : Nat) (x : Partition) : (s.setPart k x).groups = s.groups := rfl
@[simp] theorem State.setPart_teams (s : State) (k : Nat) (x : Partition) : (s.setPart k x).teams = s.teams := rfl
@[simp] theorem State.setPart_launches (s : State) (k : Nat) (x : Partition) : (s.setPart k x).launches = s.launches := rfl
@[simp] theorem State.setPart_nextLaunch (s : State) (k : Nat) (x : Partition) : (s.setPart k x).nextLaunch = s.nextLaunch := rfl
@[simp] theorem State.setPart_nextOrder (s : State) (k : Nat) (x : Partition) : (s.setPart k x).nextOrder = s.nextOrder := rfl
@[simp] theorem State.setPart_nextCmd (s : State) (k : Nat) (x : Partition) : (s.setPart k x).nextCmd = s.nextCmd := rfl
@[simp] theorem State.setPart_cores (s : State) (k : Nat) (x : Partition) : (s.setPart k x).cores = s.cores := rfl
@[simp] theorem State.setPart_dies (s : State) (k : Nat) (x : Partition) : (s.setPart k x).dies = s.dies := rfl
@[simp] theorem State.setPart_complexes (s : State) (k : Nat) (x : Partition) : (s.setPart k x).complexes = s.complexes := rfl
@[simp] theorem State.setPart_queues (s : State) (k : Nat) (x : Partition) : (s.setPart k x).queues = s.queues := rfl
@[simp] theorem State.setPart_parts (s : State) (k : Nat) (x : Partition) : (s.setPart k x).parts = Tbl.set s.parts k x {} := rfl
@[simp] theorem State.setPart_versions (s : State) (k : Nat) (x : Partition) : (s.setPart k x).versions = s.versions := rfl
@[simp] theorem State.setPart_locks (s : State) (k : Nat) (x : Partition) : (s.setPart k x).locks = s.locks := rfl
@[simp] theorem State.setPart_ew (s : State) (k : Nat) (x : Partition) : (s.setPart k x).ew = s.ew := rfl
@[simp] theorem State.setPart_coll (s : State) (k : Nat) (x : Partition) : (s.setPart k x).coll = s.coll := rfl
@[simp] theorem State.setPart_routes (s : State) (k : Nat) (x : Partition) : (s.setPart k x).routes = s.routes := rfl
@[simp] theorem State.setPart_ports (s : State) (k : Nat) (x : Partition) : (s.setPart k x).ports = s.ports := rfl
@[simp] theorem State.setPart_remote (s : State) (k : Nat) (x : Partition) : (s.setPart k x).remote = s.remote := rfl
@[simp] theorem State.setPart_tags (s : State) (k : Nat) (x : Partition) : (s.setPart k x).tags = s.tags := rfl
@[simp] theorem State.setPart_sampleIn (s : State) (k : Nat) (x : Partition) : (s.setPart k x).sampleIn = s.sampleIn := rfl
@[simp] theorem State.setPart_reached (s : State) (k : Nat) (x : Partition) : (s.setPart k x).reached = s.reached := rfl
@[simp] theorem State.setPart_pkg (s : State) (k : Nat) (x : Partition) : (s.setPart k x).pkg = s.pkg := rfl
@[simp] theorem State.setPart_boot (s : State) (k : Nat) (x : Partition) : (s.setPart k x).boot = s.boot := rfl
@[simp] theorem State.setPart_ide (s : State) (k : Nat) (x : Partition) : (s.setPart k x).ide = s.ide := rfl
@[simp] theorem State.setPart_ideBad (s : State) (k : Nat) (x : Partition) : (s.setPart k x).ideBad = s.ideBad := rfl
@[simp] theorem State.setPart_bar2 (s : State) (k : Nat) (x : Partition) : (s.setPart k x).bar2 = s.bar2 := rfl
@[simp] theorem State.setPart_bar4 (s : State) (k : Nat) (x : Partition) : (s.setPart k x).bar4 = s.bar4 := rfl
@[simp] theorem State.setPart_hostRead (s : State) (k : Nat) (x : Partition) : (s.setPart k x).hostRead = s.hostRead := rfl
@[simp] theorem State.setPart_hostUr (s : State) (k : Nat) (x : Partition) : (s.setPart k x).hostUr = s.hostUr := rfl
@[simp] theorem State.setPart_supRead (s : State) (k : Nat) (x : Partition) : (s.setPart k x).supRead = s.supRead := rfl
@[simp] theorem State.setPart_spdm (s : State) (k : Nat) (x : Partition) : (s.setPart k x).spdm = s.spdm := rfl

/-! `State.updGroup`. -/

theorem State.updGroup_eq (s : State) (k : Nat) (f : Group → Group) (x : Group) (h : s.group? k = some x) : s.updGroup k f = s.setGroup k (f x) := by
  unfold State.updGroup; rw [h]
@[simp] theorem State.updGroup_epoch (s : State) (k : Nat) (f : Group → Group) : (s.updGroup k f).epoch = s.epoch := by
  unfold State.updGroup; split <;> rfl
@[simp] theorem State.updGroup_landWait (s : State) (k : Nat) (f : Group → Group) : (s.updGroup k f).landWait = s.landWait := by
  unfold State.updGroup; split <;> rfl
@[simp] theorem State.updGroup_wrote (s : State) (k : Nat) (f : Group → Group) : (s.updGroup k f).wrote = s.wrote := by
  unfold State.updGroup; split <;> rfl
@[simp] theorem State.updGroup_tick (s : State) (k : Nat) (f : Group → Group) : (s.updGroup k f).tick = s.tick := by
  unfold State.updGroup; split <;> rfl
@[simp] theorem State.updGroup_burst (s : State) (k : Nat) (f : Group → Group) : (s.updGroup k f).burst = s.burst := by
  unfold State.updGroup; split <;> rfl
@[simp] theorem State.updGroup_lull (s : State) (k : Nat) (f : Group → Group) : (s.updGroup k f).lull = s.lull := by
  unfold State.updGroup; split <;> rfl
@[simp] theorem State.updGroup_zero (s : State) (k : Nat) (f : Group → Group) : (s.updGroup k f).zero = s.zero := by
  unfold State.updGroup; split <;> rfl
@[simp] theorem State.updGroup_tests (s : State) (k : Nat) (f : Group → Group) : (s.updGroup k f).tests = s.tests := by
  unfold State.updGroup; split <;> rfl
@[simp] theorem State.updGroup_fresh (s : State) (k : Nat) (f : Group → Group) : (s.updGroup k f).fresh = s.fresh := by
  unfold State.updGroup; split <;> rfl
@[simp] theorem State.updGroup_cycles (s : State) (k : Nat) (f : Group → Group) : (s.updGroup k f).cycles = s.cycles := by
  unfold State.updGroup; split <;> rfl
@[simp] theorem State.updGroup_stcZero (s : State) (k : Nat) (f : Group → Group) : (s.updGroup k f).stcZero = s.stcZero := by
  unfold State.updGroup; split <;> rfl
@[simp] theorem State.updGroup_agenda (s : State) (k : Nat) (f : Group → Group) : (s.updGroup k f).agenda = s.agenda := by
  unfold State.updGroup; split <;> rfl
@[simp] theorem State.updGroup_cur (s : State) (k : Nat) (f : Group → Group) : (s.updGroup k f).cur = s.cur := by
  unfold State.updGroup; split <;> rfl
@[simp] theorem State.updGroup_slot (s : State) (k : Nat) (f : Group → Group) : (s.updGroup k f).slot = s.slot := by
  unfold State.updGroup; split <;> rfl
@[simp] theorem State.updGroup_mem (s : State) (k : Nat) (f : Group → Group) : (s.updGroup k f).mem = s.mem := by
  unfold State.updGroup; split <;> rfl
@[simp] theorem State.updGroup_llc (s : State) (k : Nat) (f : Group → Group) : (s.updGroup k f).llc = s.llc := by
  unfold State.updGroup; split <;> rfl
@[simp] theorem State.updGroup_codePre (s : State) (k : Nat) (f : Group → Group) : (s.updGroup k f).codePre = s.codePre := by
  unfold State.updGroup; split <;> rfl
@[simp] theorem State.updGroup_badLines (s : State) (k : Nat) (f : Group → Group) : (s.updGroup k f).badLines = s.badLines := by
  unfold State.updGroup; split <;> rfl
@[simp] theorem State.updGroup_teams (s : State) (k : Nat) (f : Group → Group) : (s.updGroup k f).teams = s.teams := by
  unfold State.updGroup; split <;> rfl
@[simp] theorem State.updGroup_launches (s : State) (k : Nat) (f : Group → Group) : (s.updGroup k f).launches = s.launches := by
  unfold State.updGroup; split <;> rfl
@[simp] theorem State.updGroup_nextLaunch (s : State) (k : Nat) (f : Group → Group) : (s.updGroup k f).nextLaunch = s.nextLaunch := by
  unfold State.updGroup; split <;> rfl
@[simp] theorem State.updGroup_nextOrder (s : State) (k : Nat) (f : Group → Group) : (s.updGroup k f).nextOrder = s.nextOrder := by
  unfold State.updGroup; split <;> rfl
@[simp] theorem State.updGroup_nextCmd (s : State) (k : Nat) (f : Group → Group) : (s.updGroup k f).nextCmd = s.nextCmd := by
  unfold State.updGroup; split <;> rfl
@[simp] theorem State.updGroup_cores (s : State) (k : Nat) (f : Group → Group) : (s.updGroup k f).cores = s.cores := by
  unfold State.updGroup; split <;> rfl
@[simp] theorem State.updGroup_dies (s : State) (k : Nat) (f : Group → Group) : (s.updGroup k f).dies = s.dies := by
  unfold State.updGroup; split <;> rfl
@[simp] theorem State.updGroup_complexes (s : State) (k : Nat) (f : Group → Group) : (s.updGroup k f).complexes = s.complexes := by
  unfold State.updGroup; split <;> rfl
@[simp] theorem State.updGroup_queues (s : State) (k : Nat) (f : Group → Group) : (s.updGroup k f).queues = s.queues := by
  unfold State.updGroup; split <;> rfl
@[simp] theorem State.updGroup_parts (s : State) (k : Nat) (f : Group → Group) : (s.updGroup k f).parts = s.parts := by
  unfold State.updGroup; split <;> rfl
@[simp] theorem State.updGroup_versions (s : State) (k : Nat) (f : Group → Group) : (s.updGroup k f).versions = s.versions := by
  unfold State.updGroup; split <;> rfl
@[simp] theorem State.updGroup_locks (s : State) (k : Nat) (f : Group → Group) : (s.updGroup k f).locks = s.locks := by
  unfold State.updGroup; split <;> rfl
@[simp] theorem State.updGroup_ew (s : State) (k : Nat) (f : Group → Group) : (s.updGroup k f).ew = s.ew := by
  unfold State.updGroup; split <;> rfl
@[simp] theorem State.updGroup_coll (s : State) (k : Nat) (f : Group → Group) : (s.updGroup k f).coll = s.coll := by
  unfold State.updGroup; split <;> rfl
@[simp] theorem State.updGroup_routes (s : State) (k : Nat) (f : Group → Group) : (s.updGroup k f).routes = s.routes := by
  unfold State.updGroup; split <;> rfl
@[simp] theorem State.updGroup_ports (s : State) (k : Nat) (f : Group → Group) : (s.updGroup k f).ports = s.ports := by
  unfold State.updGroup; split <;> rfl
@[simp] theorem State.updGroup_remote (s : State) (k : Nat) (f : Group → Group) : (s.updGroup k f).remote = s.remote := by
  unfold State.updGroup; split <;> rfl
@[simp] theorem State.updGroup_tags (s : State) (k : Nat) (f : Group → Group) : (s.updGroup k f).tags = s.tags := by
  unfold State.updGroup; split <;> rfl
@[simp] theorem State.updGroup_sampleIn (s : State) (k : Nat) (f : Group → Group) : (s.updGroup k f).sampleIn = s.sampleIn := by
  unfold State.updGroup; split <;> rfl
@[simp] theorem State.updGroup_reached (s : State) (k : Nat) (f : Group → Group) : (s.updGroup k f).reached = s.reached := by
  unfold State.updGroup; split <;> rfl
@[simp] theorem State.updGroup_pkg (s : State) (k : Nat) (f : Group → Group) : (s.updGroup k f).pkg = s.pkg := by
  unfold State.updGroup; split <;> rfl
@[simp] theorem State.updGroup_boot (s : State) (k : Nat) (f : Group → Group) : (s.updGroup k f).boot = s.boot := by
  unfold State.updGroup; split <;> rfl
@[simp] theorem State.updGroup_ide (s : State) (k : Nat) (f : Group → Group) : (s.updGroup k f).ide = s.ide := by
  unfold State.updGroup; split <;> rfl
@[simp] theorem State.updGroup_ideBad (s : State) (k : Nat) (f : Group → Group) : (s.updGroup k f).ideBad = s.ideBad := by
  unfold State.updGroup; split <;> rfl
@[simp] theorem State.updGroup_bar2 (s : State) (k : Nat) (f : Group → Group) : (s.updGroup k f).bar2 = s.bar2 := by
  unfold State.updGroup; split <;> rfl
@[simp] theorem State.updGroup_bar4 (s : State) (k : Nat) (f : Group → Group) : (s.updGroup k f).bar4 = s.bar4 := by
  unfold State.updGroup; split <;> rfl
@[simp] theorem State.updGroup_hostRead (s : State) (k : Nat) (f : Group → Group) : (s.updGroup k f).hostRead = s.hostRead := by
  unfold State.updGroup; split <;> rfl
@[simp] theorem State.updGroup_hostUr (s : State) (k : Nat) (f : Group → Group) : (s.updGroup k f).hostUr = s.hostUr := by
  unfold State.updGroup; split <;> rfl
@[simp] theorem State.updGroup_supRead (s : State) (k : Nat) (f : Group → Group) : (s.updGroup k f).supRead = s.supRead := by
  unfold State.updGroup; split <;> rfl
@[simp] theorem State.updGroup_spdm (s : State) (k : Nat) (f : Group → Group) : (s.updGroup k f).spdm = s.spdm := by
  unfold State.updGroup; split <;> rfl

/-! `State.updTeam`. -/

theorem State.updTeam_eq (s : State) (k : Nat) (f : Team → Team) (x : Team) (h : s.team? k = some x) : s.updTeam k f = s.setTeam k (f x) := by
  unfold State.updTeam; rw [h]
@[simp] theorem State.updTeam_epoch (s : State) (k : Nat) (f : Team → Team) : (s.updTeam k f).epoch = s.epoch := by
  unfold State.updTeam; split <;> rfl
@[simp] theorem State.updTeam_landWait (s : State) (k : Nat) (f : Team → Team) : (s.updTeam k f).landWait = s.landWait := by
  unfold State.updTeam; split <;> rfl
@[simp] theorem State.updTeam_wrote (s : State) (k : Nat) (f : Team → Team) : (s.updTeam k f).wrote = s.wrote := by
  unfold State.updTeam; split <;> rfl
@[simp] theorem State.updTeam_tick (s : State) (k : Nat) (f : Team → Team) : (s.updTeam k f).tick = s.tick := by
  unfold State.updTeam; split <;> rfl
@[simp] theorem State.updTeam_burst (s : State) (k : Nat) (f : Team → Team) : (s.updTeam k f).burst = s.burst := by
  unfold State.updTeam; split <;> rfl
@[simp] theorem State.updTeam_lull (s : State) (k : Nat) (f : Team → Team) : (s.updTeam k f).lull = s.lull := by
  unfold State.updTeam; split <;> rfl
@[simp] theorem State.updTeam_zero (s : State) (k : Nat) (f : Team → Team) : (s.updTeam k f).zero = s.zero := by
  unfold State.updTeam; split <;> rfl
@[simp] theorem State.updTeam_tests (s : State) (k : Nat) (f : Team → Team) : (s.updTeam k f).tests = s.tests := by
  unfold State.updTeam; split <;> rfl
@[simp] theorem State.updTeam_fresh (s : State) (k : Nat) (f : Team → Team) : (s.updTeam k f).fresh = s.fresh := by
  unfold State.updTeam; split <;> rfl
@[simp] theorem State.updTeam_cycles (s : State) (k : Nat) (f : Team → Team) : (s.updTeam k f).cycles = s.cycles := by
  unfold State.updTeam; split <;> rfl
@[simp] theorem State.updTeam_stcZero (s : State) (k : Nat) (f : Team → Team) : (s.updTeam k f).stcZero = s.stcZero := by
  unfold State.updTeam; split <;> rfl
@[simp] theorem State.updTeam_agenda (s : State) (k : Nat) (f : Team → Team) : (s.updTeam k f).agenda = s.agenda := by
  unfold State.updTeam; split <;> rfl
@[simp] theorem State.updTeam_cur (s : State) (k : Nat) (f : Team → Team) : (s.updTeam k f).cur = s.cur := by
  unfold State.updTeam; split <;> rfl
@[simp] theorem State.updTeam_slot (s : State) (k : Nat) (f : Team → Team) : (s.updTeam k f).slot = s.slot := by
  unfold State.updTeam; split <;> rfl
@[simp] theorem State.updTeam_mem (s : State) (k : Nat) (f : Team → Team) : (s.updTeam k f).mem = s.mem := by
  unfold State.updTeam; split <;> rfl
@[simp] theorem State.updTeam_llc (s : State) (k : Nat) (f : Team → Team) : (s.updTeam k f).llc = s.llc := by
  unfold State.updTeam; split <;> rfl
@[simp] theorem State.updTeam_codePre (s : State) (k : Nat) (f : Team → Team) : (s.updTeam k f).codePre = s.codePre := by
  unfold State.updTeam; split <;> rfl
@[simp] theorem State.updTeam_badLines (s : State) (k : Nat) (f : Team → Team) : (s.updTeam k f).badLines = s.badLines := by
  unfold State.updTeam; split <;> rfl
@[simp] theorem State.updTeam_groups (s : State) (k : Nat) (f : Team → Team) : (s.updTeam k f).groups = s.groups := by
  unfold State.updTeam; split <;> rfl
@[simp] theorem State.updTeam_launches (s : State) (k : Nat) (f : Team → Team) : (s.updTeam k f).launches = s.launches := by
  unfold State.updTeam; split <;> rfl
@[simp] theorem State.updTeam_nextLaunch (s : State) (k : Nat) (f : Team → Team) : (s.updTeam k f).nextLaunch = s.nextLaunch := by
  unfold State.updTeam; split <;> rfl
@[simp] theorem State.updTeam_nextOrder (s : State) (k : Nat) (f : Team → Team) : (s.updTeam k f).nextOrder = s.nextOrder := by
  unfold State.updTeam; split <;> rfl
@[simp] theorem State.updTeam_nextCmd (s : State) (k : Nat) (f : Team → Team) : (s.updTeam k f).nextCmd = s.nextCmd := by
  unfold State.updTeam; split <;> rfl
@[simp] theorem State.updTeam_cores (s : State) (k : Nat) (f : Team → Team) : (s.updTeam k f).cores = s.cores := by
  unfold State.updTeam; split <;> rfl
@[simp] theorem State.updTeam_dies (s : State) (k : Nat) (f : Team → Team) : (s.updTeam k f).dies = s.dies := by
  unfold State.updTeam; split <;> rfl
@[simp] theorem State.updTeam_complexes (s : State) (k : Nat) (f : Team → Team) : (s.updTeam k f).complexes = s.complexes := by
  unfold State.updTeam; split <;> rfl
@[simp] theorem State.updTeam_queues (s : State) (k : Nat) (f : Team → Team) : (s.updTeam k f).queues = s.queues := by
  unfold State.updTeam; split <;> rfl
@[simp] theorem State.updTeam_parts (s : State) (k : Nat) (f : Team → Team) : (s.updTeam k f).parts = s.parts := by
  unfold State.updTeam; split <;> rfl
@[simp] theorem State.updTeam_versions (s : State) (k : Nat) (f : Team → Team) : (s.updTeam k f).versions = s.versions := by
  unfold State.updTeam; split <;> rfl
@[simp] theorem State.updTeam_locks (s : State) (k : Nat) (f : Team → Team) : (s.updTeam k f).locks = s.locks := by
  unfold State.updTeam; split <;> rfl
@[simp] theorem State.updTeam_ew (s : State) (k : Nat) (f : Team → Team) : (s.updTeam k f).ew = s.ew := by
  unfold State.updTeam; split <;> rfl
@[simp] theorem State.updTeam_coll (s : State) (k : Nat) (f : Team → Team) : (s.updTeam k f).coll = s.coll := by
  unfold State.updTeam; split <;> rfl
@[simp] theorem State.updTeam_routes (s : State) (k : Nat) (f : Team → Team) : (s.updTeam k f).routes = s.routes := by
  unfold State.updTeam; split <;> rfl
@[simp] theorem State.updTeam_ports (s : State) (k : Nat) (f : Team → Team) : (s.updTeam k f).ports = s.ports := by
  unfold State.updTeam; split <;> rfl
@[simp] theorem State.updTeam_remote (s : State) (k : Nat) (f : Team → Team) : (s.updTeam k f).remote = s.remote := by
  unfold State.updTeam; split <;> rfl
@[simp] theorem State.updTeam_tags (s : State) (k : Nat) (f : Team → Team) : (s.updTeam k f).tags = s.tags := by
  unfold State.updTeam; split <;> rfl
@[simp] theorem State.updTeam_sampleIn (s : State) (k : Nat) (f : Team → Team) : (s.updTeam k f).sampleIn = s.sampleIn := by
  unfold State.updTeam; split <;> rfl
@[simp] theorem State.updTeam_reached (s : State) (k : Nat) (f : Team → Team) : (s.updTeam k f).reached = s.reached := by
  unfold State.updTeam; split <;> rfl
@[simp] theorem State.updTeam_pkg (s : State) (k : Nat) (f : Team → Team) : (s.updTeam k f).pkg = s.pkg := by
  unfold State.updTeam; split <;> rfl
@[simp] theorem State.updTeam_boot (s : State) (k : Nat) (f : Team → Team) : (s.updTeam k f).boot = s.boot := by
  unfold State.updTeam; split <;> rfl
@[simp] theorem State.updTeam_ide (s : State) (k : Nat) (f : Team → Team) : (s.updTeam k f).ide = s.ide := by
  unfold State.updTeam; split <;> rfl
@[simp] theorem State.updTeam_ideBad (s : State) (k : Nat) (f : Team → Team) : (s.updTeam k f).ideBad = s.ideBad := by
  unfold State.updTeam; split <;> rfl
@[simp] theorem State.updTeam_bar2 (s : State) (k : Nat) (f : Team → Team) : (s.updTeam k f).bar2 = s.bar2 := by
  unfold State.updTeam; split <;> rfl
@[simp] theorem State.updTeam_bar4 (s : State) (k : Nat) (f : Team → Team) : (s.updTeam k f).bar4 = s.bar4 := by
  unfold State.updTeam; split <;> rfl
@[simp] theorem State.updTeam_hostRead (s : State) (k : Nat) (f : Team → Team) : (s.updTeam k f).hostRead = s.hostRead := by
  unfold State.updTeam; split <;> rfl
@[simp] theorem State.updTeam_hostUr (s : State) (k : Nat) (f : Team → Team) : (s.updTeam k f).hostUr = s.hostUr := by
  unfold State.updTeam; split <;> rfl
@[simp] theorem State.updTeam_supRead (s : State) (k : Nat) (f : Team → Team) : (s.updTeam k f).supRead = s.supRead := by
  unfold State.updTeam; split <;> rfl
@[simp] theorem State.updTeam_spdm (s : State) (k : Nat) (f : Team → Team) : (s.updTeam k f).spdm = s.spdm := by
  unfold State.updTeam; split <;> rfl

/-! `State.updLaunch`. -/

theorem State.updLaunch_eq (s : State) (k : Nat) (f : Launch → Launch) (x : Launch) (h : s.launch? k = some x) : s.updLaunch k f = s.setLaunch k (f x) := by
  unfold State.updLaunch; rw [h]
@[simp] theorem State.updLaunch_epoch (s : State) (k : Nat) (f : Launch → Launch) : (s.updLaunch k f).epoch = s.epoch := by
  unfold State.updLaunch; split <;> rfl
@[simp] theorem State.updLaunch_landWait (s : State) (k : Nat) (f : Launch → Launch) : (s.updLaunch k f).landWait = s.landWait := by
  unfold State.updLaunch; split <;> rfl
@[simp] theorem State.updLaunch_wrote (s : State) (k : Nat) (f : Launch → Launch) : (s.updLaunch k f).wrote = s.wrote := by
  unfold State.updLaunch; split <;> rfl
@[simp] theorem State.updLaunch_tick (s : State) (k : Nat) (f : Launch → Launch) : (s.updLaunch k f).tick = s.tick := by
  unfold State.updLaunch; split <;> rfl
@[simp] theorem State.updLaunch_burst (s : State) (k : Nat) (f : Launch → Launch) : (s.updLaunch k f).burst = s.burst := by
  unfold State.updLaunch; split <;> rfl
@[simp] theorem State.updLaunch_lull (s : State) (k : Nat) (f : Launch → Launch) : (s.updLaunch k f).lull = s.lull := by
  unfold State.updLaunch; split <;> rfl
@[simp] theorem State.updLaunch_zero (s : State) (k : Nat) (f : Launch → Launch) : (s.updLaunch k f).zero = s.zero := by
  unfold State.updLaunch; split <;> rfl
@[simp] theorem State.updLaunch_tests (s : State) (k : Nat) (f : Launch → Launch) : (s.updLaunch k f).tests = s.tests := by
  unfold State.updLaunch; split <;> rfl
@[simp] theorem State.updLaunch_fresh (s : State) (k : Nat) (f : Launch → Launch) : (s.updLaunch k f).fresh = s.fresh := by
  unfold State.updLaunch; split <;> rfl
@[simp] theorem State.updLaunch_cycles (s : State) (k : Nat) (f : Launch → Launch) : (s.updLaunch k f).cycles = s.cycles := by
  unfold State.updLaunch; split <;> rfl
@[simp] theorem State.updLaunch_stcZero (s : State) (k : Nat) (f : Launch → Launch) : (s.updLaunch k f).stcZero = s.stcZero := by
  unfold State.updLaunch; split <;> rfl
@[simp] theorem State.updLaunch_agenda (s : State) (k : Nat) (f : Launch → Launch) : (s.updLaunch k f).agenda = s.agenda := by
  unfold State.updLaunch; split <;> rfl
@[simp] theorem State.updLaunch_cur (s : State) (k : Nat) (f : Launch → Launch) : (s.updLaunch k f).cur = s.cur := by
  unfold State.updLaunch; split <;> rfl
@[simp] theorem State.updLaunch_slot (s : State) (k : Nat) (f : Launch → Launch) : (s.updLaunch k f).slot = s.slot := by
  unfold State.updLaunch; split <;> rfl
@[simp] theorem State.updLaunch_mem (s : State) (k : Nat) (f : Launch → Launch) : (s.updLaunch k f).mem = s.mem := by
  unfold State.updLaunch; split <;> rfl
@[simp] theorem State.updLaunch_llc (s : State) (k : Nat) (f : Launch → Launch) : (s.updLaunch k f).llc = s.llc := by
  unfold State.updLaunch; split <;> rfl
@[simp] theorem State.updLaunch_codePre (s : State) (k : Nat) (f : Launch → Launch) : (s.updLaunch k f).codePre = s.codePre := by
  unfold State.updLaunch; split <;> rfl
@[simp] theorem State.updLaunch_badLines (s : State) (k : Nat) (f : Launch → Launch) : (s.updLaunch k f).badLines = s.badLines := by
  unfold State.updLaunch; split <;> rfl
@[simp] theorem State.updLaunch_groups (s : State) (k : Nat) (f : Launch → Launch) : (s.updLaunch k f).groups = s.groups := by
  unfold State.updLaunch; split <;> rfl
@[simp] theorem State.updLaunch_teams (s : State) (k : Nat) (f : Launch → Launch) : (s.updLaunch k f).teams = s.teams := by
  unfold State.updLaunch; split <;> rfl
@[simp] theorem State.updLaunch_nextLaunch (s : State) (k : Nat) (f : Launch → Launch) : (s.updLaunch k f).nextLaunch = s.nextLaunch := by
  unfold State.updLaunch; split <;> rfl
@[simp] theorem State.updLaunch_nextOrder (s : State) (k : Nat) (f : Launch → Launch) : (s.updLaunch k f).nextOrder = s.nextOrder := by
  unfold State.updLaunch; split <;> rfl
@[simp] theorem State.updLaunch_nextCmd (s : State) (k : Nat) (f : Launch → Launch) : (s.updLaunch k f).nextCmd = s.nextCmd := by
  unfold State.updLaunch; split <;> rfl
@[simp] theorem State.updLaunch_cores (s : State) (k : Nat) (f : Launch → Launch) : (s.updLaunch k f).cores = s.cores := by
  unfold State.updLaunch; split <;> rfl
@[simp] theorem State.updLaunch_dies (s : State) (k : Nat) (f : Launch → Launch) : (s.updLaunch k f).dies = s.dies := by
  unfold State.updLaunch; split <;> rfl
@[simp] theorem State.updLaunch_complexes (s : State) (k : Nat) (f : Launch → Launch) : (s.updLaunch k f).complexes = s.complexes := by
  unfold State.updLaunch; split <;> rfl
@[simp] theorem State.updLaunch_queues (s : State) (k : Nat) (f : Launch → Launch) : (s.updLaunch k f).queues = s.queues := by
  unfold State.updLaunch; split <;> rfl
@[simp] theorem State.updLaunch_parts (s : State) (k : Nat) (f : Launch → Launch) : (s.updLaunch k f).parts = s.parts := by
  unfold State.updLaunch; split <;> rfl
@[simp] theorem State.updLaunch_versions (s : State) (k : Nat) (f : Launch → Launch) : (s.updLaunch k f).versions = s.versions := by
  unfold State.updLaunch; split <;> rfl
@[simp] theorem State.updLaunch_locks (s : State) (k : Nat) (f : Launch → Launch) : (s.updLaunch k f).locks = s.locks := by
  unfold State.updLaunch; split <;> rfl
@[simp] theorem State.updLaunch_ew (s : State) (k : Nat) (f : Launch → Launch) : (s.updLaunch k f).ew = s.ew := by
  unfold State.updLaunch; split <;> rfl
@[simp] theorem State.updLaunch_coll (s : State) (k : Nat) (f : Launch → Launch) : (s.updLaunch k f).coll = s.coll := by
  unfold State.updLaunch; split <;> rfl
@[simp] theorem State.updLaunch_routes (s : State) (k : Nat) (f : Launch → Launch) : (s.updLaunch k f).routes = s.routes := by
  unfold State.updLaunch; split <;> rfl
@[simp] theorem State.updLaunch_ports (s : State) (k : Nat) (f : Launch → Launch) : (s.updLaunch k f).ports = s.ports := by
  unfold State.updLaunch; split <;> rfl
@[simp] theorem State.updLaunch_remote (s : State) (k : Nat) (f : Launch → Launch) : (s.updLaunch k f).remote = s.remote := by
  unfold State.updLaunch; split <;> rfl
@[simp] theorem State.updLaunch_tags (s : State) (k : Nat) (f : Launch → Launch) : (s.updLaunch k f).tags = s.tags := by
  unfold State.updLaunch; split <;> rfl
@[simp] theorem State.updLaunch_sampleIn (s : State) (k : Nat) (f : Launch → Launch) : (s.updLaunch k f).sampleIn = s.sampleIn := by
  unfold State.updLaunch; split <;> rfl
@[simp] theorem State.updLaunch_reached (s : State) (k : Nat) (f : Launch → Launch) : (s.updLaunch k f).reached = s.reached := by
  unfold State.updLaunch; split <;> rfl
@[simp] theorem State.updLaunch_pkg (s : State) (k : Nat) (f : Launch → Launch) : (s.updLaunch k f).pkg = s.pkg := by
  unfold State.updLaunch; split <;> rfl
@[simp] theorem State.updLaunch_boot (s : State) (k : Nat) (f : Launch → Launch) : (s.updLaunch k f).boot = s.boot := by
  unfold State.updLaunch; split <;> rfl
@[simp] theorem State.updLaunch_ide (s : State) (k : Nat) (f : Launch → Launch) : (s.updLaunch k f).ide = s.ide := by
  unfold State.updLaunch; split <;> rfl
@[simp] theorem State.updLaunch_ideBad (s : State) (k : Nat) (f : Launch → Launch) : (s.updLaunch k f).ideBad = s.ideBad := by
  unfold State.updLaunch; split <;> rfl
@[simp] theorem State.updLaunch_bar2 (s : State) (k : Nat) (f : Launch → Launch) : (s.updLaunch k f).bar2 = s.bar2 := by
  unfold State.updLaunch; split <;> rfl
@[simp] theorem State.updLaunch_bar4 (s : State) (k : Nat) (f : Launch → Launch) : (s.updLaunch k f).bar4 = s.bar4 := by
  unfold State.updLaunch; split <;> rfl
@[simp] theorem State.updLaunch_hostRead (s : State) (k : Nat) (f : Launch → Launch) : (s.updLaunch k f).hostRead = s.hostRead := by
  unfold State.updLaunch; split <;> rfl
@[simp] theorem State.updLaunch_hostUr (s : State) (k : Nat) (f : Launch → Launch) : (s.updLaunch k f).hostUr = s.hostUr := by
  unfold State.updLaunch; split <;> rfl
@[simp] theorem State.updLaunch_supRead (s : State) (k : Nat) (f : Launch → Launch) : (s.updLaunch k f).supRead = s.supRead := by
  unfold State.updLaunch; split <;> rfl
@[simp] theorem State.updLaunch_spdm (s : State) (k : Nat) (f : Launch → Launch) : (s.updLaunch k f).spdm = s.spdm := by
  unfold State.updLaunch; split <;> rfl

/-! Lookups after updates. -/

@[simp] theorem State.setGroup_team_at (s : State) (k : Nat) (x : Group) (j : Nat) : (s.setGroup k x).team? j = s.team? j := rfl
@[simp] theorem State.setGroup_launch_at (s : State) (k : Nat) (x : Group) (j : Nat) : (s.setGroup k x).launch? j = s.launch? j := rfl
@[simp] theorem State.setGroup_core (s : State) (k : Nat) (x : Group) (j : Nat) : (s.setGroup k x).core j = s.core j := rfl
@[simp] theorem State.setGroup_die (s : State) (k : Nat) (x : Group) (j : Nat) : (s.setGroup k x).die j = s.die j := rfl
@[simp] theorem State.setGroup_complex (s : State) (k : Nat) (x : Group) (j : Nat) : (s.setGroup k x).complex j = s.complex j := rfl
@[simp] theorem State.setGroup_queue (s : State) (k : Nat) (x : Group) (j : Nat) : (s.setGroup k x).queue j = s.queue j := rfl
@[simp] theorem State.setGroup_part (s : State) (k : Nat) (x : Group) (j : Nat) : (s.setGroup k x).part j = s.part j := rfl
@[simp] theorem State.setGroup_self (s : State) (k : Nat) (x : Group) : (s.setGroup k x).group? k = some x := Tbl.find_put_self _ _ _
theorem State.setGroup_other (s : State) (k : Nat) (x : Group) (j : Nat) (h : j ≠ k) : (s.setGroup k x).group? j = s.group? j := Tbl.find_put_other _ _ _ _ h
@[simp] theorem State.delGroup_team_at (s : State) (k : Nat) (j : Nat) : (s.delGroup k).team? j = s.team? j := by
  unfold State.delGroup; split <;> rfl
@[simp] theorem State.delGroup_launch_at (s : State) (k : Nat) (j : Nat) : (s.delGroup k).launch? j = s.launch? j := by
  unfold State.delGroup; split <;> rfl
@[simp] theorem State.delGroup_die (s : State) (k : Nat) (j : Nat) : (s.delGroup k).die j = s.die j := by
  unfold State.delGroup; split <;> rfl
@[simp] theorem State.delGroup_complex (s : State) (k : Nat) (j : Nat) : (s.delGroup k).complex j = s.complex j := by
  unfold State.delGroup; split <;> rfl
@[simp] theorem State.delGroup_queue (s : State) (k : Nat) (j : Nat) : (s.delGroup k).queue j = s.queue j := by
  unfold State.delGroup; split <;> rfl
@[simp] theorem State.delGroup_part (s : State) (k : Nat) (j : Nat) : (s.delGroup k).part j = s.part j := by
  unfold State.delGroup; split <;> rfl
@[simp] theorem State.delGroup_self (s : State) (k : Nat) : (s.delGroup k).group? k = none := by
  unfold State.delGroup; split
  · assumption
  · exact Tbl.find_del_self _ _
theorem State.delGroup_other (s : State) (k j : Nat) (h : j ≠ k) : (s.delGroup k).group? j = s.group? j := by
  unfold State.delGroup; split
  · rfl
  · exact Tbl.find_del_other _ _ _ h
@[simp] theorem State.setTeam_group_at (s : State) (k : Nat) (x : Team) (j : Nat) : (s.setTeam k x).group? j = s.group? j := rfl
@[simp] theorem State.setTeam_launch_at (s : State) (k : Nat) (x : Team) (j : Nat) : (s.setTeam k x).launch? j = s.launch? j := rfl
@[simp] theorem State.setTeam_core (s : State) (k : Nat) (x : Team) (j : Nat) : (s.setTeam k x).core j = s.core j := rfl
@[simp] theorem State.setTeam_die (s : State) (k : Nat) (x : Team) (j : Nat) : (s.setTeam k x).die j = s.die j := rfl
@[simp] theorem State.setTeam_complex (s : State) (k : Nat) (x : Team) (j : Nat) : (s.setTeam k x).complex j = s.complex j := rfl
@[simp] theorem State.setTeam_queue (s : State) (k : Nat) (x : Team) (j : Nat) : (s.setTeam k x).queue j = s.queue j := rfl
@[simp] theorem State.setTeam_part (s : State) (k : Nat) (x : Team) (j : Nat) : (s.setTeam k x).part j = s.part j := rfl
@[simp] theorem State.setTeam_self (s : State) (k : Nat) (x : Team) : (s.setTeam k x).team? k = some x := Tbl.find_put_self _ _ _
theorem State.setTeam_other (s : State) (k : Nat) (x : Team) (j : Nat) (h : j ≠ k) : (s.setTeam k x).team? j = s.team? j := Tbl.find_put_other _ _ _ _ h
@[simp] theorem State.setLaunch_group_at (s : State) (k : Nat) (x : Launch) (j : Nat) : (s.setLaunch k x).group? j = s.group? j := rfl
@[simp] theorem State.setLaunch_team_at (s : State) (k : Nat) (x : Launch) (j : Nat) : (s.setLaunch k x).team? j = s.team? j := rfl
@[simp] theorem State.setLaunch_core (s : State) (k : Nat) (x : Launch) (j : Nat) : (s.setLaunch k x).core j = s.core j := rfl
@[simp] theorem State.setLaunch_die (s : State) (k : Nat) (x : Launch) (j : Nat) : (s.setLaunch k x).die j = s.die j := rfl
@[simp] theorem State.setLaunch_complex (s : State) (k : Nat) (x : Launch) (j : Nat) : (s.setLaunch k x).complex j = s.complex j := rfl
@[simp] theorem State.setLaunch_queue (s : State) (k : Nat) (x : Launch) (j : Nat) : (s.setLaunch k x).queue j = s.queue j := rfl
@[simp] theorem State.setLaunch_part (s : State) (k : Nat) (x : Launch) (j : Nat) : (s.setLaunch k x).part j = s.part j := rfl
@[simp] theorem State.setLaunch_self (s : State) (k : Nat) (x : Launch) : (s.setLaunch k x).launch? k = some x := Tbl.find_put_self _ _ _
theorem State.setLaunch_other (s : State) (k : Nat) (x : Launch) (j : Nat) (h : j ≠ k) : (s.setLaunch k x).launch? j = s.launch? j := Tbl.find_put_other _ _ _ _ h
@[simp] theorem State.setCore_group_at (s : State) (k : Nat) (x : Core) (j : Nat) : (s.setCore k x).group? j = s.group? j := rfl
@[simp] theorem State.setCore_team_at (s : State) (k : Nat) (x : Core) (j : Nat) : (s.setCore k x).team? j = s.team? j := rfl
@[simp] theorem State.setCore_launch_at (s : State) (k : Nat) (x : Core) (j : Nat) : (s.setCore k x).launch? j = s.launch? j := rfl
@[simp] theorem State.setCore_die (s : State) (k : Nat) (x : Core) (j : Nat) : (s.setCore k x).die j = s.die j := rfl
@[simp] theorem State.setCore_complex (s : State) (k : Nat) (x : Core) (j : Nat) : (s.setCore k x).complex j = s.complex j := rfl
@[simp] theorem State.setCore_queue (s : State) (k : Nat) (x : Core) (j : Nat) : (s.setCore k x).queue j = s.queue j := rfl
@[simp] theorem State.setCore_part (s : State) (k : Nat) (x : Core) (j : Nat) : (s.setCore k x).part j = s.part j := rfl
@[simp] theorem State.setCore_self (s : State) (k : Nat) (x : Core) : (s.setCore k x).core k = x := Tbl.get_set_self _ _ _ _
theorem State.setCore_other (s : State) (k : Nat) (x : Core) (j : Nat) (h : j ≠ k) : (s.setCore k x).core j = s.core j := Tbl.get_set_other _ _ _ _ _ h
@[simp] theorem State.setDie_group_at (s : State) (k : Nat) (x : Die) (j : Nat) : (s.setDie k x).group? j = s.group? j := rfl
@[simp] theorem State.setDie_team_at (s : State) (k : Nat) (x : Die) (j : Nat) : (s.setDie k x).team? j = s.team? j := rfl
@[simp] theorem State.setDie_launch_at (s : State) (k : Nat) (x : Die) (j : Nat) : (s.setDie k x).launch? j = s.launch? j := rfl
@[simp] theorem State.setDie_core (s : State) (k : Nat) (x : Die) (j : Nat) : (s.setDie k x).core j = s.core j := rfl
@[simp] theorem State.setDie_complex (s : State) (k : Nat) (x : Die) (j : Nat) : (s.setDie k x).complex j = s.complex j := rfl
@[simp] theorem State.setDie_queue (s : State) (k : Nat) (x : Die) (j : Nat) : (s.setDie k x).queue j = s.queue j := rfl
@[simp] theorem State.setDie_part (s : State) (k : Nat) (x : Die) (j : Nat) : (s.setDie k x).part j = s.part j := rfl
@[simp] theorem State.setDie_self (s : State) (k : Nat) (x : Die) : (s.setDie k x).die k = x := Tbl.get_set_self _ _ _ _
theorem State.setDie_other (s : State) (k : Nat) (x : Die) (j : Nat) (h : j ≠ k) : (s.setDie k x).die j = s.die j := Tbl.get_set_other _ _ _ _ _ h
@[simp] theorem State.setComplex_group_at (s : State) (k : Nat) (x : Complex) (j : Nat) : (s.setComplex k x).group? j = s.group? j := rfl
@[simp] theorem State.setComplex_team_at (s : State) (k : Nat) (x : Complex) (j : Nat) : (s.setComplex k x).team? j = s.team? j := rfl
@[simp] theorem State.setComplex_launch_at (s : State) (k : Nat) (x : Complex) (j : Nat) : (s.setComplex k x).launch? j = s.launch? j := rfl
@[simp] theorem State.setComplex_core (s : State) (k : Nat) (x : Complex) (j : Nat) : (s.setComplex k x).core j = s.core j := rfl
@[simp] theorem State.setComplex_die (s : State) (k : Nat) (x : Complex) (j : Nat) : (s.setComplex k x).die j = s.die j := rfl
@[simp] theorem State.setComplex_queue (s : State) (k : Nat) (x : Complex) (j : Nat) : (s.setComplex k x).queue j = s.queue j := rfl
@[simp] theorem State.setComplex_part (s : State) (k : Nat) (x : Complex) (j : Nat) : (s.setComplex k x).part j = s.part j := rfl
@[simp] theorem State.setComplex_self (s : State) (k : Nat) (x : Complex) : (s.setComplex k x).complex k = x := Tbl.get_set_self _ _ _ _
theorem State.setComplex_other (s : State) (k : Nat) (x : Complex) (j : Nat) (h : j ≠ k) : (s.setComplex k x).complex j = s.complex j := Tbl.get_set_other _ _ _ _ _ h
@[simp] theorem State.setQueue_group_at (s : State) (k : Nat) (x : Queue) (j : Nat) : (s.setQueue k x).group? j = s.group? j := rfl
@[simp] theorem State.setQueue_team_at (s : State) (k : Nat) (x : Queue) (j : Nat) : (s.setQueue k x).team? j = s.team? j := rfl
@[simp] theorem State.setQueue_launch_at (s : State) (k : Nat) (x : Queue) (j : Nat) : (s.setQueue k x).launch? j = s.launch? j := rfl
@[simp] theorem State.setQueue_core (s : State) (k : Nat) (x : Queue) (j : Nat) : (s.setQueue k x).core j = s.core j := rfl
@[simp] theorem State.setQueue_die (s : State) (k : Nat) (x : Queue) (j : Nat) : (s.setQueue k x).die j = s.die j := rfl
@[simp] theorem State.setQueue_complex (s : State) (k : Nat) (x : Queue) (j : Nat) : (s.setQueue k x).complex j = s.complex j := rfl
@[simp] theorem State.setQueue_part (s : State) (k : Nat) (x : Queue) (j : Nat) : (s.setQueue k x).part j = s.part j := rfl
@[simp] theorem State.setQueue_self (s : State) (k : Nat) (x : Queue) : (s.setQueue k x).queue k = x := Tbl.get_set_self _ _ _ _
theorem State.setQueue_other (s : State) (k : Nat) (x : Queue) (j : Nat) (h : j ≠ k) : (s.setQueue k x).queue j = s.queue j := Tbl.get_set_other _ _ _ _ _ h
@[simp] theorem State.setPart_group_at (s : State) (k : Nat) (x : Partition) (j : Nat) : (s.setPart k x).group? j = s.group? j := rfl
@[simp] theorem State.setPart_team_at (s : State) (k : Nat) (x : Partition) (j : Nat) : (s.setPart k x).team? j = s.team? j := rfl
@[simp] theorem State.setPart_launch_at (s : State) (k : Nat) (x : Partition) (j : Nat) : (s.setPart k x).launch? j = s.launch? j := rfl
@[simp] theorem State.setPart_core (s : State) (k : Nat) (x : Partition) (j : Nat) : (s.setPart k x).core j = s.core j := rfl
@[simp] theorem State.setPart_die (s : State) (k : Nat) (x : Partition) (j : Nat) : (s.setPart k x).die j = s.die j := rfl
@[simp] theorem State.setPart_complex (s : State) (k : Nat) (x : Partition) (j : Nat) : (s.setPart k x).complex j = s.complex j := rfl
@[simp] theorem State.setPart_queue (s : State) (k : Nat) (x : Partition) (j : Nat) : (s.setPart k x).queue j = s.queue j := rfl
@[simp] theorem State.setPart_self (s : State) (k : Nat) (x : Partition) : (s.setPart k x).part k = x := Tbl.get_set_self _ _ _ _
theorem State.setPart_other (s : State) (k : Nat) (x : Partition) (j : Nat) (h : j ≠ k) : (s.setPart k x).part j = s.part j := Tbl.get_set_other _ _ _ _ _ h
@[simp] theorem State.updGroup_team_at (s : State) (k : Nat) (f : Group → Group) (j : Nat) : (s.updGroup k f).team? j = s.team? j := by
  unfold State.updGroup; split <;> rfl
@[simp] theorem State.updGroup_launch_at (s : State) (k : Nat) (f : Group → Group) (j : Nat) : (s.updGroup k f).launch? j = s.launch? j := by
  unfold State.updGroup; split <;> rfl
@[simp] theorem State.updGroup_core (s : State) (k : Nat) (f : Group → Group) (j : Nat) : (s.updGroup k f).core j = s.core j := by
  unfold State.updGroup; split <;> rfl
@[simp] theorem State.updGroup_die (s : State) (k : Nat) (f : Group → Group) (j : Nat) : (s.updGroup k f).die j = s.die j := by
  unfold State.updGroup; split <;> rfl
@[simp] theorem State.updGroup_complex (s : State) (k : Nat) (f : Group → Group) (j : Nat) : (s.updGroup k f).complex j = s.complex j := by
  unfold State.updGroup; split <;> rfl
@[simp] theorem State.updGroup_queue (s : State) (k : Nat) (f : Group → Group) (j : Nat) : (s.updGroup k f).queue j = s.queue j := by
  unfold State.updGroup; split <;> rfl
@[simp] theorem State.updGroup_part (s : State) (k : Nat) (f : Group → Group) (j : Nat) : (s.updGroup k f).part j = s.part j := by
  unfold State.updGroup; split <;> rfl
@[simp] theorem State.updGroup_self (s : State) (k : Nat) (f : Group → Group) : (s.updGroup k f).group? k = (s.group? k).map f := by
  unfold State.updGroup; cases h : s.group? k <;> simp [h]
theorem State.updGroup_other (s : State) (k : Nat) (f : Group → Group) (j : Nat) (h : j ≠ k) : (s.updGroup k f).group? j = s.group? j := by
  unfold State.updGroup; split
  · exact State.setGroup_other _ _ _ _ h
  · rfl
@[simp] theorem State.updTeam_group_at (s : State) (k : Nat) (f : Team → Team) (j : Nat) : (s.updTeam k f).group? j = s.group? j := by
  unfold State.updTeam; split <;> rfl
@[simp] theorem State.updTeam_launch_at (s : State) (k : Nat) (f : Team → Team) (j : Nat) : (s.updTeam k f).launch? j = s.launch? j := by
  unfold State.updTeam; split <;> rfl
@[simp] theorem State.updTeam_core (s : State) (k : Nat) (f : Team → Team) (j : Nat) : (s.updTeam k f).core j = s.core j := by
  unfold State.updTeam; split <;> rfl
@[simp] theorem State.updTeam_die (s : State) (k : Nat) (f : Team → Team) (j : Nat) : (s.updTeam k f).die j = s.die j := by
  unfold State.updTeam; split <;> rfl
@[simp] theorem State.updTeam_complex (s : State) (k : Nat) (f : Team → Team) (j : Nat) : (s.updTeam k f).complex j = s.complex j := by
  unfold State.updTeam; split <;> rfl
@[simp] theorem State.updTeam_queue (s : State) (k : Nat) (f : Team → Team) (j : Nat) : (s.updTeam k f).queue j = s.queue j := by
  unfold State.updTeam; split <;> rfl
@[simp] theorem State.updTeam_part (s : State) (k : Nat) (f : Team → Team) (j : Nat) : (s.updTeam k f).part j = s.part j := by
  unfold State.updTeam; split <;> rfl
@[simp] theorem State.updTeam_self (s : State) (k : Nat) (f : Team → Team) : (s.updTeam k f).team? k = (s.team? k).map f := by
  unfold State.updTeam; cases h : s.team? k <;> simp [h]
theorem State.updTeam_other (s : State) (k : Nat) (f : Team → Team) (j : Nat) (h : j ≠ k) : (s.updTeam k f).team? j = s.team? j := by
  unfold State.updTeam; split
  · exact State.setTeam_other _ _ _ _ h
  · rfl
@[simp] theorem State.updLaunch_group_at (s : State) (k : Nat) (f : Launch → Launch) (j : Nat) : (s.updLaunch k f).group? j = s.group? j := by
  unfold State.updLaunch; split <;> rfl
@[simp] theorem State.updLaunch_team_at (s : State) (k : Nat) (f : Launch → Launch) (j : Nat) : (s.updLaunch k f).team? j = s.team? j := by
  unfold State.updLaunch; split <;> rfl
@[simp] theorem State.updLaunch_core (s : State) (k : Nat) (f : Launch → Launch) (j : Nat) : (s.updLaunch k f).core j = s.core j := by
  unfold State.updLaunch; split <;> rfl
@[simp] theorem State.updLaunch_die (s : State) (k : Nat) (f : Launch → Launch) (j : Nat) : (s.updLaunch k f).die j = s.die j := by
  unfold State.updLaunch; split <;> rfl
@[simp] theorem State.updLaunch_complex (s : State) (k : Nat) (f : Launch → Launch) (j : Nat) : (s.updLaunch k f).complex j = s.complex j := by
  unfold State.updLaunch; split <;> rfl
@[simp] theorem State.updLaunch_queue (s : State) (k : Nat) (f : Launch → Launch) (j : Nat) : (s.updLaunch k f).queue j = s.queue j := by
  unfold State.updLaunch; split <;> rfl
@[simp] theorem State.updLaunch_part (s : State) (k : Nat) (f : Launch → Launch) (j : Nat) : (s.updLaunch k f).part j = s.part j := by
  unfold State.updLaunch; split <;> rfl
@[simp] theorem State.updLaunch_self (s : State) (k : Nat) (f : Launch → Launch) : (s.updLaunch k f).launch? k = (s.launch? k).map f := by
  unfold State.updLaunch; cases h : s.launch? k <;> simp [h]
theorem State.updLaunch_other (s : State) (k : Nat) (f : Launch → Launch) (j : Nat) (h : j ≠ k) : (s.updLaunch k f).launch? j = s.launch? j := by
  unfold State.updLaunch; split
  · exact State.setLaunch_other _ _ _ _ h
  · rfl

/-! Updates of a group. -/

@[simp] theorem Group.setReg_gidx (g : Group) (r : Reg) (x : W64) : (g.setReg r x).gidx = g.gidx := by
  unfold Group.setReg; split <;> rfl
@[simp] theorem Group.setReg_launch (g : Group) (r : Reg) (x : W64) : (g.setReg r x).launch = g.launch := by
  unfold Group.setReg; split <;> rfl
@[simp] theorem Group.setReg_team (g : Group) (r : Reg) (x : W64) : (g.setReg r x).team = g.team := by
  unfold Group.setReg; split <;> rfl
@[simp] theorem Group.setReg_spawnIdx (g : Group) (r : Reg) (x : W64) : (g.setReg r x).spawnIdx = g.spawnIdx := by
  unfold Group.setReg; split <;> rfl
@[simp] theorem Group.setReg_lanew (g : Group) (r : Reg) (x : W64) : (g.setReg r x).lanew = g.lanew := by
  unfold Group.setReg; split <;> rfl
@[simp] theorem Group.setReg_vregs (g : Group) (r : Reg) (x : W64) : (g.setReg r x).vregs = g.vregs := by
  unfold Group.setReg; split <;> rfl
@[simp] theorem Group.setReg_rb (g : Group) (r : Reg) (x : W64) : (g.setReg r x).rb = g.rb := by
  unfold Group.setReg; split <;> rfl
@[simp] theorem Group.setReg_reserve (g : Group) (r : Reg) (x : W64) : (g.setReg r x).reserve = g.reserve := by
  unfold Group.setReg; split <;> rfl
@[simp] theorem Group.setReg_spc (g : Group) (r : Reg) (x : W64) : (g.setReg r x).spc = g.spc := by
  unfold Group.setReg; split <;> rfl
@[simp] theorem Group.setReg_fmt (g : Group) (r : Reg) (x : W64) : (g.setReg r x).fmt = g.fmt := by
  unfold Group.setReg; split <;> rfl
@[simp] theorem Group.setReg_flags (g : Group) (r : Reg) (x : W64) : (g.setReg r x).flags = g.flags := by
  unfold Group.setReg; split <;> rfl
@[simp] theorem Group.setReg_cls (g : Group) (r : Reg) (x : W64) : (g.setReg r x).cls = g.cls := by
  unfold Group.setReg; split <;> rfl
@[simp] theorem Group.setReg_crit (g : Group) (r : Reg) (x : W64) : (g.setReg r x).crit = g.crit := by
  unfold Group.setReg; split <;> rfl
@[simp] theorem Group.setReg_v (g : Group) (r : Reg) (x : W64) : (g.setReg r x).v = g.v := by
  unfold Group.setReg; split <;> rfl
@[simp] theorem Group.setReg_p (g : Group) (r : Reg) (x : W64) : (g.setReg r x).p = g.p := by
  unfold Group.setReg; split <;> rfl
@[simp] theorem Group.setReg_live (g : Group) (r : Reg) (x : W64) : (g.setReg r x).live = g.live := by
  unfold Group.setReg; split <;> rfl
@[simp] theorem Group.setReg_laneQ (g : Group) (r : Reg) (x : W64) : (g.setReg r x).laneQ = g.laneQ := by
  unfold Group.setReg; split <;> rfl
@[simp] theorem Group.setReg_running (g : Group) (r : Reg) (x : W64) : (g.setReg r x).running = g.running := by
  unfold Group.setReg; split <;> rfl
@[simp] theorem Group.setReg_retQ (g : Group) (r : Reg) (x : W64) : (g.setReg r x).retQ = g.retQ := by
  unfold Group.setReg; split <;> rfl
@[simp] theorem Group.setReg_retAt (g : Group) (r : Reg) (x : W64) : (g.setReg r x).retAt = g.retAt := by
  unfold Group.setReg; split <;> rfl
@[simp] theorem Group.setReg_slot0 (g : Group) (r : Reg) (x : W64) : (g.setReg r x).slot0 = g.slot0 := by
  unfold Group.setReg; split <;> rfl
@[simp] theorem Group.setReg_slot1 (g : Group) (r : Reg) (x : W64) : (g.setReg r x).slot1 = g.slot1 := by
  unfold Group.setReg; split <;> rfl
@[simp] theorem Group.setReg_stack (g : Group) (r : Reg) (x : W64) : (g.setReg r x).stack = g.stack := by
  unfold Group.setReg; split <;> rfl
@[simp] theorem Group.setReg_pend (g : Group) (r : Reg) (x : W64) : (g.setReg r x).pend = g.pend := by
  unfold Group.setReg; split <;> rfl
@[simp] theorem Group.setReg_nextPath (g : Group) (r : Reg) (x : W64) : (g.setReg r x).nextPath = g.nextPath := by
  unfold Group.setReg; split <;> rfl
@[simp] theorem Group.setReg_laneN (g : Group) (r : Reg) (x : W64) : (g.setReg r x).laneN = g.laneN := by
  unfold Group.setReg; split <;> rfl
@[simp] theorem Group.setReg_vputFull (g : Group) (r : Reg) (x : W64) : (g.setReg r x).vputFull = g.vputFull := by
  unfold Group.setReg; split <;> rfl
@[simp] theorem Group.setReg_posted (g : Group) (r : Reg) (x : W64) : (g.setReg r x).posted = g.posted := by
  unfold Group.setReg; split <;> rfl
@[simp] theorem Group.setReg_copyB (g : Group) (r : Reg) (x : W64) : (g.setReg r x).copyB = g.copyB := by
  unfold Group.setReg; split <;> rfl
@[simp] theorem Group.setReg_matB (g : Group) (r : Reg) (x : W64) : (g.setReg r x).matB = g.matB := by
  unfold Group.setReg; split <;> rfl
@[simp] theorem Group.setReg_lost (g : Group) (r : Reg) (x : W64) : (g.setReg r x).lost = g.lost := by
  unfold Group.setReg; split <;> rfl
@[simp] theorem Group.setReg_lostVa (g : Group) (r : Reg) (x : W64) : (g.setReg r x).lostVa = g.lostVa := by
  unfold Group.setReg; split <;> rfl
@[simp] theorem Group.setReg_blocked (g : Group) (r : Reg) (x : W64) : (g.setReg r x).blocked = g.blocked := by
  unfold Group.setReg; split <;> rfl
@[simp] theorem Group.setReg_lockReq (g : Group) (r : Reg) (x : W64) : (g.setReg r x).lockReq = g.lockReq := by
  unfold Group.setReg; split <;> rfl
@[simp] theorem Group.setReg_pageWait (g : Group) (r : Reg) (x : W64) : (g.setReg r x).pageWait = g.pageWait := by
  unfold Group.setReg; split <;> rfl
@[simp] theorem Group.setReg_refused (g : Group) (r : Reg) (x : W64) : (g.setReg r x).refused = g.refused := by
  unfold Group.setReg; split <;> rfl
@[simp] theorem Group.setReg_pageSince (g : Group) (r : Reg) (x : W64) : (g.setReg r x).pageSince = g.pageSince := by
  unfold Group.setReg; split <;> rfl
@[simp] theorem Group.setReg_sideWait (g : Group) (r : Reg) (x : W64) : (g.setReg r x).sideWait = g.sideWait := by
  unfold Group.setReg; split <;> rfl
@[simp] theorem Group.setReg_heldVer (g : Group) (r : Reg) (x : W64) : (g.setReg r x).heldVer = g.heldVer := by
  unfold Group.setReg; split <;> rfl
@[simp] theorem Group.setReg_cpysHdr (g : Group) (r : Reg) (x : W64) : (g.setReg r x).cpysHdr = g.cpysHdr := by
  unfold Group.setReg; split <;> rfl
@[simp] theorem Group.setReg_orun (g : Group) (r : Reg) (x : W64) : (g.setReg r x).orun = g.orun := by
  unfold Group.setReg; split <;> rfl
@[simp] theorem Group.setReg_noOver (g : Group) (r : Reg) (x : W64) : (g.setReg r x).noOver = g.noOver := by
  unfold Group.setReg; split <;> rfl
@[simp] theorem Group.setReg_parked (g : Group) (r : Reg) (x : W64) : (g.setReg r x).parked = g.parked := by
  unfold Group.setReg; split <;> rfl
@[simp] theorem Group.setReg_ending (g : Group) (r : Reg) (x : W64) : (g.setReg r x).ending = g.ending := by
  unfold Group.setReg; split <;> rfl
@[simp] theorem Group.setReg_pendHalt (g : Group) (r : Reg) (x : W64) : (g.setReg r x).pendHalt = g.pendHalt := by
  unfold Group.setReg; split <;> rfl
@[simp] theorem Group.setReg_pendCharge (g : Group) (r : Reg) (x : W64) : (g.setReg r x).pendCharge = g.pendCharge := by
  unfold Group.setReg; split <;> rfl
@[simp] theorem Group.setReg_pendStore (g : Group) (r : Reg) (x : W64) : (g.setReg r x).pendStore = g.pendStore := by
  unfold Group.setReg; split <;> rfl
@[simp] theorem Group.setReg_stallLogged (g : Group) (r : Reg) (x : W64) : (g.setReg r x).stallLogged = g.stallLogged := by
  unfold Group.setReg; split <;> rfl
@[simp] theorem Group.setReg_noWatch (g : Group) (r : Reg) (x : W64) : (g.setReg r x).noWatch = g.noWatch := by
  unfold Group.setReg; split <;> rfl
@[simp] theorem Group.setReg_heldUpd (g : Group) (r : Reg) (x : W64) : (g.setReg r x).heldUpd = g.heldUpd := by
  unfold Group.setReg; split <;> rfl
@[simp] theorem Group.setReg_stopping (g : Group) (r : Reg) (x : W64) : (g.setReg r x).stopping = g.stopping := by
  unfold Group.setReg; split <;> rfl
@[simp] theorem Group.setReg_sHeld (g : Group) (r : Reg) (x : W64) : (g.setReg r x).sHeld = g.sHeld := by
  unfold Group.setReg; split <;> rfl
@[simp] theorem Group.setReg_lHeld (g : Group) (r : Reg) (x : W64) : (g.setReg r x).lHeld = g.lHeld := by
  unfold Group.setReg; split <;> rfl
@[simp] theorem Group.setReg_lHeld1 (g : Group) (r : Reg) (x : W64) : (g.setReg r x).lHeld1 = g.lHeld1 := by
  unfold Group.setReg; split <;> rfl
@[simp] theorem Group.setReg_ticketS (g : Group) (r : Reg) (x : W64) : (g.setReg r x).ticketS = g.ticketS := by
  unfold Group.setReg; split <;> rfl
@[simp] theorem Group.setReg_ticket0 (g : Group) (r : Reg) (x : W64) : (g.setReg r x).ticket0 = g.ticket0 := by
  unfold Group.setReg; split <;> rfl
@[simp] theorem Group.setReg_ticket1 (g : Group) (r : Reg) (x : W64) : (g.setReg r x).ticket1 = g.ticket1 := by
  unfold Group.setReg; split <;> rfl
@[simp] theorem Group.setReg_from_ (g : Group) (r : Reg) (x : W64) : (g.setReg r x).from_ = g.from_ := by
  unfold Group.setReg; split <;> rfl
@[simp] theorem Group.setReg_lastS (g : Group) (r : Reg) (x : W64) : (g.setReg r x).lastS = g.lastS := by
  unfold Group.setReg; split <;> rfl
@[simp] theorem Group.setReg_lastL (g : Group) (r : Reg) (x : W64) : (g.setReg r x).lastL = g.lastL := by
  unfold Group.setReg; split <;> rfl
@[simp] theorem Group.setReg_promoS (g : Group) (r : Reg) (x : W64) : (g.setReg r x).promoS = g.promoS := by
  unfold Group.setReg; split <;> rfl
@[simp] theorem Group.setReg_promoL (g : Group) (r : Reg) (x : W64) : (g.setReg r x).promoL = g.promoL := by
  unfold Group.setReg; split <;> rfl
@[simp] theorem Group.setReg_allocHold (g : Group) (r : Reg) (x : W64) : (g.setReg r x).allocHold = g.allocHold := by
  unfold Group.setReg; split <;> rfl
@[simp] theorem Group.setReg_curbAsk (g : Group) (r : Reg) (x : W64) : (g.setReg r x).curbAsk = g.curbAsk := by
  unfold Group.setReg; split <;> rfl
@[simp] theorem Group.setReg_curbSince (g : Group) (r : Reg) (x : W64) : (g.setReg r x).curbSince = g.curbSince := by
  unfold Group.setReg; split <;> rfl

@[simp] theorem Group.setVreg_gidx (g : Group) (n l : Nat) (x : W32) : (g.setVreg n l x).gidx = g.gidx := rfl
@[simp] theorem Group.setVreg_launch (g : Group) (n l : Nat) (x : W32) : (g.setVreg n l x).launch = g.launch := rfl
@[simp] theorem Group.setVreg_team (g : Group) (n l : Nat) (x : W32) : (g.setVreg n l x).team = g.team := rfl
@[simp] theorem Group.setVreg_spawnIdx (g : Group) (n l : Nat) (x : W32) : (g.setVreg n l x).spawnIdx = g.spawnIdx := rfl
@[simp] theorem Group.setVreg_lanew (g : Group) (n l : Nat) (x : W32) : (g.setVreg n l x).lanew = g.lanew := rfl
@[simp] theorem Group.setVreg_vregs (g : Group) (n l : Nat) (x : W32) : (g.setVreg n l x).vregs = g.vregs := rfl
@[simp] theorem Group.setVreg_rb (g : Group) (n l : Nat) (x : W32) : (g.setVreg n l x).rb = g.rb := rfl
@[simp] theorem Group.setVreg_reserve (g : Group) (n l : Nat) (x : W32) : (g.setVreg n l x).reserve = g.reserve := rfl
@[simp] theorem Group.setVreg_s (g : Group) (n l : Nat) (x : W32) : (g.setVreg n l x).s = g.s := rfl
@[simp] theorem Group.setVreg_spc (g : Group) (n l : Nat) (x : W32) : (g.setVreg n l x).spc = g.spc := rfl
@[simp] theorem Group.setVreg_fmt (g : Group) (n l : Nat) (x : W32) : (g.setVreg n l x).fmt = g.fmt := rfl
@[simp] theorem Group.setVreg_flags (g : Group) (n l : Nat) (x : W32) : (g.setVreg n l x).flags = g.flags := rfl
@[simp] theorem Group.setVreg_cls (g : Group) (n l : Nat) (x : W32) : (g.setVreg n l x).cls = g.cls := rfl
@[simp] theorem Group.setVreg_crit (g : Group) (n l : Nat) (x : W32) : (g.setVreg n l x).crit = g.crit := rfl
@[simp] theorem Group.setVreg_p (g : Group) (n l : Nat) (x : W32) : (g.setVreg n l x).p = g.p := rfl
@[simp] theorem Group.setVreg_live (g : Group) (n l : Nat) (x : W32) : (g.setVreg n l x).live = g.live := rfl
@[simp] theorem Group.setVreg_laneQ (g : Group) (n l : Nat) (x : W32) : (g.setVreg n l x).laneQ = g.laneQ := rfl
@[simp] theorem Group.setVreg_running (g : Group) (n l : Nat) (x : W32) : (g.setVreg n l x).running = g.running := rfl
@[simp] theorem Group.setVreg_retQ (g : Group) (n l : Nat) (x : W32) : (g.setVreg n l x).retQ = g.retQ := rfl
@[simp] theorem Group.setVreg_retAt (g : Group) (n l : Nat) (x : W32) : (g.setVreg n l x).retAt = g.retAt := rfl
@[simp] theorem Group.setVreg_slot0 (g : Group) (n l : Nat) (x : W32) : (g.setVreg n l x).slot0 = g.slot0 := rfl
@[simp] theorem Group.setVreg_slot1 (g : Group) (n l : Nat) (x : W32) : (g.setVreg n l x).slot1 = g.slot1 := rfl
@[simp] theorem Group.setVreg_stack (g : Group) (n l : Nat) (x : W32) : (g.setVreg n l x).stack = g.stack := rfl
@[simp] theorem Group.setVreg_pend (g : Group) (n l : Nat) (x : W32) : (g.setVreg n l x).pend = g.pend := rfl
@[simp] theorem Group.setVreg_nextPath (g : Group) (n l : Nat) (x : W32) : (g.setVreg n l x).nextPath = g.nextPath := rfl
@[simp] theorem Group.setVreg_laneN (g : Group) (n l : Nat) (x : W32) : (g.setVreg n l x).laneN = g.laneN := rfl
@[simp] theorem Group.setVreg_vputFull (g : Group) (n l : Nat) (x : W32) : (g.setVreg n l x).vputFull = g.vputFull := rfl
@[simp] theorem Group.setVreg_posted (g : Group) (n l : Nat) (x : W32) : (g.setVreg n l x).posted = g.posted := rfl
@[simp] theorem Group.setVreg_copyB (g : Group) (n l : Nat) (x : W32) : (g.setVreg n l x).copyB = g.copyB := rfl
@[simp] theorem Group.setVreg_matB (g : Group) (n l : Nat) (x : W32) : (g.setVreg n l x).matB = g.matB := rfl
@[simp] theorem Group.setVreg_lost (g : Group) (n l : Nat) (x : W32) : (g.setVreg n l x).lost = g.lost := rfl
@[simp] theorem Group.setVreg_lostVa (g : Group) (n l : Nat) (x : W32) : (g.setVreg n l x).lostVa = g.lostVa := rfl
@[simp] theorem Group.setVreg_blocked (g : Group) (n l : Nat) (x : W32) : (g.setVreg n l x).blocked = g.blocked := rfl
@[simp] theorem Group.setVreg_lockReq (g : Group) (n l : Nat) (x : W32) : (g.setVreg n l x).lockReq = g.lockReq := rfl
@[simp] theorem Group.setVreg_pageWait (g : Group) (n l : Nat) (x : W32) : (g.setVreg n l x).pageWait = g.pageWait := rfl
@[simp] theorem Group.setVreg_refused (g : Group) (n l : Nat) (x : W32) : (g.setVreg n l x).refused = g.refused := rfl
@[simp] theorem Group.setVreg_pageSince (g : Group) (n l : Nat) (x : W32) : (g.setVreg n l x).pageSince = g.pageSince := rfl
@[simp] theorem Group.setVreg_sideWait (g : Group) (n l : Nat) (x : W32) : (g.setVreg n l x).sideWait = g.sideWait := rfl
@[simp] theorem Group.setVreg_heldVer (g : Group) (n l : Nat) (x : W32) : (g.setVreg n l x).heldVer = g.heldVer := rfl
@[simp] theorem Group.setVreg_cpysHdr (g : Group) (n l : Nat) (x : W32) : (g.setVreg n l x).cpysHdr = g.cpysHdr := rfl
@[simp] theorem Group.setVreg_orun (g : Group) (n l : Nat) (x : W32) : (g.setVreg n l x).orun = g.orun := rfl
@[simp] theorem Group.setVreg_noOver (g : Group) (n l : Nat) (x : W32) : (g.setVreg n l x).noOver = g.noOver := rfl
@[simp] theorem Group.setVreg_parked (g : Group) (n l : Nat) (x : W32) : (g.setVreg n l x).parked = g.parked := rfl
@[simp] theorem Group.setVreg_ending (g : Group) (n l : Nat) (x : W32) : (g.setVreg n l x).ending = g.ending := rfl
@[simp] theorem Group.setVreg_pendHalt (g : Group) (n l : Nat) (x : W32) : (g.setVreg n l x).pendHalt = g.pendHalt := rfl
@[simp] theorem Group.setVreg_pendCharge (g : Group) (n l : Nat) (x : W32) : (g.setVreg n l x).pendCharge = g.pendCharge := rfl
@[simp] theorem Group.setVreg_pendStore (g : Group) (n l : Nat) (x : W32) : (g.setVreg n l x).pendStore = g.pendStore := rfl
@[simp] theorem Group.setVreg_stallLogged (g : Group) (n l : Nat) (x : W32) : (g.setVreg n l x).stallLogged = g.stallLogged := rfl
@[simp] theorem Group.setVreg_noWatch (g : Group) (n l : Nat) (x : W32) : (g.setVreg n l x).noWatch = g.noWatch := rfl
@[simp] theorem Group.setVreg_heldUpd (g : Group) (n l : Nat) (x : W32) : (g.setVreg n l x).heldUpd = g.heldUpd := rfl
@[simp] theorem Group.setVreg_stopping (g : Group) (n l : Nat) (x : W32) : (g.setVreg n l x).stopping = g.stopping := rfl
@[simp] theorem Group.setVreg_sHeld (g : Group) (n l : Nat) (x : W32) : (g.setVreg n l x).sHeld = g.sHeld := rfl
@[simp] theorem Group.setVreg_lHeld (g : Group) (n l : Nat) (x : W32) : (g.setVreg n l x).lHeld = g.lHeld := rfl
@[simp] theorem Group.setVreg_lHeld1 (g : Group) (n l : Nat) (x : W32) : (g.setVreg n l x).lHeld1 = g.lHeld1 := rfl
@[simp] theorem Group.setVreg_ticketS (g : Group) (n l : Nat) (x : W32) : (g.setVreg n l x).ticketS = g.ticketS := rfl
@[simp] theorem Group.setVreg_ticket0 (g : Group) (n l : Nat) (x : W32) : (g.setVreg n l x).ticket0 = g.ticket0 := rfl
@[simp] theorem Group.setVreg_ticket1 (g : Group) (n l : Nat) (x : W32) : (g.setVreg n l x).ticket1 = g.ticket1 := rfl
@[simp] theorem Group.setVreg_from_ (g : Group) (n l : Nat) (x : W32) : (g.setVreg n l x).from_ = g.from_ := rfl
@[simp] theorem Group.setVreg_lastS (g : Group) (n l : Nat) (x : W32) : (g.setVreg n l x).lastS = g.lastS := rfl
@[simp] theorem Group.setVreg_lastL (g : Group) (n l : Nat) (x : W32) : (g.setVreg n l x).lastL = g.lastL := rfl
@[simp] theorem Group.setVreg_promoS (g : Group) (n l : Nat) (x : W32) : (g.setVreg n l x).promoS = g.promoS := rfl
@[simp] theorem Group.setVreg_promoL (g : Group) (n l : Nat) (x : W32) : (g.setVreg n l x).promoL = g.promoL := rfl
@[simp] theorem Group.setVreg_allocHold (g : Group) (n l : Nat) (x : W32) : (g.setVreg n l x).allocHold = g.allocHold := rfl
@[simp] theorem Group.setVreg_curbAsk (g : Group) (n l : Nat) (x : W32) : (g.setVreg n l x).curbAsk = g.curbAsk := rfl
@[simp] theorem Group.setVreg_curbSince (g : Group) (n l : Nat) (x : W32) : (g.setVreg n l x).curbSince = g.curbSince := rfl

@[simp] theorem Group.setPred_gidx (g : Group) (n : Nat) (x : W64) : (g.setPred n x).gidx = g.gidx := by
  unfold Group.setPred; split <;> rfl
@[simp] theorem Group.setPred_launch (g : Group) (n : Nat) (x : W64) : (g.setPred n x).launch = g.launch := by
  unfold Group.setPred; split <;> rfl
@[simp] theorem Group.setPred_team (g : Group) (n : Nat) (x : W64) : (g.setPred n x).team = g.team := by
  unfold Group.setPred; split <;> rfl
@[simp] theorem Group.setPred_spawnIdx (g : Group) (n : Nat) (x : W64) : (g.setPred n x).spawnIdx = g.spawnIdx := by
  unfold Group.setPred; split <;> rfl
@[simp] theorem Group.setPred_lanew (g : Group) (n : Nat) (x : W64) : (g.setPred n x).lanew = g.lanew := by
  unfold Group.setPred; split <;> rfl
@[simp] theorem Group.setPred_vregs (g : Group) (n : Nat) (x : W64) : (g.setPred n x).vregs = g.vregs := by
  unfold Group.setPred; split <;> rfl
@[simp] theorem Group.setPred_rb (g : Group) (n : Nat) (x : W64) : (g.setPred n x).rb = g.rb := by
  unfold Group.setPred; split <;> rfl
@[simp] theorem Group.setPred_reserve (g : Group) (n : Nat) (x : W64) : (g.setPred n x).reserve = g.reserve := by
  unfold Group.setPred; split <;> rfl
@[simp] theorem Group.setPred_s (g : Group) (n : Nat) (x : W64) : (g.setPred n x).s = g.s := by
  unfold Group.setPred; split <;> rfl
@[simp] theorem Group.setPred_spc (g : Group) (n : Nat) (x : W64) : (g.setPred n x).spc = g.spc := by
  unfold Group.setPred; split <;> rfl
@[simp] theorem Group.setPred_fmt (g : Group) (n : Nat) (x : W64) : (g.setPred n x).fmt = g.fmt := by
  unfold Group.setPred; split <;> rfl
@[simp] theorem Group.setPred_flags (g : Group) (n : Nat) (x : W64) : (g.setPred n x).flags = g.flags := by
  unfold Group.setPred; split <;> rfl
@[simp] theorem Group.setPred_cls (g : Group) (n : Nat) (x : W64) : (g.setPred n x).cls = g.cls := by
  unfold Group.setPred; split <;> rfl
@[simp] theorem Group.setPred_crit (g : Group) (n : Nat) (x : W64) : (g.setPred n x).crit = g.crit := by
  unfold Group.setPred; split <;> rfl
@[simp] theorem Group.setPred_v (g : Group) (n : Nat) (x : W64) : (g.setPred n x).v = g.v := by
  unfold Group.setPred; split <;> rfl
@[simp] theorem Group.setPred_live (g : Group) (n : Nat) (x : W64) : (g.setPred n x).live = g.live := by
  unfold Group.setPred; split <;> rfl
@[simp] theorem Group.setPred_laneQ (g : Group) (n : Nat) (x : W64) : (g.setPred n x).laneQ = g.laneQ := by
  unfold Group.setPred; split <;> rfl
@[simp] theorem Group.setPred_running (g : Group) (n : Nat) (x : W64) : (g.setPred n x).running = g.running := by
  unfold Group.setPred; split <;> rfl
@[simp] theorem Group.setPred_retQ (g : Group) (n : Nat) (x : W64) : (g.setPred n x).retQ = g.retQ := by
  unfold Group.setPred; split <;> rfl
@[simp] theorem Group.setPred_retAt (g : Group) (n : Nat) (x : W64) : (g.setPred n x).retAt = g.retAt := by
  unfold Group.setPred; split <;> rfl
@[simp] theorem Group.setPred_slot0 (g : Group) (n : Nat) (x : W64) : (g.setPred n x).slot0 = g.slot0 := by
  unfold Group.setPred; split <;> rfl
@[simp] theorem Group.setPred_slot1 (g : Group) (n : Nat) (x : W64) : (g.setPred n x).slot1 = g.slot1 := by
  unfold Group.setPred; split <;> rfl
@[simp] theorem Group.setPred_stack (g : Group) (n : Nat) (x : W64) : (g.setPred n x).stack = g.stack := by
  unfold Group.setPred; split <;> rfl
@[simp] theorem Group.setPred_pend (g : Group) (n : Nat) (x : W64) : (g.setPred n x).pend = g.pend := by
  unfold Group.setPred; split <;> rfl
@[simp] theorem Group.setPred_nextPath (g : Group) (n : Nat) (x : W64) : (g.setPred n x).nextPath = g.nextPath := by
  unfold Group.setPred; split <;> rfl
@[simp] theorem Group.setPred_laneN (g : Group) (n : Nat) (x : W64) : (g.setPred n x).laneN = g.laneN := by
  unfold Group.setPred; split <;> rfl
@[simp] theorem Group.setPred_vputFull (g : Group) (n : Nat) (x : W64) : (g.setPred n x).vputFull = g.vputFull := by
  unfold Group.setPred; split <;> rfl
@[simp] theorem Group.setPred_posted (g : Group) (n : Nat) (x : W64) : (g.setPred n x).posted = g.posted := by
  unfold Group.setPred; split <;> rfl
@[simp] theorem Group.setPred_copyB (g : Group) (n : Nat) (x : W64) : (g.setPred n x).copyB = g.copyB := by
  unfold Group.setPred; split <;> rfl
@[simp] theorem Group.setPred_matB (g : Group) (n : Nat) (x : W64) : (g.setPred n x).matB = g.matB := by
  unfold Group.setPred; split <;> rfl
@[simp] theorem Group.setPred_lost (g : Group) (n : Nat) (x : W64) : (g.setPred n x).lost = g.lost := by
  unfold Group.setPred; split <;> rfl
@[simp] theorem Group.setPred_lostVa (g : Group) (n : Nat) (x : W64) : (g.setPred n x).lostVa = g.lostVa := by
  unfold Group.setPred; split <;> rfl
@[simp] theorem Group.setPred_blocked (g : Group) (n : Nat) (x : W64) : (g.setPred n x).blocked = g.blocked := by
  unfold Group.setPred; split <;> rfl
@[simp] theorem Group.setPred_lockReq (g : Group) (n : Nat) (x : W64) : (g.setPred n x).lockReq = g.lockReq := by
  unfold Group.setPred; split <;> rfl
@[simp] theorem Group.setPred_pageWait (g : Group) (n : Nat) (x : W64) : (g.setPred n x).pageWait = g.pageWait := by
  unfold Group.setPred; split <;> rfl
@[simp] theorem Group.setPred_refused (g : Group) (n : Nat) (x : W64) : (g.setPred n x).refused = g.refused := by
  unfold Group.setPred; split <;> rfl
@[simp] theorem Group.setPred_pageSince (g : Group) (n : Nat) (x : W64) : (g.setPred n x).pageSince = g.pageSince := by
  unfold Group.setPred; split <;> rfl
@[simp] theorem Group.setPred_sideWait (g : Group) (n : Nat) (x : W64) : (g.setPred n x).sideWait = g.sideWait := by
  unfold Group.setPred; split <;> rfl
@[simp] theorem Group.setPred_heldVer (g : Group) (n : Nat) (x : W64) : (g.setPred n x).heldVer = g.heldVer := by
  unfold Group.setPred; split <;> rfl
@[simp] theorem Group.setPred_cpysHdr (g : Group) (n : Nat) (x : W64) : (g.setPred n x).cpysHdr = g.cpysHdr := by
  unfold Group.setPred; split <;> rfl
@[simp] theorem Group.setPred_orun (g : Group) (n : Nat) (x : W64) : (g.setPred n x).orun = g.orun := by
  unfold Group.setPred; split <;> rfl
@[simp] theorem Group.setPred_noOver (g : Group) (n : Nat) (x : W64) : (g.setPred n x).noOver = g.noOver := by
  unfold Group.setPred; split <;> rfl
@[simp] theorem Group.setPred_parked (g : Group) (n : Nat) (x : W64) : (g.setPred n x).parked = g.parked := by
  unfold Group.setPred; split <;> rfl
@[simp] theorem Group.setPred_ending (g : Group) (n : Nat) (x : W64) : (g.setPred n x).ending = g.ending := by
  unfold Group.setPred; split <;> rfl
@[simp] theorem Group.setPred_pendHalt (g : Group) (n : Nat) (x : W64) : (g.setPred n x).pendHalt = g.pendHalt := by
  unfold Group.setPred; split <;> rfl
@[simp] theorem Group.setPred_pendCharge (g : Group) (n : Nat) (x : W64) : (g.setPred n x).pendCharge = g.pendCharge := by
  unfold Group.setPred; split <;> rfl
@[simp] theorem Group.setPred_pendStore (g : Group) (n : Nat) (x : W64) : (g.setPred n x).pendStore = g.pendStore := by
  unfold Group.setPred; split <;> rfl
@[simp] theorem Group.setPred_stallLogged (g : Group) (n : Nat) (x : W64) : (g.setPred n x).stallLogged = g.stallLogged := by
  unfold Group.setPred; split <;> rfl
@[simp] theorem Group.setPred_noWatch (g : Group) (n : Nat) (x : W64) : (g.setPred n x).noWatch = g.noWatch := by
  unfold Group.setPred; split <;> rfl
@[simp] theorem Group.setPred_heldUpd (g : Group) (n : Nat) (x : W64) : (g.setPred n x).heldUpd = g.heldUpd := by
  unfold Group.setPred; split <;> rfl
@[simp] theorem Group.setPred_stopping (g : Group) (n : Nat) (x : W64) : (g.setPred n x).stopping = g.stopping := by
  unfold Group.setPred; split <;> rfl
@[simp] theorem Group.setPred_sHeld (g : Group) (n : Nat) (x : W64) : (g.setPred n x).sHeld = g.sHeld := by
  unfold Group.setPred; split <;> rfl
@[simp] theorem Group.setPred_lHeld (g : Group) (n : Nat) (x : W64) : (g.setPred n x).lHeld = g.lHeld := by
  unfold Group.setPred; split <;> rfl
@[simp] theorem Group.setPred_lHeld1 (g : Group) (n : Nat) (x : W64) : (g.setPred n x).lHeld1 = g.lHeld1 := by
  unfold Group.setPred; split <;> rfl
@[simp] theorem Group.setPred_ticketS (g : Group) (n : Nat) (x : W64) : (g.setPred n x).ticketS = g.ticketS := by
  unfold Group.setPred; split <;> rfl
@[simp] theorem Group.setPred_ticket0 (g : Group) (n : Nat) (x : W64) : (g.setPred n x).ticket0 = g.ticket0 := by
  unfold Group.setPred; split <;> rfl
@[simp] theorem Group.setPred_ticket1 (g : Group) (n : Nat) (x : W64) : (g.setPred n x).ticket1 = g.ticket1 := by
  unfold Group.setPred; split <;> rfl
@[simp] theorem Group.setPred_from_ (g : Group) (n : Nat) (x : W64) : (g.setPred n x).from_ = g.from_ := by
  unfold Group.setPred; split <;> rfl
@[simp] theorem Group.setPred_lastS (g : Group) (n : Nat) (x : W64) : (g.setPred n x).lastS = g.lastS := by
  unfold Group.setPred; split <;> rfl
@[simp] theorem Group.setPred_lastL (g : Group) (n : Nat) (x : W64) : (g.setPred n x).lastL = g.lastL := by
  unfold Group.setPred; split <;> rfl
@[simp] theorem Group.setPred_promoS (g : Group) (n : Nat) (x : W64) : (g.setPred n x).promoS = g.promoS := by
  unfold Group.setPred; split <;> rfl
@[simp] theorem Group.setPred_promoL (g : Group) (n : Nat) (x : W64) : (g.setPred n x).promoL = g.promoL := by
  unfold Group.setPred; split <;> rfl
@[simp] theorem Group.setPred_allocHold (g : Group) (n : Nat) (x : W64) : (g.setPred n x).allocHold = g.allocHold := by
  unfold Group.setPred; split <;> rfl
@[simp] theorem Group.setPred_curbAsk (g : Group) (n : Nat) (x : W64) : (g.setPred n x).curbAsk = g.curbAsk := by
  unfold Group.setPred; split <;> rfl
@[simp] theorem Group.setPred_curbSince (g : Group) (n : Nat) (x : W64) : (g.setPred n x).curbSince = g.curbSince := by
  unfold Group.setPred; split <;> rfl

@[simp] theorem Group.setPath_gidx (g : Group) (n : Nat) (x : Option Path) : (g.setPath n x).gidx = g.gidx := by
  unfold Group.setPath; split <;> rfl
@[simp] theorem Group.setPath_launch (g : Group) (n : Nat) (x : Option Path) : (g.setPath n x).launch = g.launch := by
  unfold Group.setPath; split <;> rfl
@[simp] theorem Group.setPath_team (g : Group) (n : Nat) (x : Option Path) : (g.setPath n x).team = g.team := by
  unfold Group.setPath; split <;> rfl
@[simp] theorem Group.setPath_spawnIdx (g : Group) (n : Nat) (x : Option Path) : (g.setPath n x).spawnIdx = g.spawnIdx := by
  unfold Group.setPath; split <;> rfl
@[simp] theorem Group.setPath_lanew (g : Group) (n : Nat) (x : Option Path) : (g.setPath n x).lanew = g.lanew := by
  unfold Group.setPath; split <;> rfl
@[simp] theorem Group.setPath_vregs (g : Group) (n : Nat) (x : Option Path) : (g.setPath n x).vregs = g.vregs := by
  unfold Group.setPath; split <;> rfl
@[simp] theorem Group.setPath_rb (g : Group) (n : Nat) (x : Option Path) : (g.setPath n x).rb = g.rb := by
  unfold Group.setPath; split <;> rfl
@[simp] theorem Group.setPath_reserve (g : Group) (n : Nat) (x : Option Path) : (g.setPath n x).reserve = g.reserve := by
  unfold Group.setPath; split <;> rfl
@[simp] theorem Group.setPath_s (g : Group) (n : Nat) (x : Option Path) : (g.setPath n x).s = g.s := by
  unfold Group.setPath; split <;> rfl
@[simp] theorem Group.setPath_spc (g : Group) (n : Nat) (x : Option Path) : (g.setPath n x).spc = g.spc := by
  unfold Group.setPath; split <;> rfl
@[simp] theorem Group.setPath_fmt (g : Group) (n : Nat) (x : Option Path) : (g.setPath n x).fmt = g.fmt := by
  unfold Group.setPath; split <;> rfl
@[simp] theorem Group.setPath_flags (g : Group) (n : Nat) (x : Option Path) : (g.setPath n x).flags = g.flags := by
  unfold Group.setPath; split <;> rfl
@[simp] theorem Group.setPath_cls (g : Group) (n : Nat) (x : Option Path) : (g.setPath n x).cls = g.cls := by
  unfold Group.setPath; split <;> rfl
@[simp] theorem Group.setPath_crit (g : Group) (n : Nat) (x : Option Path) : (g.setPath n x).crit = g.crit := by
  unfold Group.setPath; split <;> rfl
@[simp] theorem Group.setPath_v (g : Group) (n : Nat) (x : Option Path) : (g.setPath n x).v = g.v := by
  unfold Group.setPath; split <;> rfl
@[simp] theorem Group.setPath_p (g : Group) (n : Nat) (x : Option Path) : (g.setPath n x).p = g.p := by
  unfold Group.setPath; split <;> rfl
@[simp] theorem Group.setPath_live (g : Group) (n : Nat) (x : Option Path) : (g.setPath n x).live = g.live := by
  unfold Group.setPath; split <;> rfl
@[simp] theorem Group.setPath_laneQ (g : Group) (n : Nat) (x : Option Path) : (g.setPath n x).laneQ = g.laneQ := by
  unfold Group.setPath; split <;> rfl
@[simp] theorem Group.setPath_running (g : Group) (n : Nat) (x : Option Path) : (g.setPath n x).running = g.running := by
  unfold Group.setPath; split <;> rfl
@[simp] theorem Group.setPath_retQ (g : Group) (n : Nat) (x : Option Path) : (g.setPath n x).retQ = g.retQ := by
  unfold Group.setPath; split <;> rfl
@[simp] theorem Group.setPath_retAt (g : Group) (n : Nat) (x : Option Path) : (g.setPath n x).retAt = g.retAt := by
  unfold Group.setPath; split <;> rfl
@[simp] theorem Group.setPath_stack (g : Group) (n : Nat) (x : Option Path) : (g.setPath n x).stack = g.stack := by
  unfold Group.setPath; split <;> rfl
@[simp] theorem Group.setPath_pend (g : Group) (n : Nat) (x : Option Path) : (g.setPath n x).pend = g.pend := by
  unfold Group.setPath; split <;> rfl
@[simp] theorem Group.setPath_nextPath (g : Group) (n : Nat) (x : Option Path) : (g.setPath n x).nextPath = g.nextPath := by
  unfold Group.setPath; split <;> rfl
@[simp] theorem Group.setPath_laneN (g : Group) (n : Nat) (x : Option Path) : (g.setPath n x).laneN = g.laneN := by
  unfold Group.setPath; split <;> rfl
@[simp] theorem Group.setPath_vputFull (g : Group) (n : Nat) (x : Option Path) : (g.setPath n x).vputFull = g.vputFull := by
  unfold Group.setPath; split <;> rfl
@[simp] theorem Group.setPath_posted (g : Group) (n : Nat) (x : Option Path) : (g.setPath n x).posted = g.posted := by
  unfold Group.setPath; split <;> rfl
@[simp] theorem Group.setPath_copyB (g : Group) (n : Nat) (x : Option Path) : (g.setPath n x).copyB = g.copyB := by
  unfold Group.setPath; split <;> rfl
@[simp] theorem Group.setPath_matB (g : Group) (n : Nat) (x : Option Path) : (g.setPath n x).matB = g.matB := by
  unfold Group.setPath; split <;> rfl
@[simp] theorem Group.setPath_lost (g : Group) (n : Nat) (x : Option Path) : (g.setPath n x).lost = g.lost := by
  unfold Group.setPath; split <;> rfl
@[simp] theorem Group.setPath_lostVa (g : Group) (n : Nat) (x : Option Path) : (g.setPath n x).lostVa = g.lostVa := by
  unfold Group.setPath; split <;> rfl
@[simp] theorem Group.setPath_blocked (g : Group) (n : Nat) (x : Option Path) : (g.setPath n x).blocked = g.blocked := by
  unfold Group.setPath; split <;> rfl
@[simp] theorem Group.setPath_lockReq (g : Group) (n : Nat) (x : Option Path) : (g.setPath n x).lockReq = g.lockReq := by
  unfold Group.setPath; split <;> rfl
@[simp] theorem Group.setPath_pageWait (g : Group) (n : Nat) (x : Option Path) : (g.setPath n x).pageWait = g.pageWait := by
  unfold Group.setPath; split <;> rfl
@[simp] theorem Group.setPath_refused (g : Group) (n : Nat) (x : Option Path) : (g.setPath n x).refused = g.refused := by
  unfold Group.setPath; split <;> rfl
@[simp] theorem Group.setPath_pageSince (g : Group) (n : Nat) (x : Option Path) : (g.setPath n x).pageSince = g.pageSince := by
  unfold Group.setPath; split <;> rfl
@[simp] theorem Group.setPath_sideWait (g : Group) (n : Nat) (x : Option Path) : (g.setPath n x).sideWait = g.sideWait := by
  unfold Group.setPath; split <;> rfl
@[simp] theorem Group.setPath_heldVer (g : Group) (n : Nat) (x : Option Path) : (g.setPath n x).heldVer = g.heldVer := by
  unfold Group.setPath; split <;> rfl
@[simp] theorem Group.setPath_cpysHdr (g : Group) (n : Nat) (x : Option Path) : (g.setPath n x).cpysHdr = g.cpysHdr := by
  unfold Group.setPath; split <;> rfl
@[simp] theorem Group.setPath_orun (g : Group) (n : Nat) (x : Option Path) : (g.setPath n x).orun = g.orun := by
  unfold Group.setPath; split <;> rfl
@[simp] theorem Group.setPath_noOver (g : Group) (n : Nat) (x : Option Path) : (g.setPath n x).noOver = g.noOver := by
  unfold Group.setPath; split <;> rfl
@[simp] theorem Group.setPath_parked (g : Group) (n : Nat) (x : Option Path) : (g.setPath n x).parked = g.parked := by
  unfold Group.setPath; split <;> rfl
@[simp] theorem Group.setPath_ending (g : Group) (n : Nat) (x : Option Path) : (g.setPath n x).ending = g.ending := by
  unfold Group.setPath; split <;> rfl
@[simp] theorem Group.setPath_pendHalt (g : Group) (n : Nat) (x : Option Path) : (g.setPath n x).pendHalt = g.pendHalt := by
  unfold Group.setPath; split <;> rfl
@[simp] theorem Group.setPath_pendCharge (g : Group) (n : Nat) (x : Option Path) : (g.setPath n x).pendCharge = g.pendCharge := by
  unfold Group.setPath; split <;> rfl
@[simp] theorem Group.setPath_pendStore (g : Group) (n : Nat) (x : Option Path) : (g.setPath n x).pendStore = g.pendStore := by
  unfold Group.setPath; split <;> rfl
@[simp] theorem Group.setPath_stallLogged (g : Group) (n : Nat) (x : Option Path) : (g.setPath n x).stallLogged = g.stallLogged := by
  unfold Group.setPath; split <;> rfl
@[simp] theorem Group.setPath_noWatch (g : Group) (n : Nat) (x : Option Path) : (g.setPath n x).noWatch = g.noWatch := by
  unfold Group.setPath; split <;> rfl
@[simp] theorem Group.setPath_heldUpd (g : Group) (n : Nat) (x : Option Path) : (g.setPath n x).heldUpd = g.heldUpd := by
  unfold Group.setPath; split <;> rfl
@[simp] theorem Group.setPath_stopping (g : Group) (n : Nat) (x : Option Path) : (g.setPath n x).stopping = g.stopping := by
  unfold Group.setPath; split <;> rfl
@[simp] theorem Group.setPath_sHeld (g : Group) (n : Nat) (x : Option Path) : (g.setPath n x).sHeld = g.sHeld := by
  unfold Group.setPath; split <;> rfl
@[simp] theorem Group.setPath_lHeld (g : Group) (n : Nat) (x : Option Path) : (g.setPath n x).lHeld = g.lHeld := by
  unfold Group.setPath; split <;> rfl
@[simp] theorem Group.setPath_lHeld1 (g : Group) (n : Nat) (x : Option Path) : (g.setPath n x).lHeld1 = g.lHeld1 := by
  unfold Group.setPath; split <;> rfl
@[simp] theorem Group.setPath_ticketS (g : Group) (n : Nat) (x : Option Path) : (g.setPath n x).ticketS = g.ticketS := by
  unfold Group.setPath; split <;> rfl
@[simp] theorem Group.setPath_ticket0 (g : Group) (n : Nat) (x : Option Path) : (g.setPath n x).ticket0 = g.ticket0 := by
  unfold Group.setPath; split <;> rfl
@[simp] theorem Group.setPath_ticket1 (g : Group) (n : Nat) (x : Option Path) : (g.setPath n x).ticket1 = g.ticket1 := by
  unfold Group.setPath; split <;> rfl
@[simp] theorem Group.setPath_from_ (g : Group) (n : Nat) (x : Option Path) : (g.setPath n x).from_ = g.from_ := by
  unfold Group.setPath; split <;> rfl
@[simp] theorem Group.setPath_lastS (g : Group) (n : Nat) (x : Option Path) : (g.setPath n x).lastS = g.lastS := by
  unfold Group.setPath; split <;> rfl
@[simp] theorem Group.setPath_lastL (g : Group) (n : Nat) (x : Option Path) : (g.setPath n x).lastL = g.lastL := by
  unfold Group.setPath; split <;> rfl
@[simp] theorem Group.setPath_promoS (g : Group) (n : Nat) (x : Option Path) : (g.setPath n x).promoS = g.promoS := by
  unfold Group.setPath; split <;> rfl
@[simp] theorem Group.setPath_promoL (g : Group) (n : Nat) (x : Option Path) : (g.setPath n x).promoL = g.promoL := by
  unfold Group.setPath; split <;> rfl
@[simp] theorem Group.setPath_allocHold (g : Group) (n : Nat) (x : Option Path) : (g.setPath n x).allocHold = g.allocHold := by
  unfold Group.setPath; split <;> rfl
@[simp] theorem Group.setPath_curbAsk (g : Group) (n : Nat) (x : Option Path) : (g.setPath n x).curbAsk = g.curbAsk := by
  unfold Group.setPath; split <;> rfl
@[simp] theorem Group.setPath_curbSince (g : Group) (n : Nat) (x : Option Path) : (g.setPath n x).curbSince = g.curbSince := by
  unfold Group.setPath; split <;> rfl

@[simp] theorem Group.advance_gidx (g : Group) : (g.advance).gidx = g.gidx := rfl
@[simp] theorem Group.advance_launch (g : Group) : (g.advance).launch = g.launch := rfl
@[simp] theorem Group.advance_team (g : Group) : (g.advance).team = g.team := rfl
@[simp] theorem Group.advance_spawnIdx (g : Group) : (g.advance).spawnIdx = g.spawnIdx := rfl
@[simp] theorem Group.advance_lanew (g : Group) : (g.advance).lanew = g.lanew := rfl
@[simp] theorem Group.advance_vregs (g : Group) : (g.advance).vregs = g.vregs := rfl
@[simp] theorem Group.advance_rb (g : Group) : (g.advance).rb = g.rb := rfl
@[simp] theorem Group.advance_reserve (g : Group) : (g.advance).reserve = g.reserve := rfl
@[simp] theorem Group.advance_s (g : Group) : (g.advance).s = g.s := rfl
@[simp] theorem Group.advance_fmt (g : Group) : (g.advance).fmt = g.fmt := rfl
@[simp] theorem Group.advance_flags (g : Group) : (g.advance).flags = g.flags := rfl
@[simp] theorem Group.advance_cls (g : Group) : (g.advance).cls = g.cls := rfl
@[simp] theorem Group.advance_crit (g : Group) : (g.advance).crit = g.crit := rfl
@[simp] theorem Group.advance_v (g : Group) : (g.advance).v = g.v := rfl
@[simp] theorem Group.advance_p (g : Group) : (g.advance).p = g.p := rfl
@[simp] theorem Group.advance_live (g : Group) : (g.advance).live = g.live := rfl
@[simp] theorem Group.advance_laneQ (g : Group) : (g.advance).laneQ = g.laneQ := rfl
@[simp] theorem Group.advance_running (g : Group) : (g.advance).running = g.running := rfl
@[simp] theorem Group.advance_retQ (g : Group) : (g.advance).retQ = g.retQ := rfl
@[simp] theorem Group.advance_retAt (g : Group) : (g.advance).retAt = g.retAt := rfl
@[simp] theorem Group.advance_slot0 (g : Group) : (g.advance).slot0 = g.slot0 := rfl
@[simp] theorem Group.advance_slot1 (g : Group) : (g.advance).slot1 = g.slot1 := rfl
@[simp] theorem Group.advance_stack (g : Group) : (g.advance).stack = g.stack := rfl
@[simp] theorem Group.advance_pend (g : Group) : (g.advance).pend = g.pend := rfl
@[simp] theorem Group.advance_nextPath (g : Group) : (g.advance).nextPath = g.nextPath := rfl
@[simp] theorem Group.advance_laneN (g : Group) : (g.advance).laneN = g.laneN := rfl
@[simp] theorem Group.advance_vputFull (g : Group) : (g.advance).vputFull = g.vputFull := rfl
@[simp] theorem Group.advance_posted (g : Group) : (g.advance).posted = g.posted := rfl
@[simp] theorem Group.advance_copyB (g : Group) : (g.advance).copyB = g.copyB := rfl
@[simp] theorem Group.advance_matB (g : Group) : (g.advance).matB = g.matB := rfl
@[simp] theorem Group.advance_lost (g : Group) : (g.advance).lost = g.lost := rfl
@[simp] theorem Group.advance_lostVa (g : Group) : (g.advance).lostVa = g.lostVa := rfl
@[simp] theorem Group.advance_blocked (g : Group) : (g.advance).blocked = g.blocked := rfl
@[simp] theorem Group.advance_lockReq (g : Group) : (g.advance).lockReq = g.lockReq := rfl
@[simp] theorem Group.advance_pageWait (g : Group) : (g.advance).pageWait = g.pageWait := rfl
@[simp] theorem Group.advance_pageSince (g : Group) : (g.advance).pageSince = g.pageSince := rfl
@[simp] theorem Group.advance_heldVer (g : Group) : (g.advance).heldVer = g.heldVer := rfl
@[simp] theorem Group.advance_cpysHdr (g : Group) : (g.advance).cpysHdr = g.cpysHdr := rfl
@[simp] theorem Group.advance_orun (g : Group) : (g.advance).orun = g.orun := rfl
@[simp] theorem Group.advance_noOver (g : Group) : (g.advance).noOver = g.noOver := rfl
@[simp] theorem Group.advance_parked (g : Group) : (g.advance).parked = g.parked := rfl
@[simp] theorem Group.advance_ending (g : Group) : (g.advance).ending = g.ending := rfl
@[simp] theorem Group.advance_pendHalt (g : Group) : (g.advance).pendHalt = g.pendHalt := rfl
@[simp] theorem Group.advance_pendCharge (g : Group) : (g.advance).pendCharge = g.pendCharge := rfl
@[simp] theorem Group.advance_pendStore (g : Group) : (g.advance).pendStore = g.pendStore := rfl
@[simp] theorem Group.advance_stallLogged (g : Group) : (g.advance).stallLogged = g.stallLogged := rfl
@[simp] theorem Group.advance_heldUpd (g : Group) : (g.advance).heldUpd = g.heldUpd := rfl
@[simp] theorem Group.advance_stopping (g : Group) : (g.advance).stopping = g.stopping := rfl
@[simp] theorem Group.advance_sHeld (g : Group) : (g.advance).sHeld = g.sHeld := rfl
@[simp] theorem Group.advance_lHeld (g : Group) : (g.advance).lHeld = g.lHeld := rfl
@[simp] theorem Group.advance_lHeld1 (g : Group) : (g.advance).lHeld1 = g.lHeld1 := rfl
@[simp] theorem Group.advance_ticketS (g : Group) : (g.advance).ticketS = g.ticketS := rfl
@[simp] theorem Group.advance_ticket0 (g : Group) : (g.advance).ticket0 = g.ticket0 := rfl
@[simp] theorem Group.advance_ticket1 (g : Group) : (g.advance).ticket1 = g.ticket1 := rfl
@[simp] theorem Group.advance_from_ (g : Group) : (g.advance).from_ = g.from_ := rfl
@[simp] theorem Group.advance_lastS (g : Group) : (g.advance).lastS = g.lastS := rfl
@[simp] theorem Group.advance_lastL (g : Group) : (g.advance).lastL = g.lastL := rfl
@[simp] theorem Group.advance_promoS (g : Group) : (g.advance).promoS = g.promoS := rfl
@[simp] theorem Group.advance_promoL (g : Group) : (g.advance).promoL = g.promoL := rfl
@[simp] theorem Group.advance_allocHold (g : Group) : (g.advance).allocHold = g.allocHold := rfl
@[simp] theorem Group.advance_curbAsk (g : Group) : (g.advance).curbAsk = g.curbAsk := rfl
@[simp] theorem Group.advance_curbSince (g : Group) : (g.advance).curbSince = g.curbSince := rfl

@[simp] theorem Group.count_gidx (g : Group) (n : Nat) : (g.count n).gidx = g.gidx := rfl
@[simp] theorem Group.count_launch (g : Group) (n : Nat) : (g.count n).launch = g.launch := rfl
@[simp] theorem Group.count_team (g : Group) (n : Nat) : (g.count n).team = g.team := rfl
@[simp] theorem Group.count_spawnIdx (g : Group) (n : Nat) : (g.count n).spawnIdx = g.spawnIdx := rfl
@[simp] theorem Group.count_lanew (g : Group) (n : Nat) : (g.count n).lanew = g.lanew := rfl
@[simp] theorem Group.count_vregs (g : Group) (n : Nat) : (g.count n).vregs = g.vregs := rfl
@[simp] theorem Group.count_rb (g : Group) (n : Nat) : (g.count n).rb = g.rb := rfl
@[simp] theorem Group.count_reserve (g : Group) (n : Nat) : (g.count n).reserve = g.reserve := rfl
@[simp] theorem Group.count_s (g : Group) (n : Nat) : (g.count n).s = g.s := rfl
@[simp] theorem Group.count_spc (g : Group) (n : Nat) : (g.count n).spc = g.spc := rfl
@[simp] theorem Group.count_fmt (g : Group) (n : Nat) : (g.count n).fmt = g.fmt := rfl
@[simp] theorem Group.count_flags (g : Group) (n : Nat) : (g.count n).flags = g.flags := rfl
@[simp] theorem Group.count_cls (g : Group) (n : Nat) : (g.count n).cls = g.cls := rfl
@[simp] theorem Group.count_crit (g : Group) (n : Nat) : (g.count n).crit = g.crit := rfl
@[simp] theorem Group.count_v (g : Group) (n : Nat) : (g.count n).v = g.v := rfl
@[simp] theorem Group.count_p (g : Group) (n : Nat) : (g.count n).p = g.p := rfl
@[simp] theorem Group.count_live (g : Group) (n : Nat) : (g.count n).live = g.live := rfl
@[simp] theorem Group.count_laneQ (g : Group) (n : Nat) : (g.count n).laneQ = g.laneQ := rfl
@[simp] theorem Group.count_running (g : Group) (n : Nat) : (g.count n).running = g.running := rfl
@[simp] theorem Group.count_retQ (g : Group) (n : Nat) : (g.count n).retQ = g.retQ := rfl
@[simp] theorem Group.count_retAt (g : Group) (n : Nat) : (g.count n).retAt = g.retAt := rfl
@[simp] theorem Group.count_slot0 (g : Group) (n : Nat) : (g.count n).slot0 = g.slot0 := rfl
@[simp] theorem Group.count_slot1 (g : Group) (n : Nat) : (g.count n).slot1 = g.slot1 := rfl
@[simp] theorem Group.count_stack (g : Group) (n : Nat) : (g.count n).stack = g.stack := rfl
@[simp] theorem Group.count_nextPath (g : Group) (n : Nat) : (g.count n).nextPath = g.nextPath := rfl
@[simp] theorem Group.count_laneN (g : Group) (n : Nat) : (g.count n).laneN = g.laneN := rfl
@[simp] theorem Group.count_vputFull (g : Group) (n : Nat) : (g.count n).vputFull = g.vputFull := rfl
@[simp] theorem Group.count_posted (g : Group) (n : Nat) : (g.count n).posted = g.posted := rfl
@[simp] theorem Group.count_copyB (g : Group) (n : Nat) : (g.count n).copyB = g.copyB := rfl
@[simp] theorem Group.count_matB (g : Group) (n : Nat) : (g.count n).matB = g.matB := rfl
@[simp] theorem Group.count_lost (g : Group) (n : Nat) : (g.count n).lost = g.lost := rfl
@[simp] theorem Group.count_lostVa (g : Group) (n : Nat) : (g.count n).lostVa = g.lostVa := rfl
@[simp] theorem Group.count_blocked (g : Group) (n : Nat) : (g.count n).blocked = g.blocked := rfl
@[simp] theorem Group.count_lockReq (g : Group) (n : Nat) : (g.count n).lockReq = g.lockReq := rfl
@[simp] theorem Group.count_pageWait (g : Group) (n : Nat) : (g.count n).pageWait = g.pageWait := rfl
@[simp] theorem Group.count_refused (g : Group) (n : Nat) : (g.count n).refused = g.refused := rfl
@[simp] theorem Group.count_pageSince (g : Group) (n : Nat) : (g.count n).pageSince = g.pageSince := rfl
@[simp] theorem Group.count_sideWait (g : Group) (n : Nat) : (g.count n).sideWait = g.sideWait := rfl
@[simp] theorem Group.count_heldVer (g : Group) (n : Nat) : (g.count n).heldVer = g.heldVer := rfl
@[simp] theorem Group.count_cpysHdr (g : Group) (n : Nat) : (g.count n).cpysHdr = g.cpysHdr := rfl
@[simp] theorem Group.count_orun (g : Group) (n : Nat) : (g.count n).orun = g.orun := rfl
@[simp] theorem Group.count_noOver (g : Group) (n : Nat) : (g.count n).noOver = g.noOver := rfl
@[simp] theorem Group.count_parked (g : Group) (n : Nat) : (g.count n).parked = g.parked := rfl
@[simp] theorem Group.count_ending (g : Group) (n : Nat) : (g.count n).ending = g.ending := rfl
@[simp] theorem Group.count_pendHalt (g : Group) (n : Nat) : (g.count n).pendHalt = g.pendHalt := rfl
@[simp] theorem Group.count_pendCharge (g : Group) (n : Nat) : (g.count n).pendCharge = g.pendCharge := rfl
@[simp] theorem Group.count_pendStore (g : Group) (n : Nat) : (g.count n).pendStore = g.pendStore := rfl
@[simp] theorem Group.count_stallLogged (g : Group) (n : Nat) : (g.count n).stallLogged = g.stallLogged := rfl
@[simp] theorem Group.count_noWatch (g : Group) (n : Nat) : (g.count n).noWatch = g.noWatch := rfl
@[simp] theorem Group.count_heldUpd (g : Group) (n : Nat) : (g.count n).heldUpd = g.heldUpd := rfl
@[simp] theorem Group.count_stopping (g : Group) (n : Nat) : (g.count n).stopping = g.stopping := rfl
@[simp] theorem Group.count_sHeld (g : Group) (n : Nat) : (g.count n).sHeld = g.sHeld := rfl
@[simp] theorem Group.count_lHeld (g : Group) (n : Nat) : (g.count n).lHeld = g.lHeld := rfl
@[simp] theorem Group.count_lHeld1 (g : Group) (n : Nat) : (g.count n).lHeld1 = g.lHeld1 := rfl
@[simp] theorem Group.count_ticketS (g : Group) (n : Nat) : (g.count n).ticketS = g.ticketS := rfl
@[simp] theorem Group.count_ticket0 (g : Group) (n : Nat) : (g.count n).ticket0 = g.ticket0 := rfl
@[simp] theorem Group.count_ticket1 (g : Group) (n : Nat) : (g.count n).ticket1 = g.ticket1 := rfl
@[simp] theorem Group.count_from_ (g : Group) (n : Nat) : (g.count n).from_ = g.from_ := rfl
@[simp] theorem Group.count_lastS (g : Group) (n : Nat) : (g.count n).lastS = g.lastS := rfl
@[simp] theorem Group.count_lastL (g : Group) (n : Nat) : (g.count n).lastL = g.lastL := rfl
@[simp] theorem Group.count_promoS (g : Group) (n : Nat) : (g.count n).promoS = g.promoS := rfl
@[simp] theorem Group.count_promoL (g : Group) (n : Nat) : (g.count n).promoL = g.promoL := rfl
@[simp] theorem Group.count_allocHold (g : Group) (n : Nat) : (g.count n).allocHold = g.allocHold := rfl
@[simp] theorem Group.count_curbAsk (g : Group) (n : Nat) : (g.count n).curbAsk = g.curbAsk := rfl
@[simp] theorem Group.count_curbSince (g : Group) (n : Nat) : (g.count n).curbSince = g.curbSince := rfl

@[simp] theorem Group.laneIssued_gidx (g : Group) (x : Path) : (g.laneIssued x).gidx = g.gidx := rfl
@[simp] theorem Group.laneIssued_launch (g : Group) (x : Path) : (g.laneIssued x).launch = g.launch := rfl
@[simp] theorem Group.laneIssued_team (g : Group) (x : Path) : (g.laneIssued x).team = g.team := rfl
@[simp] theorem Group.laneIssued_spawnIdx (g : Group) (x : Path) : (g.laneIssued x).spawnIdx = g.spawnIdx := rfl
@[simp] theorem Group.laneIssued_lanew (g : Group) (x : Path) : (g.laneIssued x).lanew = g.lanew := rfl
@[simp] theorem Group.laneIssued_vregs (g : Group) (x : Path) : (g.laneIssued x).vregs = g.vregs := rfl
@[simp] theorem Group.laneIssued_rb (g : Group) (x : Path) : (g.laneIssued x).rb = g.rb := rfl
@[simp] theorem Group.laneIssued_reserve (g : Group) (x : Path) : (g.laneIssued x).reserve = g.reserve := rfl
@[simp] theorem Group.laneIssued_s (g : Group) (x : Path) : (g.laneIssued x).s = g.s := rfl
@[simp] theorem Group.laneIssued_spc (g : Group) (x : Path) : (g.laneIssued x).spc = g.spc := rfl
@[simp] theorem Group.laneIssued_fmt (g : Group) (x : Path) : (g.laneIssued x).fmt = g.fmt := rfl
@[simp] theorem Group.laneIssued_flags (g : Group) (x : Path) : (g.laneIssued x).flags = g.flags := rfl
@[simp] theorem Group.laneIssued_cls (g : Group) (x : Path) : (g.laneIssued x).cls = g.cls := rfl
@[simp] theorem Group.laneIssued_crit (g : Group) (x : Path) : (g.laneIssued x).crit = g.crit := rfl
@[simp] theorem Group.laneIssued_v (g : Group) (x : Path) : (g.laneIssued x).v = g.v := rfl
@[simp] theorem Group.laneIssued_p (g : Group) (x : Path) : (g.laneIssued x).p = g.p := rfl
@[simp] theorem Group.laneIssued_live (g : Group) (x : Path) : (g.laneIssued x).live = g.live := rfl
@[simp] theorem Group.laneIssued_laneQ (g : Group) (x : Path) : (g.laneIssued x).laneQ = g.laneQ := rfl
@[simp] theorem Group.laneIssued_running (g : Group) (x : Path) : (g.laneIssued x).running = g.running := rfl
@[simp] theorem Group.laneIssued_retQ (g : Group) (x : Path) : (g.laneIssued x).retQ = g.retQ := rfl
@[simp] theorem Group.laneIssued_retAt (g : Group) (x : Path) : (g.laneIssued x).retAt = g.retAt := rfl
@[simp] theorem Group.laneIssued_slot0 (g : Group) (x : Path) : (g.laneIssued x).slot0 = g.slot0 := rfl
@[simp] theorem Group.laneIssued_slot1 (g : Group) (x : Path) : (g.laneIssued x).slot1 = g.slot1 := rfl
@[simp] theorem Group.laneIssued_stack (g : Group) (x : Path) : (g.laneIssued x).stack = g.stack := rfl
@[simp] theorem Group.laneIssued_nextPath (g : Group) (x : Path) : (g.laneIssued x).nextPath = g.nextPath := rfl
@[simp] theorem Group.laneIssued_vputFull (g : Group) (x : Path) : (g.laneIssued x).vputFull = g.vputFull := rfl
@[simp] theorem Group.laneIssued_posted (g : Group) (x : Path) : (g.laneIssued x).posted = g.posted := rfl
@[simp] theorem Group.laneIssued_copyB (g : Group) (x : Path) : (g.laneIssued x).copyB = g.copyB := rfl
@[simp] theorem Group.laneIssued_matB (g : Group) (x : Path) : (g.laneIssued x).matB = g.matB := rfl
@[simp] theorem Group.laneIssued_lost (g : Group) (x : Path) : (g.laneIssued x).lost = g.lost := rfl
@[simp] theorem Group.laneIssued_lostVa (g : Group) (x : Path) : (g.laneIssued x).lostVa = g.lostVa := rfl
@[simp] theorem Group.laneIssued_blocked (g : Group) (x : Path) : (g.laneIssued x).blocked = g.blocked := rfl
@[simp] theorem Group.laneIssued_lockReq (g : Group) (x : Path) : (g.laneIssued x).lockReq = g.lockReq := rfl
@[simp] theorem Group.laneIssued_pageWait (g : Group) (x : Path) : (g.laneIssued x).pageWait = g.pageWait := rfl
@[simp] theorem Group.laneIssued_pageSince (g : Group) (x : Path) : (g.laneIssued x).pageSince = g.pageSince := rfl
@[simp] theorem Group.laneIssued_heldVer (g : Group) (x : Path) : (g.laneIssued x).heldVer = g.heldVer := rfl
@[simp] theorem Group.laneIssued_cpysHdr (g : Group) (x : Path) : (g.laneIssued x).cpysHdr = g.cpysHdr := rfl
@[simp] theorem Group.laneIssued_orun (g : Group) (x : Path) : (g.laneIssued x).orun = g.orun := rfl
@[simp] theorem Group.laneIssued_noOver (g : Group) (x : Path) : (g.laneIssued x).noOver = g.noOver := rfl
@[simp] theorem Group.laneIssued_parked (g : Group) (x : Path) : (g.laneIssued x).parked = g.parked := rfl
@[simp] theorem Group.laneIssued_ending (g : Group) (x : Path) : (g.laneIssued x).ending = g.ending := rfl
@[simp] theorem Group.laneIssued_pendHalt (g : Group) (x : Path) : (g.laneIssued x).pendHalt = g.pendHalt := rfl
@[simp] theorem Group.laneIssued_pendCharge (g : Group) (x : Path) : (g.laneIssued x).pendCharge = g.pendCharge := rfl
@[simp] theorem Group.laneIssued_pendStore (g : Group) (x : Path) : (g.laneIssued x).pendStore = g.pendStore := rfl
@[simp] theorem Group.laneIssued_stallLogged (g : Group) (x : Path) : (g.laneIssued x).stallLogged = g.stallLogged := rfl
@[simp] theorem Group.laneIssued_noWatch (g : Group) (x : Path) : (g.laneIssued x).noWatch = g.noWatch := rfl
@[simp] theorem Group.laneIssued_heldUpd (g : Group) (x : Path) : (g.laneIssued x).heldUpd = g.heldUpd := rfl
@[simp] theorem Group.laneIssued_stopping (g : Group) (x : Path) : (g.laneIssued x).stopping = g.stopping := rfl
@[simp] theorem Group.laneIssued_sHeld (g : Group) (x : Path) : (g.laneIssued x).sHeld = g.sHeld := rfl
@[simp] theorem Group.laneIssued_lHeld (g : Group) (x : Path) : (g.laneIssued x).lHeld = g.lHeld := rfl
@[simp] theorem Group.laneIssued_lHeld1 (g : Group) (x : Path) : (g.laneIssued x).lHeld1 = g.lHeld1 := rfl
@[simp] theorem Group.laneIssued_ticketS (g : Group) (x : Path) : (g.laneIssued x).ticketS = g.ticketS := rfl
@[simp] theorem Group.laneIssued_ticket0 (g : Group) (x : Path) : (g.laneIssued x).ticket0 = g.ticket0 := rfl
@[simp] theorem Group.laneIssued_ticket1 (g : Group) (x : Path) : (g.laneIssued x).ticket1 = g.ticket1 := rfl
@[simp] theorem Group.laneIssued_from_ (g : Group) (x : Path) : (g.laneIssued x).from_ = g.from_ := rfl
@[simp] theorem Group.laneIssued_lastS (g : Group) (x : Path) : (g.laneIssued x).lastS = g.lastS := rfl
@[simp] theorem Group.laneIssued_lastL (g : Group) (x : Path) : (g.laneIssued x).lastL = g.lastL := rfl
@[simp] theorem Group.laneIssued_promoS (g : Group) (x : Path) : (g.laneIssued x).promoS = g.promoS := rfl
@[simp] theorem Group.laneIssued_promoL (g : Group) (x : Path) : (g.laneIssued x).promoL = g.promoL := rfl
@[simp] theorem Group.laneIssued_allocHold (g : Group) (x : Path) : (g.laneIssued x).allocHold = g.allocHold := rfl
@[simp] theorem Group.laneIssued_curbAsk (g : Group) (x : Path) : (g.laneIssued x).curbAsk = g.curbAsk := rfl
@[simp] theorem Group.laneIssued_curbSince (g : Group) (x : Path) : (g.laneIssued x).curbSince = g.curbSince := rfl

@[simp] theorem Group.stepPath_gidx (g : Group) (n : Nat) (x : Path) : (g.stepPath n x).gidx = g.gidx := by
  unfold Group.stepPath; simp
@[simp] theorem Group.stepPath_launch (g : Group) (n : Nat) (x : Path) : (g.stepPath n x).launch = g.launch := by
  unfold Group.stepPath; simp
@[simp] theorem Group.stepPath_team (g : Group) (n : Nat) (x : Path) : (g.stepPath n x).team = g.team := by
  unfold Group.stepPath; simp
@[simp] theorem Group.stepPath_spawnIdx (g : Group) (n : Nat) (x : Path) : (g.stepPath n x).spawnIdx = g.spawnIdx := by
  unfold Group.stepPath; simp
@[simp] theorem Group.stepPath_lanew (g : Group) (n : Nat) (x : Path) : (g.stepPath n x).lanew = g.lanew := by
  unfold Group.stepPath; simp
@[simp] theorem Group.stepPath_vregs (g : Group) (n : Nat) (x : Path) : (g.stepPath n x).vregs = g.vregs := by
  unfold Group.stepPath; simp
@[simp] theorem Group.stepPath_rb (g : Group) (n : Nat) (x : Path) : (g.stepPath n x).rb = g.rb := by
  unfold Group.stepPath; simp
@[simp] theorem Group.stepPath_reserve (g : Group) (n : Nat) (x : Path) : (g.stepPath n x).reserve = g.reserve := by
  unfold Group.stepPath; simp
@[simp] theorem Group.stepPath_s (g : Group) (n : Nat) (x : Path) : (g.stepPath n x).s = g.s := by
  unfold Group.stepPath; simp
@[simp] theorem Group.stepPath_spc (g : Group) (n : Nat) (x : Path) : (g.stepPath n x).spc = g.spc := by
  unfold Group.stepPath; simp
@[simp] theorem Group.stepPath_fmt (g : Group) (n : Nat) (x : Path) : (g.stepPath n x).fmt = g.fmt := by
  unfold Group.stepPath; simp
@[simp] theorem Group.stepPath_flags (g : Group) (n : Nat) (x : Path) : (g.stepPath n x).flags = g.flags := by
  unfold Group.stepPath; simp
@[simp] theorem Group.stepPath_cls (g : Group) (n : Nat) (x : Path) : (g.stepPath n x).cls = g.cls := by
  unfold Group.stepPath; simp
@[simp] theorem Group.stepPath_crit (g : Group) (n : Nat) (x : Path) : (g.stepPath n x).crit = g.crit := by
  unfold Group.stepPath; simp
@[simp] theorem Group.stepPath_v (g : Group) (n : Nat) (x : Path) : (g.stepPath n x).v = g.v := by
  unfold Group.stepPath; simp
@[simp] theorem Group.stepPath_p (g : Group) (n : Nat) (x : Path) : (g.stepPath n x).p = g.p := by
  unfold Group.stepPath; simp
@[simp] theorem Group.stepPath_live (g : Group) (n : Nat) (x : Path) : (g.stepPath n x).live = g.live := by
  unfold Group.stepPath; simp
@[simp] theorem Group.stepPath_laneQ (g : Group) (n : Nat) (x : Path) : (g.stepPath n x).laneQ = g.laneQ := by
  unfold Group.stepPath; simp
@[simp] theorem Group.stepPath_running (g : Group) (n : Nat) (x : Path) : (g.stepPath n x).running = g.running := by
  unfold Group.stepPath; simp
@[simp] theorem Group.stepPath_retQ (g : Group) (n : Nat) (x : Path) : (g.stepPath n x).retQ = g.retQ := by
  unfold Group.stepPath; simp
@[simp] theorem Group.stepPath_retAt (g : Group) (n : Nat) (x : Path) : (g.stepPath n x).retAt = g.retAt := by
  unfold Group.stepPath; simp
@[simp] theorem Group.stepPath_stack (g : Group) (n : Nat) (x : Path) : (g.stepPath n x).stack = g.stack := by
  unfold Group.stepPath; simp
@[simp] theorem Group.stepPath_nextPath (g : Group) (n : Nat) (x : Path) : (g.stepPath n x).nextPath = g.nextPath := by
  unfold Group.stepPath; simp
@[simp] theorem Group.stepPath_vputFull (g : Group) (n : Nat) (x : Path) : (g.stepPath n x).vputFull = g.vputFull := by
  unfold Group.stepPath; simp
@[simp] theorem Group.stepPath_posted (g : Group) (n : Nat) (x : Path) : (g.stepPath n x).posted = g.posted := by
  unfold Group.stepPath; simp
@[simp] theorem Group.stepPath_copyB (g : Group) (n : Nat) (x : Path) : (g.stepPath n x).copyB = g.copyB := by
  unfold Group.stepPath; simp
@[simp] theorem Group.stepPath_matB (g : Group) (n : Nat) (x : Path) : (g.stepPath n x).matB = g.matB := by
  unfold Group.stepPath; simp
@[simp] theorem Group.stepPath_lost (g : Group) (n : Nat) (x : Path) : (g.stepPath n x).lost = g.lost := by
  unfold Group.stepPath; simp
@[simp] theorem Group.stepPath_lostVa (g : Group) (n : Nat) (x : Path) : (g.stepPath n x).lostVa = g.lostVa := by
  unfold Group.stepPath; simp
@[simp] theorem Group.stepPath_blocked (g : Group) (n : Nat) (x : Path) : (g.stepPath n x).blocked = g.blocked := by
  unfold Group.stepPath; simp
@[simp] theorem Group.stepPath_lockReq (g : Group) (n : Nat) (x : Path) : (g.stepPath n x).lockReq = g.lockReq := by
  unfold Group.stepPath; simp
@[simp] theorem Group.stepPath_pageWait (g : Group) (n : Nat) (x : Path) : (g.stepPath n x).pageWait = g.pageWait := by
  unfold Group.stepPath; simp
@[simp] theorem Group.stepPath_pageSince (g : Group) (n : Nat) (x : Path) : (g.stepPath n x).pageSince = g.pageSince := by
  unfold Group.stepPath; simp
@[simp] theorem Group.stepPath_heldVer (g : Group) (n : Nat) (x : Path) : (g.stepPath n x).heldVer = g.heldVer := by
  unfold Group.stepPath; simp
@[simp] theorem Group.stepPath_cpysHdr (g : Group) (n : Nat) (x : Path) : (g.stepPath n x).cpysHdr = g.cpysHdr := by
  unfold Group.stepPath; simp
@[simp] theorem Group.stepPath_orun (g : Group) (n : Nat) (x : Path) : (g.stepPath n x).orun = g.orun := by
  unfold Group.stepPath; simp
@[simp] theorem Group.stepPath_noOver (g : Group) (n : Nat) (x : Path) : (g.stepPath n x).noOver = g.noOver := by
  unfold Group.stepPath; simp
@[simp] theorem Group.stepPath_parked (g : Group) (n : Nat) (x : Path) : (g.stepPath n x).parked = g.parked := by
  unfold Group.stepPath; simp
@[simp] theorem Group.stepPath_ending (g : Group) (n : Nat) (x : Path) : (g.stepPath n x).ending = g.ending := by
  unfold Group.stepPath; simp
@[simp] theorem Group.stepPath_pendHalt (g : Group) (n : Nat) (x : Path) : (g.stepPath n x).pendHalt = g.pendHalt := by
  unfold Group.stepPath; simp
@[simp] theorem Group.stepPath_pendCharge (g : Group) (n : Nat) (x : Path) : (g.stepPath n x).pendCharge = g.pendCharge := by
  unfold Group.stepPath; simp
@[simp] theorem Group.stepPath_pendStore (g : Group) (n : Nat) (x : Path) : (g.stepPath n x).pendStore = g.pendStore := by
  unfold Group.stepPath; simp
@[simp] theorem Group.stepPath_stallLogged (g : Group) (n : Nat) (x : Path) : (g.stepPath n x).stallLogged = g.stallLogged := by
  unfold Group.stepPath; simp
@[simp] theorem Group.stepPath_noWatch (g : Group) (n : Nat) (x : Path) : (g.stepPath n x).noWatch = g.noWatch := by
  unfold Group.stepPath; simp
@[simp] theorem Group.stepPath_heldUpd (g : Group) (n : Nat) (x : Path) : (g.stepPath n x).heldUpd = g.heldUpd := by
  unfold Group.stepPath; simp
@[simp] theorem Group.stepPath_stopping (g : Group) (n : Nat) (x : Path) : (g.stepPath n x).stopping = g.stopping := by
  unfold Group.stepPath; simp
@[simp] theorem Group.stepPath_sHeld (g : Group) (n : Nat) (x : Path) : (g.stepPath n x).sHeld = g.sHeld := by
  unfold Group.stepPath; simp
@[simp] theorem Group.stepPath_lHeld (g : Group) (n : Nat) (x : Path) : (g.stepPath n x).lHeld = g.lHeld := by
  unfold Group.stepPath; simp
@[simp] theorem Group.stepPath_lHeld1 (g : Group) (n : Nat) (x : Path) : (g.stepPath n x).lHeld1 = g.lHeld1 := by
  unfold Group.stepPath; simp
@[simp] theorem Group.stepPath_ticketS (g : Group) (n : Nat) (x : Path) : (g.stepPath n x).ticketS = g.ticketS := by
  unfold Group.stepPath; simp
@[simp] theorem Group.stepPath_ticket0 (g : Group) (n : Nat) (x : Path) : (g.stepPath n x).ticket0 = g.ticket0 := by
  unfold Group.stepPath; simp
@[simp] theorem Group.stepPath_ticket1 (g : Group) (n : Nat) (x : Path) : (g.stepPath n x).ticket1 = g.ticket1 := by
  unfold Group.stepPath; simp
@[simp] theorem Group.stepPath_from_ (g : Group) (n : Nat) (x : Path) : (g.stepPath n x).from_ = g.from_ := by
  unfold Group.stepPath; simp
@[simp] theorem Group.stepPath_lastS (g : Group) (n : Nat) (x : Path) : (g.stepPath n x).lastS = g.lastS := by
  unfold Group.stepPath; simp
@[simp] theorem Group.stepPath_lastL (g : Group) (n : Nat) (x : Path) : (g.stepPath n x).lastL = g.lastL := by
  unfold Group.stepPath; simp
@[simp] theorem Group.stepPath_promoS (g : Group) (n : Nat) (x : Path) : (g.stepPath n x).promoS = g.promoS := by
  unfold Group.stepPath; simp
@[simp] theorem Group.stepPath_promoL (g : Group) (n : Nat) (x : Path) : (g.stepPath n x).promoL = g.promoL := by
  unfold Group.stepPath; simp
@[simp] theorem Group.stepPath_allocHold (g : Group) (n : Nat) (x : Path) : (g.stepPath n x).allocHold = g.allocHold := by
  unfold Group.stepPath; simp
@[simp] theorem Group.stepPath_curbAsk (g : Group) (n : Nat) (x : Path) : (g.stepPath n x).curbAsk = g.curbAsk := by
  unfold Group.stepPath; simp
@[simp] theorem Group.stepPath_curbSince (g : Group) (n : Nat) (x : Path) : (g.stepPath n x).curbSince = g.curbSince := by
  unfold Group.stepPath; simp

@[simp] theorem Group.advance_spc (g : Group) : g.advance.spc = g.spc + 4 := rfl
/-- s0 reads zero (R161). -/
@[simp] theorem Group.reg_zero (g : Group) : g.reg 0 = 0 := rfl
/-- What every register reads after one is written: a write to s0 is discarded (R161). -/
theorem Group.reg_setReg (g : Group) (d : Reg) (x : W64) (r : Reg) :
    (g.setReg d x).reg r = if r = d ∧ d ≠ 0 then x else g.reg r := by
  unfold Group.setReg
  by_cases hd : d = 0
  · rw [if_pos hd, if_neg (fun h => h.2 hd)]
  · rw [if_neg hd]
    by_cases hr : r = d
    · subst hr; rw [if_pos ⟨rfl, hd⟩]; unfold Group.reg; rw [if_neg hd]; exact Tbl.get_set_self _ _ _ _
    · have hn : r.toNat ≠ d.toNat := fun h => hr (BitVec.eq_of_toNat_eq h)
      rw [if_neg (fun h => hr h.1)]; unfold Group.reg; split
      · rfl
      · exact Tbl.get_set_other _ _ _ _ _ hn
@[simp] theorem Group.advance_reg (g : Group) (r : Reg) : g.advance.reg r = g.reg r := rfl
@[simp] theorem Group.advance_vreg (g : Group) (n l : Nat) : g.advance.vreg n l = g.vreg n l := rfl
@[simp] theorem Group.advance_pred (g : Group) (n : Nat) : g.advance.pred n = g.pred n := rfl
@[simp] theorem Group.setReg_vreg (g : Group) (r : Reg) (x : W64) (n l : Nat) : (g.setReg r x).vreg n l = g.vreg n l := by
  simp [Group.vreg]
@[simp] theorem Group.setReg_pred (g : Group) (r : Reg) (x : W64) (n : Nat) : (g.setReg r x).pred n = g.pred n := by
  simp [Group.pred]
@[simp] theorem Group.vreg_setVreg_self (g : Group) (n l : Nat) (x : W32) : (g.setVreg n l x).vreg n l = x := Tbl.get_set_self _ _ _ _
theorem Group.vreg_setVreg_other (g : Group) (n l m k : Nat) (x : W32) (h : 64 * m + k ≠ 64 * n + l) :
    (g.setVreg n l x).vreg m k = g.vreg m k := Tbl.get_set_other _ _ _ _ _ h
@[simp] theorem Group.setVreg_reg (g : Group) (n l : Nat) (x : W32) (r : Reg) : (g.setVreg n l x).reg r = g.reg r := rfl
@[simp] theorem Group.setVreg_pred (g : Group) (n l : Nat) (x : W32) (i : Nat) : (g.setVreg n l x).pred i = g.pred i := rfl
/-- p7 reads 1 in every lane (R180). -/
theorem Group.pred_seven (g : Group) : g.pred 7 = lanesMask g.lanew := rfl
/-- What every predicate reads after one is written: a write to p7 is discarded (R180). -/
theorem Group.pred_setPred (g : Group) (n : Nat) (x : W64) (i : Nat) :
    (g.setPred n x).pred i = if i = n ∧ n ≠ 7 then x &&& lanesMask g.lanew else g.pred i := by
  unfold Group.setPred
  by_cases hn : n = 7
  · simp [hn]
  · by_cases hi : i = n
    · subst hi; simp [hn, Group.pred]
    · by_cases h7 : i = 7
      · subst h7; simp [hn, hi, Group.pred]
      · simp [hn, hi, h7, Group.pred, Tbl.get_set_other _ _ _ _ _ hi]
@[simp] theorem Group.setPath_self (g : Group) (n : Nat) (p : Option Path) : (g.setPath n p).path? n = p := by
  unfold Group.setPath Group.path?; split <;> simp_all
@[simp] theorem Group.stepPath_vreg (g : Group) (k : Nat) (p : Path) (n l : Nat) : (g.stepPath k p).vreg n l = g.vreg n l := by
  simp [Group.vreg]
@[simp] theorem Group.stepPath_reg (g : Group) (k : Nat) (p : Path) (r : Reg) : (g.stepPath k p).reg r = g.reg r := by
  simp [Group.reg]
@[simp] theorem Group.stepPath_pred (g : Group) (k : Nat) (p : Path) (n : Nat) : (g.stepPath k p).pred n = g.pred n := by
  simp [Group.pred]
/-- A path that has issued stands at its next word (R144). -/
@[simp] theorem Group.stepPath_self (g : Group) (k : Nat) (p : Path) : (g.stepPath k p).path? k =
    some { p with pc := p.pc + 1, redo := none, noWatch := false, far := 0, last := g.laneN + 1 } := by
  unfold Group.stepPath; simp [Group.issuedPath]

end Sys2Proof.Machine
end

