-- ==== Sys2Proof/Laws/Ops.lean ====
section
/-! SUPPORT. One lemma per shared operation of the meanings: all that it can do, for later proofs to cite instead of unfolding it. -/

namespace Sys2Proof.Machine

/-! Frames. -/

/-- Putting one group changes only that group. -/
theorem OnlyGroup.setGroup (s : State) (k : Nat) (g : Group) : OnlyGroup s (s.setGroup k g) k :=
  ⟨rfl, fun j h => State.setGroup_other s k g j h⟩

/-- A changed group leaves every byte of memory that is not in a register window as it was: committed memory, scratchpads and slots. -/
theorem OnlyGroup.mem {s t : State} {k : Nat} (h : OnlyGroup s t k) : t.mem = s.mem ∧ t.llc = s.llc := by
  rw [h.1]; exact ⟨rfl, rfl⟩

/-! Scalar frames. -/

/-- A scalar meaning of the issuing group. -/
theorem scalar_eq {s : State} {g : Group} (h : s.group? s.cur = some g) (k : Nat → Group → Res) : scalar s k = k s.cur g := by
  unfold scalar; rw [h]

/-- No scalar meaning goes on without an issuing group. -/
theorem scalar_none {s : State} (h : s.group? s.cur = none) (k : Nat → Group → Res) : scalar s k = .fault .noGroup := by
  unfold scalar; rw [h]

/-- An instruction that has issued: its group changed as asked and advanced, nothing else. -/
theorem State.done_eq {s : State} {gid : Nat} {g : Group} (h : s.group? gid = some g) (f : Group → Group) :
    s.done gid f = s.setGroup gid (f g).advance := by
  unfold State.done; rw [State.updGroup_eq s gid _ g h]

/-- A register result: the register written, the next instruction due. -/
theorem setResult_eq {s : State} {g : Group} (h : s.group? s.cur = some g) (d : Reg) (f : Group → W64) :
    setResult s d f = .next (s.setGroup s.cur (g.setReg d (f g)).advance) := by
  unfold setResult; rw [scalar_eq h, State.done_eq h]

/-- A group whose register is written and that advances has changed only as a scalar instruction may. -/
theorem OnlyScalar.setReg (g : Group) (d : Reg) (v : W64) : OnlyScalar g (g.setReg d v).advance := by
  unfold OnlyScalar Group.setReg; split <;> rfl

/-- What a register result means (R161): for every register, the PC and everything else. -/
theorem ScalarResult.intro {s : State} {g : Group} {i : Instr} {d : Reg} {v : W64}
    (h : exec i s = .next (s.setGroup s.cur (g.setReg d v).advance)) : ScalarResult s g i d v :=
  ⟨_, _, h, OnlyGroup.setGroup _ _ _, State.setGroup_self _ _ _, OnlyScalar.setReg _ _ _,
    fun r => by rw [Group.advance_reg, Group.reg_setReg], by rw [Group.advance_spc, Group.setReg_spc]⟩

/-- A stall leaves the mark of the hold and nothing else. -/
theorem stallS_eq {s : State} {g : Group} (h : s.group? s.cur = some g) :
    s.stallS = .next (s.setGroup s.cur { (g.heldBy 0) with sHeld := s.epoch + 1 }) := by
  unfold State.stallS; rw [State.updGroup_eq s _ _ g h]

/-- A group that is not overreaching is not held by an instruction that overreach stalls (R233). -/
theorem settled_eq {s : State} {g : Group} (h : g.orun = none) (k : Res) : settled s g k = k := by
  unfold settled; rw [h]; rfl

/-- With no posted store there is nothing to perform (R247). -/
theorem drain_none {s : State} {gid : Nat} {g : Group} (h : s.group? gid = some g) (hp : g.posted = []) :
    s.drain gid = .ok () s := by
  unfold State.drain; rw [h]; simp [hp, State.performAll]

/-- A packet of a group that is not traced is not written (R432). -/
theorem packet_none {s : State} {gid : Nat} {g : Group} {ty : Nat} {bs : List Byte}
    (h : s.traced (s.launchOf g) g.launch = false) : s.packet gid g ty bs = s := by
  unfold State.packet; simp [h]

end Sys2Proof.Machine
end

