-- ==== Sys2Proof/Laws/PerInstr.lean ====
section
/-! SUPPORT. A family of facts about every instruction as syntax: its encoding fills no more than its words (R62-R65, R73). -/

namespace Sys2Proof.Laws.Encoding

/-- The encoding of an instruction lies in the 32-bit words it has: one, three for a lane word, none for an event (R62, R63). -/
def Statement (i : Instr) : Prop := encode i < 2 ^ (32 * i.words)

theorem encR_lt {op fn d a b : Nat} (h0 : op < 64) (h1 : fn < 2048) (h2 : d < 32) (h3 : a < 32) (h4 : b < 32) :
    encR op fn d a b < 2 ^ 32 := by unfold encR; omega
theorem encI_lt {op d a i : Nat} (h0 : op < 64) (h2 : d < 32) (h3 : a < 32) (h4 : i < 65536) : encI op d a i < 2 ^ 32 := by
  unfold encI; omega
theorem encM_lt {op d a sz q off : Nat} (h0 : op < 64) (h1 : d < 32) (h2 : a < 32) (h3 : sz < 4) (h4 : q < 4) (h5 : off < 4096) :
    encM op d a sz q off < 2 ^ 32 := by unfold encM; omega
theorem encJ_lt {op off : Nat} (h0 : op < 64) (h1 : off < 2 ^ 26) : encJ op off < 2 ^ 32 := by unfold encJ; omega
theorem encE_lt {op fn d a b c : Nat} (h0 : op < 64) (h1 : fn < 64) (h2 : d < 32) (h3 : a < 32) (h4 : b < 32) (h5 : c < 32) :
    encE op fn d a b c < 2 ^ 32 := by unfold encE; omega
theorem encE10_lt {op fn d a i : Nat} (h0 : op < 64) (h1 : fn < 64) (h2 : d < 32) (h3 : a < 32) (h4 : i < 1024) :
    encE10 op fn d a i < 2 ^ 32 := by unfold encE10; omega
theorem encH_lt {op fn x y lo : Nat} (h0 : op < 64) (h1 : fn < 16) (h2 : x < 64) (h3 : y < 64) (h4 : lo < 1024) :
    encH op fn x y lo < 2 ^ 32 := by unfold encH; omega
theorem Order.code_lt (o : Order) : o.code < 4 := by cases o <;> decide
theorem Scope.code_lt (s : Scope) : s.code < 6 := by cases s <;> decide
theorem Size.code_lt (s : Size) : s.code < 4 := by cases s <;> decide
theorem WaitKind.code_lt (k : WaitKind) : k.code < 32 := by cases k <;> decide
theorem Cond.code_lt (c : Cond) : c.code < 8 := by cases c <;> decide
theorem Ty.code_lt (t : Ty) : t.code < 16 := by cases t <;> decide
theorem bool_lt (b : Bool) : b.toNat < 2 := by cases b <;> decide
theorem encA_lt {fn d a b : Nat} {o : Order} {sc : Scope} {w : Bool} (h0 : fn < 32) (h1 : d < 32) (h2 : a < 32) (h3 : b < 32) :
    encA fn d a b o sc w < 2 ^ 32 := by
  have := Order.code_lt o; have := Scope.code_lt sc; have := bool_lt w; unfold encA; omega
theorem encL_lt {op fn : Nat} (w : LaneWord) (h0 : op < 256) (h1 : fn < 256) : encL op fn w < 2 ^ 96 := by
  have := bool_lt w.gn; have := w.gp.isLt; have := w.la.isLt; have := w.vd.isLt; have := w.va.isLt; have := w.vb.isLt
  have := w.vc.isLt; have := Ty.code_lt w.ty; have := w.md.isLt; have := w.x32.isLt
  unfold encL; omega

theorem add (d : Reg) (a : Reg) (b : Reg) : Statement (.add d a b) := encR_lt (by decide) (by decide) d.isLt a.isLt b.isLt
theorem sub (d : Reg) (a : Reg) (b : Reg) : Statement (.sub d a b) := encR_lt (by decide) (by decide) d.isLt a.isLt b.isLt
theorem mul (d : Reg) (a : Reg) (b : Reg) : Statement (.mul d a b) := encR_lt (by decide) (by decide) d.isLt a.isLt b.isLt
theorem mulh (d : Reg) (a : Reg) (b : Reg) : Statement (.mulh d a b) := encR_lt (by decide) (by decide) d.isLt a.isLt b.isLt
theorem mulhn (d : Reg) (a : Reg) (b : Reg) : Statement (.mulhn d a b) := encR_lt (by decide) (by decide) d.isLt a.isLt b.isLt
theorem div (d : Reg) (a : Reg) (b : Reg) : Statement (.div d a b) := encR_lt (by decide) (by decide) d.isLt a.isLt b.isLt
theorem divn (d : Reg) (a : Reg) (b : Reg) : Statement (.divn d a b) := encR_lt (by decide) (by decide) d.isLt a.isLt b.isLt
theorem rem (d : Reg) (a : Reg) (b : Reg) : Statement (.rem d a b) := encR_lt (by decide) (by decide) d.isLt a.isLt b.isLt
theorem remn (d : Reg) (a : Reg) (b : Reg) : Statement (.remn d a b) := encR_lt (by decide) (by decide) d.isLt a.isLt b.isLt
theorem and (d : Reg) (a : Reg) (b : Reg) : Statement (.and d a b) := encR_lt (by decide) (by decide) d.isLt a.isLt b.isLt
theorem or (d : Reg) (a : Reg) (b : Reg) : Statement (.or d a b) := encR_lt (by decide) (by decide) d.isLt a.isLt b.isLt
theorem xor (d : Reg) (a : Reg) (b : Reg) : Statement (.xor d a b) := encR_lt (by decide) (by decide) d.isLt a.isLt b.isLt
theorem shl (d : Reg) (a : Reg) (b : Reg) : Statement (.shl d a b) := encR_lt (by decide) (by decide) d.isLt a.isLt b.isLt
theorem shr (d : Reg) (a : Reg) (b : Reg) : Statement (.shr d a b) := encR_lt (by decide) (by decide) d.isLt a.isLt b.isLt
theorem sra (d : Reg) (a : Reg) (b : Reg) : Statement (.sra d a b) := encR_lt (by decide) (by decide) d.isLt a.isLt b.isLt
theorem min (d : Reg) (a : Reg) (b : Reg) : Statement (.min d a b) := encR_lt (by decide) (by decide) d.isLt a.isLt b.isLt
theorem max (d : Reg) (a : Reg) (b : Reg) : Statement (.max d a b) := encR_lt (by decide) (by decide) d.isLt a.isLt b.isLt
theorem minn (d : Reg) (a : Reg) (b : Reg) : Statement (.minn d a b) := encR_lt (by decide) (by decide) d.isLt a.isLt b.isLt
theorem maxn (d : Reg) (a : Reg) (b : Reg) : Statement (.maxn d a b) := encR_lt (by decide) (by decide) d.isLt a.isLt b.isLt
theorem slt (d : Reg) (a : Reg) (b : Reg) : Statement (.slt d a b) := encR_lt (by decide) (by decide) d.isLt a.isLt b.isLt
theorem sltn (d : Reg) (a : Reg) (b : Reg) : Statement (.sltn d a b) := encR_lt (by decide) (by decide) d.isLt a.isLt b.isLt
theorem seq (d : Reg) (a : Reg) (b : Reg) : Statement (.seq d a b) := encR_lt (by decide) (by decide) d.isLt a.isLt b.isLt
theorem sne (d : Reg) (a : Reg) (b : Reg) : Statement (.sne d a b) := encR_lt (by decide) (by decide) d.isLt a.isLt b.isLt
theorem clz (d : Reg) (a : Reg) : Statement (.clz d a) := encR_lt (by decide) (by decide) d.isLt a.isLt (by decide)
theorem ctz (d : Reg) (a : Reg) : Statement (.ctz d a) := encR_lt (by decide) (by decide) d.isLt a.isLt (by decide)
theorem popc (d : Reg) (a : Reg) : Statement (.popc d a) := encR_lt (by decide) (by decide) d.isLt a.isLt (by decide)
theorem sextB (d : Reg) (a : Reg) : Statement (.sextB d a) := encR_lt (by decide) (by decide) d.isLt a.isLt (by decide)
theorem sextH (d : Reg) (a : Reg) : Statement (.sextH d a) := encR_lt (by decide) (by decide) d.isLt a.isLt (by decide)
theorem sextW (d : Reg) (a : Reg) : Statement (.sextW d a) := encR_lt (by decide) (by decide) d.isLt a.isLt (by decide)
theorem zextB (d : Reg) (a : Reg) : Statement (.zextB d a) := encR_lt (by decide) (by decide) d.isLt a.isLt (by decide)
theorem zextH (d : Reg) (a : Reg) : Statement (.zextH d a) := encR_lt (by decide) (by decide) d.isLt a.isLt (by decide)
theorem zextW (d : Reg) (a : Reg) : Statement (.zextW d a) := encR_lt (by decide) (by decide) d.isLt a.isLt (by decide)
theorem addi (d : Reg) (a : Reg) (i : BitVec 16) : Statement (.addi d a i) := encI_lt (by decide) d.isLt a.isLt (by have := i.isLt; omega)
theorem andi (d : Reg) (a : Reg) (i : BitVec 16) : Statement (.andi d a i) := encI_lt (by decide) d.isLt a.isLt (by have := i.isLt; omega)
theorem ori (d : Reg) (a : Reg) (i : BitVec 16) : Statement (.ori d a i) := encI_lt (by decide) d.isLt a.isLt (by have := i.isLt; omega)
theorem xori (d : Reg) (a : Reg) (i : BitVec 16) : Statement (.xori d a i) := encI_lt (by decide) d.isLt a.isLt (by have := i.isLt; omega)
theorem shli (d : Reg) (a : Reg) (n : BitVec 6) : Statement (.shli d a n) := encI_lt (by decide) d.isLt a.isLt (by have := n.isLt; omega)
theorem shri (d : Reg) (a : Reg) (n : BitVec 6) : Statement (.shri d a n) := encI_lt (by decide) d.isLt a.isLt (by have := n.isLt; omega)
theorem srai (d : Reg) (a : Reg) (n : BitVec 6) : Statement (.srai d a n) := encI_lt (by decide) d.isLt a.isLt (by have := n.isLt; omega)
theorem slti (d : Reg) (a : Reg) (i : BitVec 16) : Statement (.slti d a i) := encI_lt (by decide) d.isLt a.isLt (by have := i.isLt; omega)
theorem lih (d : Reg) (i : BitVec 16) : Statement (.lih d i) := encI_lt (by decide) d.isLt (by decide) (by have := i.isLt; omega)
theorem lhh (d : Reg) (a : Reg) (i : BitVec 16) : Statement (.lhh d a i) := encI_lt (by decide) d.isLt a.isLt (by have := i.isLt; omega)
theorem lhx (d : Reg) (a : Reg) (i : BitVec 16) : Statement (.lhx d a i) := encI_lt (by decide) d.isLt a.isLt (by have := i.isLt; omega)
theorem sld (d : Reg) (a : Reg) (sz : Size) (bp : Bool) (off : BitVec 12) : Statement (.sld d a sz bp off) := encM_lt (by decide) d.isLt a.isLt (Nat.lt_of_lt_of_le (Size.code_lt sz) (by decide)) (Nat.lt_of_lt_of_le (bool_lt bp) (by decide)) (by have := off.isLt; omega)
theorem sst (d : Reg) (a : Reg) (sz : Size) (off : BitVec 12) : Statement (.sst d a sz off) := encM_lt (by decide) d.isLt a.isLt (Nat.lt_of_lt_of_le (Size.code_lt sz) (by decide)) (by decide) (by have := off.isLt; omega)
theorem beq (a : Reg) (b : Reg) (off : BitVec 16) : Statement (.beq a b off) := encI_lt (by decide) a.isLt b.isLt (by have := off.isLt; omega)
theorem bne (a : Reg) (b : Reg) (off : BitVec 16) : Statement (.bne a b off) := encI_lt (by decide) a.isLt b.isLt (by have := off.isLt; omega)
theorem blt (a : Reg) (b : Reg) (off : BitVec 16) : Statement (.blt a b off) := encI_lt (by decide) a.isLt b.isLt (by have := off.isLt; omega)
theorem bge (a : Reg) (b : Reg) (off : BitVec 16) : Statement (.bge a b off) := encI_lt (by decide) a.isLt b.isLt (by have := off.isLt; omega)
theorem bltn (a : Reg) (b : Reg) (off : BitVec 16) : Statement (.bltn a b off) := encI_lt (by decide) a.isLt b.isLt (by have := off.isLt; omega)
theorem bgen (a : Reg) (b : Reg) (off : BitVec 16) : Statement (.bgen a b off) := encI_lt (by decide) a.isLt b.isLt (by have := off.isLt; omega)
theorem jmp (off : BitVec 26) : Statement (.jmp off) := encJ_lt (by decide) (by have := off.isLt; omega)
theorem call (off : BitVec 26) : Statement (.call off) := encJ_lt (by decide) (by have := off.isLt; omega)
theorem jr (a : Reg) : Statement (.jr a) := encR_lt (by decide) (by decide) (by decide) a.isLt (by decide)
theorem callr (a : Reg) : Statement (.callr a) := encR_lt (by decide) (by decide) (by decide) a.isLt (by decide)
theorem ret : Statement (.ret) := encR_lt (by decide) (by decide) (by decide) (by decide) (by decide)
theorem lgo (a : Reg) (b : Reg) (n : BitVec 5) : Statement (.lgo a b n) := encE_lt (by decide) (by decide) (by decide) a.isLt b.isLt (by have := n.isLt; omega)
theorem lsync : Statement (.lsync) := encE_lt (by decide) (by decide) (by decide) (by decide) (by decide) (by decide)
theorem spop (d : Reg) : Statement (.spop d) := encE_lt (by decide) (by decide) d.isLt (by decide) (by decide) (by decide)
theorem lqd (d : Reg) : Statement (.lqd d) := encE_lt (by decide) (by decide) d.isLt (by decide) (by decide) (by decide)
theorem spawn (d : Reg) (a : Reg) : Statement (.spawn d a) := encE_lt (by decide) (by decide) d.isLt a.isLt (by decide) (by decide)
theorem exit : Statement (.exit) := encE_lt (by decide) (by decide) (by decide) (by decide) (by decide) (by decide)
theorem yield : Statement (.yield) := encE_lt (by decide) (by decide) (by decide) (by decide) (by decide) (by decide)
theorem setprio (n : BitVec 5) : Statement (.setprio n) := encE_lt (by decide) (by decide) (by decide) (by decide) (by decide) (by have := n.isLt; omega)
theorem crit (n : BitVec 5) : Statement (.crit n) := encE_lt (by decide) (by decide) (by decide) (by decide) (by decide) (by have := n.isLt; omega)
theorem srd (d : Reg) (c : BitVec 10) : Statement (.srd d c) := encE10_lt (by decide) (by decide) d.isLt (by decide) (by have := c.isLt; omega)
theorem swr (a : Reg) (c : BitVec 10) : Statement (.swr a c) := encE10_lt (by decide) (by decide) (by decide) a.isLt (by have := c.isLt; omega)
theorem fmt (a : Reg) : Statement (.fmt a) := encE_lt (by decide) (by decide) (by decide) a.isLt (by decide) (by decide)
theorem stime (d : Reg) : Statement (.stime d) := encE_lt (by decide) (by decide) d.isLt (by decide) (by decide) (by decide)
theorem mark (a : Reg) (n : BitVec 10) : Statement (.mark a n) := encE10_lt (by decide) (by decide) (by decide) a.isLt (by have := n.isLt; omega)
theorem talloc (h : Hnd) (a : Reg) : Statement (.talloc h a) := encH_lt (by decide) (by decide) (by have := h.isLt; omega) (by decide) (by have := a.isLt; omega)
theorem tgive (h : Hnd) (a : Reg) : Statement (.tgive h a) := encH_lt (by decide) (by decide) (by have := h.isLt; omega) (by decide) (by have := a.isLt; omega)
theorem tfree (h : Hnd) : Statement (.tfree h) := encH_lt (by decide) (by decide) (by have := h.isLt; omega) (by decide) (by decide)
theorem tld (h : Hnd) (a : Reg) (b : Reg) : Statement (.tld h a b) := encH_lt (by decide) (by decide) (by have := h.isLt; omega) (by decide) (by have := a.isLt; have := b.isLt; omega)
theorem tst (h : Hnd) (a : Reg) (b : Reg) : Statement (.tst h a b) := encH_lt (by decide) (by decide) (by have := h.isLt; omega) (by decide) (by have := a.isLt; have := b.isLt; omega)
theorem tzero (h : Hnd) : Statement (.tzero h) := encH_lt (by decide) (by decide) (by have := h.isLt; omega) (by decide) (by decide)
theorem tinfo (d : Reg) (h : Hnd) : Statement (.tinfo d h) := encH_lt (by decide) (by decide) (by have := h.isLt; omega) (by decide) (by have := d.isLt; omega)
theorem mxacq : Statement (.mxacq) := encH_lt (by decide) (by decide) (by decide) (by decide) (by decide)
theorem mxrel : Statement (.mxrel) := encH_lt (by decide) (by decide) (by decide) (by decide) (by decide)
theorem mxrdy (t : BitVec 6) (q : BitVec 2) (v : BitVec 8) : Statement (.mxrdy t q v) := encH_lt (by decide) (by decide) (by decide) (by have := t.isLt; omega) (by have := q.isLt; have := v.isLt; omega)
theorem mxa (hd : Hnd) (ha : Hnd) (t : BitVec 6) : Statement (.mxa hd ha t) := encH_lt (by decide) (by decide) (by have := hd.isLt; omega) (by have := ha.isLt; omega) (by have := t.isLt; omega)
theorem mxs (hd : Hnd) (ha : Hnd) (t : BitVec 6) : Statement (.mxs hd ha t) := encH_lt (by decide) (by decide) (by have := hd.isLt; omega) (by have := ha.isLt; omega) (by have := t.isLt; omega)
theorem mxdr (hd : Hnd) (a : Reg) (b : Reg) (n : BitVec 6) : Statement (.mxdr hd a b n) := encH_lt (by decide) (by decide) (by have := hd.isLt; omega) (by have := n.isLt; omega) (by have := a.isLt; have := b.isLt; omega)
theorem cbld (a : Reg) (n : BitVec 6) : Statement (.cbld a n) := encH_lt (by decide) (by decide) (by decide) (by have := n.isLt; omega) (by have := a.isLt; omega)
theorem cpy (bar : Reg) (a : Reg) (b : Reg) (c : Reg) : Statement (.cpy bar a b c) := encE_lt (by decide) (by decide) bar.isLt a.isLt b.isLt c.isLt
theorem cpyt (bar : Reg) (a : Reg) (b : Reg) (c : Reg) : Statement (.cpyt bar a b c) := encE_lt (by decide) (by decide) bar.isLt a.isLt b.isLt c.isLt
theorem cpys (bar : Reg) (a : Reg) (b : Reg) (c : Reg) : Statement (.cpys bar a b c) := encE_lt (by decide) (by decide) bar.isLt a.isLt b.isLt c.isLt
theorem bclose (d : Reg) (n : BitVec 5) : Statement (.bclose d n) := encE_lt (by decide) (by decide) d.isLt (by decide) (by decide) (by have := n.isLt; omega)
theorem binit (a : Reg) (b : Reg) (f : BitVec 3) : Statement (.binit a b f) := encE_lt (by decide) (by decide) (by decide) a.isLt b.isLt (by have := f.isLt; omega)
theorem barr (d : Reg) (a : Reg) : Statement (.barr d a) := encE_lt (by decide) (by decide) d.isLt a.isLt (by decide) (by decide)
theorem barrd (d : Reg) (a : Reg) : Statement (.barrd d a) := encE_lt (by decide) (by decide) d.isLt a.isLt (by decide) (by decide)
theorem bexp (a : Reg) (b : Reg) : Statement (.bexp a b) := encE_lt (by decide) (by decide) (by decide) a.isLt b.isLt (by decide)
theorem wait (a : Reg) (b : Reg) (k : WaitKind) : Statement (.wait a b k) := encE_lt (by decide) (by decide) (by decide) a.isLt b.isLt (Nat.lt_of_lt_of_le (WaitKind.code_lt k) (by decide))
theorem btest (d : Reg) (a : Reg) (b : Reg) (k : WaitKind) : Statement (.btest d a b k) := encE_lt (by decide) (by decide) d.isLt a.isLt b.isLt (Nat.lt_of_lt_of_le (WaitKind.code_lt k) (by decide))
theorem samoAdd (d : Reg) (a : Reg) (b : Reg) (o : Order) (sc : Scope) (w : Bool) : Statement (.samoAdd d a b o sc w) := encA_lt (by decide) d.isLt a.isLt b.isLt
theorem samoAnd (d : Reg) (a : Reg) (b : Reg) (o : Order) (sc : Scope) (w : Bool) : Statement (.samoAnd d a b o sc w) := encA_lt (by decide) d.isLt a.isLt b.isLt
theorem samoOr (d : Reg) (a : Reg) (b : Reg) (o : Order) (sc : Scope) (w : Bool) : Statement (.samoOr d a b o sc w) := encA_lt (by decide) d.isLt a.isLt b.isLt
theorem samoXor (d : Reg) (a : Reg) (b : Reg) (o : Order) (sc : Scope) (w : Bool) : Statement (.samoXor d a b o sc w) := encA_lt (by decide) d.isLt a.isLt b.isLt
theorem samoMin (d : Reg) (a : Reg) (b : Reg) (o : Order) (sc : Scope) (w : Bool) : Statement (.samoMin d a b o sc w) := encA_lt (by decide) d.isLt a.isLt b.isLt
theorem samoMax (d : Reg) (a : Reg) (b : Reg) (o : Order) (sc : Scope) (w : Bool) : Statement (.samoMax d a b o sc w) := encA_lt (by decide) d.isLt a.isLt b.isLt
theorem samoMinn (d : Reg) (a : Reg) (b : Reg) (o : Order) (sc : Scope) (w : Bool) : Statement (.samoMinn d a b o sc w) := encA_lt (by decide) d.isLt a.isLt b.isLt
theorem samoMaxn (d : Reg) (a : Reg) (b : Reg) (o : Order) (sc : Scope) (w : Bool) : Statement (.samoMaxn d a b o sc w) := encA_lt (by decide) d.isLt a.isLt b.isLt
theorem samoSwap (d : Reg) (a : Reg) (b : Reg) (o : Order) (sc : Scope) (w : Bool) : Statement (.samoSwap d a b o sc w) := encA_lt (by decide) d.isLt a.isLt b.isLt
theorem scas (d : Reg) (a : Reg) (b : Reg) (o : Order) (sc : Scope) (w : Bool) : Statement (.scas d a b o sc w) := encA_lt (by decide) d.isLt a.isLt b.isLt
theorem samoFadd (d : Reg) (a : Reg) (b : Reg) (o : Order) (sc : Scope) : Statement (.samoFadd d a b o sc) := encA_lt (by decide) d.isLt a.isLt b.isLt
theorem sldo (d : Reg) (a : Reg) (o : Order) (sc : Scope) (w : Bool) : Statement (.sldo d a o sc w) := encA_lt (by decide) d.isLt a.isLt (by decide)
theorem ssto (a : Reg) (b : Reg) (o : Order) (sc : Scope) (w : Bool) : Statement (.ssto a b o sc w) := encA_lt (by decide) (by decide) a.isLt b.isLt
theorem lock (a : Reg) (sc : Scope) (w : Bool) : Statement (.lock a sc w) := encA_lt (by decide) (by decide) a.isLt (by decide)
theorem unlock (a : Reg) (sc : Scope) (w : Bool) : Statement (.unlock a sc w) := encA_lt (by decide) (by decide) a.isLt (by decide)
theorem sredAdd (a : Reg) (b : Reg) (o : Order) (sc : Scope) (w : Bool) : Statement (.sredAdd a b o sc w) := encA_lt (by decide) (by decide) a.isLt b.isLt
theorem sredAnd (a : Reg) (b : Reg) (o : Order) (sc : Scope) (w : Bool) : Statement (.sredAnd a b o sc w) := encA_lt (by decide) (by decide) a.isLt b.isLt
theorem sredOr (a : Reg) (b : Reg) (o : Order) (sc : Scope) (w : Bool) : Statement (.sredOr a b o sc w) := encA_lt (by decide) (by decide) a.isLt b.isLt
theorem sredXor (a : Reg) (b : Reg) (o : Order) (sc : Scope) (w : Bool) : Statement (.sredXor a b o sc w) := encA_lt (by decide) (by decide) a.isLt b.isLt
theorem sredMin (a : Reg) (b : Reg) (o : Order) (sc : Scope) (w : Bool) : Statement (.sredMin a b o sc w) := encA_lt (by decide) (by decide) a.isLt b.isLt
theorem sredMax (a : Reg) (b : Reg) (o : Order) (sc : Scope) (w : Bool) : Statement (.sredMax a b o sc w) := encA_lt (by decide) (by decide) a.isLt b.isLt
theorem sredMinn (a : Reg) (b : Reg) (o : Order) (sc : Scope) (w : Bool) : Statement (.sredMinn a b o sc w) := encA_lt (by decide) (by decide) a.isLt b.isLt
theorem sredMaxn (a : Reg) (b : Reg) (o : Order) (sc : Scope) (w : Bool) : Statement (.sredMaxn a b o sc w) := encA_lt (by decide) (by decide) a.isLt b.isLt
theorem sredFadd (a : Reg) (b : Reg) (o : Order) (sc : Scope) : Statement (.sredFadd a b o sc) := encA_lt (by decide) (by decide) a.isLt b.isLt
theorem fence (o : Order) (sc : Scope) : Statement (.fence o sc) := encE_lt (by decide) (by decide) (by decide) (by decide) (Nat.lt_of_lt_of_le (Order.code_lt o) (by decide)) (Nat.lt_of_lt_of_le (Scope.code_lt sc) (by decide))
theorem flush (a : Reg) (b : Reg) : Statement (.flush a b) := encE_lt (by decide) (by decide) (by decide) a.isLt b.isLt (by decide)
theorem inv (a : Reg) (b : Reg) : Statement (.inv a b) := encE_lt (by decide) (by decide) (by decide) a.isLt b.isLt (by decide)
theorem vstat (d : Reg) (n : BitVec 5) : Statement (.vstat d n) := encE_lt (by decide) (by decide) d.isLt (by decide) (by decide) (by have := n.isLt; omega)
theorem dlaunch (d : Reg) (a : Reg) (b : Reg) : Statement (.dlaunch d a b) := encE_lt (by decide) (by decide) d.isLt a.isLt b.isLt (by decide)
theorem trap (n : BitVec 10) : Statement (.trap n) := encE10_lt (by decide) (by decide) (by decide) (by decide) (by have := n.isLt; omega)
theorem brk (n : BitVec 10) : Statement (.brk n) := encE10_lt (by decide) (by decide) (by decide) (by decide) (by have := n.isLt; omega)
theorem curb (d : Reg) (n : BitVec 5) : Statement (.curb d n) := encE_lt (by decide) (by decide) d.isLt (by decide) (by decide) (by have := n.isLt; omega)
theorem vadd (w : LaneWord) : Statement (.vadd w) := encL_lt w (by decide) (by decide)
theorem vsub (w : LaneWord) : Statement (.vsub w) := encL_lt w (by decide) (by decide)
theorem vmul (w : LaneWord) : Statement (.vmul w) := encL_lt w (by decide) (by decide)
theorem vmulh (w : LaneWord) : Statement (.vmulh w) := encL_lt w (by decide) (by decide)
theorem vmad (w : LaneWord) : Statement (.vmad w) := encL_lt w (by decide) (by decide)
theorem vmin (w : LaneWord) : Statement (.vmin w) := encL_lt w (by decide) (by decide)
theorem vmax (w : LaneWord) : Statement (.vmax w) := encL_lt w (by decide) (by decide)
theorem vabs (w : LaneWord) : Statement (.vabs w) := encL_lt w (by decide) (by decide)
theorem vneg (w : LaneWord) : Statement (.vneg w) := encL_lt w (by decide) (by decide)
theorem vand (w : LaneWord) : Statement (.vand w) := encL_lt w (by decide) (by decide)
theorem vor (w : LaneWord) : Statement (.vor w) := encL_lt w (by decide) (by decide)
theorem vxor (w : LaneWord) : Statement (.vxor w) := encL_lt w (by decide) (by decide)
theorem vnot (w : LaneWord) : Statement (.vnot w) := encL_lt w (by decide) (by decide)
theorem vshl (w : LaneWord) : Statement (.vshl w) := encL_lt w (by decide) (by decide)
theorem vshr (w : LaneWord) : Statement (.vshr w) := encL_lt w (by decide) (by decide)
theorem vsra (w : LaneWord) : Statement (.vsra w) := encL_lt w (by decide) (by decide)
theorem vbfe (w : LaneWord) : Statement (.vbfe w) := encL_lt w (by decide) (by decide)
theorem vbfi (w : LaneWord) : Statement (.vbfi w) := encL_lt w (by decide) (by decide)
theorem vpopc (w : LaneWord) : Statement (.vpopc w) := encL_lt w (by decide) (by decide)
theorem vclz (w : LaneWord) : Statement (.vclz w) := encL_lt w (by decide) (by decide)
theorem vbrev (w : LaneWord) : Statement (.vbrev w) := encL_lt w (by decide) (by decide)
theorem vfadd (w : LaneWord) : Statement (.vfadd w) := encL_lt w (by decide) (by decide)
theorem vfsub (w : LaneWord) : Statement (.vfsub w) := encL_lt w (by decide) (by decide)
theorem vfmul (w : LaneWord) : Statement (.vfmul w) := encL_lt w (by decide) (by decide)
theorem vffma (w : LaneWord) : Statement (.vffma w) := encL_lt w (by decide) (by decide)
theorem vfmin (w : LaneWord) : Statement (.vfmin w) := encL_lt w (by decide) (by decide)
theorem vfmax (w : LaneWord) : Statement (.vfmax w) := encL_lt w (by decide) (by decide)
theorem vfdiv (w : LaneWord) : Statement (.vfdiv w) := encL_lt w (by decide) (by decide)
theorem vrcp (w : LaneWord) : Statement (.vrcp w) := encL_lt w (by decide) (by decide)
theorem vrsq (w : LaneWord) : Statement (.vrsq w) := encL_lt w (by decide) (by decide)
theorem vsqrt (w : LaneWord) : Statement (.vsqrt w) := encL_lt w (by decide) (by decide)
theorem vexp2 (w : LaneWord) : Statement (.vexp2 w) := encL_lt w (by decide) (by decide)
theorem vlog2 (w : LaneWord) : Statement (.vlog2 w) := encL_lt w (by decide) (by decide)
theorem vsin (w : LaneWord) : Statement (.vsin w) := encL_lt w (by decide) (by decide)
theorem vcos (w : LaneWord) : Statement (.vcos w) := encL_lt w (by decide) (by decide)
theorem vfrnd (w : LaneWord) : Statement (.vfrnd w) := encL_lt w (by decide) (by decide)
theorem vfcls (w : LaneWord) : Statement (.vfcls w) := encL_lt w (by decide) (by decide)
theorem vcmp (cc : Cond) (w : LaneWord) : Statement (.vcmp cc w) := encL_lt w (by decide) (Nat.lt_of_lt_of_le (Cond.code_lt cc) (by decide))
theorem vfcmp (cc : Cond) (w : LaneWord) : Statement (.vfcmp cc w) := encL_lt w (by decide) (by have := Cond.code_lt cc; omega)
theorem pand (w : LaneWord) : Statement (.pand w) := encL_lt w (by decide) (by decide)
theorem por (w : LaneWord) : Statement (.por w) := encL_lt w (by decide) (by decide)
theorem pxor (w : LaneWord) : Statement (.pxor w) := encL_lt w (by decide) (by decide)
theorem pandn (w : LaneWord) : Statement (.pandn w) := encL_lt w (by decide) (by decide)
theorem vcvt (w : LaneWord) : Statement (.vcvt w) := encL_lt w (by decide) (by decide)
theorem vquant (w : LaneWord) : Statement (.vquant w) := encL_lt w (by decide) (by decide)
theorem vdeq (w : LaneWord) : Statement (.vdeq w) := encL_lt w (by decide) (by decide)
theorem vpack (w : LaneWord) : Statement (.vpack w) := encL_lt w (by decide) (by decide)
theorem vunpack (w : LaneWord) : Statement (.vunpack w) := encL_lt w (by decide) (by decide)
theorem vscale (w : LaneWord) : Statement (.vscale w) := encL_lt w (by decide) (by decide)
theorem vmov (w : LaneWord) : Statement (.vmov w) := encL_lt w (by decide) (by decide)
theorem vmovk (w : LaneWord) : Statement (.vmovk w) := encL_lt w (by decide) (by decide)
theorem vmovi (w : LaneWord) : Statement (.vmovi w) := encL_lt w (by decide) (by decide)
theorem vsel (w : LaneWord) : Statement (.vsel w) := encL_lt w (by decide) (by decide)
theorem vshfl (w : LaneWord) : Statement (.vshfl w) := encL_lt w (by decide) (by decide)
theorem vbcast (w : LaneWord) : Statement (.vbcast w) := encL_lt w (by decide) (by decide)
theorem vballot (w : LaneWord) : Statement (.vballot w) := encL_lt w (by decide) (by decide)
theorem vred (w : LaneWord) : Statement (.vred w) := encL_lt w (by decide) (by decide)
theorem vscan (w : LaneWord) : Statement (.vscan w) := encL_lt w (by decide) (by decide)
theorem vput (w : LaneWord) : Statement (.vput w) := encL_lt w (by decide) (by decide)
theorem vspec (w : LaneWord) : Statement (.vspec w) := encL_lt w (by decide) (by decide)
theorem vld (w : LaneWord) : Statement (.vld w) := encL_lt w (by decide) (by decide)
theorem vst (w : LaneWord) : Statement (.vst w) := encL_lt w (by decide) (by decide)
theorem vlds (w : LaneWord) : Statement (.vlds w) := encL_lt w (by decide) (by decide)
theorem vsts (w : LaneWord) : Statement (.vsts w) := encL_lt w (by decide) (by decide)
theorem vamo (w : LaneWord) : Statement (.vamo w) := encL_lt w (by decide) (by decide)
theorem vrdm (w : LaneWord) : Statement (.vrdm w) := encL_lt w (by decide) (by decide)
theorem vtget (w : LaneWord) : Statement (.vtget w) := encL_lt w (by decide) (by decide)
theorem vtset (w : LaneWord) : Statement (.vtset w) := encL_lt w (by decide) (by decide)
theorem lbra (w : LaneWord) : Statement (.lbra w) := encL_lt w (by decide) (by decide)
theorem mjoin (w : LaneWord) : Statement (.mjoin w) := encL_lt w (by decide) (by decide)
theorem join (w : LaneWord) : Statement (.join w) := encL_lt w (by decide) (by decide)
theorem lend (w : LaneWord) : Statement (.lend w) := encL_lt w (by decide) (by decide)
theorem lkill (w : LaneWord) : Statement (.lkill w) := encL_lt w (by decide) (by decide)
theorem lfmt (w : LaneWord) : Statement (.lfmt w) := encL_lt w (by decide) (by decide)
theorem lnop (w : LaneWord) : Statement (.lnop w) := encL_lt w (by decide) (by decide)
theorem lbrk (w : LaneWord) : Statement (.lbrk w) := encL_lt w (by decide) (by decide)
theorem teamAdmission (launch : Nat) (place : Place) : Statement (.teamAdmission launch place) := Nat.zero_lt_one
theorem blockStart (gid : Nat) : Statement (.blockStart gid) := Nat.zero_lt_one
theorem longLatencyComplete (gid i : Nat) : Statement (.longLatencyComplete gid i) := Nat.zero_lt_one
theorem accessPerformedAtPort (gid i : Nat) : Statement (.accessPerformedAtPort gid i) := Nat.zero_lt_one
theorem waitProbe (gid : Nat) : Statement (.waitProbe gid) := Nat.zero_lt_one
theorem streamAgePromotion (gid : Nat) (lane : Bool) : Statement (.streamAgePromotion gid lane) := Nat.zero_lt_one
theorem crittimeout (p : Nat) : Statement (.crittimeout p) := Nat.zero_lt_one
theorem teamEnd (key : Nat) : Statement (.teamEnd key) := Nat.zero_lt_one
theorem launchEnd (launch : Nat) : Statement (.launchEnd launch) := Nat.zero_lt_one
theorem copyBytesLanded (core id n : Nat) : Statement (.copyBytesLanded core id n) := Nat.zero_lt_one
theorem copyCommandComplete (core id : Nat) : Statement (.copyCommandComplete core id) := Nat.zero_lt_one
theorem sealedMessage (core id : Nat) : Statement (.sealedMessage core id) := Nat.zero_lt_one
theorem curbGrant (die : Nat) : Statement (.curbGrant die) := Nat.zero_lt_one
theorem matrixOperation (tandem : Nat) : Statement (.matrixOperation tandem) := Nat.zero_lt_one
theorem matrixCommandComplete (tandem : Nat) : Statement (.matrixCommandComplete tandem) := Nat.zero_lt_one
theorem complexHandover (tandem : Nat) : Statement (.complexHandover tandem) := Nat.zero_lt_one
theorem tileAccessPerformed (key id : Nat) : Statement (.tileAccessPerformed key id) := Nat.zero_lt_one
theorem sideLogReplay (core i : Nat) : Statement (.sideLogReplay core i) := Nat.zero_lt_one
theorem launchAccept (q : Nat) : Statement (.launchAccept q) := Nat.zero_lt_one
theorem launchStart (launch : Nat) : Statement (.launchStart launch) := Nat.zero_lt_one
theorem predictionStart (q : Nat) : Statement (.predictionStart q) := Nat.zero_lt_one
theorem preemptSave (p : Nat) : Statement (.preemptSave p) := Nat.zero_lt_one
theorem readmission (p : Nat) (place : Place) : Statement (.readmission p place) := Nat.zero_lt_one
theorem shootAcknowledge (p : Nat) : Statement (.shootAcknowledge p) := Nat.zero_lt_one
theorem moveComplete (p : Nat) : Statement (.moveComplete p) := Nat.zero_lt_one
theorem samplerTag (core quarter : Nat) (lane : Bool) : Statement (.samplerTag core quarter lane) := Nat.zero_lt_one
theorem sampleRecord (core quarter : Nat) : Statement (.sampleRecord core quarter) := Nat.zero_lt_one
theorem stretchEnd (die : Nat) : Statement (.stretchEnd die) := Nat.zero_lt_one
theorem halvingEnd (die : Nat) : Statement (.halvingEnd die) := Nat.zero_lt_one
theorem bootLinkTimeout : Statement (.bootLinkTimeout) := Nat.zero_lt_one
theorem bootRetry : Statement (.bootRetry) := Nat.zero_lt_one
theorem collectiveContribution (entry : Nat) (c : Contribution) : Statement (.collectiveContribution entry c) := Nat.zero_lt_one
theorem collectiveResult (entry : Nat) (bad : Bool) (data : List Byte) : Statement (.collectiveResult entry bad data) := Nat.zero_lt_one
theorem queueEnable (by_ : Requester) (q : Nat) : Statement (.queueEnable by_ q) := Nat.zero_lt_one
theorem doorbell (by_ : Requester) (q : Nat) (val : W32) : Statement (.doorbell by_ q val) := Nat.zero_lt_one
theorem registerWrite (by_ : Requester) (r : HostReg) (word : Nat) (val : W64) : Statement (.registerWrite by_ r word val) := Nat.zero_lt_one
theorem hostMemoryWrite (by_ : Requester) (off size : Nat) (val : BitVec 512) : Statement (.hostMemoryWrite by_ off size val) := Nat.zero_lt_one
theorem hostMemoryRead (by_ : Requester) (off size : Nat) : Statement (.hostMemoryRead by_ off size) := Nat.zero_lt_one
theorem hostWindowWrite (by_ : Requester) (off size : Nat) (val : W64) : Statement (.hostWindowWrite by_ off size val) := Nat.zero_lt_one
theorem hostWindowRead (by_ : Requester) (off size : Nat) : Statement (.hostWindowRead by_ off size) := Nat.zero_lt_one
theorem respond (by_ : Requester) (p : Nat) (cmd : BitVec 512) : Statement (.respond by_ p cmd) := Nat.zero_lt_one
theorem sverdResume (core : Nat) (ctx : BitVec 7) : Statement (.sverdResume core ctx) := Nat.zero_lt_one
theorem hostHalt (by_ : Requester) (p : Nat) (cmd : BitVec 128) : Statement (.hostHalt by_ p cmd) := Nat.zero_lt_one
theorem queueDisable (by_ : Requester) (q : Nat) : Statement (.queueDisable by_ q) := Nat.zero_lt_one
theorem cancel (by_ : Requester) (q : Nat) (val : W32) : Statement (.cancel by_ q val) := Nat.zero_lt_one
theorem gaitRecordWrite (by_ : Requester) (q : Nat) (rec_ : BitVec 4096) : Statement (.gaitRecordWrite by_ q rec_) := Nat.zero_lt_one
theorem resize (by_ : Requester) (p : Nat) (cmd : BitVec 192) : Statement (.resize by_ p cmd) := Nat.zero_lt_one
theorem shoot (by_ : Requester) (p : Nat) (cmd : BitVec 512) : Statement (.shoot by_ p cmd) := Nat.zero_lt_one
theorem migrate (by_ : Requester) (p : Nat) (cmd : BitVec 512) : Statement (.migrate by_ p cmd) := Nat.zero_lt_one
theorem flip (by_ : Requester) (p : Nat) (cmd : BitVec 512) : Statement (.flip by_ p cmd) := Nat.zero_lt_one
theorem atsTranslationCompletion (core asid : Nat) (va pte : W64) : Statement (.atsTranslationCompletion core asid va pte) := Nat.zero_lt_one
theorem prgResponse (p : Nat) (tag : W32) (success : Bool) : Statement (.prgResponse p tag success) := Nat.zero_lt_one
theorem atsInvalidate (p asid : Nat) (va : W64) (npages : Nat) : Statement (.atsInvalidate p asid va npages) := Nat.zero_lt_one
theorem sverdForward (core : Nat) (ctx : BitVec 7) : Statement (.sverdForward core ctx) := Nat.zero_lt_one
theorem sverdEnd (core : Nat) (ctx : BitVec 7) : Statement (.sverdEnd core ctx) := Nat.zero_lt_one
theorem stqtailWrite (core : Nat) (val : W32) : Statement (.stqtailWrite core val) := Nat.zero_lt_one
theorem ttailWrite (by_ : Requester) (p : Nat) (val : W32) : Statement (.ttailWrite by_ p val) := Nat.zero_lt_one
theorem hostResume (by_ : Requester) (p : Nat) (cmd : BitVec 128) : Statement (.hostResume by_ p cmd) := Nat.zero_lt_one
theorem hostEnd (by_ : Requester) (p : Nat) (cmd : BitVec 128) : Statement (.hostEnd by_ p cmd) := Nat.zero_lt_one
theorem ctxsave (by_ : Requester) (p : Nat) (cmd : BitVec 128) : Statement (.ctxsave by_ p cmd) := Nat.zero_lt_one
theorem ctxload (by_ : Requester) (p : Nat) (cmd : BitVec 128) : Statement (.ctxload by_ p cmd) := Nat.zero_lt_one
theorem watchpointWrite (by_ : Requester) (core : Option Nat) (i : Nat) (val : BitVec 128) : Statement (.watchpointWrite by_ core i val) := Nat.zero_lt_one
theorem traceControlWrite (by_ : Requester) (p : Nat) (val : BitVec 128) : Statement (.traceControlWrite by_ p val) := Nat.zero_lt_one
theorem monitorClear (by_ : Requester) (die m : Nat) : Statement (.monitorClear by_ die m) := Nat.zero_lt_one
theorem hflush (by_ : Requester) (p : Nat) (cmd : BitVec 192) : Statement (.hflush by_ p cmd) := Nat.zero_lt_one
theorem hinv (by_ : Requester) (p : Nat) (cmd : BitVec 192) : Statement (.hinv by_ p cmd) := Nat.zero_lt_one
theorem atomicop (by_ : Requester) (op : AtomicOp) (off size : Nat) (val cmp : W64) : Statement (.atomicop by_ op off size val cmp) := Nat.zero_lt_one
theorem set (by_ : Requester) (p i : Nat) : Statement (.set by_ p i) := Nat.zero_lt_one
theorem privateRangeWrite (by_ : Requester) (p i : Nat) (val : BitVec 128) : Statement (.privateRangeWrite by_ p i val) := Nat.zero_lt_one
theorem ideKm (stream : Nat) (key : BitVec 256) : Statement (.ideKm stream key) := Nat.zero_lt_one
theorem ideIntegrityFailure (stream : Nat) : Statement (.ideIntegrityFailure stream) := Nat.zero_lt_one
theorem lockInterfaceRequest (p : Nat) : Statement (.lockInterfaceRequest p) := Nat.zero_lt_one
theorem stopInterface (p : Nat) : Statement (.stopInterface p) := Nat.zero_lt_one
theorem functionLevelReset (p : Nat) : Statement (.functionLevelReset p) := Nat.zero_lt_one
theorem challenge (nonce : List Byte) : Statement (.challenge nonce) := Nat.zero_lt_one
theorem measurements (nonce : List Byte) : Statement (.measurements nonce) := Nat.zero_lt_one
theorem smioFlit (port : Nat) (f : Flit) : Statement (.smioFlit port f) := Nat.zero_lt_one
theorem nak (port : Nat) (seq : BitVec 12) : Statement (.nak port seq) := Nat.zero_lt_one
theorem smioRemoteAccess (op : RemoteOp) (pa size : Nat) (val cmp : W64) : Statement (.smioRemoteAccess op pa size val cmp) := Nat.zero_lt_one
theorem supervisorWindowAccess (core off size : Nat) (write : Bool) (val : W64) : Statement (.supervisorWindowAccess core off size write val) := Nat.zero_lt_one
theorem reset (cause : BitVec 8) : Statement (.reset cause) := Nat.zero_lt_one
theorem dhcpv6Reply (urls : List (List Byte)) : Statement (.dhcpv6Reply urls) := Nat.zero_lt_one
theorem helperDataFetched (data : List Byte) : Statement (.helperDataFetched data) := Nat.zero_lt_one
theorem imageFetched (data : List Byte) : Statement (.imageFetched data) := Nat.zero_lt_one
theorem droopAlarm (die : Nat) : Statement (.droopAlarm die) := Nat.zero_lt_one
theorem powerAverage (pkg : BitVec 16) (dies parts : List (BitVec 16)) : Statement (.powerAverage pkg dies parts) := Nat.zero_lt_one
theorem supervisorCoreAccess (core : Nat) (op : SupOp) (pa size : Nat) (val : W64) : Statement (.supervisorCoreAccess core op pa size val) := Nat.zero_lt_one
theorem llcEviction (line : Nat) : Statement (.llcEviction line) := Nat.zero_lt_one
theorem uncorrectableError (line : Nat) : Statement (.uncorrectableError line) := Nat.zero_lt_one
theorem ultraEthernetLinkUp (port : Nat) : Statement (.ultraEthernetLinkUp port) := Nat.zero_lt_one
theorem bootStepFailure : Statement (.bootStepFailure) := Nat.zero_lt_one
theorem smioPortRetrain (port : Nat) : Statement (.smioPortRetrain port) := Nat.zero_lt_one
theorem startInterfaceRequest (p : Nat) : Statement (.startInterfaceRequest p) := Nat.zero_lt_one
theorem tdispError (p : Nat) : Statement (.tdispError p) := Nat.zero_lt_one

end Sys2Proof.Laws.Encoding
end

