-- ==== Sys2Proof/Tests/Slice0.lean ====
section
/-! SUPPORT. Tests of the model and witnesses of the statements. Expected values are written from the spec's encodings, tables and
worked samples, or worked out by hand from its rules. -/

namespace Sys2Proof.Tests

set_option Elab.async false

open Sys2Proof.Machine

/-! A small machine: one launch, one team with 64 KiB of scratch and eight slots on core 0, and one group at context 0 with a few
registers, whose pages are those of the load (log 1). -/

/-- A register table. -/
def regs (l : List (Nat × W64)) : List (Nat × W64) := l
/-- The group: s4 names the last eight bytes of the scratch, s5 and s6 are numbers. -/
def g0 : Machine.Group := { (loadGroup 0) with s := regs [(4, BitVec.ofNat 64 (aperture + 0xFFF8)), (5, 7), (6, 0xFFFFFFFFFFFFFFFE)] }
/-- The machine with a group. -/
def machine (g : Machine.Group) : State :=
  { State.reset with groups := [(0, g)], teams := [(keyOf 1 0, loadTeam)], launches := [(1, loadLaunch 0)], parts := [(0, loadPart)] }
/-- The machine with a team. -/
def withTeam (s : State) (t : Team) : State := { s with teams := [(keyOf 1 0, t)] }
/-- The path that stands in slot 0 of a group with lanes. -/
def p0 : Path := { pc := 3, mask := 1 }
/-- The group with one block executing and one path, of which lane 0 lives. -/
def gL : Machine.Group := { g0 with laneQ := [{ k := [0x123456789ABCDEF0] }], running := true, slot0 := some p0, nextPath := 1, live := 1 }
/-- The register after an instruction that completes. -/
def regAfter (i : Instr) (g : Machine.Group) (r : Reg) : Option W64 :=
  match exec i (machine g) with
  | .next t => (t.group? 0).map (fun g => g.reg r)
  | _ => none
/-- The cause and address of the stop that an instruction takes. -/
def stopOf (i : Instr) (s : State) : Option (Cause × W64) :=
  match exec i s with
  | .next t => ((t.group? s.cur).bind (fun g => g.parked)).map (fun k => (k.rcd.cause, k.rcd.addr))
  | _ => none
/-- A lane register and FLAGS after a lane instruction that completes. -/
def laneAfterExec (i : Instr) (g : Machine.Group) (r l : Nat) : Option (W32 × Flags) :=
  match exec i (machine g) with
  | .next t => (t.group? 0).map (fun g => (g.vreg r l, g.flags))
  | _ => none
theorem pair_eq {α β : Type} (x : α × β) (a : α) (h : x.1 = a) : x = (a, x.2) := by cases x; cases h; rfl
theorem ok_eq {r : Except Reject Instr} {i : Instr} (h : (match r with
    | .ok j => decide (j = i)
    | .error _ => false) = true) : r = .ok i := by
  cases r with
  | ok j => rw [of_decide_eq_true h]
  | error e => exact nomatch h
theorem snd_eq {α β : Type} (x : α × β) (b : β) (h : x.2 = b) : x = (x.1, b) := by cases x; cases h; rfl
def readsScalar (l : List (Nat × Instr)) : Bool :=
  l.all (fun x => (match decodeScalar x.1 with
    | .ok i => decide (i = x.2)
    | .error _ => false) && x.2.wellFormed && encode x.2 == x.1)
/-- The same for lane words. -/
def readsLane (l : List (Nat × Instr)) : Bool :=
  l.all (fun x => (match decodeLane x.1 with
    | .ok i => decide (i = x.2)
    | .error _ => false) && x.2.wellFormed && encode x.2 == x.1)
theorem test_decode_alu : readsScalar [
    (0x04644800, .add 3 4 9),
    (0x04644801, .sub 3 4 9),
    (0x04644802, .mul 3 4 9),
    (0x04644803, .mulh 3 4 9),
    (0x04644804, .mulhn 3 4 9),
    (0x04644805, .div 3 4 9),
    (0x04644806, .divn 3 4 9),
    (0x04644807, .rem 3 4 9),
    (0x04644808, .remn 3 4 9),
    (0x04644809, .and 3 4 9),
    (0x0464480A, .or 3 4 9),
    (0x0464480B, .xor 3 4 9),
    (0x0464480C, .shl 3 4 9),
    (0x0464480D, .shr 3 4 9),
    (0x0464480E, .sra 3 4 9),
    (0x0464480F, .min 3 4 9),
    (0x04644810, .max 3 4 9),
    (0x04644811, .minn 3 4 9),
    (0x04644812, .maxn 3 4 9),
    (0x04644813, .slt 3 4 9),
    (0x04644814, .sltn 3 4 9),
    (0x04644815, .seq 3 4 9),
    (0x04644816, .sne 3 4 9),
    (0x04640017, .clz 3 4),
    (0x04640018, .ctz 3 4),
    (0x04640019, .popc 3 4),
    (0x0464001A, .sextB 3 4),
    (0x0464001B, .sextH 3 4),
    (0x0464001C, .sextW 3 4),
    (0x0464001D, .zextB 3 4),
    (0x0464001E, .zextH 3 4),
    (0x0464001F, .zextW 3 4)] = true := by decide +kernel

theorem test_decode_imm : readsScalar [
    (0x086489AC, .addi 3 4 0x89ac),
    (0x0C6489AC, .andi 3 4 0x89ac),
    (0x106489AC, .ori 3 4 0x89ac),
    (0x146489AC, .xori 3 4 0x89ac),
    (0x18640021, .shli 3 4 33),
    (0x1C640020, .shri 3 4 32),
    (0x2064003F, .srai 3 4 63),
    (0x246489AC, .slti 3 4 0x89ac),
    (0x286089AC, .lih 3 0x89ac),
    (0x2C6489AC, .lhh 3 4 0x89ac),
    (0x306489AC, .lhx 3 4 0x89ac)] = true := by decide +kernel

theorem test_decode_scalar_memory : readsScalar [
    (0x34649FF8, .sld 3 4 .w true 0xff8),
    (0x38644FF8, .sst 3 4 .h 0xff8)] = true := by decide +kernel

theorem test_decode_branch : readsScalar [
    (0x3C899ABC, .beq 4 9 0x9abc),
    (0x40899ABC, .bne 4 9 0x9abc),
    (0x44899ABC, .blt 4 9 0x9abc),
    (0x48899ABC, .bge 4 9 0x9abc),
    (0x4C899ABC, .bltn 4 9 0x9abc),
    (0x50899ABC, .bgen 4 9 0x9abc),
    (0x57FFFFF0, .jmp 0x3fffff0),
    (0x5A000001, .call 0x2000001),
    (0x5C040000, .jr 4),
    (0x5C040001, .callr 4),
    (0x5C000002, .ret)] = true := by decide +kernel

theorem test_decode_lane_queue : readsScalar [
    (0x60044BC0, .lgo 4 9 15),
    (0x60000001, .lsync),
    (0x60600002, .spop 3),
    (0x60600003, .lqd 3)] = true := by decide +kernel

theorem test_decode_group : readsScalar [
    (0x64640000, .spawn 3 4),
    (0x64000001, .exit),
    (0x64000002, .yield),
    (0x640000C3, .setprio 3),
    (0x64000044, .crit 1),
    (0x64600445, .srd 3 17),
    (0x64040346, .swr 4 13),
    (0x64040007, .fmt 4),
    (0x64600008, .stime 3),
    (0x6404A949, .mark 4 0x2a5)] = true := by decide +kernel

theorem test_decode_tile : readsScalar [
    (0x68210080, .talloc 33 4),
    (0x68610080, .tgive 33 4),
    (0x68A10000, .tfree 33),
    (0x68E10089, .tld 33 4 9),
    (0x69210089, .tst 33 4 9),
    (0x69610000, .tzero 33),
    (0x69A10080, .tinfo 4 33)] = true := by decide +kernel

theorem test_decode_matrix : readsScalar [
    (0x6C000000, .mxacq),
    (0x6C400000, .mxrel),
    (0x6C80B5C8, .mxrdy 45 1 0xc8),
    (0x6CFD482D, .mxa 61 18 45),
    (0x6D11F82D, .mxs 17 62 45),
    (0x6D430C89, .mxdr 3 4 9 3),
    (0x6D800480, .cbld 4 1)] = true := by decide +kernel

theorem test_decode_copy : readsScalar [
    (0x70644D40, .cpy 3 4 9 21),
    (0x70644D41, .cpyt 3 4 9 21),
    (0x70644D42, .cpys 3 4 9 21),
    (0x70600043, .bclose 3 1)] = true := by decide +kernel

theorem test_decode_barrier : readsScalar [
    (0x74044940, .binit 4 9 5),
    (0x74640001, .barr 3 4),
    (0x74640002, .barrd 3 4),
    (0x74044803, .bexp 4 9),
    (0x74044904, .wait 4 9 .objOr),
    (0x74644805, .btest 3 4 9 .obj)] = true := by decide +kernel

theorem test_decode_atomic : readsScalar [
    (0x7803227B, .samoAdd 3 4 9 .ar .sys true),
    (0x78232241, .samoAnd 3 4 9 .rlx .grp true),
    (0x78432253, .samoOr 3 4 9 .acq .team true),
    (0x78632265, .samoXor 3 4 9 .rel .tdm true),
    (0x78832277, .samoMin 3 4 9 .ar .gang true),
    (0x78A32249, .samoMax 3 4 9 .rlx .dev true),
    (0x78C3225B, .samoMinn 3 4 9 .acq .sys true),
    (0x78E32261, .samoMaxn 3 4 9 .rel .grp true),
    (0x79032273, .samoSwap 3 4 9 .ar .team true),
    (0x79232245, .scas 3 4 9 .rlx .tdm true),
    (0x79432256, .samoFadd 3 4 9 .acq .gang),
    (0x79632019, .sldo 3 4 .acq .dev true),
    (0x7980226B, .ssto 4 9 .rel .sys true),
    (0x79A02001, .lock 4 .grp true),
    (0x79C02003, .unlock 4 .team true),
    (0x7A002265, .sredAdd 4 9 .rel .tdm true),
    (0x7A202267, .sredAnd 4 9 .rel .gang true),
    (0x7A402269, .sredOr 4 9 .rel .dev true),
    (0x7A60226B, .sredXor 4 9 .rel .sys true),
    (0x7A802261, .sredMin 4 9 .rel .grp true),
    (0x7AA02263, .sredMax 4 9 .rel .team true),
    (0x7AC02265, .sredMinn 4 9 .rel .tdm true),
    (0x7AE02267, .sredMaxn 4 9 .rel .gang true),
    (0x7B002268, .sredFadd 4 9 .rel .dev)] = true := by decide +kernel

theorem test_decode_system : readsScalar [
    (0x7C001940, .fence .ar .sys),
    (0x7C044801, .flush 4 9),
    (0x7C044802, .inv 4 9),
    (0x7C600083, .vstat 3 2),
    (0x80644800, .dlaunch 3 4 9),
    (0x8400FFC0, .trap 0x3ff),
    (0x84008041, .brk 0x201),
    (0x846000C2, .curb 3 3)] = true := by decide +kernel

theorem test_decode_vint : readsLane [
    (0x01B003010200010000000000, .vadd { gn := true, gp := 3, vd := 3, va := 1, vb := 2, md := 1 }),
    (0x0100FFF0FF00100100000000, .vsub { gp := 0, vd := 255, va := 240, vb := 255, ty := .n32 }),
    (0x017005060000780280000001, .vmul { gp := 7, vd := 5, va := 6, ty := .i16x2, md := 8, x32 := 0x80000001 }),
    (0x017005060700A00300000000, .vmulh { gp := 7, vd := 5, va := 6, vb := 7, ty := .n8x4 }),
    (0x017002040608E10400000000, .vmad { gp := 7, vd := 2, va := 4, vb := 6, vc := 8, ty := .i64, md := 1 }),
    (0x017002040600F00500000000, .vmin { gp := 7, vd := 2, va := 4, vb := 6, ty := .n64 }),
    (0x0170EFEE0100800600000000, .vmax { gp := 7, vd := 239, va := 238, vb := 1, ty := .n16x2 }),
    (0x017001020000910700000000, .vabs { gp := 7, vd := 1, va := 2, ty := .i8x4, md := 1 }),
    (0x017001020000000800000000, .vneg { gp := 7, vd := 1, va := 2 }),
    (0x0170010200000809000000FF, .vand { gp := 7, vd := 1, va := 2, md := 8, x32 := 0xFF }),
    (0x017001020300000A00000000, .vor { gp := 7, vd := 1, va := 2, vb := 3 }),
    (0x017002040600F00B00000000, .vxor { gp := 7, vd := 2, va := 4, vb := 6, ty := .n64 }),
    (0x017001020000000C00000000, .vnot { gp := 7, vd := 1, va := 2 }),
    (0x017001020300700D00000000, .vshl { gp := 7, vd := 1, va := 2, vb := 3, ty := .i16x2 }),
    (0x017001020300900E00000000, .vshr { gp := 7, vd := 1, va := 2, vb := 3, ty := .i8x4 }),
    (0x017001020000080F0000001F, .vsra { gp := 7, vd := 1, va := 2, md := 8, x32 := 0x1F }),
    (0x017001020000101000001B05, .vbfe { gp := 7, vd := 1, va := 2, ty := .n32, x32 := 0x1B05 }),
    (0x017001020300001100002000, .vbfi { gp := 7, vd := 1, va := 2, vb := 3, x32 := 0x2000 }),
    (0x017001020000001200000000, .vpopc { gp := 7, vd := 1, va := 2 }),
    (0x017002040000E01300000000, .vclz { gp := 7, vd := 2, va := 4, ty := .i64 }),
    (0x017001020000101400000000, .vbrev { gp := 7, vd := 1, va := 2, ty := .n32 })] = true := by decide +kernel

theorem test_decode_vfp : readsLane [
    (0x027001020300270000000000, .vfadd { gp := 7, vd := 1, va := 2, vb := 3, ty := .f32, md := 7 }),
    (0x0270010200005D013C003C00, .vfsub { gp := 7, vd := 1, va := 2, ty := .f16x2, md := 13, x32 := 0x3C003C00 }),
    (0x027001020300400200000000, .vfmul { gp := 7, vd := 1, va := 2, vb := 3, ty := .bf16 }),
    (0x027001020304600300000000, .vffma { gp := 7, vd := 1, va := 2, vb := 3, vc := 4, ty := .bf16x2 }),
    (0x027001020300360400000000, .vfmin { gp := 7, vd := 1, va := 2, vb := 3, ty := .f16, md := 6 }),
    (0x027001020300200500000000, .vfmax { gp := 7, vd := 1, va := 2, vb := 3, ty := .f32 }),
    (0x027F01020300200600000000, .vfdiv { gp := 7, la := 15, vd := 1, va := 2, vb := 3, ty := .f32 }),
    (0x027001020000240700000000, .vrcp { gp := 7, vd := 1, va := 2, ty := .f32, md := 4 }),
    (0x027101020000240800000000, .vrsq { gp := 7, la := 1, vd := 1, va := 2, ty := .f32, md := 4 }),
    (0x027201020000240900000000, .vsqrt { gp := 7, la := 2, vd := 1, va := 2, ty := .f32, md := 4 }),
    (0x027301020000240A00000000, .vexp2 { gp := 7, la := 3, vd := 1, va := 2, ty := .f32, md := 4 }),
    (0x027401020000240B00000000, .vlog2 { gp := 7, la := 4, vd := 1, va := 2, ty := .f32, md := 4 }),
    (0x027501020000240C00000000, .vsin { gp := 7, la := 5, vd := 1, va := 2, ty := .f32, md := 4 }),
    (0x027601020000240D00000000, .vcos { gp := 7, la := 6, vd := 1, va := 2, ty := .f32, md := 4 }),
    (0x027001020000200E00000000, .vfrnd { gp := 7, vd := 1, va := 2, ty := .f32 }),
    (0x027001020000500F00000000, .vfcls { gp := 7, vd := 1, va := 2, ty := .f16x2 })] = true := by decide +kernel

theorem test_decode_vcmp_plog : readsLane [
    (0x037054010200100300000000, .vcmp .le { gp := 7, vd := 84, va := 1, vb := 2, ty := .n32 }),
    (0x0370FC010200268700000000, .vfcmp .ord { gp := 7, vd := 252, va := 1, vb := 2, ty := .f32, md := 6 }),
    (0x047020406000000000000000, .pand { gp := 7, vd := 32, va := 64, vb := 96 }),
    (0x0470E0C0A000000100000000, .por { gp := 7, vd := 224, va := 192, vb := 160 }),
    (0x047020202000000200000000, .pxor { gp := 7, vd := 32, va := 32, vb := 32 }),
    (0x04800040E000000300000000, .pandn { gn := true, gp := 0, va := 64, vb := 224 })] = true := by decide +kernel

theorem test_decode_vcvt : readsLane [
    (0x057002010000E00000000002, .vcvt { gp := 7, vd := 2, va := 1, ty := .i64, x32 := 0x2 }),
    (0x057308100028900100000006, .vquant { gp := 7, la := 3, vd := 8, va := 16, vc := 40, ty := .i8x4, x32 := 0x6 }),
    (0x05700405FF002002000000BD, .vdeq { gp := 7, vd := 4, va := 5, vb := 255, ty := .f32, x32 := 0xBD }),
    (0x057004050600B10300000005, .vpack { gp := 7, vd := 4, va := 5, vb := 6, ty := .e4m3x4, md := 1, x32 := 0x5 }),
    (0x057004050000A0040000001D, .vunpack { gp := 7, vd := 4, va := 5, ty := .n8x4, x32 := 0x1D }),
    (0x057004050600C00500000000, .vscale { gp := 7, vd := 4, va := 5, vb := 6, ty := .e5m2x4 })] = true := by decide +kernel

theorem test_decode_vmov : readsLane [
    (0x067002FE0000E00000000000, .vmov { gp := 7, vd := 2, va := 254, ty := .i64 }),
    (0x067002F30000000100000000, .vmovk { gp := 7, vd := 2, va := 243 }),
    (0x067002000000E002FFFFFFFE, .vmovi { gp := 7, vd := 2, ty := .i64, x32 := 0xFFFFFFFE }),
    (0x0670020304A0000300000000, .vsel { gp := 7, vd := 2, va := 3, vb := 4, vc := 160 }),
    (0x067102030003080400000001, .vshfl { gp := 7, la := 1, vd := 2, va := 3, vc := 3, md := 8, x32 := 0x1 }),
    (0x06720203000000050000003F, .vbcast { gp := 7, la := 2, vd := 2, va := 3, x32 := 0x3F }),
    (0x067002C00000E00600000000, .vballot { gp := 7, vd := 2, va := 192, ty := .i64 }),
    (0x067002030008200700000000, .vred { gp := 7, vd := 2, va := 3, vc := 8, ty := .f32 }),
    (0x067902040015F00800000000, .vscan { gp := 7, la := 9, vd := 2, va := 4, vc := 21, ty := .n64 }),
    (0x067000040000F00900000000, .vput { gp := 7, va := 4, ty := .n64 }),
    (0x067001000000000A00000009, .vspec { gp := 7, vd := 1, x32 := 0x9 })] = true := by decide +kernel

theorem test_decode_vmem : readsLane [
    (0x077402040680E000FFFFFFF8, .vld { gp := 7, la := 4, vd := 2, va := 4, vb := 6, vc := 128, ty := .i64, x32 := 0xFFFFFFF8 }),
    (0x077002F1FF54A00100000000, .vst { gp := 7, vd := 2, va := 241, vb := 255, vc := 84, ty := .n8x4 }),
    (0x077002F1FF00300200000040, .vlds { gp := 7, vd := 2, va := 241, vb := 255, ty := .f16, x32 := 0x40 }),
    (0x077002010300000300000000, .vsts { gp := 7, vd := 2, va := 1, vb := 3 }),
    (0x077FFF040608000400000269, .vamo { gp := 7, la := 15, vd := 255, va := 4, vb := 6, vc := 8, x32 := 0x269 }),
    (0x07700204062C000500000000, .vrdm { gp := 7, vd := 2, va := 4, vb := 6, vc := 44 }),
    (0x077002F0000000060002AA21, .vtget { gp := 7, vd := 2, va := 240, x32 := 0x2AA21 }),
    (0x077002FF0000F0070000013F, .vtset { gp := 7, vd := 2, va := 255, ty := .n64, x32 := 0x13F })] = true := by decide +kernel

theorem test_decode_lctl : readsLane [
    (0x08A000000000000012345678, .lbra { gn := true, gp := 2, x32 := 0x12345678 }),
    (0x087000000000000100000009, .mjoin { gp := 7, x32 := 0x9 }),
    (0x087000000000000200000000, .join { gp := 7 }),
    (0x087000000000000300000000, .lend { gp := 7 }),
    (0x081000000000000400000000, .lkill { gp := 1 }),
    (0x08700000000000050007FFFF, .lfmt { gp := 7, x32 := 0x7FFFF }),
    (0x087000000000000600000000, .lnop { gp := 7 }),
    (0x08E00000000000070000FFFF, .lbrk { gn := true, gp := 6, x32 := 0xFFFF })] = true := by decide +kernel
/-! What is refused as ill-formed: one term for each check. -/

/-- No term of a list is well-formed. -/
def refuses (l : List Instr) : Bool := l.all (fun i => !i.wellFormed)
theorem test_illFormed_scalar : refuses [
    .lgo 1 2 16, .lgo 1 20 13, .setprio 0, .setprio 4, .crit 2, .srd 1 0x15, .swr 1 0x15, .tld 1 2 31, .tst 1 2 31, .mxrdy 0 0 0xF0,
    .mxa 3 3 0, .mxs 3 3 0, .mxdr 1 2 31 0, .mxdr 1 2 3 4, .cbld 1 2, .cpyt 1 2 31 3, .bclose 1 2, .wait 1 2 .copy, .btest 1 1 2 .matrix,
    .btest 1 2 3 .objOr, .scas 1 2 31 .rlx .dev false, .sldo 1 2 .rel .dev false, .ssto 1 2 .acq .dev false, .sredAdd 1 2 .ar .dev false,
    .sredAnd 1 2 .acq .dev false, .sredOr 1 2 .acq .dev false, .sredXor 1 2 .acq .dev false, .sredMin 1 2 .acq .dev false, .sredMax 1 2 .acq .dev false,
    .sredMinn 1 2 .acq .dev false, .sredMaxn 1 2 .acq .dev false, .sredFadd 1 2 .acq .dev, .fence .rlx .dev, .vstat 1 3, .curb 1 4] = true := by decide +kernel
/-- Words of the arithmetic families: a wrong type, modifier bit, lookahead, destination, pair, unused field, immediate. -/
theorem test_illFormed_lanes : refuses [
    .vadd { ty := .f32 }, .vadd { md := 2 }, .vadd { la := 1 }, .vadd { vd := 0xF0 }, .vadd { ty := .i64, va := 1 }, .vadd { vc := 1 }, .vadd { x32 := 1 },
    .vadd { md := 8, vb := 1 }, .vabs { vb := 1 }, .vmulh { md := 1 }, .vnot { md := 8 }, .vfadd { ty := .i32 }, .vfadd { ty := .f32, md := 10 }, .vfmin { ty := .f32, md := 1 },
    .vrcp { ty := .f16 }, .vrsq { ty := .f32, md := 1 }, .vfrnd { ty := .f32, la := 1 }, .vbfe {}, .vbfe { x32 := 32 * 256 + 1 }, .vbfe { x32 := 256 + 64 }, .vbfi { ty := .i64, x32 := 256 },
    .vcmp .un { vd := 0x28 }, .vcmp .ord { vd := 0x28 }, .vcmp .eq { vd := 0x24 }, .vcmp .eq { vd := 0x29 }, .vfcmp .eq { vd := 0x28, ty := .f16x2 },
    .pand { vd := 1 }, .por { va := 1 }, .pxor { vb := 1 }, .pandn { x32 := 1 }] = true := by decide +kernel
theorem test_illFormed_lanes_other : refuses [
    .vcvt { ty := .f32, x32 := 2 }, .vcvt { ty := .i32, x32 := 2, md := 1 }, .vcvt { ty := .f32, x32 := 6 }, .vpack { ty := .f32 }, .vunpack { x32 := 0 }, .vunpack { ty := .f32, x32 := 5 + 2 * 16 },
    .vquant { ty := .f32, x32 := 2 }, .vquant { ty := .e4m3x4, x32 := 2, va := 0xF0 }, .vdeq { ty := .f32, x32 := 2 }, .vdeq { ty := .f32, x32 := 13 + 12 * 16 }, .vscale { ty := .i32 },
    .vmov { ty := .f32 }, .vmovk { vd := 1, va := 0xF0 }, .vmovk { vd := 2, va := 0xFF }, .vmovi { va := 1 }, .vsel { vc := 1 }, .vshfl { vc := 4 }, .vbcast { x32 := 64 }, .vballot { va := 1 },
    .vred { vc := 9 }, .vred { vc := 16 }, .vred { ty := .i32, vc := 6 }, .vscan { vc := 32 }, .vput { vd := 1 }, .vspec { x32 := 10 },
    .vld { vc := 1 }, .vld { vc := 32 }, .vld { va := 1 }, .vld { vb := 0xF0 }, .vst { vc := 32 }, .vst { vc := 6 * 4 }, .vrdm { vc := 64 }, .vlds { vc := 1 }, .vsts { vd := 0xFF },
    .vamo { x32 := 11 }, .vamo { x32 := 6 * 128 }, .vamo { x32 := 10 }, .vamo { vc := 1 }, .vtget { va := 0 }, .vtget { va := 0xFF, x32 := 64 }, .vtset { va := 0xFF, vd := 0xFF },
    .lbra { vd := 1 }, .mjoin { gp := 0 }, .join { x32 := 1 }, .lend { gn := true }, .lkill { x32 := 1 }, .lfmt { x32 := 0x80000 }, .lnop { x32 := 1 }, .lbrk { x32 := 0x10000 }] = true := by
  decide +kernel
/-- Words that are ILLEGAL for a group of 8 lane registers, 32 lanes and 5 lane words (R63, R70, R74, R78, R81), beside the last legal ones. -/
theorem test_illegal_for_a_group :
    (([.vadd { vd := 8 }, .vadd { va := 8 }, .vadd { vb := 8 }, .vmad { vc := 8 }, .vneg { ty := .i64, vd := 7, va := 0xFF }, .vcmp .eq { vd := 0x28, va := 8 }, .vld { va := 7, vb := 0xFF },
       .vquant { vd := 1 }, .vmovk { vd := 7, va := 0xF0 }, .vbcast { x32 := 32 }, .lbra { x32 := 5 }, .mjoin { x32 := 5 }, .mxrdy 0 0 0] : List Instr).all
      (fun i => !i.legalIn 8 32 5)) = true
    ∧ (([.vadd { vd := 7, va := 7, vb := 7 }, .vneg { ty := .i64, vd := 6, va := 0xFF }, .vld { va := 6, vb := 0xFF }, .vquant { ty := .e4m3x4, vd := 0, va := 0xFF, vc := 0xFF }, .vmovk { vd := 6, va := 0xF0 },
       .vbcast { x32 := 31 }, .lbra { x32 := 4 }] : List Instr).all (fun i => i.legalIn 8 32 5)) = true ∧ (Instr.mxrdy 0 0 0).legalIn 9 32 5 = true := by decide +kernel

/-! The spec's own samples. -/

/-- Words of R65 to R81's worked encodings and of the samples beside R138, R133, R160, R253 and R380. -/
theorem test_decode_samples : readsScalar [
    (0x04642800, .add 3 4 5), (0x34E29FF8, .sld 7 2 .w true 0xFF8), (0x4020FFFD, .bne 1 0 0xFFFD), (0x780952D8, .samoAdd 9 10 11 .acq .dev false), (0x04642805, .div 3 4 5),
    (0x04220017, .clz 1 2), (0x04C7001C, .sextW 6 7), (0x28A089AC, .lih 5 0x89AC), (0x2042003F, .srai 2 2 63), (0x0C8400FF, .andi 4 4 0xFF), (0x60054100, .lgo 5 8 4),
    (0x64890000, .spawn 4 9), (0x7CC00043, .vstat 6 1), (0x80853000, .dlaunch 4 5 6)] = true
    ∧ readsLane [(0x07A30AF00480200000000010, .vld { gn := true, gp := 2, la := 3, vd := 10, va := 0xF0, vb := 4, vc := 0x80, ty := .f32, x32 := 16 }),
      (0x01700301_02000100_00000000, .vadd { vd := 3, va := 1, vb := 2, md := 1 }),
      (0x06700404_00010804_00000001, .vshfl { vd := 4, va := 4, vc := 1, md := 8, x32 := 1 }),
      (0x077004F1_080AE004_00000269, .vamo { vd := 4, va := 0xF1, vb := 8, vc := 10, ty := .i64, x32 := 0x269 }),
      (0x05702808_0030B001_00000002, .vquant { vd := 40, va := 8, vc := 48, ty := .e4m3x4, x32 := 2 })] = true := by decide +kernel
/-- The table under R167 and the corners of R166: (instruction of s8, a in s1, b in s2, result). -/
def aluGives (i : Instr) (a b : Nat) : Option W64 := regAfter i { g0 with s := regs [(1, BitVec.ofNat 64 a), (2, BitVec.ofNat 64 b)] } 8
theorem test_alu_edges : ([(.div 8 1 2, 2 ^ 64 - 7, 2, 2 ^ 64 - 3), (.rem 8 1 2, 2 ^ 64 - 7, 2, 2 ^ 64 - 1), (.divn 8 1 2, 2 ^ 64 - 7, 2, 0x7FFFFFFFFFFFFFFC),
    (.divn 8 1 2, 5, 0, 2 ^ 64 - 1), (.remn 8 1 2, 5, 0, 5), (.mulh 8 1 2, 2 ^ 64 - 1, 3, 2 ^ 64 - 1), (.mulhn 8 1 2, 2 ^ 64 - 1, 3, 2), (.sra 8 1 2, 2 ^ 63, 0x43, 0xF000000000000000),
    (.clz 8 1, 0, 0, 64), (.sextW 8 1, 0x80000001, 0, 0xFFFFFFFF80000001), (.div 8 1 2, 2 ^ 63, 2 ^ 64 - 1, 2 ^ 63), (.rem 8 1 2, 2 ^ 63, 2 ^ 64 - 1, 0),
    (.add 8 1 2, 2 ^ 64 - 1, 5, 4), (.sub 8 1 2, 0, 1, 2 ^ 64 - 1), (.shl 8 1 2, 1, 0x7F, 2 ^ 63), (.shr 8 1 2, 2 ^ 63, 63, 1), (.min 8 1 2, 2 ^ 63, 1, 2 ^ 63), (.minn 8 1 2, 2 ^ 63, 1, 1),
    (.slt 8 1 2, 2 ^ 63, 0, 1), (.sltn 8 1 2, 2 ^ 63, 0, 0), (.ctz 8 1, 0, 0, 64), (.popc 8 1, 2 ^ 64 - 2, 0, 63), (.sextB 8 1, 0x80, 0, 0xFFFFFFFFFFFFFF80), (.zextH 8 1, 2 ^ 64 - 1, 0, 0xFFFF)] :
    List (Instr × Nat × Nat × Nat)).all (fun x => aluGives x.1 x.2.1 x.2.2.1 == some (BitVec.ofNat 64 x.2.2.2)) = true := by decide +kernel
/-- R169's fields: a sign-extended immediate, and the three steps of `li s5, 0x123489ABCDEF` (the sample of R57). -/
theorem test_immediates : aluGives (.addi 8 1 0xFFFF) 5 0 = some 4 ∧ aluGives (.andi 8 1 0xFF) 0x1FF 0 = some 0xFF ∧ aluGives (.srai 8 1 63) (2 ^ 63) 0 = some 0xFFFFFFFFFFFFFFFF
    ∧ aluGives (.slti 8 1 0xFFFF) (2 ^ 64 - 2) 0 = some 1 := by decide +kernel
/-- The worked block of R99: element codes, the scale code, one retry, and FLAGS NX and UF. -/
def block32 : List W32 := [0x43EB0000, 0xC0400000, 0x3DCCCCCD, 0x80000000, 0x3B449BA6] ++ List.replicate 27 0x3F800000
def gBlock : Machine.Group := { gL with v := (List.range 32).map (fun i => (64 * (8 + i), nth block32 i 0)) }
/-- The group after a long-latency instruction has completed. -/
def completed (i : Instr) (g : Machine.Group) : Option Machine.Group :=
  match exec i (machine g) with
  | .next t => (match exec (.longLatencyComplete 0 0) t with
    | .next u => u.group? 0
    | _ => none)
  | _ => none
/-- R105's stored result of that block, and FLAGS UF (bit 3) and NX (bit 4). -/
theorem test_vquant_worked_block : (completed (.vquant { vd := 40, va := 8, vc := 48, ty := .e4m3x4, x32 := 2 }) gBlock).map (fun g =>
    ([40, 41, 42, 47, 48].map (fun r => (g.vreg r 0).toNat), g.flags.toNat)) = some ([0x8015BC77, 0x30303001, 0x30303030, 0x30303030, 0x180], 0x18) := by decide +kernel
/-- Lane 0 of a group whose v4 and v6 are given. -/
def laneGives (i : Instr) (a b : W32) : Option (Nat × Nat) :=
  (laneAfterExec i { gL with v := [(256, a), (384, b)] } 2 0).map (fun x => (x.1.toNat, x.2.toNat))
/-- R185's samples: saturation sets SAT (bit 5); without it results wrap and raise nothing. -/
theorem test_lane_integers : laneGives (.vabs { vd := 2, va := 4, md := 1 }) 0x80000000 0 = some (0x7FFFFFFF, 0x20)
    ∧ laneGives (.vabs { vd := 2, va := 4 }) 0x80000000 0 = some (0x80000000, 0)
    ∧ laneGives (.vneg { vd := 2, va := 4, ty := .n8x4, md := 1 }) 0x01000200 0 = some (0, 0x20)
    ∧ laneGives (.vmul { vd := 2, va := 4, vb := 6, ty := .i16x2, md := 1 }) 300 200 = some (0x7FFF, 0x20)
    ∧ laneGives (.vadd { vd := 2, va := 4, vb := 6, ty := .i8x4 }) 0x7F0180FF 0x01FF8001 = some (0x80000000, 0)
    ∧ laneGives (.vshl { vd := 2, va := 4, vb := 6 }) 1 0x3F = some (0x80000000, 0)
    ∧ laneGives (.vbfe { vd := 2, va := 4, x32 := 4 + 4 * 256 }) 0xF5 0 = some (0xFFFFFFFF, 0) := by decide +kernel
/-- Single-precision sums worked by hand: 1 + 2^-24 ties to 1 with NX; the least denormal halves to zero with UF and NX; Inf - Inf is the default
NaN with NV; the largest number doubled overflows to Inf with OF and NX; 1 / 0 is Inf with DZ. -/
theorem test_lane_floats : laneGives (.vfadd { vd := 2, va := 4, vb := 6, ty := .f32 }) 0x3F800000 0x33800000 = some (0x3F800000, 0x10)
    ∧ laneGives (.vfmul { vd := 2, va := 4, vb := 6, ty := .f32 }) 1 0x3F000000 = some (0, 0x18)
    ∧ laneGives (.vfsub { vd := 2, va := 4, vb := 6, ty := .f32 }) 0x7F800000 0x7F800000 = some (0x7FC00000, 0x01)
    ∧ laneGives (.vfadd { vd := 2, va := 4, vb := 6, ty := .f32 }) 0x7F7FFFFF 0x7F7FFFFF = some (0x7F800000, 0x14)
    ∧ laneGives (.vfmin { vd := 2, va := 4, vb := 6, ty := .f32 }) 0x80000000 0 = some (0x80000000, 0) := by decide +kernel
/-- Addresses of R17 and R18 worked in the overview: lane 3 of v10 of width 32 at register base 0xC000 of core 45, and its Casket slot 17. -/
theorem test_onchip_map : onchip 45 (0x400000 + 0xC000 + 10 * 128 + 3 * 4) = 0x1F016C0C50C ∧ onchip 45 (0x580000 + 17 * 0x4000) = 0x1F016DC4000
    ∧ onchip 159 0x7FFFFF = 0x1F04FFFFFFF := by decide
/-- The fold beside R346: hallmarks 0x10 and 0x20, and exchanged. -/
theorem test_hallmark_fold : ({ gridx := 2, gridy := 1, gridz := 1, hmarks := [(0, 0x10), (1, 0x20)] } : Launch).fold = 0x100000001B11
    ∧ ({ gridx := 2, gridy := 1, gridz := 1, hmarks := [(0, 0x20), (1, 0x10)] } : Launch).fold = 0x200000003671 := by decide +kernel
/-- The collective beside R351: leaves 2^24 + 1 + 1 (2^24 after its own tree), 1, 1, 1, 1 in f32 make 2^24 + 4. -/
theorem test_collective_tree : ({ rcd := BitVec.ofNat 512 (1 + 2 * 2 ^ 3 + 5 * 2 ^ 7 + 4 * 2 ^ 64), contrib := [(0, toBytes 4 0x4B800000)] ++ (List.range 4).map (fun i => (i + 1, toBytes 4 0x3F800000)) } : Coll).combine = toBytes 4 0x4B800002 := by decide +kernel
/-- Stops: a misaligned scalar load; a scratch load past the scratch; an ILLEGAL special register write. -/
theorem test_stops : stopOf (.sld 1 4 .d false 1) (machine g0) = some (.align, BitVec.ofNat 64 (aperture + 0xFFF9))
    ∧ stopOf (.sld 1 4 .d false 8) (machine g0) = some (.scratchbounds, BitVec.ofNat 64 (aperture + 0x10000))
    ∧ stopOf (.trap 5) (machine g0) = some (.trapinsn, 5) := by decide +kernel
/-- A word of zeros is ILLEGAL as a scalar word, and a lane word with an op8 that the table leaves out too. -/
theorem test_reserved_words : (match decodeScalar 0 with
    | .ok _ => false
    | .error _ => true) = true ∧ (match decodeLane (0x0A * 2 ^ 88) with
    | .ok _ => false
    | .error _ => true) = true ∧ decodeTableWord 32 0x04642805 = some (.div 3 4 5) ∧ decodeTableWord 32 0xFFFFFFFF = none := by decide +kernel
/-! Witnesses: for every statement with hypotheses, concrete states and operands that meet them together, clause by clause. -/

/-- The load of `div s3, s4, s5`. -/
def fS : State := State.reset.withFetchWord 32 0x04642805
/-- The load of `lnop`. -/
def fL : State := State.reset.withFetchWord 96 0x087000000000000600000000
/-- The scheduler of quarter 0 chooses the loaded group. -/
def uS : State := (fS.chosenS 0).1
@[inherit_doc uS] def uL : State := (fL.chosenL 0).1
theorem witness_StepRunsScalarWord : fS.agenda = [] ∧ fS.acts = .scalar 0 :: fS.acts.tail ∧ fS.chosenS 0 = (uS, some 0)
    ∧ uS.group? 0 = some (loadGroup 0) ∧ (loadGroup 0).heldUpd = [] ∧ (loadGroup 0).pendStore = none ∧ (loadGroup 0).pageSince = none
    ∧ (loadGroup 0).sideWait = none
    ∧ uS.fetchScalar 0 (loadGroup 0) = (.word 0x04642805, (uS.fetchScalar 0 (loadGroup 0)).2) ∧ decodeScalar 0x04642805 = .ok (.div 3 4 5)
    ∧ (Instr.div 3 4 5).legalIn 240 32 ({ (uS.fetchScalar 0 (loadGroup 0)).2 with cur := 0 }.launchOf (loadGroup 0)).desc.lsize = true :=
  ⟨by decide +kernel, by decide +kernel, snd_eq _ _ (by decide +kernel), by decide +kernel, by decide +kernel, by decide +kernel, by decide +kernel,
   by decide +kernel, pair_eq _ _ (by decide +kernel), ok_eq (by decide +kernel), by decide +kernel⟩
theorem witness_StepRunsLaneWord : fL.agenda = [] ∧ fL.acts = .lane 0 :: fL.acts.tail ∧ fL.chosenL 0 = (uL, some (0, 0))
    ∧ uL.group? 0 = some (loadLanes 0 0) ∧ (loadLanes 0 0).heldUpd = [] ∧ (loadLanes 0 0).pendStore = none ∧ (loadLanes 0 0).pageSince = none
    ∧ (loadLanes 0 0).sideWait = none ∧ (loadLanes 0 0).path? 0 = some { pc := 0, mask := 0xFFFFFFFF }
    ∧ uL.fetchLane 0 (loadLanes 0 0) 0 = (.word 0x087000000000000600000000, (uL.fetchLane 0 (loadLanes 0 0) 0).2)
    ∧ decodeLane 0x087000000000000600000000 = .ok (.lnop { gp := 7 })
    ∧ (Instr.lnop { gp := 7 }).legalIn 240 32 ({ (uL.fetchLane 0 (loadLanes 0 0) 0).2 with cur := 0, slot := 0 }.launchOf (loadLanes 0 0)).desc.lsize = true
    ∧ ({ (uL.fetchLane 0 (loadLanes 0 0) 0).2 with cur := 0, slot := 0 } : State).quarterLeave 0 = true :=
  ⟨by decide +kernel, by decide +kernel, snd_eq _ _ (by decide +kernel), by decide +kernel, by decide +kernel, by decide +kernel, by decide +kernel,
   by decide +kernel, by decide +kernel, pair_eq _ _ (by decide +kernel), ok_eq (by decide +kernel), by decide +kernel, by decide +kernel⟩
theorem witness_StepTakesEvent : ({ State.reset with agenda := [.ideIntegrityFailure 1] } : State).agenda = .ideIntegrityFailure 1 :: []
    ∧ isEvent (.ideIntegrityFailure 1) = true
    ∧ ∃ t, exec (.ideIntegrityFailure 1) { State.reset with agenda := [.ideIntegrityFailure 1] } = .next t
        ∧ t ≠ { State.reset with agenda := [.ideIntegrityFailure 1] } := ⟨rfl, rfl, _, rfl, by decide +kernel⟩
theorem witness_EveryStepIsNew : ∃ t, step fS = .next t := by
  have h : (match step fS with | .next _ => true | _ => false) = true := by decide +kernel
  revert h; cases step fS with
  | next t => exact fun _ => ⟨t, rfl⟩
  | fault f => exact fun h => nomatch h
  | refused r => exact fun h => nomatch h
/-- Four ways to ILLEGAL: a word that is none, one not legal for the group (v240), a PC just past the code, and a lane index at LSIZE. -/
theorem witness_IllegalWordStops :
    ((State.reset.withFetchWord 32 0).fetchScalar 0 (loadGroup 0)).1 = .word 0 ∧ (decodeScalar 0).toOption = none
    ∧ ((State.reset.withFetchWord 96 0x087000000000000700000000).fetchLane 0 (loadLanes 0 0) 0).1 = .word 0x087000000000000700000000
    ∧ decodeLane 0x017100F0000000000000000000 ≠ decodeLane 0x087000000000000600000000
    ∧ (Instr.vnot { gp := 7, va := 8 }).legalIn 8 32 1 = false
    ∧ (fS.launchOf (loadGroup 0)).desc.scode.toNat + 4 * (fS.launchOf (loadGroup 0)).desc.ssize
        ≤ ({ (loadGroup 0) with spc := BitVec.ofNat 64 (0x200000 + 4 * 0xFFFFFFFF) } : Machine.Group).spc.toNat
    ∧ ({ (loadGroup 0) with spc := 0x200001 } : Machine.Group).spc.toNat % 4 ≠ 0
    ∧ (fS.launchOf (loadGroup 0)).desc.lsize ≤ (0xFFFFFFFF : W32).toNat := by
  refine ⟨by decide +kernel, by rfl, by decide +kernel, ?_, by decide +kernel, by decide +kernel, by decide, by decide +kernel⟩
  intro h; have := congrArg Except.toOption h; revert this; decide +kernel
/-- The group of every statement about scalar results; and the corners of division. -/
theorem witness_scalar : (machine g0).group? (machine g0).cur = some g0 := rfl
theorem witness_ScalarDivision : (machine { g0 with s := [(4, 0x8000000000000000), (6, 0xFFFFFFFFFFFFFFFF)] }).group? 0
      = some { g0 with s := [(4, 0x8000000000000000), (6, 0xFFFFFFFFFFFFFFFF)] }
    ∧ g0.reg 0 = 0 ∧ g0.reg 5 ≠ 0 ∧ ¬ (g0.reg 4 = 0x8000000000000000 ∧ g0.reg 5 = 0xFFFFFFFFFFFFFFFF)
    ∧ ({ g0 with s := [(4, 0x8000000000000000), (6, 0xFFFFFFFFFFFFFFFF)] } : Machine.Group).reg 4 = 0x8000000000000000
    ∧ ({ g0 with s := [(4, 0x8000000000000000), (6, 0xFFFFFFFFFFFFFFFF)] } : Machine.Group).reg 6 = 0xFFFFFFFFFFFFFFFF :=
  ⟨rfl, rfl, by decide, by decide, rfl, rfl⟩
theorem witness_BranchesAndJumps : (machine g0).group? (machine g0).cur = some g0
    ∧ (machine g0).traced ((machine g0).launchOf g0) g0.launch = false
    ∧ (g0.reg 4).toNat % 4 = 0 ∧ (g0.reg 31).toNat % 4 = 0 ∧ (g0.reg 6).toNat % 4 ≠ 0
    ∧ (({ g0 with s := [(31, 1)] } : Machine.Group).reg 31).toNat % 4 ≠ 0 := by
  refine ⟨rfl, by decide +kernel, by decide +kernel, by decide +kernel, by decide +kernel, by decide +kernel⟩
theorem witness_SpecialRegisterWrites : (machine g0).group? (machine g0).cur = some g0 ∧ (0x0E : BitVec 10) ≠ 0x0D ∧ (0x0E : BitVec 10) ≠ 0x11
    ∧ (machine g0).traced ((machine g0).launchOf g0) g0.launch = false := ⟨rfl, by decide, by decide, by decide +kernel⟩
/-- Seven and eight blocks, a stalled vput, a return value, and none of them. -/
theorem witness_LaneQueueInstructions :
    (machine { g0 with laneQ := List.replicate 7 {} }).group? 0 = some { g0 with laneQ := List.replicate 7 {} } ∧ (List.replicate 7 ({} : Block)).length < 8
    ∧ 8 ≤ (List.replicate 8 ({} : Block)).length ∧ ({ g0 with vputFull := true } : Machine.Group).vputFull = true ∧ g0.vputFull = false
    ∧ g0.laneQ = [] ∧ g0.pend = [] ∧ g0.posted = [] ∧ g0.retQ = [] ∧ gL.laneQ ≠ [] ∧ gL.retQ = []
    ∧ ({ g0 with retQ := [9] } : Machine.Group).retQ = 9 :: [] :=
  ⟨rfl, by decide, by decide, rfl, rfl, rfl, rfl, rfl, rfl, by decide, rfl, rfl⟩
theorem locate_own {s : State} {gid : Nat} {g : Machine.Group} {va n pa : Nat} {rw : Rw} {touch : Bool} (h : inAperture va = true)
    (hl : scratchLoc (s.teamOf g) (va - aperture) n = .port pa) : s.locate gid g va n rw touch = (.port pa, s) := by
  unfold State.locate; rw [if_pos h, hl]
theorem locate_window {s : State} {gid : Nat} {g : Machine.Group} {va n pa : Nat} {rw : Rw} {touch : Bool} (h : inAperture va = false)
    (hw : inTeamWin va = true) (hl : s.windowLoc g.launch va n = .port pa) : s.locate gid g va n rw touch = (.port pa, s) := by
  unfold State.locate; rw [if_neg (by rw [h]; decide), if_pos hw, hl]
/-- What is left of an ordinary access once its address leads to a port: checks that Lean can evaluate. -/
def accessOk (s : State) (g : Machine.Group) (k va n pa : Nat) (rw : Rw) : Bool :=
  decide (s.group? s.cur = some g) && !(inTeamWin va && g.refusedTo k va) && decide (va % n = 0) && !s.gwHit s.cur g k va n rw
    && decide (g.orun = none) && decide (g.posted = []) && (k != 0 || s.tableRoom s.cur 0 1)
    && !s.sideBlocks s.cur g va pa n true && !s.sideBlocks s.cur g va pa n false && decide (s.locks = []) && !s.bad pa n
theorem accessOf {s : State} {g : Machine.Group} {k va n pa : Nat} {rw : Rw} (h : accessOk s g k va n pa rw = true)
    (port : ∀ touch, s.locate s.cur g va n rw touch = (.port pa, s)) (kind : PlainMemory pa n ∨ DeviceMemory s g pa n rw) :
    Access s g k va n pa rw := by
  simp only [accessOk, Bool.and_eq_true, decide_eq_true_eq, Bool.not_eq_true', Bool.or_eq_true, bne_iff_ne, ne_eq] at h
  obtain ⟨⟨⟨⟨⟨⟨⟨⟨⟨⟨h1, h2⟩, h3⟩, h4⟩, h5⟩, h6⟩, h7⟩, h8⟩, h9⟩, h10⟩, h11⟩ := h
  exact ⟨h1, port, fun hw => by rw [hw] at h2; exact h2, kind, h3, h4, h5, h6, fun hk => h7.resolve_left (fun hn => hn hk),
    fun wr => by cases wr <;> assumption, h10, h11⟩
/-- An access in the issuing team's own scratchpad. -/
theorem ownAccess {s : State} {g : Machine.Group} {k va n core off : Nat} {rw : Rw} (h : accessOk s g k va n (onchip core off) rw = true)
    (ha : inAperture va = true) (hl : scratchLoc (s.teamOf g) (va - aperture) n = .port (onchip core off)) (hc : core < 160)
    (ho : off + n ≤ 0x400000) : ScratchAccess s g k va n (onchip core off) rw :=
  ⟨accessOf h (fun _ => locate_own ha hl) (.inl (.inl ⟨core, off, rfl, hc, ho⟩)), ha, .inl ⟨core, off, rfl, hc, ho⟩⟩
/-- The last eight bytes of the team's scratch are open to the group's accesses of every size. -/
theorem access (rw : Rw) {va n : Nat} (hv : va = aperture + 0xFFF8) (hn : n = 1 ∨ n = 2 ∨ n = 4 ∨ n = 8) :
    Access (machine g0) g0 0 va n (onchip 0 0xFFF8) rw := by
  subst hv
  rcases hn with rfl | rfl | rfl | rfl <;> cases rw <;>
    exact (ownAccess (by decide +kernel) (by decide +kernel) (by decide +kernel) (by decide) (by decide)).access
/-! The same machine with one page mapped: a translation that the host has answered (R324) stands in the core TLB, or nothing does. -/

/-- A leaf that lets everything be done, its A and D set (R318). -/
def leafAt (hpa : Nat) (perm : Nat := 0xDF) : W64 := BitVec.ofNat 64 (hpa / 4096 * 2 ^ 10 + perm)
/-- The group whose s4 names eight bytes of that page, and s5 and s6 numbers. -/
def gP : Machine.Group := { g0 with s := regs [(4, 0x5008), (5, 7), (6, 0xFFFFFFFFFFFFFFFE)] }
/-- The machine in host-assisted mode, with what its TLB holds. -/
def assistedM (g : Machine.Group) (tlb : List (Nat × W64)) : State :=
  { machine g with parts := [(0, { loadPart with rcd := loadPart.rcd ||| (1 <<< 80) })], cores := [(0, { tlb := tlb })] }
def paged (g : Machine.Group) (hpa : Nat) : State := assistedM g [(tlbKey 0 0x5000, leafAt hpa)]
/-- A page of host memory; one of committed device memory (the launch is PLAIN); one of device memory whose line the version of a CONTAINED launch's team has. -/
def onHost (g : Machine.Group) : State := paged g 0x30000000000
def onDram (g : Machine.Group) : State := paged g 0x40000000
def onVersion (g : Machine.Group) : State :=
  { withTeam (paged g 0x40000000) { loadTeam with version := some 7 } with
      launches := [(1, { loadLaunch 0 with desc := { loadDesc with cls := 0 } })], versions := [(7, { owner := keyOf 1 0, lines := [(0x1000000, { va := 0x5000 })] })] }
/-- Device memory of which no cache holds a line, of a task whose chain has a given head. -/
theorem device {s : State} {g : Machine.Group} {pa n : Nat} {rw : Rw} (h : (decide (regionOf pa = .dram) && decide (pa % 64 + n ≤ 64)
      && !((s.launchOf g).pred && (s.launchOf g).live) && decide (Tbl.find s.llc (pa / 64) = none) && decide (g.team < 2 ^ 32)
      && !g.stallLogged && !g.heldVer) = true)
    (hv : match s.taskHead g with
      | none => (s.launchOf g).desc.cls = 1 ∧ (s.launchOf g).taskParent = none
      | some v => (if (s.launchOf g).desc.cls = 1 then (s.launchOf g).taskParent else (s.teamOf g).version) = some v
          ∧ (s.vline v (pa / 64)).isSome = true) : DeviceMemory s g pa n rw := by
  simp only [Bool.and_eq_true, decide_eq_true_eq, Bool.not_eq_true'] at h
  obtain ⟨⟨⟨⟨⟨⟨h1, h2⟩, h3⟩, h4⟩, h5⟩, h6⟩, h7⟩ := h
  exact { dram := h1, line := h2, decided := h3, current := fun l hl => absurd (h4.symm.trans hl) (by simp), named := h5, goes := fun _ => ⟨h6, h7, hv⟩ }
theorem mapped (rw : Rw) {n : Nat} (hn : n = 1 ∨ n = 2 ∨ n = 4 ∨ n = 8) :
    Access (onHost gP) gP 0 0x5008 n (2 ^ 64 + 0x30000000008) rw ∧ Access (onDram gP) gP 0 0x5008 n 0x40000008 rw
    ∧ Access (onVersion gP) gP 0 0x5008 n 0x40000008 rw := by
  refine ⟨accessOf ?_ (fun b => ?_) (.inl (.inr ⟨by decide, by rcases hn with rfl | rfl | rfl | rfl <;> decide⟩)),
    accessOf ?_ (fun b => ?_) (.inr (device ?_ ⟨by decide +kernel, by decide +kernel⟩)),
    accessOf ?_ (fun b => ?_) (.inr (device ?_ ⟨by decide +kernel, by decide +kernel⟩))⟩ <;>
    first
    | (cases b; all_goals (rcases hn with rfl | rfl | rfl | rfl <;> cases rw <;> decide +kernel))
    | (rcases hn with rfl | rfl | rfl | rfl <;> cases rw <;> decide +kernel)
/-- The same bytes of the scratch through a window of the team (R21). -/
def gWin : Machine.Group := { g0 with s := regs [(4, BitVec.ofNat 64 (teamWin + 0xFFF8)), (5, 7), (6, 0xFFFFFFFFFFFFFFFE)] }
theorem windowed (rw : Rw) {n : Nat} (hn : n = 1 ∨ n = 2 ∨ n = 4 ∨ n = 8) : Access (machine gWin) gWin 0 (teamWin + 0xFFF8) n (onchip 0 0xFFF8) rw := by
  refine accessOf ?_ (fun b => locate_window ?_ ?_ ?_) (.inl (.inl ⟨0, 0xFFF8, rfl, by decide, by rcases hn with rfl | rfl | rfl | rfl <;> decide⟩)) <;>
    (rcases hn with rfl | rfl | rfl | rfl <;> cases rw <;> decide +kernel)
/-- A group and the port of the address in its s4, in every kind of memory that an ordinary access reaches: the team's scratch, the same
through a window, host memory, committed device memory, and a version's line. -/
def reached : List (Machine.Group × State × Nat) :=
  [(g0, machine g0, onchip 0 0xFFF8), (gWin, machine gWin, onchip 0 0xFFF8), (gP, onHost gP, 2 ^ 64 + 0x30000000008), (gP, onDram gP, 0x40000008),
   (gP, onVersion gP, 0x40000008)]
theorem accesses (rw : Rw) {n : Nat} (hn : n = 1 ∨ n = 2 ∨ n = 4 ∨ n = 8) : ∀ x ∈ reached, Access x.2.1 x.1 0 (x.1.reg 4).toNat n x.2.2 rw := by
  intro x hx
  simp only [reached, List.mem_cons, List.not_mem_nil, or_false] at hx
  rcases hx with rfl | rfl | rfl | rfl | rfl
  · exact access rw (by decide +kernel) hn
  · exact windowed rw hn
  · exact (mapped rw hn).1
  · exact (mapped rw hn).2.1
  · exact (mapped rw hn).2.2
theorem offset0 (g : Machine.Group) : (g.reg 4 + (0 : BitVec 12).signExtend 64).toNat = (g.reg 4).toNat := by
  rw [show (0 : BitVec 12).signExtend 64 = (0 : BitVec 64) from rfl]; simp
theorem sizes (sz : Size) : sz.bytes = 1 ∨ sz.bytes = 2 ∨ sz.bytes = 4 ∨ sz.bytes = 8 := by cases sz <;> decide
theorem words (w : Bool) : (if w then 8 else 4) = 1 ∨ (if w then 8 else 4) = 2 ∨ (if w then 8 else 4) = 4 ∨ (if w then 8 else 4) = 8 := by
  cases w <;> decide
/-- A release finds nothing to wait for, at every scope or, where the task has a version, at scopes narrower than tandem; an atomic there is narrow. -/
theorem atOnce (o : Order) : ∀ x ∈ reached, ReleasesAtOnce x.2.1 x.1 o .team ∧ Narrow x.2.1 x.1 x.2.2 .team
    ∧ (x.2.1.taskHead x.1 = none → ReleasesAtOnce x.2.1 x.1 o .sys ∧ Narrow x.2.1 x.1 x.2.2 .sys) := by
  intro x hx
  have h : x.2.1.sideOf x.2.1.cur x.1 = [] ∧ (x.2.1.taskHead x.1 = none → (x.2.1.teamOf x.1).version = none) :=
    (by decide +kernel : ∀ x ∈ reached, x.2.1.sideOf x.2.1.cur x.1 = [] ∧ (x.2.1.taskHead x.1 = none → (x.2.1.teamOf x.1).version = none)) x hx
  exact ⟨fun _ => ⟨fun _ => h.1, fun hs => absurd hs (by decide)⟩, fun _ => .inl (by decide),
    fun hn => ⟨fun _ => ⟨fun _ => h.1, fun _ => h.2 hn⟩, fun _ => .inr hn⟩⟩
theorem witness_ScratchLoads : Order.acq.releases = false ∧ (∀ x ∈ reached, x.2.1.uncached 0 x.2.2) ∧ ∀ x ∈ reached,
    (∀ sz : Size, Access x.2.1 x.1 0 (x.1.reg 4 + (0 : BitVec 12).signExtend 64).toNat sz.bytes x.2.2 .rd)
    ∧ ∀ w : Bool, Access x.2.1 x.1 0 (x.1.reg 4).toNat (if w then 8 else 4) x.2.2 .rd :=
  ⟨rfl, (by unfold State.uncached; decide +kernel), fun x hx => ⟨fun sz => by rw [offset0]; exact accesses _ (sizes sz) x hx, fun w => accesses _ (words w) x hx⟩⟩
theorem witness_ScratchStores : ∀ x ∈ reached,
    (∀ sz : Size, Access x.2.1 x.1 0 (x.1.reg 4 + (0 : BitVec 12).signExtend 64).toNat sz.bytes x.2.2 .wr)
    ∧ ReleasesAtOnce x.2.1 x.1 .rel .team ∧ ∀ w : Bool, Access x.2.1 x.1 0 (x.1.reg 4).toNat (if w then 8 else 4) x.2.2 .wr :=
  fun x hx => ⟨fun sz => by rw [offset0]; exact accesses _ (sizes sz) x hx, (atOnce _ x hx).1, fun w => accesses _ (words w) x hx⟩
theorem witness_ScratchAtomics : ∀ x ∈ reached, ReleasesAtOnce x.2.1 x.1 .ar .team ∧ Narrow x.2.1 x.1 x.2.2 .team
    ∧ ∀ w : Bool, Access x.2.1 x.1 0 (x.1.reg 4).toNat (if w then 8 else 4) x.2.2 .amo :=
  fun x hx => ⟨(atOnce _ x hx).1, (atOnce .ar x hx).2.1, fun w => accesses _ (words w) x hx⟩
theorem witness_ScratchReductions : ∀ x ∈ reached, ReleasesAtOnce x.2.1 x.1 .rel .team ∧ Narrow x.2.1 x.1 x.2.2 .team
    ∧ ∀ w : Bool, Access x.2.1 x.1 0 (x.1.reg 4).toNat (if w then 8 else 4) x.2.2 .amo :=
  fun x hx => ⟨(atOnce _ x hx).1, (atOnce .rel x hx).2.1, fun w => accesses _ (words w) x hx⟩
theorem witness_ScratchLocks : ∀ x ∈ reached, (∀ w : Bool, Access x.2.1 x.1 0 (x.1.reg 4).toNat (if w then 8 else 4) x.2.2 .amo)
    ∧ ReleasesAtOnce x.2.1 x.1 .rel .team ∧ Narrow x.2.1 x.1 x.2.2 .team ∧ x.2.1.taskRead x.1 x.2.2 8 = 0 ∧ x.2.1.locks = [] ∧ x.2.1.cur < 20480 :=
  fun x hx => ⟨fun w => accesses _ (words w) x hx, (atOnce _ x hx).1, (atOnce .rel x hx).2.1,
    (by decide +kernel : ∀ x ∈ reached, x.2.1.taskRead x.1 x.2.2 8 = 0 ∧ x.2.1.locks = [] ∧ x.2.1.cur < 20480) x hx⟩
/-- The same machine with a watchpoint on those bytes. -/
def watched : State := { machine g0 with cores := [(0, { gw := [{ addr := BitVec.ofNat 64 (aperture + 0xFFF8), en := true, rd := true, wr := true, wlen := 3 }] })] }
/-- A page that the host has said is absent, and a team that moves. -/
def absent (g : Machine.Group) : State :=
  { assistedM g [] with parts := [(0, { loadPart with rcd := loadPart.rcd ||| (1 <<< 80), noPage := [tlbKey 0 0x5000] })] }
def moving (g : Machine.Group) : State := withTeam (machine g) { loadTeam with moving := true }
/-- A group to whose S-stream a page has been refused, the mapped one or a window's. -/
def refusedS (g : Machine.Group) : Machine.Group := { g with refused := [(g.streamId 0, pageOf (g.reg 4).toNat)] }
/-- The forms: a load, a store and an atomic of a misaligned address; the first address past the allocation, one in the window of no team, one
that is no address, a watched one; absent pages, refused and not; and a refused store of the path in slot 0. -/
theorem witness_ScalarAccessFaults :
    (∀ (d a b : Reg) (o : Order) (sc : Scope) (w bp : Bool) (off : BitVec 12),
      (∃ ea n v f, AccessForm (machine g0) g0 (.sld d a .h bp off) ea n .rd true v none f)
      ∧ (∃ ea v f, AccessForm (machine g0) g0 (.sredMaxn d b o sc w) ea (if w then 8 else 4) .amo false v (some 7) f)
      ∧ (∃ ea v f, AccessForm (machine g0) g0 (.samoFadd d a b o sc) ea 4 .amo true v none f))
    ∧ (machine g0).group? (machine g0).cur = some g0 ∧ g0.orun = none ∧ (g0.reg 5).toNat % 2 ≠ 0 ∧ (g0.reg 5).toNat % 8 ≠ 0
    ∧ (machine g0).tableRoom (machine g0).cur 0 1 = true
    ∧ (inTeamWin (gWin.reg 4).toNat = true ∧ (refusedS gWin).refusedTo 0 (gWin.reg 4).toNat = true ∧ gWin.refusedTo 0 (gWin.reg 4).toNat = false)
    ∧ (∀ rw ∈ [Rw.rd, .wr, .amo],
      (machine g0).locate 0 g0 (aperture + 0x10000) 8 rw false = (.flt .scratchbounds, machine g0)
      ∧ (machine g0).locate 0 g0 (teamWin + 0x1000000) 8 rw false = (.flt .protect, machine g0)
      ∧ (machine g0).locate 0 g0 0x0100000000000000 8 rw false = (.flt .protect, machine g0)
      ∧ watched.locate 0 g0 (g0.reg 4).toNat 8 rw false = (.port (onchip 0 0xFFF8), watched) ∧ watched.gwHit 0 g0 0 (g0.reg 4).toNat 8 rw = true
      ∧ (absent gP).locate 0 gP (gP.reg 4).toNat 8 rw false = (.missing, absent gP) ∧ (refusedS gP).refusedTo 0 (gP.reg 4).toNat = true
      ∧ gP.refusedTo 0 (gP.reg 4).toNat = false ∧ (absent gP).gwHit 0 gP 0 (gP.reg 4).toNat 8 rw = false
      ∧ (moving gWin).locate 0 gWin (gWin.reg 4).toNat 8 rw false = (.missing, moving gWin))
    ∧ gP.posted = [] ∧ ((absent gP).core 0).sideLog = [] ∧ inTeamWin (gP.reg 4).toNat = false
    ∧ ({ gL with pendStore := some (0x5008, 1) } : Machine.Group).pathNamed 1 = some p0 := by
  refine ⟨fun d a b o sc w bp off => ⟨⟨_, _, _, _, .sld d a .h bp off⟩, ⟨_, _, _, .ordered 0 d b o sc w _ _ _ _ ?_⟩,
    ⟨_, _, _, .ordered d a b o sc false _ _ _ _ ?_⟩⟩, ?_⟩
  · simp [orderedForms]
  · simp [orderedForms]
  · decide +kernel
/-- A range of four bytes is one line, absent or in the scratchpad, or mapped. -/
theorem witness_FencesAndMaintenance : (machine g0).group? (machine g0).cur = some g0 ∧ g0.orun = none ∧ g0.posted = []
    ∧ (machine g0).sideOf (machine g0).cur g0 = [] ∧ ((machine g0).teamOf g0).version = none ∧ Order.acq.acquires = true ∧ 4 ≤ Scope.dev.code
    ∧ Scope.gang.code < 4 ∧ (∀ x ∈ [(machine g0, (g0.reg 4).toNat, 0), (onDram gP, 0x5008, 4)], (match x.1.linesUnder 0 (x.1.launchOf g0) (linesOf x.2.1 x.2.2) with
        | .ok ls _ => decide (ls = if x.2.2 = 0 then [] else [0x1000000])
        | _ => false) = true) ∧ (((machine g0).launchOf g0).pred && ((machine g0).launchOf g0).live) = false := by decide +kernel
/-- Thirty-two spawned groups; a full core; a core whose rows are taken; and one with room. -/
def crowd (n gidx0 vregs : Nat) : State :=
  { machine g0 with groups := (0, g0) :: (List.range n).map (fun i => (i + 1, { (loadGroup 0) with gidx := gidx0 + i, vregs := vregs, reserve := 0x20000 })) }
theorem witness_SpawnAndExit : (machine g0).group? (machine g0).cur = some g0 ∧ g0.orun = none ∧ g0.posted = []
    ∧ (machine g0).sideOf (machine g0).cur g0 = [] ∧ (crowd 32 32 8).spawnIndex g0.key = none ∧ nextCtx ((crowd 127 0 8).ctxUsed 0) = none
    ∧ (machine g0).spawnIndex g0.key = some 0 ∧ nextCtx ((machine g0).ctxUsed 0) = some 32 ∧ 128 * coreOf (machine g0).cur + 32 ≠ (machine g0).cur
    ∧ (crowd 1 1 12288).spawnIndex g0.key = some 0
    ∧ positions rowCap (32 * g0.lanew) (rowBytes g0.vregs g0.lanew) ((crowd 1 1 12288).rowsUsed 0) = []
    ∧ positions rowCap (32 * g0.lanew) (rowBytes g0.vregs g0.lanew) ((machine g0).rowsUsed 0) ≠ []
    ∧ positions scratchCap 4096 4096 ((machine g0).scratchUsed 0) ≠ [] ∧ g0.laneQ = [] ∧ g0.pend = [] ∧ g0.pendCharge = none ∧ ((machine g0).teamOf g0).tags = []
    ∧ ∀ e ∈ (machine g0).groups, e.2.blocked = none := by decide +kernel
/-- A group whose s4 names the last object of the scratch, with numbers in s5 and s6, and the object's words. -/
def gO : Machine.Group := { g0 with s := [(4, BitVec.ofNat 64 (aperture + 0xFFC0)), (5, 2), (6, 1)] }
def object (w : Nat) : State := { machine gO with mem := Memory.write [] (onchip 0 0xFFC0) 64 w }
def oRef : ObjRef := { key := gO.key, va := aperture + 0xFFC0, pa := onchip 0 0xFFC0 }
theorem objectOk (w : Nat) (rw : Rw) (h : (object w).objCheck 0 gO (gO.reg 4).toNat rw = .ok oRef) : ScratchObject (object w) gO (gO.reg 4) rw oRef :=
  ⟨rfl, h, ⟨0, 0xFFC0, by decide +kernel⟩, rfl, rfl⟩
theorem checkOk {α ε : Type} [DecidableEq α] {r : Except ε α} {a : α} (h : (match r with
    | .ok x => decide (x = a)
    | .error _ => false) = true) : r = .ok a := by
  cases r with
  | ok x => rw [of_decide_eq_true h]
  | error e => exact nomatch h
/-- EXPECT 2 with none arrived, then with one, and an object of which no arrival is expected. -/
theorem witness_BarrierArrivals : ScratchObject (object (2 * 2 ^ 64)) gO (gO.reg 4) .amo oRef
    ∧ ScratchObject (object (2 * 2 ^ 64 + 2 ^ 96)) gO (gO.reg 4) .amo oRef ∧ ScratchObject (object 0) gO (gO.reg 4) .amo oRef
    ∧ (∀ e ∈ (object 0).groups, e.2.blocked = none ∧ e.2.orun = none) ∧ bits ((object (2 * 2 ^ 64)).obj oRef.pa) 256 256 = 0
    ∧ (gO.reg 5).toNat % 2 ^ 32 ≠ 0
    ∧ canComplete (setBits ((object (2 * 2 ^ 64)).obj oRef.pa) 128 64 (oXbytes ((object (2 * 2 ^ 64)).obj oRef.pa) + (gO.reg 5).toNat)) = false
    ∧ (object (2 * 2 ^ 64)).sideOf (object (2 * 2 ^ 64)).cur gO = []
    ∧ oArrived ((object (2 * 2 ^ 64)).obj oRef.pa) + 1 < oExpect ((object (2 * 2 ^ 64)).obj oRef.pa) ∧ oExpect ((object (2 * 2 ^ 64)).obj oRef.pa) ≠ 0
    ∧ oArrived ((object (2 * 2 ^ 64 + 2 ^ 96)).obj oRef.pa) ≠ oExpect ((object (2 * 2 ^ 64 + 2 ^ 96)).obj oRef.pa)
    ∧ canComplete (countArrival ((object (2 * 2 ^ 64 + 2 ^ 96)).obj oRef.pa) true) = true
    ∧ (object 0).zero = [] ∧ (oRef.pa, (oPhase ((object 0).obj oRef.pa) + 2 ^ 32 - 1) % 2 ^ 32) ∈ ({ object 0 with zero := [(oRef.pa, 0xFFFFFFFF)] } : State).zero
    ∧ oExpect ((object 0).obj oRef.pa) = 0 ∧ canComplete (countArrival ((object 0).obj oRef.pa) false) = true := by
  refine ⟨objectOk _ _ (checkOk (by decide +kernel)), objectOk _ _ (checkOk (by decide +kernel)), objectOk _ _ (checkOk (by decide +kernel)), ?_⟩
  decide +kernel
/-- A phase just done and one current; batches ahead, done and open. -/
theorem witness_WaitsAndTests : ScratchObject (object (2 ^ 64 + 1)) gO (gO.reg 4) .amo oRef ∧ ScratchObject (object (2 ^ 64 + 1)) gO (gO.reg 4) .rd oRef
    ∧ oPhase ((object (2 ^ 64 + 1)).obj oRef.pa) = 1
    ∧ (1 + 2 ^ 32 - ((gO.reg 0).setWidth 32 : W32).toNat) % 2 ^ 32 = 1 ∧ (1 + 2 ^ 32 - ((gO.reg 6).setWidth 32 : W32).toNat) % 2 ^ 32 = 0
    ∧ oOvr ((object (2 ^ 64 + 1)).obj oRef.pa) = false
    ∧ oExpect ((object 1).obj oRef.pa) ≤ oArrived ((object 1).obj oRef.pa) + 0
    ∧ (machine gO).group? (machine gO).cur = some gO ∧ gO.orun = none
    ∧ (1 ≤ (((gO.reg 6).setWidth 32 : W32) - gO.copyB.closed).toNat ∧ (((gO.reg 6).setWidth 32 : W32) - gO.copyB.closed).toNat < 2 ^ 31)
    ∧ (gO.copyB.done - ((gO.reg 0).setWidth 32 : W32)).toNat < 2 ^ 31 ∧ ((gO.reg 0).setWidth 32 - gO.matB.closed : W32).toNat = 0
    ∧ ((({ closed := 1, opn := 0, live := [1] } : Batch).done - ((gO.reg 6).setWidth 32 : W32)).toNat ≥ 2 ^ 31)
    ∧ (((gO.reg 6).setWidth 32 : W32) - ({ closed := 1, opn := 0, live := [1] } : Batch).closed).toNat = 0 := by
  refine ⟨objectOk _ _ (checkOk (by decide +kernel)), objectOk _ _ (checkOk (by decide +kernel)), ?_⟩
  decide +kernel
/-- One place left at the engine; a tile the group owns. -/
def tiled (h : Handle) : State := withTeam (machine g0) { loadTeam with handles := [(3, h)], acq := true }
def hnd0 : Handle := { rows := 256, rowb := 256, nslot := 4, owner := 0 }
theorem witness_CopyCommandsIssue :
    let s := { tiled hnd0 with cores := [(0, { copyQ := List.replicate 255 {} })] }
    s.group? s.cur = some g0 ∧ g0.orun = none ∧ g0.posted = [] ∧ (s.core (coreOf s.cur)).copyQ.length < 256 ∧ (s.core (coreOf s.cur)).held = []
    ∧ s.gwHit s.cur g0 0 (g0.reg 4).toNat 64 .rd = false ∧ Tbl.find (s.teamOf g0).handles 3 = some hnd0 ∧ hnd0.owner = g0.gidx := by decide +kernel
/-- A message whose header stands in the last sixteen bytes of the scratch: s4 the message, s7 the first address past the scratch, s8 a
team window, s9 a mapped page. -/
def gM : Machine.Group :=
  { g0 with s := [(4, BitVec.ofNat 64 (aperture + 0xFFF0)), (5, 7), (7, BitVec.ofNat 64 (aperture + 0x10000)), (8, BitVec.ofNat 64 (teamWin + 0x100)), (9, 0x5000)] }
def message (h : Nat) : State := { machine gM with mem := Memory.write [] (onchip 0 0xFFF0) 16 h }
/-- The mapped page in device memory, tagged with the group's partition or not. -/
def sealedPage (priv : List (BitVec 128)) : State :=
  { message (2 ^ 64) with parts := [(0, { loadPart with rcd := loadPart.rcd ||| (1 <<< 80), priv := priv })],
                          cores := [(0, { wtlb := [(tlbKey 0 0x5000, leafAt 0x40000000)] })] }
/-- Lengths 0, 65537, 65536 and 1, and a reserved word that is not zero. -/
def messages : List State := (sealedPage []) :: sealedPage [(0x40000000 : BitVec 128) + (1 <<< 64)] :: [0, 65537 * 2 ^ 64, 65536 * 2 ^ 64, 2 ^ 64, 2 ^ 96].map message
theorem messageOk : ∀ s ∈ messages, ScratchAccess s gM 0 (gM.reg 4).toNat 16 (onchip 0 0xFFF0) .rd :=
  fun s hs => ownAccess ((by decide +kernel : ∀ s ∈ messages, accessOk s gM 0 (gM.reg 4).toNat 16 (onchip 0 0xFFF0) .rd = true) s hs) (by decide +kernel)
    ((by decide +kernel : ∀ s ∈ messages, scratchLoc (s.teamOf gM) ((gM.reg 4).toNat - aperture) 16 = .port (onchip 0 0xFFF0)) s hs) (by decide) (by decide)
/-- The state in which the destination of a message is checked. -/
def headerRead (s : State) : State :=
  (s.reach (coreOf s.cur) (onchip 0 0xFFF0)).updGroup s.cur (fun g => { g with cpysHdr := some (BitVec.ofNat 128 (Memory.read s.mem (onchip 0 0xFFF0) 16)) })
def okPart (r : Rc (Option Nat)) : Option (Option Nat) := match r with
  | .ok x _ => some x
  | _ => none
theorem okPart_eq {r : Rc (Option Nat)} {x : Option Nat} (h : okPart r = some x) : ∃ u, r = .ok x u := by
  cases r with
  | ok y u => exact ⟨u, by rw [Option.some.inj h]⟩
  | flt _ _ => exact nomatch h
  | hold _ => exact nomatch h
/-- A destination in the own aperture, past the allocation, on a page tagged with the partition, on one that is not, and in a window. -/
theorem witness_SealedCopyIssue_dst : (∃ u, (headerRead (message (2 ^ 64))).sealedDst 0 gM (gM.reg 4).toNat 1 = .ok none u)
    ∧ (∃ u, (headerRead (message (2 ^ 64))).sealedDst 0 gM (gM.reg 7).toNat 1 = .ok none u)
    ∧ (∃ u, (headerRead (sealedPage [(0x40000000 : BitVec 128) + (1 <<< 64)])).sealedDst 0 gM (gM.reg 9).toNat 1 = .ok none u)
    ∧ (∃ u, (headerRead (sealedPage [])).sealedDst 0 gM (gM.reg 9).toNat 1 = .ok (some 0x5000) u)
    ∧ (∃ u, (headerRead (message (2 ^ 64))).sealedDst 0 gM (gM.reg 8).toNat 1 = .ok (some (teamWin + 0x100)) u) :=
  ⟨okPart_eq (by decide +kernel), okPart_eq (by decide +kernel), okPart_eq (by decide +kernel), okPart_eq (by decide +kernel), okPart_eq (by decide +kernel)⟩
theorem witness_SealedCopyIssue : gM.cpysHdr = none ∧ gM.refusedTo 0 (gM.reg 4).toNat = false
    ∧ (∀ s ∈ messages, s.group? s.cur = some gM ∧ ((s.launchOf gM).pred && (s.launchOf gM).live) = false ∧ (s.core 0).copyQ.length < 256 ∧ (s.core 0).held = [])
    ∧ bits (Memory.read (message 0).mem (onchip 0 0xFFF0) 16) 64 32 = 0
    ∧ 65536 < bits (Memory.read (message (65537 * 2 ^ 64)).mem (onchip 0 0xFFF0) 16) 64 32
    ∧ bits (Memory.read (message (2 ^ 96)).mem (onchip 0 0xFFF0) 16) 96 32 ≠ 0
    ∧ (∀ h ∈ [65536, 1], bits (Memory.read (message (h * 2 ^ 64)).mem (onchip 0 0xFFF0) 16) 96 32 = 0
      ∧ 0 < bits (Memory.read (message (h * 2 ^ 64)).mem (onchip 0 0xFFF0) 16) 64 32 ∧ bits (Memory.read (message (h * 2 ^ 64)).mem (onchip 0 0xFFF0) 16) 64 32 ≤ 65536)
    ∧ (∀ r ∈ [(4 : Reg), 7], ∀ i < 1, inAperture (((gM.reg r).toNat + i) % 2 ^ 64) = true)
    ∧ inTeamWin (gM.reg 8).toNat = true ∧ inAperture (gM.reg 8).toNat = false
    ∧ (gM.reg 5).toNat % 16 ≠ 0 ∧ gM.orun = none := by decide +kernel
/-- Shape words 0 (no tile) and 256 rows of 256 bytes; handles free, owned and foreign; slots free and all bound. -/
theorem witness_TileHandles :
    let t := (machine g0).teamOf g0
    let full : Team := { loadTeam with handles := [(9, { rows := 512, rowb := 256, nslot := 8, owner := 1 })] }
    (machine g0).group? (machine g0).cur = some g0 ∧ g0.orun = none ∧ geometry t (g0.reg 0) = none
    ∧ geometry t 0x01000100 = some { rows := 256, rowb := 256, slots := 4 } ∧ Tbl.find full.handles 9 = some { rows := 512, rowb := 256, nslot := 8, owner := 1 }
    ∧ (1 : Nat) ≠ g0.gidx ∧ Tbl.find t.handles 3 = none ∧ g0.allocHold = none ∧ t.tandem = false ∧ lowestRun 4 t.tiles (t.slotFree 0) = some 0
    ∧ lowestRun 4 full.tiles (fun j => !full.slotBound 0 j) = none ∧ lowestRun 4 full.tiles (full.slotFree 0) = none
    ∧ Tbl.find ((tiled hnd0).teamOf g0).handles 3 = some hnd0 ∧ hnd0.owner = g0.gidx
    ∧ (∃ e ∈ (machine g0).groupsOf g0.key, e.2.gidx = (g0.reg 0).toNat) ∧ ∀ e ∈ (machine g0).groupsOf g0.key, e.2.gidx ≠ (g0.reg 5).toNat := by decide +kernel
/-- A complex that is free, and one that another owns and seven wait for; fifteen commands; a tag; a record aligned and not. -/
def gX : Machine.Group := { g0 with s := [(4, 0x1000), (5, 0x1001)] }
def mxTeam (n : Nat) : Team :=
  { loadTeam with acq := true, mxQ := List.replicate n { op := .mxa },
                  handles := [(3, hnd0), (4, { hnd0 with rowb := 64, first0 := 4 }), (5, { hnd0 with rowb := 48, first0 := 4 })] }
theorem witness_MatrixIssue :
    let s := withTeam (machine gX) (mxTeam 15)
    let busy := { machine gX with complexes := [(0, { owner := some 5, waiters := List.replicate 7 (6, false) })] }
    s.group? s.cur = some gX ∧ gX.orun = none ∧ gX.posted = [] ∧ s.team? gX.key = some (mxTeam 15) ∧ (mxTeam 15).acq = true
    ∧ (machine gX).team? gX.key = some loadTeam ∧ loadTeam.acq = false ∧ ((machine gX).complex 0).owner = none
    ∧ (busy.complex 0).owner = some 5 ∧ (busy.complex 0).waiters.length < 8 ∧ (mxTeam 15).tandem = false ∧ (mxTeam 15).mxQ.length < 16
    ∧ s.quarterReady s.cur gX (mxTeam 15) 8 = true ∧ (mxTeam 15).tags = [] ∧ (gX.reg 4).toNat % 32 = 0 ∧ (gX.reg 5).toNat % 32 ≠ 0
    ∧ (match (mxTeam 15).handleCheck gX 3, (mxTeam 15).handleCheck gX 4, (mxTeam 15).handleCheck gX 5 with
        | .ok x, .ok y, .ok z => decide (x.rows = 256 ∧ x.rowb = 256 ∧ y.rows = 256 ∧ z.rows = 256 ∧ y.rowb = mxRowb .bf16 false false
            ∧ z.rowb = mxRowb .bf16 false true)
        | _, _, _ => false) = true
    ∧ fmtA 0x44 = .bf16 ∧ fmtB 0x44 = .bf16 ∧ fmtScale 0x44 = false ∧ (mxFormat (fmtA 0x44) (fmtB 0x44)).isSome = true := by decide +kernel
/-- A command in the last 256 bytes of the scratch. -/
def gD : Machine.Group := { g0 with s := [(4, BitVec.ofNat 64 (aperture + 0xFF00)), (5, 7), (6, 0x4000)] }
def sD : State := { machine gD with queues := [(0, { rcd := 0x21, st := 1 })] }
theorem witness_DeviceLaunch : sD.group? sD.cur = some gD ∧ gD.orun = none ∧ (gD.reg 5).toNat % 64 ≠ 0 ∧ (gD.reg 4).toNat % 64 = 0
    ∧ 2 ^ 14 ≤ (gD.reg 6).toNat ∧ fld ((machine gD).queue 0).rcd 0 1 ≠ 1 ∧ fld (sD.queue 0).rcd 0 1 = 1 ∧ fld (sD.queue 0).rcd 8 4 = (sD.launchOf gD).part
    ∧ 1024 ≤ ({ sD with queues := [(0, { rcd := 0x21, kids := List.replicate 1024 {} })] } : State).childCount 0 ∧ sD.childCount 0 < 1024
    ∧ sD.sideOf sD.cur gD = [] ∧ (sD.teamOf gD).version = none ∧ (sD.team? gD.key).isSome = true ∧ (gD.reg 4).toNat + 256 < 2 ^ 64 := by decide +kernel
theorem witness_DeviceLaunch_lines : ∀ i < 4, ScratchAccess sD gD 0 ((gD.reg 4).toNat + 64 * i) 64 (onchip 0 0xFF00 + 64 * i) .rd := by
  intro i hi
  rw [show onchip 0 0xFF00 + 64 * i = onchip 0 (0xFF00 + 64 * i) from by unfold onchip; omega]
  have h : i = 0 ∨ i = 1 ∨ i = 2 ∨ i = 3 := by omega
  refine ownAccess ?_ ?_ ?_ (by decide) (by omega) <;> (rcases h with rfl | rfl | rfl | rfl <;> decide +kernel)
theorem witness_SystemCallsAndLeave : (machine { g0 with curbAsk := 2 }).group? 0 = some { g0 with curbAsk := 2 } ∧ 2 < ({ g0 with curbAsk := 3 } : Machine.Group).curbAsk :=
  ⟨rfl, by decide⟩
theorem dram_low {x : Nat} (h : x < 0x3000000000) : regionOf x = .dram := by
  unfold regionOf; rw [if_neg (by omega), if_neg (by omega), if_pos h]
/-- No page of the machine is tagged, so a record may stand in all of its stacked DRAM. -/
theorem record_low {x : Nat} (p : Nat) (h : x < 0x3000000000) : regionOf x = .dram ∧ (machine g0).recordable p x = true := by
  refine ⟨dram_low h, ?_⟩; unfold State.recordable; rw [dram_low h]; rfl
/-- The partition of the load, in which DEV alone answers, and one in which the host alone does. -/
theorem witness_StopParksGroup : (machine g0).group? 0 = some g0 ∧ g0.orun = none ∧ g0.stopped = false
    ∧ (((machine g0).launchOf g0).pred && ((machine g0).launchOf g0).live) = false
    ∧ g0.pend = [] ∧ g0.posted = [] ∧ g0.blocked = none ∧ (machine g0).traced ((machine g0).launchOf g0) g0.launch = false ∧ (0 : Nat) < 20480
    ∧ ((machine g0).stopRecord 0 g0 .align false).nostop = false ∧ RecordsInMemory (machine g0) 0 0
    ∧ route (((machine g0).part 0).claims .align) = (.sup, false) ∧ route (((machine g0).part 0).claims .halt) = (.host, false)
    ∧ (BitVec.ofNat 32 (fld ((machine g0).part 0).trap 256 32) - BitVec.ofNat 32 (fld ((machine g0).part 0).trap 288 32)).toNat < 2 ^ fld ((machine g0).part 0).trap 192 5
    ∧ ((machine g0).part 0).hwait = [] := by
  have e : (machine g0).frameAt 0 0 = 0x10000000 ∧ fld ((machine g0).part 0).trap 192 5 = 0 ∧ fld ((machine g0).part 0).trap 128 64 = 0
      ∧ ((machine g0).core (coreOf 0)).stqBase = 0 := by decide +kernel
  refine ⟨by decide +kernel, rfl, rfl, by decide +kernel, rfl, rfl, rfl, by decide +kernel, by decide, rfl, ⟨fun i h => ?_, fun i h => ?_, fun i h => ?_, ?_, ?_⟩,
    by decide +kernel, by decide +kernel, by decide +kernel, by decide +kernel⟩
  · rw [e.1]; exact record_low _ (by omega)
  · rw [e.2.1] at h; rw [e.2.2.1]; exact record_low _ (by omega)
  · rw [e.2.2.2]; exact record_low _ (by rw [show (0 : W64).toNat = 0 from rfl]; omega)
  · decide +kernel
  · decide +kernel
theorem witness_StopNamesItsPlace : gL.path? (machine gL).slot = some p0 := rfl
/-- The path of a group with lanes that nothing holds. -/
theorem canIssue (ctl : Bool) : CanIssue (machine gL) gL p0 ctl := ⟨rfl, rfl, fun _ h => (nomatch h), rfl⟩
/-- Lane 0 alone takes part in words of that path that p7 guards. -/
theorem lane0 {g : Machine.Group} {w : LaneWord} (h : g.active p0 &&& g.guard w = 1) {l : Nat} (hl : takesPart g p0 w l = true) : l = 0 := by
  unfold takesPart lane at hl; rw [h] at hl
  by_contra hn
  simp [BitVec.getLsbD_one, hn] at hl
def wI : LaneWord := { gp := 7, vd := 2, va := 4, vb := 6 }
def wF : LaneWord := { gp := 7, vd := 2, va := 4, vb := 6, ty := .f32 }
theorem witness_LaneIntegerArithmetic : CanIssue (machine gL) gL p0 false ∧ tyFloat wI.ty = none ∧ tyFloat .i8x4 = none ∧ tyFloat .n64 = none :=
  ⟨canIssue _, rfl, rfl, rfl⟩
theorem witness_LaneBitOperations : CanIssue (machine gL) gL p0 false ∧ tyFloat wI.ty = none ∧ (Instr.vbfe { gp := 7, vd := 1, va := 2, x32 := 31 + 256 }).wellFormed = true
    ∧ (Instr.vbfi { gp := 7, vd := 1, va := 2, vb := 3, x32 := 32 * 256 }).wellFormed = true := ⟨canIssue _, rfl, by decide +kernel, by decide +kernel⟩
theorem witness_LaneFloatArithmetic : CanIssue (machine gL) gL p0 false ∧ tyFloat wF.ty = some FT.f32 ∧ tyFloat .bf16x2 = some FT.bf16 ∧ tyFloat .f16 = some FT.f16 :=
  ⟨canIssue _, rfl, rfl, rfl⟩
theorem witness_LanePredicates : CanIssue (machine gL) gL p0 false ∧ gL.lanew ≤ 64 ∧ (0x54 : BitVec 8).toNat / 4 % 8 ≠ (0x54 : BitVec 8).toNat / 32
    ∧ (0xFC : BitVec 8).toNat / 32 = 7 ∧ tyFloat .f16 = some FT.f16 := ⟨canIssue _, by decide, by decide, by decide, rfl⟩
theorem witness_LaneConversions : CanIssue (machine gL) gL p0 false ∧ Ty.f16x2.elems = 2 * Ty.f32.elems ∧ Ty.f16x2.wide = false ∧ tyFloat .f32 = some FT.f32
    ∧ tyBits .q4x8 ≤ 8 ∧ tyBits .e4m3x4 ≤ 8 ∧ Ty.f32.wide = false := ⟨canIssue _, by decide, rfl, rfl, by decide, by decide, rfl⟩
theorem witness_LaneMoves : CanIssue (machine gL) gL p0 false ∧ RegCode.isK 0xF0 = true ∧ RegCode.isK 0xFE = true ∧ (9 : W32).toNat = 9 :=
  ⟨canIssue _, rfl, rfl, rfl⟩
theorem witness_LaneLongArithmetic : CanIssue (machine gL) gL p0 false ∧ fits gL.vregs 0xEF 1 = true ∧ fits gL.vregs 0xFF 1 = true ∧ tyFloat .f32 = some FT.f32
    ∧ Ty.f32.wide = false ∧ tyFloat .bf16x2 = some FT.bf16 ∧ RegCode.isV 0xEF = true ∧ fits gL.vregs 0xE8 8 = true ∧ Ty.bf16x2.wide = false ∧ Ty.i8x4.elems = 4
    ∧ gL.active p0 &&& gL.guard wF ≠ 0 ∧ gL.active { p0 with mask := 0 } &&& gL.guard wF = 0 := by
  refine ⟨canIssue _, ?_⟩; decide +kernel
theorem witness_CrossLaneResults : CanIssue (machine gL) gL p0 false ∧ fits gL.vregs wI.vd wI.ty.regs = true ∧ (8 : BitVec 8).toNat % 16 ≤ 8 ∧ Ty.n64 ∈ [Ty.i32, .n32, .i64, .n64]
    ∧ gL.active p0 &&& gL.guard wI ≠ 0 ∧ takesPart gL p0 wI 0 = true ∧ gL.active p0 &&& gL.guard wI &&& lanesMask 0 = 0
    ∧ gL.active p0 &&& gL.guard wI &&& lanesMask 1 ≠ 0 := by refine ⟨canIssue _, ?_⟩; decide +kernel
/-- v2 and v3 hold the last eight bytes of the scratch: the offset in v2, the whole address as a pair; v4 is misaligned; v5, v6 and v7, v8 are the
mapped page and a window of the team, v9, v10 no address. -/
def gV : Machine.Group :=
  { gL with v := [(128, 0x0000FFF8), (192, 0x00FFFF00), (256, 1), (320, 0x5008), (448, 0x0000FFF8), (512, 0x00FFE000), (576, 0), (640, 0x01000000)] }
def wV (va : BitVec 8 := 2) : LaneWord := { gp := 7, vd := 6, va := va, vb := 0xFF, ty := .i64 }
def wA (va : BitVec 8 := 2) (vd : BitVec 8 := 0xFF) : LaneWord := { gp := 7, vd := vd, va := va, vb := 6, ty := .n64, x32 := 10 }
/-- The address of lane l of those words. -/
def eaV (va : BitVec 8) (l : Nat) : Nat := (BitVec.ofNat 64 (gV.read64 va l) + (BitVec.ofNat 32 (gV.read32 0xFF l)).signExtend 64 + (0 : W32).signExtend 64).toNat
theorem only0 {va : BitVec 8} {l : Nat} (h : takesPart gV p0 (wV va) l = true) : l = 0 := lane0 (w := wV va) (show gV.active p0 &&& gV.guard (wV 2) = 1 by decide +kernel) h
theorem only0A {va vd : BitVec 8} {l : Nat} (h : takesPart gV p0 (wA va vd) l = true) : l = 0 := lane0 (w := wA va vd) (show gV.active p0 &&& gV.guard (wA 2) = 1 by decide +kernel) h
theorem sameTeam {s u : State} {gid : Nat} (h : OnlyDevice s u gid) (g : Machine.Group) : u.teamOf g = s.teamOf g := by
  have ht : u.teams = s.teams := by rw [h.1]
  unfold State.teamOf State.team?; rw [ht]
theorem ownLanes {s : State} {g : Machine.Group} {p : Path} {w : LaneWord} {va pa : Nat → Nat} {n : Nat} {rw : Rw} (hr : p.redo = none)
    (h : ∀ l, takesPart g p w l = true → ScratchAccess s g (1 + s.slot) (va l) n (pa l) rw)
    (hl : ∀ l, takesPart g p w l = true → scratchLoc (s.teamOf g) (va l - aperture) n = .port (pa l)) : LanesAccess s g p w va pa n rw :=
  ⟨hr, fun l m => (h l m).access, fun l m u _ ho _ => locate_own (h l m).inside (by rw [sameTeam ho]; exact hl l m)⟩
/-- A translation that the core holds is held again as it is. -/
theorem holdLeaf_same {u : State} {core key : Nat} {leaf : W64} (hs : Tbl.sorted u.cores = true) (ht : Tbl.sorted (u.core core).tlb = true)
    (h : Tbl.find (u.core core).tlb key = some leaf) : u.holdLeaf core false key leaf = u := by
  have hp : Tbl.put (u.core core).tlb key leaf = (u.core core).tlb := Tbl.put_same _ _ _ ht h
  have hn : u.core core ≠ {} := fun hn => by rw [hn] at h; exact nomatch h
  simp only [State.holdLeaf, State.updCore, Bool.false_eq_true, if_false, hp]
  show ({ u with cores := Tbl.set u.cores core (u.core core) {} } : State) = u
  rw [show Tbl.set u.cores core (u.core core) {} = u.cores from Tbl.set_get _ _ _ hs hn]
/-- In host-assisted mode a page whose leaf, A and D set, stands in the core TLB stays where it is, whatever accesses have done since. -/
theorem mappedStays {s u : State} {g : Machine.Group} {va n pa core e : Nat} {touch : Bool} {rw : Rw} {h : W64} (hc : core = coreOf s.cur) (ho : OnlyDevice s u s.cur)
    (hs : Tbl.sorted s.cores = true) (ht : (s.core core).tlb = [(tlbKey (s.launchOf g).asid.toNat va, h)]) (he : setBits h.toNat 54 3 0 = e)
    (hk : leafKey (s.launchOf g).asid.toNat va e = tlbKey (s.launchOf g).asid.toNat va) (hh : tlbLeaf e (fld h 54 3) = h)
    (hm : (inAperture va = false ∧ inTeamWin va = false) ∧ (bits va 56 8 = 0 ∧ fld (s.part (s.launchOf g).part).rcd 80 1 = 1)
      ∧ permitted e rw = true ∧ s.place (leafAddr e (fld h 54 3) va) = some pa ∧ s.reachable (s.launchOf g).part pa rw = true
      ∧ ((s.launchOf g).pred && (s.launchOf g).live) = false ∧ s.frameMoving pa = false) :
    u.locate s.cur g va n rw touch = (.port pa, u) := by
  subst hc
  obtain ⟨h1, -, hc, -, -, hk', -⟩ := ho
  have ec : (u.core (coreOf s.cur)).tlb = (s.core (coreOf s.cur)).tlb := by rw [hc]
  have ep : ∀ p, u.part p = s.part p := fun p => by rw [h1]; rfl
  have el : u.launchOf g = s.launchOf g := by rw [h1]; rfl
  have epl : ∀ a, u.place a = s.place a := fun a => by rw [h1]; rfl
  have er : u.reachable (s.launchOf g).part pa rw = s.reachable (s.launchOf g).part pa rw := by rw [h1]; rfl
  have em : u.frameMoving pa = s.frameMoving pa := by rw [h1]; rfl
  obtain ⟨⟨a1, a2⟩, ⟨a3, a4⟩, a5, a6, a7, a8, a9⟩ := hm
  have hl : ∀ need, u.leafFor (coreOf s.cur) (s.launchOf g) va need false = (.leaf e 0 (fld h 54 3), u) := by
    intro need
    simp only [State.leafFor, Core.tlbOf, Bool.false_eq_true, if_false, ec, ht, Tbl.find, if_true, Option.orElse, ep, a4, he]
  have hf : u.holdLeaf (coreOf s.cur) false (tlbKey (s.launchOf g).asid.toNat va) h = u :=
    holdLeaf_same (hk' hs) (by rw [ec, ht]; rfl) (by rw [ec, ht]; simp [Tbl.find])
  unfold State.locate State.translate
  simp only [a1, a2, Bool.false_eq_true, if_false, a3, bne_self_eq_false, Bool.false_and, el, hl, a5, Bool.not_true, epl, a6, er, a7, a8, Bool.and_false, em, a9,
    decide_true, Bool.or_true, if_true, hk, hh, hf]
/-- A page that the host has said is absent stays so while pages are asked for, and so does a team that moves. -/
theorem absentStays {s u : State} {g : Machine.Group} {va n : Nat} {touch : Bool} {rw : Rw} (ho : OnlyAsks s u s.cur (s.launchOf g).part)
    (ht : (s.core (coreOf s.cur)).tlb = []) (hm : inAperture va = false ∧ inTeamWin va = false ∧ bits va 56 8 = 0
      ∧ fld (s.part (s.launchOf g).part).rcd 80 1 = 1
      ∧ (s.part (s.launchOf g).part).noPage.contains (tlbKey (s.launchOf g).asid.toNat va) = true) :
    u.locate s.cur g va n rw touch = (.missing, u) := by
  obtain ⟨h1, -, hc, hp, -⟩ := ho
  have ec : (u.core (coreOf s.cur)).tlb = [] := by rw [hc]; exact ht
  have e1 : (u.part (s.launchOf g).part).rcd = (s.part (s.launchOf g).part).rcd := by rw [hp]
  have e2 : (u.part (s.launchOf g).part).noPage = (s.part (s.launchOf g).part).noPage := by rw [hp]
  have el : u.launchOf g = s.launchOf g := by rw [h1]; rfl
  obtain ⟨a1, a2, a3, a4, a5⟩ := hm
  unfold State.locate State.translate
  simp only [a1, a2, a3, Bool.false_eq_true, if_false, bne_self_eq_false, Bool.false_and, el, State.leafFor, Core.tlbOf, ec, Tbl.find, Option.orElse, e1, a4,
    if_true, e2, a5]
theorem movingStays {s u : State} {gid p : Nat} {g : Machine.Group} {va n : Nat} {touch : Bool} {rw : Rw} (ho : OnlyAsks s u gid p) (t : Team)
    (hm : inAperture va = false ∧ inTeamWin va = true ∧ s.team? (keyOf g.launch ((va - teamWin) / 0x1000000)) = some t ∧ t.moving = true
      ∧ (va - teamWin) % 0x1000000 / 0x800000 = 0) : u.locate gid g va n rw touch = (.missing, u) := by
  obtain ⟨a1, a2, a3, a4, a5⟩ := hm
  have et : u.team? (keyOf g.launch ((va - teamWin) / 0x1000000)) = some t := by rw [ho.1]; exact a3
  unfold State.locate State.windowLoc
  simp only [a1, a2, Bool.false_eq_true, if_false, if_true, et, a4, a5]
  rfl
theorem windowStays {s u : State} {gid : Nat} {g : Machine.Group} {va n pa : Nat} {touch : Bool} {rw : Rw} (ho : OnlyDevice s u gid) (t : Team)
    (hm : (inAperture va = false ∧ inTeamWin va = true ∧ s.team? (keyOf g.launch ((va - teamWin) / 0x1000000)) = some t ∧ t.moving = false)
      ∧ (va - teamWin) % 0x1000000 / 0x800000 = 0 ∧ (va - teamWin) % 0x1000000 % 0x800000 < 0x400000
      ∧ (va - teamWin) % 0x1000000 % 0x800000 + n ≤ t.scratch ∧ pa = onchip t.core (t.sb0 + (va - teamWin) % 0x1000000 % 0x800000)) :
    u.locate gid g va n rw touch = (.port pa, u) := by
  obtain ⟨⟨a1, a2, a3, a4⟩, a5, a6, a7, a8⟩ := hm
  have et : u.team? (keyOf g.launch ((va - teamWin) / 0x1000000)) = some t := by rw [ho.1]; exact a3
  unfold State.locate State.windowLoc
  simp only [a1, a2, Bool.false_eq_true, if_false, if_true, et, a4, a5, a6, a7, Bool.false_and, a8, Nat.zero_ne_one, decide_false, Nat.add_zero]
/-- The lane words' address registers and the ports they lead to, in every kind of memory. -/
def lanesReached : List (State × BitVec 8 × Nat) :=
  [(machine gV, 2, onchip 0 0xFFF8), (machine gV, 7, onchip 0 0xFFF8), (onHost gV, 5, 2 ^ 64 + 0x30000000008), (onDram gV, 5, 0x40000008),
   (onVersion gV, 5, 0x40000008)]
theorem lanesOk {rw : Rw} (hx : rw ≠ .ex) : ∀ x ∈ lanesReached, Access x.1 gV 1 (eaV x.2.1 0) 8 x.2.2 rw
    ∧ ∀ u touch, OnlyDevice x.1 u x.1.cur → u.locate x.1.cur gV (eaV x.2.1 0) 8 rw touch = (.port x.2.2, u) := by
  intro x hm
  have ok : accessOk x.1 gV 1 (eaV x.2.1 0) 8 x.2.2 rw = true :=
    (by decide +kernel : ∀ rw ∈ [Rw.rd, .wr, .amo, .ex], ∀ x ∈ lanesReached, accessOk x.1 gV 1 (eaV x.2.1 0) 8 x.2.2 rw = true) rw (by cases rw <;> decide) x hm
  simp only [lanesReached, List.mem_cons, List.not_mem_nil, or_false] at hm
  have own : scratchLoc ((machine gV).teamOf gV) (eaV 2 0 - aperture) 8 = .port (onchip 0 0xFFF8) := by decide +kernel
  have stays : ∀ (s : State) (hpa pa : Nat), (s, hpa, pa) ∈ [(onHost gV, 0x30000000000, 2 ^ 64 + 0x30000000008), (onDram gV, 0x40000000, 0x40000008),
      (onVersion gV, 0x40000000, 0x40000008)] → ∀ u touch, OnlyDevice s u s.cur → u.locate s.cur gV (eaV 5 0) 8 rw touch = (.port pa, u) := by
    intro s hpa pa hs u touch ho
    simp only [List.mem_cons, List.not_mem_nil, or_false, Prod.mk.injEq] at hs
    rcases hs with ⟨rfl, hh, rfl⟩ | ⟨rfl, hh, rfl⟩ | ⟨rfl, hh, rfl⟩ <;>
      exact mappedStays rfl ho (by decide +kernel) (h := leafAt hpa) (by subst hh; decide +kernel) rfl (by subst hh; decide +kernel)
        (by subst hh; decide +kernel) (by subst hh; cases rw <;> first | exact absurd rfl hx | decide +kernel)
  rcases hm with rfl | rfl | rfl | rfl | rfl
  · exact ⟨accessOf ok (fun _ => locate_own (by decide +kernel) own) (.inl (.inl ⟨0, 0xFFF8, rfl, by decide, by decide⟩)),
      fun u _ ho => locate_own (by decide +kernel) (by rw [sameTeam ho]; exact own)⟩
  · refine ⟨accessOf ok (fun _ => locate_window (by decide +kernel) (by decide +kernel) (by decide +kernel)) (.inl (.inl ⟨0, 0xFFF8, rfl, by decide, by decide⟩)),
      fun u _ ho => windowStays ho loadTeam (by decide +kernel)⟩
  · exact ⟨accessOf ok (fun b => by cases b <;> cases rw <;> decide +kernel) (.inl (.inr ⟨by decide, by decide⟩)), stays _ 0x30000000000 _ (by simp)⟩
  · exact ⟨accessOf ok (fun b => by cases b <;> cases rw <;> decide +kernel) (.inr (device (by decide +kernel) ⟨by decide +kernel, by decide +kernel⟩)),
      stays _ 0x40000000 _ (by simp)⟩
  · exact ⟨accessOf ok (fun b => by cases b <;> cases rw <;> decide +kernel) (.inr (device (by decide +kernel) ⟨by decide +kernel, by decide +kernel⟩)),
      stays _ 0x40000000 _ (by simp)⟩
/-- The words of the lane accesses, and what their checks need. -/
theorem laneParts : (∀ x ∈ lanesReached, gV.active p0 &&& gV.guard (wV x.2.1) = 1 ∧ (∀ l, takesPart gV p0 (wV x.2.1) l = true → l = 0)
      ∧ CanIssue x.1 gV p0 false ∧ (x.1.setGroup x.1.cur gV).tableRoom x.1.cur (1 + x.1.slot) 64 = true ∧ (x.1.core (coreOf x.1.cur)).sideLog.length ≤ 256
      ∧ ReleasesAtOnce x.1 gV .rlx .team ∧ 1 + x.1.slot = 1) := by
  intro x hx
  have h := (by decide +kernel : ∀ x ∈ lanesReached, x.1.group? x.1.cur = some gV ∧ x.1.slot = 0
    ∧ (x.1.setGroup x.1.cur gV).tableRoom x.1.cur (1 + x.1.slot) 64 = true ∧ (x.1.core (coreOf x.1.cur)).sideLog.length ≤ 256) x hx
  refine ⟨by unfold wV; exact (by decide +kernel : gV.active p0 &&& gV.guard (wV 2) = 1), fun l hl => only0 hl,
    ⟨h.1, by rw [h.2.1]; rfl, fun _ h => (nomatch h), rfl⟩, h.2.2.1, h.2.2.2, fun hr => (nomatch hr), by rw [h.2.1]⟩
theorem lanesAccess {rw : Rw} (hx : rw ≠ .ex) : ∀ x ∈ lanesReached, LanesAccess x.1 gV p0 (wV x.2.1) (eaV x.2.1) (fun _ => x.2.2) 8 rw
    ∧ ∀ vd, LanesAccess x.1 gV p0 (wA x.2.1 vd) (fun l => gV.read64 x.2.1 l) (fun _ => x.2.2) 8 rw := by
  intro x hm
  have h := lanesOk hx x hm
  have hk := ((laneParts x hm).2.2.2.2.2.2)
  have he : gV.read64 x.2.1 0 = eaV x.2.1 0 := (by decide +kernel : ∀ x ∈ lanesReached, gV.read64 x.2.1 0 = eaV x.2.1 0) x hm
  refine ⟨⟨rfl, fun l hl => ?_, fun l hl u t ho _ => ?_⟩, fun vd => ⟨rfl, fun l hl => ?_, fun l hl u t ho _ => ?_⟩⟩
  · obtain rfl := only0 hl; rw [hk]; exact h.1
  · obtain rfl := only0 hl; exact h.2 u t ho
  · obtain rfl := only0A hl; rw [hk]; exact he ▸ h.1
  · obtain rfl := only0A hl; exact he ▸ h.2 u t ho
/-- What a stop or a hold of a lane word needs: an address that is none; pages that are absent, and refused to the path or not. -/
def gVr (va : BitVec 8) : Machine.Group := { gV with refused := [(gV.streamId 1, pageOf (eaV va 0))] }
theorem witness_LaneScratchAccesses :
    (fits gV.vregs (wV 2).vd (wV 2).ty.regs = true ∧ ∀ x ∈ lanesReached, CanIssue x.1 gV p0 false ∧ (x.1.setGroup x.1.cur gV).tableRoom x.1.cur (1 + x.1.slot) 64 = true
      ∧ (x.1.core (coreOf x.1.cur)).sideLog.length ≤ 256 ∧ LanesAccess x.1 gV p0 (wV x.2.1) (eaV x.2.1) (fun _ => x.2.2) 8 .rd
      ∧ LanesAccess x.1 gV p0 (wV x.2.1) (eaV x.2.1) (fun _ => x.2.2) 8 .wr ∧ LanesApart gV p0 (wV x.2.1) (fun _ => x.2.2) 8
      ∧ ReleasesAtOnce x.1 gV (vcOrder (wV x.2.1)) (vcScope (wV x.2.1)))
    ∧ (∀ rw : Rw, LanesAccess (machine gV) gV p0 (wV 2) (fun l => aperture + (gV.read32 2 l + gV.read32 0xFF l + 0) % 2 ^ 32) (fun _ => onchip 0 0xFFF8) 8 rw)
    ∧ (takesPart gV p0 (wV 4) 0 = true ∧ (gV.read32 4 0 + gV.read32 0xFF 0 + 0) % 2 ^ 32 % 8 ≠ 0)
    ∧ (∀ x ∈ [(machine gV, (9 : BitVec 8), Loc.flt .protect), (moving gV, 7, .missing), (absent gV, 5, .missing)], CanIssue x.1 gV p0 false ∧ takesPart gV p0 (wV x.2.1) 0 = true
      ∧ (eaV x.2.1 0 % 8 = 0 ∧ gV.refusedTo 1 (eaV x.2.1 0) = false) ∧ gV.active p0 &&& gV.guard (wV x.2.1) ≠ 0
      ∧ (∀ rw ∈ [Rw.rd, .wr, .amo], ∀ touch, (x.1.setGroup x.1.cur gV).locate x.1.cur gV (eaV x.2.1 0) 8 rw touch = (x.2.2, x.1.setGroup x.1.cur gV)
        ∧ x.1.gwHit x.1.cur gV 1 (eaV x.2.1 0) 8 rw = false)
      ∧ (x.2.2 = .missing → ∀ u, OnlyAsks x.1 u x.1.cur (x.1.launchOf gV).part → ∀ rw, u.locate x.1.cur gV (eaV x.2.1 0) 8 rw true = (.missing, u)))
    ∧ gV.posted = [] ∧ ((moving gV).core 0).sideLog = [] ∧ ((absent gV).core 0).sideLog = []
    ∧ CanIssue (absent (gVr 5)) (gVr 5) p0 false ∧ takesPart (gVr 5) p0 (wV 5) 0 = true ∧ (gVr 5).refusedTo 1 (eaV 5 0) = true ∧ inTeamWin (eaV 5 0) = false
    ∧ ∀ touch, ((absent (gVr 5)).setGroup 0 (gVr 5)).locate 0 (gVr 5) (eaV 5 0) 8 .rd touch = (.missing, (absent (gVr 5)).setGroup 0 (gVr 5)) := by
  refine ⟨⟨by decide +kernel, fun x hx => ?_⟩, fun rw => ?_, by decide +kernel, ?_, rfl, by decide +kernel, by decide +kernel,
    ⟨by decide +kernel, rfl, fun _ h => (nomatch h), rfl⟩, by decide +kernel, by decide +kernel, by decide +kernel, fun b => by cases b <;> decide +kernel⟩
  · obtain ⟨-, h0, hc, hr, hs, -, -⟩ := laneParts x hx
    exact ⟨hc, hr, hs, (lanesAccess (by decide) x hx).1, (lanesAccess (by decide) x hx).1, fun l m hl hm hn => (hn ((h0 l hl).trans (h0 m hm).symm)).elim,
      fun h => absurd h (by rw [show vcOrder (wV x.2.1) = vcOrder (wV 2) from rfl]; decide +kernel)⟩
  · refine ownLanes rfl (fun l hl => ?_) (fun l hl => ?_)
    · obtain rfl := only0 hl
      exact ownAccess (by cases rw <;> decide +kernel) (by decide +kernel) (by decide +kernel) (by decide) (by decide)
    · obtain rfl := only0 hl; decide +kernel
  · intro x hx
    have h := (by decide +kernel : ∀ x ∈ [(machine gV, (9 : BitVec 8), Loc.flt .protect), (moving gV, 7, .missing), (absent gV, 5, .missing)],
      x.1.group? x.1.cur = some gV ∧ gV.path? x.1.slot = some p0 ∧ takesPart gV p0 (wV x.2.1) 0 = true ∧ (eaV x.2.1 0 % 8 = 0 ∧ gV.refusedTo 1 (eaV x.2.1 0) = false)
      ∧ gV.active p0 &&& gV.guard (wV x.2.1) ≠ 0
      ∧ (∀ rw ∈ [Rw.rd, .wr, .amo], ∀ touch, (x.1.setGroup x.1.cur gV).locate x.1.cur gV (eaV x.2.1 0) 8 rw touch = (x.2.2, x.1.setGroup x.1.cur gV)
        ∧ x.1.gwHit x.1.cur gV 1 (eaV x.2.1 0) 8 rw = false)) x hx
    refine ⟨⟨h.1, h.2.1, fun _ h => (nomatch h), rfl⟩, h.2.2.1, h.2.2.2.1, h.2.2.2.2.1, h.2.2.2.2.2, ?_⟩
    simp only [List.mem_cons, List.not_mem_nil, or_false] at hx
    rcases hx with rfl | rfl | rfl
    · intro h; exact nomatch h
    · exact fun _ u ho rw => movingStays ho { loadTeam with moving := true } (by decide +kernel)
    · exact fun _ u ho rw => absentStays ho (by decide +kernel) (by decide +kernel)
theorem witness_LaneAtomics :
    (∀ vd ∈ [(6 : BitVec 8), 0xFF], fits gV.vregs (wA 2 vd).vd (wA 2 vd).ty.regs = true ∧ ((wA 2 vd).vd.toNat < 0xF0 ∨ (wA 2 vd).vd = 0xFF))
    ∧ (wA 2).ty ∈ [Ty.i32, .n32, .i64, .n64, .f32] ∧ bits (wA 2).x32.toNat 0 5 = 10
    ∧ (∀ x ∈ lanesReached, CanIssue x.1 gV p0 false ∧ (x.1.setGroup x.1.cur gV).tableRoom x.1.cur (1 + x.1.slot) 64 = true
      ∧ (x.1.core (coreOf x.1.cur)).sideLog.length ≤ 256
      ∧ ∀ vd, ReleasesAtOnce x.1 gV (amoOrder (wA x.2.1 vd)) (amoScope (wA x.2.1 vd)) ∧ LanesApart gV p0 (wA x.2.1 vd) (fun _ => x.2.2) 8
        ∧ LanesAccess x.1 gV p0 (wA x.2.1 vd) (fun l => gV.read64 x.2.1 l) (fun _ => x.2.2) 8 .amo
        ∧ ∀ l, takesPart gV p0 (wA x.2.1 vd) l = true → Narrow x.1 gV x.2.2 (amoScope (wA x.2.1 vd)))
    ∧ (∀ x ∈ [(machine gV, (9 : BitVec 8), Loc.flt .protect), (moving gV, 7, .missing), (absent gV, 5, .missing)], takesPart gV p0 (wA x.2.1) 0 = true
      ∧ (gV.read64 x.2.1 0 = eaV x.2.1 0 ∧ eaV x.2.1 0 % 8 = 0 ∧ gV.refusedTo 1 (eaV x.2.1 0) = false)
      ∧ ∀ touch, (x.1.setGroup x.1.cur gV).locate x.1.cur gV (gV.read64 x.2.1 0) 8 .amo touch = (x.2.2, x.1.setGroup x.1.cur gV))
    ∧ gV.posted = [] ∧ (6 : BitVec 8) ≠ 0xFF ∧ (gVr 5).refusedTo 1 ((gVr 5).read64 5 0) = true := by
  refine ⟨by decide +kernel, by decide, by decide +kernel, fun x hx => ?_, by decide +kernel, rfl, by decide, by decide +kernel⟩
  obtain ⟨-, -, hc, hr, hs, -, -⟩ := laneParts x hx
  exact ⟨hc, hr, hs, fun vd => ⟨fun h => absurd h (by rw [show amoOrder (wA x.2.1 vd) = amoOrder (wA 2) from rfl]; decide +kernel), fun l m hl hm hn => (hn ((only0A hl).trans (only0A hm).symm)).elim, (lanesAccess (by decide) x hx).2 vd,
    fun _ _ _ => .inl (show (amoScope (wA 2)).code < 2 by decide +kernel)⟩⟩
/-- Rows 0 and 256 of a tile of 256; a pending access of `tzero`; a free and a foreign handle. -/
def wT : LaneWord := { gp := 7, vd := 6, va := 0xFF, x32 := 3 + 255 * 256 }
theorem witness_TileRowAccesses :
    let s := withTeam (machine gL) { loadTeam with handles := [(3, hnd0), (5, { hnd0 with owner := 1 })] }
    let t : Team := { loadTeam with handles := [(3, hnd0), (5, { hnd0 with owner := 1 })] }
    let u : Team := { loadTeam with tileAccs := [{ id := 1, op := .zeroW, h := hnd0, wr := true, lo := 0, len := 256 * 256 }] }
    s.group? s.cur = some gL ∧ s.team? gL.key = some t ∧ p0.redo = none ∧ (withTeam (machine gL) u).team? gL.key = some u ∧ u.tandem = false ∧ u.away = false
    ∧ Tbl.find t.handles 4 = none ∧ Tbl.find t.handles 3 = some hnd0 ∧ hnd0.owner = gL.gidx ∧ Tbl.find t.handles 5 = some { hnd0 with owner := 1 }
    ∧ (1 : Nat) ≠ gL.gidx ∧ (255 + gL.read32 0xFF 0) % 2 ^ 32 < hnd0.rows ∧ hnd0.rows ≤ (256 + gL.read32 0xFF 0) % 2 ^ 32 ∧ t.tileAccs = [] ∧ 0 < t.nextAcc
    ∧ s.groups.find? (fun e => e.2.issued (gL.issuer s.cur)) = some (s.cur, gL) ∧ (∀ e ∈ s.groups, e.2.issued (gL.issuer s.cur) = true → e.1 = s.cur)
    ∧ gL.stopped = false ∧ gL.stopping = false ∧ gL.pend = [] ∧ gL.active p0 &&& gL.guard wT ≠ 0 ∧ gL.active { p0 with mask := 0 } &&& gL.guard wT = 0
    ∧ fits gL.vregs wT.vd wT.ty.regs = true := by decide +kernel
/-- A path beside a sibling; a join entry at its index and a full stack; guards true in all, some and no lanes. -/
def gB : Machine.Group := { gL with slot0 := some { p0 with mask := 3 }, slot1 := some { p0 with id := 2, mask := 4 }, live := 7, p := [(0, 1), (2, 7)],
                                    stack := List.replicate 64 { index := 3 } }
def wC : LaneWord := { gp := 0, x32 := 9 }
theorem witness_LaneControlPaths :
    CanIssue (machine gL) gL p0 true ∧ CanIssue (machine gB) gB { p0 with mask := 3 } true ∧ (machine gB).traced ((machine gB).launchOf gB) gB.launch = false
    ∧ ((3 : W64) &&& gB.live &&& gB.guard { wC with gp := 1 } = 0) ∧ ((3 : W64) &&& gB.live &&& gB.guard wC ≠ 0 ∧ (3 : W64) &&& gB.live &&& ~~~ gB.guard wC ≠ 0) ∧ ((3 : W64) &&& gB.live &&& ~~~ gB.guard { wC with gp := 2 } = 0)
    ∧ gL.path? (1 - (machine gL).slot) = none ∧ gB.path? (1 - (machine gB).slot) ≠ none ∧ gL.stack.length < 64 ∧ 64 ≤ gB.stack.length
    ∧ (∀ e, gL.level = some e → e.index ≠ p0.pc) ∧ gB.stack = { index := 3 } :: List.replicate 63 { index := 3 } ∧ (({ index := 3 } : StackEnt).index = p0.pc)
    ∧ gB.level ≠ none ∧ gL.stack = [] ∧ (∀ x ∈ (List.replicate 63 ({ index := 3 } : StackEnt)).head?, x.kind = .joinE)
    ∧ gL.live &&& ~~~ ((1 : W64) &&& gL.guard { wC with gp := 7 }) = 0 ∧ gB.live &&& ~~~ ((3 : W64) &&& gB.live &&& gB.guard wC) ≠ 0 := by
  have hl : gL.level = none := by decide +kernel
  refine ⟨canIssue _, ⟨rfl, rfl, fun _ h => (nomatch h), rfl⟩, by decide +kernel, by decide +kernel, by decide +kernel, by decide +kernel, by decide +kernel,
    by decide +kernel, by decide +kernel, by decide +kernel, ?_, by decide +kernel⟩
  intro e h; rw [hl] at h; exact nomatch h
theorem witness_LaneNopBreakAndPut : CanIssue (machine gL) gL p0 false ∧ gL.pend = [] ∧ p0.mask &&& gL.live &&& gL.guard wI ≠ 0
    ∧ p0.mask &&& gL.live &&& gL.guard { wI with gp := 0 } = 0 ∧ takesPart gL p0 wI 0 = true ∧ gL.retQ.length < 16
    ∧ 16 ≤ ({ gL with retQ := List.replicate 16 0 } : Machine.Group).retQ.length := by refine ⟨canIssue _, ?_⟩; decide +kernel
/-- The machine served by the host. -/
def hostm (g : Machine.Group) : State := { machine g with boot := { stage := 6 } }
def pf : Requester := {}
theorem witness_RequestersWithoutRights : (∃ v, ({ vf := some 1 } : Requester).vf = some v ∧ v ≠ 0) ∧ ({ vf := some 0 } : Requester).vf ≠ none
    ∧ (∃ v, ({ vf := some 1 } : Requester).vf = some v ∧ v ≠ (State.reset.queue 0).part) ∧ State.reset.boot.stage ≠ 6 :=
  ⟨⟨1, rfl, by decide⟩, nofun, ⟨1, rfl, by decide +kernel⟩, by decide +kernel⟩
/-- A block waits in the lane queue; its group's streams last issued at cycle 0. -/
def gQ : Machine.Group := { g0 with laneQ := [{ start := 5 }] }
def at_ (s : State) (n : Nat) : State := { s with cycles := n }
/-- The complex's owner blocked on a matrix batch of which only it can post the quarters. -/
def gB2 : Machine.Group := { g0 with blocked := some { kind := 2, n := 1 } }
def sB2 : State :=
  { withTeam (machine gB2) { loadTeam with mxQ := [{ op := .mxa }], acq := true } with complexes := [(0, { owner := some (keyOf 1 0) })], cycles := 2 ^ 20 }
/-- A critical group of a team that leaves, 100 µs after the vacating began. -/
def gC : Machine.Group := { g0 with crit := 1 }
def sC (n : Nat) : State :=
  { withTeam (machine gC) { loadTeam with moving := true } with parts := [(0, { loadPart with vacate := [0] })], cycles := n }
def lv (c : Nat) : State := { machine { g0 with curbAsk := 3 } with dies := [(0, { leaves := [{ cls := c, who := 0, id := if c = 2 then 0 else 1, curb := decide (c = 2) }] })], cycles := 1 }
theorem witness_GroupTimingEvents :
    (gQ.running = false ∧ gQ.stopped = false ∧ gQ.stopping = false ∧ gQ.laneQ = [{ start := 5 }] ∧ ({ start := 5 } : Block).at_ < (at_ (machine gQ) 1).cycles
      ∧ (at_ (machine gQ) 1).traced ((at_ (machine gQ) 1).launchOf gQ) gQ.launch = false ∧ (at_ (machine gQ) 1).group? 0 = some gQ)
    ∧ ((at_ (machine g0) 256).readyS g0 = true ∧ 256 ≤ (at_ (machine g0) 256).cyc (coreOf 0) - g0.lastS ∧ (at_ (machine gL) 256).readyL gL = true
      ∧ 256 ≤ (at_ (machine gL) 256).cyc (coreOf 0) - gL.lastL ∧ (at_ (machine g0) 255).cyc (coreOf 0) - g0.lastS < 256)
    ∧ (sB2.group? 0 = some gB2 ∧ gB2.stopped = false ∧ gB2.stopping = false ∧ gB2.pageWait = [] ∧ (sB2.complex 0).owner = some gB2.key
      ∧ (∃ t, sB2.team? gB2.key = some t ∧ t.core = 0 ∧ t.mxQ = [{ op := .mxa }] ∧ t.tags = []) ∧ sB2.groupsOf gB2.key = [(0, gB2)] ∧ sB2.probeAge 0 gB2 = true)
    ∧ fld (({ machine g0 with parts := [(0, { rcd := 1 })] } : State).part 0).rcd 88 6 = 0
    ∧ ((sC 209999).stc < ((sC 209999).part 0).vacSince + 100000 ∧ ((sC 210000).part 0).vacate ≠ [] ∧ ((sC 210000).part 0).vacSince + 100000 ≤ (sC 210000).stc
      ∧ (sC 210000).groups.filter (fun e => ((sC 210000).launchOf e.2).part == 0 && (sC 210000).moved e.2 && e.2.crit != 0 && !e.2.stopping
          && !e.2.stopped) = [(0, gC)]
      ∧ ((sC 210000).rollback 0).group? 0 = some gC)
    ∧ ∀ c ∈ [0, 1, 2], ∃ x, ((lv c).die 0).leaves = [x] ∧ x.since < (lv c).cyc (20 * 0) ∧ ((lv c).die 0).grantAt ≠ (lv c).cyc (20 * 0) + 1 ∧ leaveWeight x.cls ≤ fld ((lv c).die 0).reg 8 8
        ∧ (c = 2 → x.curb = true ∧ x.id = 0) ∧ (c = 1 → x.cls = 1 ∧ x.curb = false) := by
  refine ⟨by decide +kernel, by decide +kernel, ?_, by decide +kernel, by decide +kernel, ?_⟩
  · exact ⟨by decide +kernel, rfl, rfl, rfl, by decide +kernel, ⟨{ loadTeam with mxQ := [{ op := .mxa }], acq := true }, by decide +kernel⟩, by decide +kernel⟩
  · intro c h; exact ⟨{ cls := c, who := 0, id := if c = 2 then 0 else 1, curb := decide (c = 2) }, by revert c; decide +kernel⟩
/-- A queue of a valid record: a ring of 32 at 4 MiB of device memory, partition 0, root 1 MiB. -/
def qrec (en : Nat) : BitVec 1024 := BitVec.ofNat 1024 (en + 0x20 + 2 ^ 12 + 5 * 2 ^ 16 + 5 * 2 ^ 24 + loadRoot * 2 ^ 64 + 0x400000 * 2 ^ 128 + 0x410000 * 2 ^ 192
  + 256 * 2 ^ 336 + 64 * 2 ^ 352)
/-- Descriptor bits: one group of 32 lanes and 8 registers, PLAIN, no scratch. -/
def dbits : Nat := 0x200000 + 0x200000 * 2 ^ 64 + 2 ^ 128 + 16 * 2 ^ 160 + 2 ^ 192 + 2 ^ 195 + 2 ^ 208 + 15 * 2 ^ 216
/-- Command bits: the descriptor at a place, a number, one team. -/
def cbits (kernel seq grid : Nat) : Nat := kernel + seq * 2 ^ 64 + grid * 2 ^ 96 + 2 ^ 128 + 2 ^ 160
/-- Device memory with the load's root table, one command in slot 1, and the descriptor at 5 MiB. -/
def qmem (cmd desc : Nat) : List Host.Cell :=
  Memory.write (Memory.write (Memory.write [] loadRoot 8 0xDF) 0x400100 32 cmd) 0x500000 64 desc
def qstate (Q : Queue) (mem : List Host.Cell) : State :=
  { State.reset with boot := { stage := 6 }, parts := [(0, loadPart)], queues := [(0, Q)], mem := mem, bar2 := 0 }
/-- The queue running with its first command rung. -/
def qrun : Queue := { rcd := qrec 1, st := 1, doorbell := 1 }
/-- A host launch and the state in which it is known. -/
def lq : Launch := { (loadLaunch 0) with q := 0, seq := 1, nextTeam := 0, st := .waiting }
def lstate (l : Launch) : State := { (qstate { qrun with lastacc := 1 } []) with launches := [(1, l)] }
/-- A formed gait that predicts number 1 of the descriptor at a place. -/
def gaitOf (k : W64) : Gait := { st := 1, kernel := k, gridx := 1, gridy := 1, gridz := 1, tgroups := 1, twidth := 1 }
def predOf (s : State) : Launch :=
  { newLaunch 0 (s.queue 0).part ((s.queue 0).gait.predict (s.queue 0).gait.nextseq) {} (BitVec.ofNat 16 (fld (s.queue 0).rcd 32 16))
      (BitVec.ofNat 64 (fld (s.queue 0).rcd 64 64)) (s.part (s.queue 0).part).tandems.length s.nextOrder 0 with
    pred := true, live := true, slots0 := (s.queue 0).gait.all }
/-- What a step that accepts the command in the queue's slot reads. -/
def accepts (s : State) : Option (Cmd × DescRead × State) :=
  let Q := s.queue 0
  (s.rawRead (bit Q.rcd.toNat 12) (fld Q.rcd 128 64 + 256 * ((Q.lastacc + 1).toNat % 2 ^ fld Q.rcd 16 5)) 256).map (fun bs =>
    let c := cmdOf (BitVec.ofNat 2048 (ofBytes bs)) false
    let x := s.readDesc (newLaunch 0 Q.part c {} (BitVec.ofNat 16 (fld Q.rcd 32 16)) (BitVec.ofNat 64 (fld Q.rcd 64 64))
                  (s.part Q.part).tandems.length s.nextOrder (BitVec.ofNat 64 s.stc))
    (c, x.1, x.2))
def isOk (d : DescRead) : Bool := match d with
  | .ok _ _ => true
  | _ => false
theorem witness_QueueEvents :
    ((qstate { rcd := qrec 0 } []).mayQueue pf 0 = true ∧ ({ rcd := qrec 0 } : Queue).en = false ∧ (validRecord (setFld (qrec 0) 0 1 1) && loadPart.hasSave) = true)
    ∧ ((qstate {} []).mayQueue pf 0 = true ∧ (validRecord (setFld ({} : Queue).rcd 0 1 1)) = false)
    ∧ ((qstate qrun []).mayQueue pf 0 = true ∧ qrun.en = true ∧ (∀ e ∈ (qstate qrun []).launches, e.2.q ≠ 0) ∧ seqAfter 2 qrun.lastacc = true
      ∧ ¬ (qrun.st = 2 ∧ qrun.cause = 3) ∧ seqAfter 0 qrun.lastacc = false ∧ seqAfter 0x80000000 qrun.lastacc = false)
    ∧ ((lstate lq).launches.find? (fun e => e.2.q == 0 && e.2.seq == 1 && e.2.parent == 0 && !(e.2.pred && e.2.live)) = some (1, lq)
      ∧ (lstate lq).launch? 1 = some lq ∧ (∀ e ∈ (lstate lq).teams, e.1 / 2 ^ 32 ≠ 1) ∧ (lstate lq).mayQueue pf 0 = true)
    ∧ ((qstate qrun []).livePreds 0 = [] ∧ (qrun.gait.write (2 ^ 224) qrun.lastacc).isSome = true ∧ (qrun.gait.write 0 qrun.lastacc).isNone = true ∧ (qrun.gait.write 0x30000 qrun.lastacc).isNone = true)
    ∧ (qrun.wait = none ∧ qrun.readRef = false ∧ (qstate qrun []).readyKid 0 = none ∧ qrun.st = 1 ∧ seqAfter qrun.doorbell qrun.lastacc = true) := by
  decide +kernel
/-- The command of slot 1 cannot be read; is another number; is refused (a zero descriptor); is accepted. -/
theorem witness_QueueEvents_accept :
    (let s := qstate { qrun with rcd := qrec 1 + 0x2FFFC00000 * 2 ^ 128 } []
     let Q := s.queue 0
     Q.en = true ∧ s.rawRead (bit Q.rcd.toNat 12) (fld Q.rcd 128 64 + 256 * ((Q.lastacc + 1).toNat % 2 ^ fld Q.rcd 16 5)) 256 = none)
    ∧ ((accepts (qstate qrun (qmem (cbits 0x500000 2 1) dbits))).any (fun x => x.1.seq != 1)) = true
    ∧ ((accepts (qstate qrun (qmem (cbits 0x500000 1 1) 0))).any (fun x => x.1.seq == 1 && isOk x.2.1 && x.2.2.refusal 0 0 x.1 x.2.1 != 0)) = true
    ∧ ((accepts (qstate qrun (qmem (cbits 0x500000 1 1) dbits))).any (fun x => x.1.seq == 1 && isOk x.2.1 && x.2.2.refusal 0 0 x.1 x.2.1 == 0
        && (match x.2.1 with
          | .ok d _ => (qstate qrun (qmem (cbits 0x500000 1 1) dbits)).idFree d
          | _ => false))) = true
    ∧ (qstate qrun (qmem (cbits 0x500000 1 1) dbits)).livePreds 0 = [] ∧ (qstate qrun []).idFree none = true := by
  decide +kernel
/-- A launch that waits for nothing; a child; one whose STRICT dependence failed. A prediction that can be read, and one that cannot. -/
def sP (k : W64) : State := qstate { qrun with doorbell := 0, gait := gaitOf k } (qmem 0 dbits)
def predicts (s : State) : Bool :=
  let Q := s.queue 0
  Q.en && Q.gait.st == 1 && Q.gait.halted.isNone && !Q.gait.hostHold && decide (s.liveCount < 64) && decide (s.versions.length + 64 ≤ 4096)
    && s.lets 0 (Q.gait.nextseq - 1) && decide ((Q.gait.nextseq - Q.lastacc).toNat ≤ Q.ahead)
theorem witness_QueueEvents_start :
    (lq.st = .waiting ∧ (lstate lq).depsMet lq = true ∧ (lstate lq).lets lq.q (lq.seq - 1) = true ∧ (lstate lq).depFailed lq = false)
    ∧ ({ lq with parent := 1 } : Launch).parent ≠ 0 ∧ predicts (sP 0x500000) = true ∧ predicts (sP 0x100000000000000) = true
    ∧ ((sP 0x500000).queues.any (fun e => decide (e.1 < 0) && ((sP 0x500000).predictNext e.1).1)) = false
    ∧ (match ((sP 0x100000000000000).readDesc (predOf (sP 0x100000000000000))).1 with
        | .fail _ => true
        | _ => false) = true
    ∧ (match ((sP 0x500000).readDesc (predOf (sP 0x500000))).1 with
        | .ok (some d) _ => !noFit d ((gaitOf 0x500000).predict 1).teamN ((sP 0x500000).part 0).tandems.length
            && decide (1 ≤ effLimit ((sP 0x500000).queue 0).ahead d.ahead)
        | _ => false) = true := by
  refine ⟨by decide +kernel, by decide, by decide +kernel, by decide +kernel, by decide +kernel, by decide +kernel, by decide +kernel⟩
/-- A launch of two teams of 4 KiB scratch, one of which waits, and the first place of core 1. -/
def lA : Launch := { lq with st := .running, desc := { loadDesc with scratch := 1, tiles := 0, groups := 1 } }
def sA : State := { lstate lA with cycles := 0 }
def plA : Place := { core := 1, ctxs := [0, 32], rbs := [0, 0x8000], sb0 := 0, reserves := [0x1000, 0x2000] }
/-- A team that is over, and a launch whose teams are done; its parent. -/
def sOver (l : Launch) : State := { (machine g0) with groups := [], teams := [(keyOf 1 0, loadTeam)], launches := [(1, l), (2, { (loadLaunch 0) with children := 1 })] }
def sEnd (l : Launch) : State := { sOver l with teams := [] }
/-- A host command: an operation, the launch, the number 1. -/
def hc (op : Nat) : BitVec 128 := BitVec.ofNat 128 (op + 2 ^ 32 + 2 ^ 96)
/-- Partition 0 without teams; with its contexts saved. -/
def sIdle (p : Partition) : State := { State.reset with boot := { stage := 6 }, parts := [(0, p)] }
def rz (seq : Nat) : BitVec 192 := BitVec.ofNat 192 (1 + seq * 2 ^ 32 + 3 * 2 ^ 64)
theorem witness_TeamAndLaunchEvents :
    (sA.launch? 1 = some lA ∧ sA.mayAdmit 1 lA = true ∧ lA.desc.gangp = 0 ∧ lA.rerun = false ∧ lA.desc.tandem = false ∧ lA.desc.sdsize = 0
      ∧ (sA.unitsFor lA lA.nextTeam).contains plA.core = true ∧ sA.placeOk lA.desc.need plA = true)
    ∧ ((sOver (loadLaunch 0)).team? (keyOf 1 0) = some loadTeam ∧ (sOver (loadLaunch 0)).teamOver (keyOf 1 0) loadTeam = true ∧ loadTeam.version = none)
    ∧ (let l : Launch := { (loadLaunch 0) with parent := 2 }
       (sEnd l).launch? 1 = some l ∧ l.st = .running ∧ (sEnd l).teamsDone 1 l = true ∧ l.version.any (sEnd l).pubHeld = false ∧ l.desc.cls ≠ 2 ∧ (l.pred && l.live) = false ∧ l.children = 0
        ∧ l.parent ≠ 0 ∧ l.parent ≠ 1 ∧ ((sEnd l).launch? l.parent).isSome = true)
    ∧ ((sEnd (loadLaunch 0)).launch? 1 = some (loadLaunch 0) ∧ (loadLaunch 0).st = .running ∧ (sEnd (loadLaunch 0)).teamsDone 1 (loadLaunch 0) = true ∧ (loadLaunch 0).version.any (sEnd (loadLaunch 0)).pubHeld = false
        ∧ (loadLaunch 0).desc.cls ≠ 2 ∧ (loadLaunch 0).children = 0 ∧ (loadLaunch 0).parent = 0)
    ∧ (let s := sIdle loadPart
       hGidx (hc 4) ≠ 0xFF ∧ hTeam (hc 4) ≠ 0xFFFFFFFF ∧ (s.part 0).ctxsaved = false ∧ (s.part 0).vacate = [] ∧ (s.part 0).resizing = false
        ∧ s.saveFits 0 [] = true ∧ s.teamsOn (s.part 0).tandems = [] ∧ ∀ e ∈ s.teams, e.2.moving = false)
    ∧ (let s := sIdle { loadPart with ctxsaved := true }
       hGidx (hc 5) ≠ 0xFF ∧ hTeam (hc 5) ≠ 0xFFFFFFFF ∧ (s.part 0).ctxsaved = true ∧ (s.part 0).vacCtx = false)
    ∧ (let s := sIdle loadPart
       s.mayPf pf = true ∧ fld (rz 0) 32 32 ≠ (fld (s.part 0).pcmd 192 32 + 1) % 2 ^ 32 ∧ fld (rz 1) 32 32 = (fld (s.part 0).pcmd 192 32 + 1) % 2 ^ 32
        ∧ fld (rz 1) 0 8 = 1 ∧ (s.part 0).tdi = .unlocked ∧ (s.part 0).resizing = false ∧ bit (s.part 0).trace.toNat 0 = false ∧ (s.part 0).vacate = []
        ∧ (∀ t < 80, bit (fld (s.part 0).rcd 0 80) t = true → bit (fld (rz 1) 64 80) t = true)
        ∧ ∀ t < 80, ∀ q ∈ s.parts, q.1 ≠ 0 → bit (fld (rz 1) 64 80) t = true → bit (fld q.2.rcd 0 80) t = false) := by
  refine ⟨by decide +kernel, by decide +kernel, by decide +kernel, by decide +kernel, by decide +kernel, by decide +kernel, by decide +kernel⟩
theorem witness_HostReady : HostReady (sIdle loadPart) pf 0 (hc 4) 4 ∧ HostReady (sIdle { loadPart with ctxsaved := true }) pf 0 (hc 5) 5 :=
  ⟨⟨by decide +kernel, by decide +kernel, by decide +kernel, by decide +kernel⟩, ⟨by decide +kernel, by decide +kernel, by decide +kernel, by decide +kernel⟩⟩
/-- A team that leaves, stopped; the same team saved. -/
def gStop : Machine.Group := { g0 with stopping := true }
def sVac : State := { withTeam (machine gStop) { loadTeam with moving := true } with parts := [(0, { loadPart with vacate := [0] })] }
def saved0 : SavedTeam := { key := keyOf 1 0, groups := [(0, gStop)] }
def tAway : Team := { loadTeam with moving := true, away := true }
def sSaved : State := { withTeam (machine g0) tAway with groups := [], parts := [(0, { loadPart with saved := [saved0] })] }
def plR : Place := { core := 1, ctxs := [0], rbs := [0], sb0 := 0, reserves := [0x10000] }
theorem witness_TeamAndLaunchEvents_saves :
    ((sVac.part 0).vacate ≠ [] ∧ (∀ e ∈ sVac.groups, e.2.posted = []) ∧ (∀ c ∈ sVac.cores, c.2.late = []) ∧ sVac.team? (keyOf 1 0) = some { loadTeam with moving := true }
      ∧ sVac.teams.filter (fun e => e.2.moving && !e.2.away && ((sVac.launch? (e.1 / 2 ^ 32)).getD {}).part == 0) = [(keyOf 1 0, { loadTeam with moving := true })]
      ∧ sVac.teamQuiet (decide ((sVac.part 0).vacSince + 100000 ≤ sVac.stc)) (keyOf 1 0) { loadTeam with moving := true } = true
      ∧ ∀ e ∈ sVac.teamsOn (sVac.part 0).vacate, e.2.moving = true)
    ∧ ((sSaved.part 0).saved = [saved0] ∧ (sSaved.part 0).ctxsaved = false ∧ sSaved.team? saved0.key = some tAway
      ∧ sSaved.launch? (saved0.key / 2 ^ 32) = some (loadLaunch 0) ∧ sSaved.gangOf saved0.key tAway = [(saved0.key, tAway)]
      ∧ (sSaved.unitsFor (loadLaunch 0) (saved0.key % 2 ^ 32)).contains plR.core = true
      ∧ sSaved.placeOk (saved0.need tAway (loadLaunch 0).desc) plR = true
      ∧ (∀ e ∈ saved0.groups, e.2.parked = none ∧ e.2.ending = none ∧ e.2.pendHalt = false ∧ e.2.pendCharge = none) ∧ ∀ c ∈ sSaved.cores, c.2.sideLog = []) := by
  decide +kernel
/-- The group of the load as an issuer. -/
def iss0 : Issuer := { key := keyOf 1 0, sidx := 0xFFFFFFFFFFFFFFFF }
def gCp : Machine.Group := { g0 with copyB := { opn := 1, live := [1] }, matB := { opn := 1, live := [1] } }
def withCopy (c : CopyCmd) : State := { machine gCp with cores := [(0, { copyQ := [c] })] }
def cp (n : Nat) : CopyCmd := { id := 1, iss := iss0, batch := 1, src := BitVec.ofNat 64 aperture, dst := BitVec.ofNat 64 (aperture + 0xFFFF), len := BitVec.ofNat 64 n }
def cpTaken (n : Nat) : CopyCmd := { cp n with taken := true, left := [(0, n)], granted := decide (65536 < n) }
/-- The first byte of a copy is read and written. -/
def lands (c : CopyCmd) : Bool := match (withCopy c).engRead 0 c.iss.key c.src.toNat 1 with
  | .ok [b] s1 => (match s1.engWrite 0 c.iss.key c.dst.toNat [b] with
    | .ok () s2 => s2.ew.isEmpty && s2.badLines.isEmpty
    | _ => false)
  | _ => false
/-- A sealed message of a ready stream whose header has a counter, and the stream. -/
def cps (ctr : Nat) : CopyCmd := { cp 0 with kind := .cpys, taken := true, hdr := BitVec.ofNat 128 (ctr + 65536 * 2 ^ 64), sel := 63 }
def withSeal (c : CopyCmd) : State := { withCopy c with parts := [(0, { loadPart with seals := [(63, { st := 1, next := 5 })] })] }
/-- The head of the complex's owner. -/
def tMx (c : MxCmd) (old : Bool) : Team :=
  { loadTeam with mxQ := [c], tags := (List.range 4).map (fun i => { tag := 1, q := i, iss := iss0, vn := 8 * i, batch := 1, old := old }), acq := true }
def withMx (c : MxCmd) : State := { withTeam (machine gCp) (tMx c false) with complexes := [(0, { owner := some (keyOf 1 0) })] }
def mx (op : MxOp) : MxCmd := { op := op, taken := true, iss := iss0, batch := 1, tag := 1, d := hnd0, a := hnd0, fmt := 0x44 }
/-- The commands of the complex's owner accepted that can be. -/
def accepted (c : MxCmd) : State := ((withMx c).complex 0).owner.elim (withMx c) (fun k => (withMx c).acceptAll k)
theorem witness_EngineAndComplexEvents :
    ((withCopy (cp 0)).cmd? 0 1 = some (cp 0) ∧ (cp 0).status = none ∧ (cp 0).stalled = none ∧ (cp 0).stallSince = none ∧ (cp 0).kind = .cpy ∧ (cp 0).hasBar = false
      ∧ (cp 0).taken = false ∧ (withCopy (cp 0)).copyTurn 0 (cp 0) = true)
    ∧ ((withCopy (cpTaken 1)).cmd? 0 1 = some (cpTaken 1) ∧ (cpTaken 1).taken = true ∧ (cpTaken 1).left = [(0, (cpTaken 1).len.toNat)] ∧ 0 < (cpTaken 1).len.toNat
      ∧ (cpTaken 1).acc = 0 ∧ (cpTaken 1).joins 0 = false ∧ (cpTaken 65537).joins 0 = false ∧ (cpTaken 1).len.toNat ≤ 65536 ∧ lands (cpTaken 1) = true ∧ (cpTaken 65537).granted = true ∧ lands (cpTaken 65537) = true)
    ∧ (let c := { cpTaken 1 with left := [] }
       (withCopy c).cmd? 0 1 = some c ∧ c.ended = true ∧ c.hasBar = false ∧ (withCopy c).issuer? c.iss = some (0, gCp) ∧ (withCopy c).group? 0 = some gCp
        ∧ gCp.debugStop = false ∧ gCp.blocked = none ∧ c.batch ∈ gCp.copyB.live)
    ∧ (((withSeal (cps 5)).core 0).copyQ = [cps 5] ∧ (cps 5).id = 1 ∧ (cps 5).kind = .cpys ∧ (cps 5).taken = true ∧ (cps 5).status = none ∧ (cps 5).stalled = none
      ∧ (cps 5).left = [] ∧ (cps 5).plain = [] ∧ (cps 5).spent = false ∧ fld (cps 5).hdr 96 32 = 0 ∧ 0 < fld (cps 5).hdr 64 32 ∧ fld (cps 5).hdr 64 32 ≤ 65536
      ∧ fld (cps 5).sel 0 32 < 64 ∧ (Tbl.get (((withSeal (cps 5)).part 0).seals) (fld (cps 5).sel 0 6) {}).st = 1
      ∧ fld (cps 5).hdr 0 64 = (5 : W64).toNat ∧ fld (cps 4).hdr 0 64 ≠ (5 : W64).toNat) := by
  refine ⟨by decide +kernel, by decide +kernel, by decide +kernel, by decide +kernel⟩
theorem witness_EngineAndComplexEvents_matrix :
    ((accepted (mx .rdy)).mxHead 0 = some (keyOf 1 0, tMx (mx .rdy) false, mx .rdy) ∧ (accepted (mx .rdy)).team? (keyOf 1 0) = some (tMx (mx .rdy) false)
      ∧ (mx .rdy).status = none ∧ (mx .rdy).stalled = none ∧ (mx .rdy).stallSince = none ∧ (mx .rdy).taken = true)
    ∧ (let c := { mx .mxa with started := true, bq := List.replicate 4 [] }
       (accepted c).mxHead 0 = some (keyOf 1 0, tMx c false, c) ∧ c.taken = true ∧ (tMx c false).accReady c.accA = true ∧ (tMx c false).accReady c.accD = true)
    ∧ (let c := { mx .mxa with granted := true }
       (accepted c).mxHead 0 = some (keyOf 1 0, tMx c false, c) ∧ c.taken = true ∧ c.started = false ∧ (accepted c).sideBy c.iss = [] ∧ ∀ i < 4, ∃ x ∈ (tMx c false).tags, x.tag = c.tag ∧ x.q = i)
    ∧ (let c := { mx .mxa with status := some 1 }
       (withMx c).mxHead 0 = some (keyOf 1 0, tMx c false, c) ∧ (withMx c).issuer? c.iss = some (0, gCp) ∧ c.batch ∈ gCp.matB.live)
    ∧ (let s := { withTeam (machine g0) loadTeam with complexes := [(0, { owner := some (keyOf 1 0), releasing := true, waiters := [(5, true)] })] }
       (s.complex 0).owner = some (keyOf 1 0) ∧ (s.complex 0).releasing = true ∧ s.team? (keyOf 1 0) = some loadTeam ∧ (∀ c ∈ loadTeam.mxQ, c.old = false)
        ∧ ∀ x ∈ loadTeam.tags, x.old = false) := by
  refine ⟨by decide +kernel, by decide +kernel, by decide +kernel, by decide +kernel, by decide +kernel⟩
/-- Page commands: an operation, a VA, a count, a tag and a new frame, with the number 1. -/
def pcmd (op va n tag new : Nat) : BitVec 512 := BitVec.ofNat 512 (op + 2 ^ 32 + va * 2 ^ 64 + n * 2 ^ 128 + tag * 2 ^ 160 + new * 2 ^ 192)
/-- A table of five levels whose last entry maps the page at 0 to a frame at 6 MiB. -/
def ptables : List Host.Cell :=
  [(0x100000, 0x101), (0x101000, 0x102), (0x102000, 0x103), (0x103000, 0x104)].foldl (fun m (e : Nat × Nat) => Memory.write m e.1 8 (e.2 * 2 ^ 10 + 1))
    (Memory.write [] 0x104000 8 (0x600 * 2 ^ 10 + 0xDF))
/-- The machine with such tables, served by the host; p: its partition. -/
def sPg (p : Partition) : State := { hostm g0 with mem := ptables, parts := [(0, p)] }
def assisted : Partition := { loadPart with rcd := 1 + (20 <<< 88) + (1 <<< 80) }
theorem witness_PageReady : PageReady (sPg loadPart) pf 0 (pcmd 1 0 0 0 0) 1 ∧ PageReady (sPg loadPart) pf 0 (pcmd 2 0 1 0 0x700000) 2
    ∧ PageReady (sPg loadPart) pf 0 (pcmd 3 0 1 0 0x100000000000) 3 ∧ PageReady (sPg loadPart) pf 0 (pcmd 4 0 0 9 1) 4 :=
  ⟨⟨by decide +kernel, by decide +kernel, by decide +kernel, by decide +kernel, by decide +kernel, by decide +kernel, by decide +kernel⟩,
   ⟨by decide +kernel, by decide +kernel, by decide +kernel, by decide +kernel, by decide +kernel, by decide +kernel, by decide +kernel⟩,
   ⟨by decide +kernel, by decide +kernel, by decide +kernel, by decide +kernel, by decide +kernel, by decide +kernel, by decide +kernel⟩,
   ⟨by decide +kernel, by decide +kernel, by decide +kernel, by decide +kernel, by decide +kernel, by decide +kernel, by decide +kernel⟩⟩
def req0 : PageReq := { tag := 9, va := 0x1000 }
def gW : Machine.Group := { g0 with pageWait := [(0, 0x1000)] }
def side0 (va : W64) : SideEntry := { va := va, mask := 1, iss := iss0, ea := va }
/-- The entry's granule is translated, and its one byte is written. -/
def replays (s : State) (e : SideEntry) : Bool := match s.translate 0 ((s.launch? (e.iss.key / 2 ^ 32)).getD {}) e.va.toNat .wr true with
  | (.port pa, s1) => !s1.portBusy pa 64 true && !s1.entryWaits e pa && !s1.deadEntry e pa && !(s1.entryPub e).any s1.pubHeld && (match s1.replayPut 0 (s1.liveGid e.iss) e.iss.key e.va.toNat pa e.runs with
    | .ok _ _ => true
    | _ => false)
  | _ => false
theorem witness_PageEvents :
    (fld (pcmd 1 0 0 0 0) 160 32 = 0 ∧ fld (pcmd 1 0 0 0 0) 192 64 = 0 ∧ fld (pcmd 1 0 0 0 0) 8 2 = 0)
    ∧ ((sPg { loadPart with shoot := some 1 }).part 0).shoot = some 1
    ∧ (1 ≤ pcPages (pcmd 2 0 1 0 0x700000) ∧ pcPages (pcmd 2 0 512 0 0x700000) ≤ 512 ∧ (sPg loadPart).newFrames false 0x700000 1 = true
      ∧ (sPg loadPart).newFrames true 0x100000000000 1 = true ∧ ((sPg loadPart).part 0).moves = []
      ∧ (sPg loadPart).oldPages 0 0 0 1 = [.page { pte := 0x18001F, frame := 0x600000, small := true }] ∧ (sPg loadPart).frameMoving 0x600000 = false)
    ∧ (let m : PageMove := { npages := 1, olds := [0x600000] }
       ((sPg { assisted with moves := [m] }).part 0).moves = [m] ∧ m.ready = false ∧ m.asked = false ∧ m.flip = false ∧ fld assisted.rcd 80 1 = 1 ∧ fld loadPart.rcd 80 1 = 0
        ∧ (sPg { assisted with moves := [m] }).crowded = none ∧ (sPg { loadPart with moves := [m] }).crowded = none ∧ (∀ e ∈ (sPg loadPart).groups, e.2.posted = [] ∧ e.2.orun = none) ∧ (∀ c ∈ (sPg loadPart).cores, c.2.late = []) ∧ (sPg loadPart).locks = [])
    ∧ (let s := { sPg { loadPart with reqs := [req0] } with groups := [(0, gW)] }
       pcNew (pcmd 4 0 0 9 1) ≤ 1 ∧ (s.part 0).reqs = [req0] ∧ req0.tag.toNat = fld (pcmd 4 0 0 9 1) 160 32 ∧ (∀ c ∈ s.cores, c.2.sideLog = [])
        ∧ s.group? 0 = some gW ∧ coreOf 0 = req0.core ∧ s.launch? gW.launch = some (loadLaunch 0) ∧ (loadLaunch 0).part = 0
        ∧ (loadLaunch 0).asid = req0.asid ∧ gW.pageWait = [(0, req0.va)])
    ∧ (sPg assisted).partOfCore 0 = some 0 := by
  refine ⟨by decide +kernel, by decide +kernel, by decide +kernel, by decide +kernel, by decide +kernel, by decide +kernel⟩
theorem witness_PageEvents_replay :
    (((({ sPg loadPart with cores := [(0, { sideLog := [side0 0] })] } : State).core 0).sideLog = [side0 0]) ∧ inTeamWin (side0 0).va.toNat = false
      ∧ (side0 0).op = none ∧ replays { sPg loadPart with cores := [(0, { sideLog := [side0 0] })] } (side0 0) = true)
    ∧ (match ((sPg loadPart).translate 0 (loadLaunch 0) (side0 0x1000).va.toNat .wr true).1 with
        | .missing => true
        | _ => false) = true := by
  refine ⟨by decide +kernel, by decide +kernel⟩
/-- A group parked for a party. -/
def gPk (who : Handler) : Machine.Group := { g0 with parked := some { who := who } }
def pk (who : Handler) : Park := { who := who }
def gHalted : Machine.Group := { g0 with parked := some { rcd := { cause := .brk } } }
theorem witness_VerdictEvents :
    (ParkedAt (hostm (gPk .sup)) (128 * 0 + (0 : BitVec 7).toNat) (gPk .sup) (pk .sup) .sup ∧ ((hostm (gPk .sup)).readStack (reserveAt 0 (gPk .sup)) (gPk .sup).stack.reverse 64).isSome = true
      ∧ (hostm (gPk .sup)).groupsOf (gPk .sup).key = [(0, gPk .sup)] ∧ (hostm (gPk .sup)).team? (gPk .sup).key = some loadTeam)
    ∧ (∀ g, (hostm g0).group? 0 = some g → g.parked = none)
    ∧ ((hostm g0).mayPart pf 0 = true ∧ fld (hc 1) 0 8 = 1 ∧ BitVec.ofNat 32 (fld (hc 1) 96 32) = ((hostm g0).part 0).hdone + 1
      ∧ BitVec.ofNat 32 (fld (0x200000001 : BitVec 128) 96 32) ≠ ((hostm g0).part 0).hdone + 1)
    ∧ ((hostm g0).hostLaunch 0 (hc 1) = true ∧ (sIdle loadPart).hostLaunch 0 (hc 1) = false ∧ hGidx (hc 1) ≠ 0xFF ∧ hTeam (hc 1) ≠ 0xFFFFFFFF)
    ∧ (ParkedAt (hostm (gPk .host)) 0 (gPk .host) (pk .host) .host ∧ (hostm (gPk .host)).groups.find? (fun e => namesGroup (hc 1) e.2 && (hostm (gPk .host)).atHost 0 e.2) = some (0, gPk .host))
    ∧ (let c := hc 2 + 0xFF000000
       (hostm g0).launch? (hLaunch c) = some (loadLaunch 0) ∧ ((loadLaunch 0).pred && (loadLaunch 0).live) = false ∧ hGidx c = 0xFF ∧ hTeam c < 2 ^ 32
        ∧ (hostm g0).teams = [(keyOf (hLaunch c) (hTeam c), loadTeam)] ∧ loadTeam.dying = false
        ∧ (∀ e ∈ (hostm g0).groupsOf (keyOf (hLaunch c) (hTeam c)), e.2.parked = none))
    ∧ (((hostm g0).part 0).saved = [] ∧ g0.orun = none ∧ g0.ending = none ∧ (hostm g0).groups.filter (fun e => namesGroup (hc 3) e.2) = [(0, g0)] ∧ g0.parked = none
      ∧ (((hostm g0).launchOf g0).pred && ((hostm g0).launchOf g0).live) = false ∧ ((hostm g0).launchOf g0).part = 0 ∧ g0.pend = [] ∧ g0.posted = []
      ∧ g0.blocked = none ∧ ((hostm g0).part 0).claims .halt = (false, true, true))
    ∧ ((∃ k, gHalted.parked = some k ∧ k.rcd.cause ≠ .halt) ∧ gHalted.ending = none ∧ (hostm gHalted).groups.filter (fun e => namesGroup (hc 3) e.2) = [(0, gHalted)])
    ∧ ((hostm g0).stqLate 0 = [] ∧ ((hostm g0).part 0).hwait = []) := by
  refine ⟨⟨⟨by decide +kernel, rfl, rfl, rfl, rfl, rfl, rfl⟩, by decide +kernel⟩, fun g h => ?_, by decide +kernel, by decide +kernel,
    ⟨⟨by decide +kernel, rfl, rfl, rfl, rfl, rfl, rfl⟩, by decide +kernel⟩, by decide +kernel, by decide +kernel, ⟨⟨_, rfl, by decide⟩, rfl, by decide +kernel⟩, by decide +kernel⟩
  have e : (hostm g0).group? 0 = some g0 := by decide +kernel
  rw [e] at h; cases h; rfl
theorem witness_HostReady_verdicts : HostReady (hostm g0) pf 0 (hc 1) 1 ∧ HostReady (hostm g0) pf 0 (hc 2 + 0xFF000000) 2 ∧ HostReady (hostm g0) pf 0 (hc 3) 3
    ∧ HostReady (sIdle loadPart) pf 0 (hc 1) 1 :=
  ⟨⟨by decide +kernel, by decide +kernel, by decide +kernel, by decide +kernel⟩, ⟨by decide +kernel, by decide +kernel, by decide +kernel, by decide +kernel⟩,
   ⟨by decide +kernel, by decide +kernel, by decide +kernel, by decide +kernel⟩, ⟨by decide +kernel, by decide +kernel, by decide +kernel, by decide +kernel⟩⟩
/-- HFLUSH or HINV of the whole of the first 4 GiB; of another number. -/
def hm (op seq : Nat) : BitVec 192 := BitVec.ofNat 192 (op + seq * 2 ^ 32 + 2 ^ 32 * 2 ^ 128)
theorem witness_HostMemoryEvents :
    let s := hostm g0
    s.bar2Serves pf 0x2FFFFFFFF8 8 64 = true ∧ s.bar2Serves pf 0x2FFFFFFFF8 8 8 = true ∧ s.hostLost 0x2FFFFFFFF8 = false
    ∧ ({ s with parts := [(0, { loadPart with moves := [{ ready := true, olds := [0x2FFFFFF000] }] })] } : State).hostLost 0x2FFFFFFFF8 = true ∧ s.bad 0x2FFFFFFFF8 8 = false ∧ ({ s with badLines := [0x2FFFFFFFF8 / 64] } : State).bad 0x2FFFFFFFF8 8 = true
    ∧ s.bar4At pf 0xFFFF8 8 = some 0x1FF000FFFF8 ∧ 0x1FF000FFFF8 + 8 ≤ 0x1FF00100000 ∧ 0xFFFF8 % 8 = 0
    ∧ s.mayPart pf 0 = true ∧ fld (hm 1 1) 0 8 = 1 ∧ fld (hm 1 0) 32 32 ≠ (fld (s.part 0).hmem 192 32 + 1) % 2 ^ 32
    ∧ fld (hm 2 1) 32 32 = (fld (s.part 0).hmem 192 32 + 1) % 2 ^ 32 ∧ fld (hm 2 1) 64 64 % 64 = 0 ∧ fld (hm 2 1) 128 64 % 64 = 0 ∧ fld (hm 2 1) 128 64 ≤ 2 ^ 32
    ∧ inDram (fld (hm 2 1) 64 64) (fld (hm 2 1) 128 64) = true
    ∧ Tbl.sorted ([(7, { dirty := true })] : Tbl LlcLine) = true ∧ Tbl.find ([(7, { dirty := true })] : Tbl LlcLine) 7 = some { dirty := true }
    ∧ s.remoteAt (s.bar4 + 0xFFFF8) 8 = some 0x1FF000FFFF8 ∧ regionOf 0x1FF000FFFF8 = .window 0xFFFF8 ∧ s.bad 0x1FF000FFFF8 8 = false
    ∧ s.served = true ∧ 159 < 160 ∧ 0x3FFFF8 + 8 ≤ 0x400000 ∧ 0x3FFFF8 % 64 + 8 ≤ 64 ∧ s.bad (onchip 159 0x3FFFF8) 8 = false := by decide +kernel
theorem witness_RegisterAndDebugEvents :
    let s := hostm g0
    let x : BitVec 128 := BitVec.ofNat 128 (8 + 2 ^ 64 + 3 * 2 ^ 68)
    s.mayPf pf = true ∧ s.served = true ∧ (sD.queue 0).en = true ∧ ({ sD with boot := { stage := 6 } } : State).mayQueue pf 0 = true ∧ fld (0x8F : W64) 4 4 ≤ 8
    ∧ sD.partEnabled 0 = true ∧ fld x 67 1 = 0 ∧ fld x 68 6 ≤ 47 ∧ fld x 74 6 = 0 ∧ fld x 84 12 = 0 ∧ fld x 113 15 = 0
    ∧ (fld x 64 1 = 1 ∧ fld x 0 64 % 2 ^ fld x 68 6 = 0)
    ∧ s.mayPart pf 0 = true ∧ fld (s.part 0).trace 0 1 = 0 ∧ fld (1 : BitVec 128) 0 1 = 1
    ∧ (let n : State := { s with groups := [] }
       n.mayPart pf 0 = true ∧ fld (n.part 0).trace 0 1 = 0 ∧ 4 ≤ fld (0x401 : BitVec 128) 8 5 ∧ fld (0x401 : BitVec 128) 0 1 = 1)
    ∧ (let u : State := { s with parts := [(0, { loadPart with sampler := 1 })], sampleIn := [(0, 1)] }
       let v : State := { u with tags := [(0, { gid := 0, issued := true })] }
       u.sampleDue (4 * 0 + 0) = true ∧ (u.groupsIn 0 0).find? (fun e => u.sampled e.2 && u.readyS e.2) = some (0, g0)
        ∧ Tbl.find v.tags (4 * 0 + 0) = some { gid := 0, issued := true } ∧ v.tagDone { gid := 0, issued := true } = true ∧ v.partOfCore 0 = some 0
        ∧ bit (v.part 0).sampler.toNat 0 = true)
    ∧ fld (s.die 7).reg 16 1 = 1 ∧ (({ s with dies := [(0, { stretch := 1 })] } : State).die 0).stretch = 1
    ∧ (({ s with dies := [(0, { halve := 1 })] } : State).die 0).halve = 1
    ∧ ((({ s with dies := [(0, { alarm := true })] } : State).die 0).alarm = true ∧ (({ s with dies := [(0, { alarm := true })] } : State).die 0).stretch % 2 = 0
      ∧ (({ s with dies := [(0, { alarm := true, stretch := 1 })] } : State).die 0).stretch = 1)
    ∧ (let h : State := { s with parts := [(0, { loadPart with halved := true, rcd := 3 * 2 ^ 0 })] }
       fld h.pkg 0 16 < (2601 : BitVec 16).toNat ∧ (h.part 0).tandems ≠ [] ∧ (h.part 0).halved = true)
    ∧ (2549 : BitVec 16).toNat + 50 < fld s.pkg 0 16 := by decide +kernel
/-- A partition in a state of its interface. -/
def sTdi (d : Tdi) : State := { (sIdle { loadPart with tdi := d }) with queues := [] }
def boots (b : Boot) (n : Nat) : State := { State.reset with boot := b, cycles := n }
theorem witness_SecurityAndBootEvents :
    ((hostm g0).maySeal pf 0 = true ∧ (63 : Nat) < 64 ∧ (hostm g0).mayPf pf = true ∧ (hostm g0).frozen 0 = false
      ∧ (hostm g0).rangeOk 0 (setFld (BitVec.ofNat 128 0x200000) 96 32 0) = true)
    ∧ ((sTdi .unlocked).served = true ∧ ((sTdi .unlocked).part 0).tdi = .unlocked ∧ (sTdi .unlocked).partEnabled 0 = false)
    ∧ (((sTdi .locked).part 0).tdi = .locked ∧ ((sTdi .run).part 0).tdi ≠ .unlocked ∧ ((sTdi .run).part 0).priv = [] ∧ (sTdi .run).frozen 0 = true
      ∧ (sTdi .run).queuesOf 0 = [] ∧ (sTdi .run).tasksOf 0 = [])
    ∧ ((boots {} 0).boot.retry < 4 ∧ (boots {} 0).boot.err ≠ 3 ∧ (boots {} 0).boot.stage = 0)
    ∧ ((boots { stage := 1 } 4200000000).boot.stage = 1 ∧ (boots { stage := 1 } 4200000000).boot.port = 0
      ∧ (boots { stage := 1 } 4200000000).boot.since + 2000000000 ≤ (boots { stage := 1 } 4200000000).stc)
    ∧ ((boots { stage := 2 } 0).boot.stage = 2 ∧ ([[], []] : List (List Byte)).length = 2)
    ∧ ((boots { stage := 3 } 0).boot.stage = 3 ∧ (boots { stage := 4 } 0).boot.stage = 4 ∧ 1 ≤ (boots { stage := 5 } 0).boot.stage
      ∧ (boots { stage := 5 } 0).boot.stage < 6 ∧ (boots { stage := 5 } 0).boot.stage = 5 ∧ (boots { stage := 5 } 0).boot.err = 0)
    ∧ (let s := boots { stage := 3, retry := 4 } 126000000000
       s.boot.stage ≠ 6 ∧ 4 ≤ s.boot.retry ∧ s.boot.since + 60000000000 ≤ s.stc) := by decide +kernel
/-- An enabled collective entry of two participants whose root is entry 3: its leaf, its root's port (31: on this package), its settings' LEN; SRC,
DST and TRIG are of device memory and the window. -/
def cR (leaf route len : Nat) : Coll :=
  { rcd := BitVec.ofNat 512 (1 + 2 * 2 ^ 7 + leaf * 2 ^ 15 + route * 2 ^ 23 + 3 * 2 ^ 28 + len * 2 ^ 64 + 0x1000 * 2 ^ 96 + 0x2000 * 2 ^ 160 + 64 * 2 ^ 224) }
def cs (l : List (Nat × Coll)) : State := { State.reset with coll := l }
/-- The port with one flit in its replay buffer. -/
def sent (nak : Option (BitVec 12)) (n : Nat) : State := { State.reset with ports := [(15, { replay := [4], nak := nak, retries := n })] }
theorem witness_LinkEvents :
    (((cs []).smio 15).up = true ∧ (0 : BitVec 12) = ((cs []).smio 15).rxSeq ∧ (1 : BitVec 12) ≠ ((cs []).smio 15).rxSeq)
    ∧ (∀ x ∈ [((none : Option (BitVec 12)), 0), (some 4, 14), (some 4, 15)], ((sent x.1 x.2).smio 15).up = true ∧ (4 : BitVec 12) ∈ ((sent x.1 x.2).smio 15).replay
        ∧ (5 : BitVec 12) ∉ ((sent x.1 x.2).smio 15).replay ∧ ((sent x.1 x.2).smio 15).nak = x.1 ∧ ((sent x.1 x.2).smio 15).retries = x.2)
    ∧ ((({ State.reset with ports := [(15, { up := false })] } : State).smio 15).up = false)
    ∧ (∀ l ∈ [[(3, cR 0 31 4)], [(3, cR 0 31 4), (5, cR 1 31 4)], [(3, cR 0 31 4), (5, { (cR 1 31 4) with started := true })],
          [(3, { (cR 0 31 4) with contrib := [(0, [1, 0, 0, 0])] }), (5, { (cR 1 31 4) with started := true })],
          [(3, cR 0 31 4), (5, { (cR 1 31 8) with started := true })]],
        let R := (cs l).collOf 3
        R.en = true ∧ R.leaf = 0 ∧ R.route = 31 ∧ R.result = none ∧ Tbl.find R.contrib 1 = none ∧ 1 < R.n ∧ (3, R) ∈ (cs l).locals 3 ∧ (cs l).llc = [])
    ∧ ((∀ e ∈ (cs [(3, cR 0 31 4)]).locals 3, e.2.leaf ≠ 1) ∧ (cR 0 31 4).agrees 3 0 2 4 = false ∧ (cR 0 31 4).agrees 0 0 2 4 = true
      ∧ (Tbl.put (cR 0 31 4).contrib 1 [0, 0, 0, 0]).length < (cR 0 31 4).n
      ∧ (Tbl.put ({ (cR 0 31 4) with contrib := [(0, [1, 0, 0, 0])] } : Coll).contrib 1 [0, 0, 0, 0]).length = (cR 0 31 4).n)
    ∧ (∀ st len, let P : Coll := { (cR 1 31 (if len then 4 else 8)) with started := st }
       ((cs [(3, cR 0 31 4), (5, P)]).locals 3).find? (fun e => e.2.leaf == 1) = some (5, P) ∧ (cR 0 31 4).agrees P.op P.ty P.n P.len = len
        ∧ ∀ j < P.len, regionOf (P.src + j) = .dram)
    ∧ (∀ x ∈ [(31, some ([1, 0, 0, 0] : List Byte)), (7, none)], let C : Coll := { (cR 1 x.1 4) with started := true, result := x.2 }
       (cs [(5, C)]).collOf 5 = C ∧ C.en = true ∧ C.started = true ∧ C.result = x.2 ∧ C.route = x.1 ∧ ∀ j < C.len, regionOf (C.dst + j) = .dram) := by
  refine ⟨by decide +kernel, by decide +kernel, by decide +kernel, by decide +kernel, by decide +kernel, ?_, by decide +kernel⟩
  intro st len; cases st <;> cases len <;> decide +kernel

end Sys2Proof.Tests
end

section
/-! SUPPORT. The step that takes an input of the agenda (log 5). -/

namespace Sys2Proof.Machine

/-- What follows an action is done in the state the action leaves. -/
@[simp] theorem onNext_next (s : State) (f : State → State) : onNext (.next s) f = .next (f s) := rfl

/-- An event that changes the state falls: its effects are those of `exec`, and a new epoch begins. -/
theorem State.fall_of_exec_changes {s t : State} {e : Instr} (hexec : exec e s = .next t) (hne : t ≠ s) :
    s.fall e = some (.next { t with epoch := t.epoch + 1 }) := by
  simp only [State.fall, hexec, if_neg hne]

/-- An event at the head of the agenda that can fall is the action, and the agenda goes on in the state it leaves. -/
theorem State.act_of_fall {s : State} {e : Instr} {r : List Instr} {res : Res} (hagenda : s.agenda = e :: r)
    (hev : isEvent e = true) (hfall : s.fall e = some res) :
    s.act = onNext res (fun t => { t with agenda := t.agenda.tail }) := by
  simp [State.act, hagenda, hev, hfall]

/-- A step is its action and then what ends every step. -/
theorem step_of_act {s t : State} (hact : s.act = .next t) : step s = .next (State.finishStep s.tick t) := by
  rw [step, hact, onNext_next]

/-- Settles O7: the event falls because it changes the state, so it is the action of the step, which then ends as every step does. -/
theorem stepTakesEvent : Obligations.StepTakesEvent := by
  unfold Obligations.StepTakesEvent
  intro s t e r hagenda hev hexec hne
  have hfall := State.fall_of_exec_changes hexec hne
  have hact := State.act_of_fall hagenda hev hfall
  exact step_of_act hact

end Sys2Proof.Machine
end

section
/-! SUPPORT. Special registers (spec/05 R126). -/

namespace Sys2Proof.Machine

/-- The class in force as a 64-bit number (R122). -/
theorem Group.ofNat_prio (g : Group) : BitVec.ofNat 64 g.prio = if g.crit = 0 then g.cls.setWidth 64 else 0 := by
  unfold Group.prio
  split
  · exact BitVec.ofNat_toNat 64 g.cls
  · rfl

/-- `srd` completes with what the model reads for its code (R126). -/
theorem srd_result {s : State} {g : Group} (here : s.group? s.cur = some g) (d : Reg) (c : BitVec 10) :
    ScalarResult s g (.srd d c) d (s.special s.cur g c.toNat) := by
  refine ScalarResult.intro ?_
  change execSrd d c s = _
  rw [execSrd, scalar_eq here, State.done_eq here]

/-- Settles O15: each of the 21 codes reads the register that R126 gives it. -/
theorem specialRegisterReads : Obligations.SpecialRegisterReads := by
  unfold Obligations.SpecialRegisterReads
  intro s g here d c v hcode
  suffices hv : s.special s.cur g c.toNat = v from hv ▸ srd_result here d c
  simp only [List.mem_cons, Prod.mk.injEq, List.not_mem_nil, or_false] at hcode
  rcases hcode with ⟨rfl, rfl⟩ | ⟨rfl, rfl⟩ | ⟨rfl, rfl⟩ | ⟨rfl, rfl⟩ | ⟨rfl, rfl⟩ | ⟨rfl, rfl⟩ | ⟨rfl, rfl⟩ | ⟨rfl, rfl⟩
    | ⟨rfl, rfl⟩ | ⟨rfl, rfl⟩ | ⟨rfl, rfl⟩ | ⟨rfl, rfl⟩ | ⟨rfl, rfl⟩ | ⟨rfl, rfl⟩ | ⟨rfl, rfl⟩ | ⟨rfl, rfl⟩ | ⟨rfl, rfl⟩
    | ⟨rfl, rfl⟩ | ⟨rfl, rfl⟩ | ⟨rfl, rfl⟩ | ⟨rfl, rfl⟩
  pick_goal 19 -- the class in force
  · exact g.ofNat_prio
  all_goals rfl

end Sys2Proof.Machine
end

section
/-! SUPPORT. Translation that finds a page not present: what it leaves, and that it finds the page not present again (spec/16 R318, R320, R324). -/

namespace Sys2Proof.Machine

/-- Nothing has changed but the non-leaf entries that the dies hold (R318, R320). -/
def OnlyWalks (s t : State) : Prop :=
  t = { s with dies := t.dies } ∧ ∀ d, t.die d = { s.die d with walks := (t.die d).walks }

namespace OnlyWalks

variable {s t u : State}

theorem refl (s : State) : OnlyWalks s s := ⟨rfl, fun _ => rfl⟩

theorem trans (h : OnlyWalks s t) (h' : OnlyWalks t u) : OnlyWalks s u := by
  refine ⟨h'.1.trans (congrArg (fun x : State => { x with dies := u.dies }) h.1), fun d => ?_⟩
  rw [h'.2 d, h.2 d]

theorem groups (h : OnlyWalks s t) : t.groups = s.groups := by rw [h.1]
theorem cores (h : OnlyWalks s t) : t.cores = s.cores := by rw [h.1]
theorem tick (h : OnlyWalks s t) : t.tick = s.tick := by rw [h.1]
theorem cur (h : OnlyWalks s t) : t.cur = s.cur := by rw [h.1]
theorem group (h : OnlyWalks s t) (k : Nat) : t.group? k = s.group? k := by rw [h.1]; rfl
theorem core (h : OnlyWalks s t) (c : Nat) : t.core c = s.core c := by rw [h.1]; rfl
theorem part (h : OnlyWalks s t) (p : Nat) : t.part p = s.part p := by rw [h.1]; rfl
theorem launchOf (h : OnlyWalks s t) (g : Group) : t.launchOf g = s.launchOf g := by rw [h.1]; rfl
theorem teamOf (h : OnlyWalks s t) (g : Group) : t.teamOf g = s.teamOf g := by rw [h.1]; rfl
theorem sideOf (h : OnlyWalks s t) (gid : Nat) (g : Group) : t.sideOf gid g = s.sideOf gid g := by rw [h.1]; rfl
theorem gwHit (h : OnlyWalks s t) (gid : Nat) (g : Group) (k va n : Nat) (rw : Rw) : t.gwHit gid g k va n rw = s.gwHit gid g k va n rw := by
  rw [h.1]; rfl
theorem cyc (h : OnlyWalks s t) (c : Nat) : t.cyc c = s.cyc c := by
  unfold State.cyc; rw [h.2, h.1]

end OnlyWalks

/-- A non-leaf entry put among those that a die holds. -/
theorem OnlyWalks.put (s : State) (die key : Nat) (e : W64) :
    OnlyWalks s (s.updDie die (fun d => { d with walks := Tbl.put d.walks key e })) := by
  refine ⟨rfl, fun d => ?_⟩
  by_cases hd : d = die
  · subst hd; simp [State.updDie]
  · simp [State.updDie, State.setDie_other _ _ _ _ hd]

theorem ofBytes_lt (bs : List Byte) : ofBytes bs < 256 ^ bs.length := by
  induction bs with
  | nil => simp [ofBytes]
  | cons b r ih => have := b.isLt; simp only [ofBytes, List.length_cons, Nat.pow_succ]; omega

@[simp] theorem State.portRead_length (s : State) (pa n : Nat) : (s.portRead pa n).length = n := by
  induction n generalizing pa with
  | zero => rfl
  | succ n ih => simp [State.portRead, ih]

/-- What a die holds is not read at a port. -/
theorem State.portRead_dies (s : State) (ds : Tbl Die) (pa n : Nat) : ({ s with dies := ds } : State).portRead pa n = s.portRead pa n := by
  induction n generalizing pa with
  | zero => rfl
  | succ n ih => rw [State.portRead, State.portRead, ih]; rfl

theorem State.pteAt_dies (s : State) (ds : Tbl Die) (hpa : Nat) : ({ s with dies := ds } : State).pteAt hpa = s.pteAt hpa := by
  unfold State.pteAt
  simp only [State.portRead_dies]
  rfl

theorem OnlyWalks.pteAt {s t : State} (h : OnlyWalks s t) (hpa : Nat) : t.pteAt hpa = s.pteAt hpa := by
  rw [h.1, State.pteAt_dies]

theorem State.pteAt_lt (s : State) (hpa : Nat) : s.pteAt hpa < 2 ^ 64 := by
  unfold State.pteAt
  split
  · exact Nat.lt_of_lt_of_eq (ofBytes_lt _) (by rw [State.portRead_length]; norm_num)
  · decide

/-- The keys of the levels of one walk are apart. -/
theorem walkKey_inj {asid va j k : Nat} (h : walkKey asid va j = walkKey asid va k) : j = k := by
  have below (i : Nat) : va % 2 ^ 57 / 2 ^ (12 + 9 * i) < 2 ^ 52 :=
    Nat.div_lt_of_lt_mul (by
      have : 2 ^ 12 ≤ 2 ^ (12 + 9 * i) := Nat.pow_le_pow_right (by decide) (by omega)
      omega)
  have hj := below j
  have hk := below k
  unfold walkKey at h
  generalize va % 2 ^ 57 / 2 ^ (12 + 9 * j) = x at h hj
  generalize va % 2 ^ 57 / 2 ^ (12 + 9 * k) = y at h hk
  omega

/-- The entry that a walk takes at one level: a non-leaf entry found in memory, now held, or one that every state which agrees on the
entry in memory, the entry held and the tick takes too, and leaves as it is. -/
theorem State.walkEntry_cases (s : State) (die asid va k a : Nat) :
    (isPointer (s.pteAt a) = true ∧ s.walkEntry die asid va k a = (s.pteAt a,
        s.updDie die (fun d => { d with walks := Tbl.put d.walks (walkKey asid va k) (BitVec.ofNat 64 (s.pteAt a)) })))
    ∨ ∃ e, ∀ u : State, u.pteAt a = s.pteAt a → u.tick = s.tick →
        Tbl.find (u.die die).walks (walkKey asid va k) = Tbl.find (s.die die).walks (walkKey asid va k) → u.walkEntry die asid va k a = (e, u) := by
  cases hf : Tbl.find (s.die die).walks (walkKey asid va k) with
  | none =>
    by_cases hp : isPointer (s.pteAt a) = true
    · exact .inl ⟨hp, by simp [State.walkEntry, hf, hp]⟩
    · exact .inr ⟨s.pteAt a, fun u hpte _ hfind => by simp [State.walkEntry, hfind, hpte, hp]⟩
  | some h =>
    by_cases he : h.toNat = s.pteAt a
    · exact .inr ⟨s.pteAt a, fun u hpte _ hfind => by simp [State.walkEntry, hfind, hpte, he]⟩
    by_cases hhit : Config.tlbHit s.tick (2 ^ 80 + walkKey asid va k) = true
    · exact .inr ⟨h.toNat, fun u hpte htick hfind => by simp [State.walkEntry, hfind, hpte, htick, he, hhit, -Nat.reducePow]⟩
    by_cases hp : isPointer (s.pteAt a) = true
    · exact .inl ⟨hp, by simp [State.walkEntry, hf, he, hhit, hp, -Nat.reducePow]⟩
    · exact .inr ⟨s.pteAt a, fun u hpte htick hfind => by simp [State.walkEntry, hfind, hpte, htick, he, hhit, hp, -Nat.reducePow]⟩

theorem State.walkEntry_onlyWalks (s : State) (die asid va k a : Nat) : OnlyWalks s (s.walkEntry die asid va k a).2 := by
  obtain ⟨_, hheld⟩ | ⟨e, hkept⟩ := s.walkEntry_cases die asid va k a
  · rw [hheld]; exact .put ..
  · rw [hkept s rfl rfl rfl]; exact .refl s

theorem State.walkEntry_find_other (s : State) (die asid va k a key : Nat) (h : key ≠ walkKey asid va k) :
    Tbl.find ((s.walkEntry die asid va k a).2.die die).walks key = Tbl.find (s.die die).walks key := by
  obtain ⟨_, hheld⟩ | ⟨e, hkept⟩ := s.walkEntry_cases die asid va k a
  · rw [hheld]; simp [State.updDie, Tbl.find_put_other _ _ _ _ h]
  · rw [hkept s rfl rfl rfl]

/-- The entry that a walk has found at a level is found there again, as long as what the die holds for that level stays. -/
theorem State.walkEntry_again {s u : State} {die asid va k a : Nat} (h : OnlyWalks (s.walkEntry die asid va k a).2 u)
    (hkey : Tbl.find (u.die die).walks (walkKey asid va k)
      = Tbl.find ((s.walkEntry die asid va k a).2.die die).walks (walkKey asid va k)) :
    u.walkEntry die asid va k a = ((s.walkEntry die asid va k a).1, u) := by
  have hu : OnlyWalks s u := (s.walkEntry_onlyWalks die asid va k a).trans h
  obtain ⟨_, hheld⟩ | ⟨e, hkept⟩ := s.walkEntry_cases die asid va k a
  · have hnum : (BitVec.ofNat 64 (s.pteAt a)).toNat = s.pteAt a := by
      rw [BitVec.toNat_ofNat, Nat.mod_eq_of_lt (s.pteAt_lt a)]
    rw [hheld] at hkey ⊢
    have hfind : Tbl.find (u.die die).walks (walkKey asid va k) = some (BitVec.ofNat 64 (s.pteAt a)) := by
      simpa [State.updDie] using hkey
    simp only [State.walkEntry, hfind, hu.pteAt, hnum, if_true]
  · rw [hkept s rfl rfl rfl] at hkey ⊢
    exact hkept u (hu.pteAt a) hu.tick hkey

/-- What a walk goes on with below a non-leaf entry: whether an entry was malformed so far (R318). -/
def walkBad (bad : Bool) (e : Nat) : Bool := bad || bits e 54 10 != 0 || bit e 4 || bits e 6 2 != 0

/-- The end of a walk at an entry of level k under which it does not go on (R318). -/
def walkEnd (bad : Bool) (k a e : Nat) : Walk :=
  if !bit e 0 then .missing
  else if isPointer e then .bad
  else if (bad || bits e 54 10 != 0) || (bit e 2 && !bit e 1) || bits e 10 44 % 2 ^ (9 * k) != 0 then .bad
  else .leaf e a k

/-- One level of a walk: it goes on under a non-leaf entry, but for the last level, and ends at any other. -/
theorem State.walk_succ (s : State) (die asid va : Nat) (bad : Bool) (table k : Nat) :
    s.walk die asid va bad table (k + 1) =
      let a := table + 8 * bits va (12 + 9 * k) 9
      let r := s.walkEntry die asid va k a
      if isPointer r.1 = true ∧ k ≠ 0 then r.2.walk die asid va (walkBad bad r.1) (bits r.1 10 44 * 4096) k
      else (walkEnd bad k a r.1, r.2) := by
  rw [State.walk]
  dsimp only
  generalize s.walkEntry die asid va k (table + 8 * bits va (12 + 9 * k) 9) = r
  by_cases hv : bit r.1 0 = true
  · by_cases hp : isPointer r.1 = true
    · by_cases hk : k = 0 <;> simp [walkEnd, walkBad, hv, hp, hk]
    · simp only [walkEnd, hv, hp, Bool.not_true, Bool.false_eq_true, if_false, false_and]
      split <;> rfl
  · have hp : isPointer r.1 = false := by simp [isPointer, hv]
    simp [walkEnd, hv, hp]

theorem State.walk_onlyWalks (s : State) (die asid va : Nat) (bad : Bool) (table k : Nat) :
    OnlyWalks s (s.walk die asid va bad table k).2 := by
  induction k generalizing s bad table with
  | zero => exact .refl s
  | succ k ih =>
    rw [State.walk_succ]
    dsimp only
    split
    · exact (s.walkEntry_onlyWalks ..).trans (ih ..)
    · exact s.walkEntry_onlyWalks ..

/-- A walk leaves what the die holds for the levels above it. -/
theorem State.walk_find_above (s : State) (die asid va : Nat) (bad : Bool) (table k j : Nat) (h : k ≤ j) :
    Tbl.find ((s.walk die asid va bad table k).2.die die).walks (walkKey asid va j) = Tbl.find (s.die die).walks (walkKey asid va j) := by
  induction k generalizing s bad table with
  | zero => rfl
  | succ k ih =>
    have other : walkKey asid va j ≠ walkKey asid va k := fun he => by have := walkKey_inj he; omega
    rw [State.walk_succ]
    dsimp only
    split
    · rw [ih _ _ _ (by omega), State.walkEntry_find_other _ _ _ _ _ _ _ other]
    · rw [State.walkEntry_find_other _ _ _ _ _ _ _ other]

/-- A walk made again finds what it found, and leaves the state as it is. -/
theorem State.walk_again (s : State) (die asid va : Nat) (bad : Bool) (table k : Nat) :
    (s.walk die asid va bad table k).2.walk die asid va bad table k = s.walk die asid va bad table k := by
  induction k generalizing s bad table with
  | zero => rfl
  | succ k ih =>
    rw [State.walk_succ s]
    dsimp only
    generalize hr : s.walkEntry die asid va k (table + 8 * bits va (12 + 9 * k) 9) = r
    split
    next hgo =>
      have again := State.walkEntry_again (s := s) (die := die) (asid := asid) (va := va) (k := k)
        (a := table + 8 * bits va (12 + 9 * k) 9)
        (u := (r.2.walk die asid va (walkBad bad r.1) (bits r.1 10 44 * 4096) k).2)
        (by rw [hr]; exact State.walk_onlyWalks ..) (by rw [hr]; exact State.walk_find_above _ _ _ _ _ _ _ _ (Nat.le_refl k))
      rw [hr] at again
      rw [State.walk_succ]
      dsimp only
      rw [again]
      dsimp only
      rw [if_pos hgo, ih]
    next hend =>
      have again := State.walkEntry_again (s := s) (die := die) (asid := asid) (va := va) (k := k)
        (a := table + 8 * bits va (12 + 9 * k) 9) (u := r.2) (by rw [hr]; exact .refl _) (by rw [hr])
      rw [hr] at again
      rw [State.walk_succ]
      dsimp only
      rw [again]
      dsimp only
      rw [if_neg hend]

/-- Outside host-assisted mode only a walk finds that a page is not present. -/
theorem State.walk_of_leafFor_missing {s u : State} {core : Nat} {l : Launch} {va need : Nat} {eng : Bool}
    (hmode : fld (s.part l.part).rcd 80 1 ≠ 1) (h : s.leafFor core l va need eng = (.missing, u)) :
    s.walk (dieOf core) l.asid.toNat va false l.root.toNat 5 = (.missing, u) := by
  simp only [State.leafFor, if_neg hmode] at h
  split at h
  · exact h
  · (repeat' split at h) <;> simp_all [Prod.ext_iff]

/-- Translation that finds no page finds none when it is asked again. -/
theorem State.leafFor_missing {s u : State} {core : Nat} {l : Launch} {va need : Nat} {eng : Bool}
    (h : s.leafFor core l va need eng = (.missing, u)) : OnlyWalks s u ∧ u.leafFor core l va need eng = (.missing, u) := by
  by_cases hmode : fld (s.part l.part).rcd 80 1 = 1
  · have hsame : s = u := by
      simp only [State.leafFor, if_pos hmode] at h
      split at h <;> simp_all
    exact hsame ▸ ⟨.refl s, hsame.symm ▸ h⟩
  · have hwalk := State.walk_of_leafFor_missing hmode h
    have only := s.walk_onlyWalks (dieOf core) l.asid.toNat va false l.root.toNat 5
    have again := s.walk_again (dieOf core) l.asid.toNat va false l.root.toNat 5
    rw [hwalk] at only again
    refine ⟨only, ?_⟩
    unfold State.leafFor at h ⊢
    rw [hwalk] at h
    rw [only.core, only.part, only.tick, again]
    simpa only [if_neg hmode] using h

/-- Neither of two outcomes is a given one, so their choice is not. -/
theorem fst_ite_ne {α β : Type} {c : Prop} [Decidable c] {x y : α × β} {a : α} (hx : x.1 ≠ a) (hy : y.1 ≠ a) : (if c then x else y).1 ≠ a := by
  split <;> assumption

/-- Translation finds a page not present for a canonical address without a leaf, and otherwise never. -/
theorem State.translate_missing_iff {s u : State} {core : Nat} {l : Launch} {va : Nat} {rw : Rw} {touch eng : Bool} :
    s.translate core l va rw touch eng = (.missing, u) ↔
      (bits va 56 8 = 0 ∨ bits va 56 8 = 0xFF) ∧ s.leafFor core l va (0x40 + if rw.writes then 0x80 else 0) eng = (.missing, u) := by
  unfold State.translate
  dsimp only
  by_cases htop : (bits va 56 8 != 0 && bits va 56 8 != 0xFF) = true
  · rw [if_pos htop]
    simp at htop ⊢
    omega
  · rw [if_neg htop]
    have hcanon : bits va 56 8 = 0 ∨ bits va 56 8 = 0xFF := by simp at htop; omega
    generalize s.leafFor core l va (0x40 + if rw.writes then 0x80 else 0) eng = r
    obtain ⟨w, v⟩ := r
    cases w with
    | missing => simp [hcanon]
    | bad => simp
    | asked => simp
    | leaf e a k =>
      refine ⟨fun h => absurd (congrArg Prod.fst h) ?_, fun h => by simp at h⟩
      refine fst_ite_ne nofun ?_
      cases v.place (leafAddr e k va) with
      | none => nofun
      | some pa =>
        exact fst_ite_ne nofun (fst_ite_ne nofun (fst_ite_ne nofun (fst_ite_ne nofun (fst_ite_ne nofun (fst_ite_ne nofun nofun)))))

/-- An access that finds its page not present in its checks finds it not present when it is about to be performed (R318, R324). -/
theorem State.locate_missing {s u : State} {gid : Nat} {g : Group} {va n : Nat} {rw : Rw}
    (h : s.locate gid g va n rw false = (.missing, u)) : OnlyWalks s u ∧ u.locate gid g va n rw true = (.missing, u) := by
  unfold State.locate at h ⊢
  split at h
  next hap =>
    exfalso
    simp only [scratchLoc, Prod.mk.injEq] at h
    obtain ⟨h, -⟩ := h
    (repeat' split at h) <;> cases h
  next hap =>
    rw [if_neg hap]
    split at h
    next hwin =>
      obtain rfl : s = u := (Prod.mk.inj h).2
      exact ⟨.refl s, by rw [if_pos hwin, h]⟩
    next hwin =>
      obtain ⟨hcanon, hleaf⟩ := State.translate_missing_iff.1 h
      obtain ⟨only, again⟩ := State.leafFor_missing hleaf
      refine ⟨only, ?_⟩
      rw [if_neg hwin, only.launchOf]
      exact State.translate_missing_iff.2 ⟨hcanon, again⟩

end Sys2Proof.Machine
end

section
/-! SUPPORT. Records that the G9 writes, page requests, and entries of the side log (spec/16 R324, R326). -/

namespace Sys2Proof.Machine

/-- Nothing has changed but the bytes of memory with what follows a write of them, and the partitions. -/
def OnlyRecords (s t : State) : Prop :=
  t = { s with mem := t.mem, llc := t.llc, wrote := t.wrote, badLines := t.badLines, parts := t.parts }

namespace OnlyRecords

variable {s t u : State}

theorem refl (s : State) : OnlyRecords s s := rfl
theorem trans (h : OnlyRecords s t) (h' : OnlyRecords t u) : OnlyRecords s u :=
  Eq.trans h' (congrArg (fun x : State => { x with mem := u.mem, llc := u.llc, wrote := u.wrote, badLines := u.badLines, parts := u.parts }) h)

theorem groups (h : OnlyRecords s t) : t.groups = s.groups := by rw [h]
theorem cores (h : OnlyRecords s t) : t.cores = s.cores := by rw [h]
theorem teams (h : OnlyRecords s t) : t.teams = s.teams := by rw [h]
theorem cur (h : OnlyRecords s t) : t.cur = s.cur := by rw [h]
theorem group (h : OnlyRecords s t) (k : Nat) : t.group? k = s.group? k := by rw [h]; rfl
theorem core (h : OnlyRecords s t) (c : Nat) : t.core c = s.core c := by rw [h]; rfl
theorem cyc (h : OnlyRecords s t) (c : Nat) : t.cyc c = s.cyc c := by rw [h]; rfl
theorem launchOf (h : OnlyRecords s t) (g : Group) : t.launchOf g = s.launchOf g := by rw [h]; rfl

end OnlyRecords

/-- A byte written through at a port that is not on chip changes memory alone. -/
theorem State.through_onlyRecords (s : State) (pa : Nat) (b : Byte) (h : ∀ c o, regionOf pa ≠ .onchip c o) :
    OnlyRecords s (s.through pa b) := by
  unfold State.through State.portSet
  cases hr : regionOf pa with
  | dram => dsimp only; split <;> rfl
  | onchip c o => exact absurd hr (h c o)
  | window o => rfl
  | host a => rfl
  | remote a => rfl
  | none => rfl

theorem State.throughAll_onlyRecords (s : State) (pa : Nat) (bs : List Byte)
    (h : ∀ i < bs.length, ∀ c o, regionOf (pa + i) ≠ .onchip c o) : OnlyRecords s (s.throughAll pa bs) := by
  induction bs generalizing s pa with
  | nil => exact .refl s
  | cons b r ih =>
    refine (s.through_onlyRecords pa b (h 0 (by simp))).trans (ih _ _ fun i hi => ?_)
    rw [Nat.add_assoc, Nat.add_comm 1]
    exact h (i + 1) (by simpa using hi)

/-- A record of the G9 never stands on chip (R344, R369). -/
theorem State.recordable_not_onchip {s : State} {p pa : Nat} (h : s.recordable p pa = true) (c o : Nat) : regionOf pa ≠ .onchip c o := by
  intro hr
  simp [State.recordable, hr] at h

theorem State.record_onlyRecords (s : State) (p pa n v : Nat) : OnlyRecords s (s.record p pa n v) := by
  unfold State.record
  split
  next hall =>
    have hthrough : OnlyRecords s (s.throughAll pa (toBytes n v)) := s.throughAll_onlyRecords pa _ fun i hi =>
      State.recordable_not_onchip (List.all_eq_true.1 hall i (by simpa using hi))
    refine hthrough.trans ?_
    unfold State.heal State.note
    split <;> rfl
  next => exact .refl s

theorem State.requestPage_onlyRecords (s : State) (core ctx : Nat) (l : Launch) (va : Nat) (rw : Rw) (eng : Bool) :
    OnlyRecords s (s.requestPage core ctx l va rw eng) := by
  unfold State.requestPage
  dsimp only
  split
  · exact .refl s
  · split
    · rfl
    · exact (s.record_onlyRecords ..).trans rfl

/-- The page of an address is asked for, but one of a team window, which no request asks for (R22, R324). -/
def PageAsked (t : State) (l : Launch) (va : Nat) : Prop :=
  inTeamWin va = false → ∃ r ∈ (t.part l.part).reqs, r.va = BitVec.ofNat 64 (va / 4096 * 4096) ∧ r.asid = l.asid

theorem State.requestPage_asked (s : State) (core ctx : Nat) (l : Launch) (va : Nat) (rw : Rw) (eng : Bool) :
    PageAsked (s.requestPage core ctx l va rw eng) l va := by
  intro _
  unfold State.requestPage
  dsimp only
  split
  next hany =>
    obtain ⟨r, hr, hmatch⟩ := List.any_eq_true.1 hany
    simp only [Bool.and_eq_true, beq_iff_eq] at hmatch
    exact ⟨r, hr, hmatch.1⟩
  next =>
    split <;>
      exact ⟨_, by rw [State.setPart_self]; exact List.mem_append_right _ (List.mem_singleton_self _), rfl, rfl⟩

theorem State.askPage_onlyRecords (s : State) (gid : Nat) (g : Group) (va : Nat) (rw : Rw) : OnlyRecords s (s.askPage gid g va rw) := by
  unfold State.askPage
  split
  · exact .refl s
  · exact s.requestPage_onlyRecords ..

theorem State.askPage_asked (s : State) (gid : Nat) (g : Group) (va : Nat) (rw : Rw) : PageAsked (s.askPage gid g va rw) (s.launchOf g) va := by
  intro hwin
  unfold State.askPage
  rw [if_neg (by simp [hwin])]
  exact s.requestPage_asked _ _ _ _ _ _ hwin

/-! The bytes of a side-log entry. -/

theorem byteMask_getLsbD {off n i : Nat} (hi : i < n) (hfit : off + n ≤ 64) : (byteMask off n).getLsbD (off + i) = true := by
  rw [byteMask, BitVec.getLsbD_ofNat, Nat.testBit_mul_two_pow, Nat.testBit_two_pow_sub_one]
  simp; omega

/-- Byte i of a number, of which n bytes are kept. -/
theorem byte_mod_pow {v n i : Nat} (hi : i < n) : v % 256 ^ n / 256 ^ i % 256 = v / 256 ^ i % 256 := by
  obtain ⟨k, rfl⟩ : ∃ k, n = i + (k + 1) := ⟨n - i - 1, by omega⟩
  rw [Nat.pow_add, Nat.mod_mul_right_div_self, Nat.mod_mod_of_dvd _ (dvd_pow_self 256 (Nat.succ_ne_zero k))]

/-- The bytes of a number put into an empty line read back (R4). -/
theorem lineByte_lineSet_zero {v off n i : Nat} (hi : i < n) (hfit : off + n ≤ 64) :
    lineByte (lineSet 0 off (toBytes n v)) (off + i) = BitVec.ofNat 8 (v / 256 ^ i) := by
  have hpow (k : Nat) : 2 ^ (8 * k) = 256 ^ k := by rw [Nat.pow_mul]
  have hx : v % 256 ^ n < 256 ^ n := Nat.mod_lt _ (by positivity)
  have hline : v % 256 ^ n * 256 ^ off < 2 ^ (8 * (off + n)) := by
    rw [hpow, Nat.add_comm, Nat.pow_add]
    exact Nat.mul_lt_mul_of_pos_right hx (by positivity)
  have hwidth : 8 * (off + n) ≤ 512 := by omega
  apply BitVec.eq_of_toNat_eq
  simp only [lineByte, lineSet, setFld, setBits, bits, toBytes_length, ofBytes_toBytes, hpow, BitVec.ofNat_eq_ofNat,
    BitVec.toNat_ofNat, Nat.zero_div, Nat.zero_mod, Nat.zero_mul, Nat.sub_zero, Nat.zero_add, Nat.mod_mod]
  rw [Nat.mod_eq_of_lt (hline.trans_le (Nat.pow_le_pow_right (by decide) hwidth)), Nat.pow_add, ← Nat.div_div_eq_div_mul,
    Nat.mul_div_cancel _ (by positivity)]
  exact byte_mod_pow hi

/-- An aligned access of at most eight bytes lies within a line (R171). -/
theorem aligned_fits {va n : Nat} (hn : n = 1 ∨ n = 2 ∨ n = 4 ∨ n = 8) (h : va % n = 0) : va % 64 + n ≤ 64 := by
  rcases hn with rfl | rfl | rfl | rfl <;> omega

/-- An access has retired into the side log of its core, which was empty, and its page is asked for: its group is as it was (R326). -/
structure InSideLog (s t : State) (gid : Nat) (g : Group) (va n v : Nat) (op : Option Nat) : Prop where
  here : t.group? gid = some g
  teams : t.teams = s.teams
  log : ∃ e, (t.core (coreOf gid)).sideLog = [e] ∧ Retired e (s.launchOf g).asid (g.issuer gid) va n v op
  asked : PageAsked t (s.launchOf g) va

/-- A group with no store in flight puts its access into the side log at once (R175, R232). -/
theorem State.sideLog_settled {s : State} {gid : Nat} {g : Group} (here : s.group? gid = some g) (settled : g.posted = [])
    (va : Nat) (bs : List Byte) (op : Option Nat) (scope cmp : Nat) (rel : Option Nat) (path : Nat) :
    s.sideLog gid g va bs op scope cmp rel path = s.sidePut gid g va bs op scope cmp rel path := by
  simp [State.sideLog, here, settled, State.performAll]

/-- The first entry of a side log (R326). -/
theorem State.sidePut_first {s : State} {gid : Nat} {g : Group} (empty : (s.core (coreOf gid)).sideLog = []) {va n : Nat} (v : Nat)
    (hva : va < 2 ^ 64) (hfit : va % 64 + n ≤ 64) (op : Option Nat) (scope cmp : Nat) (rel : Option Nat) (path : Nat) :
    ∃ e, s.sidePut gid g va (toBytes n v) op scope cmp rel path
        = .ok () (s.setCore (coreOf gid) { s.core (coreOf gid) with sideLog := [e] })
      ∧ Retired e (s.launchOf g).asid (g.issuer gid) va n v op := by
  unfold State.sidePut
  simp only [empty, List.any_nil, List.length_nil, List.nil_append, Bool.false_eq_true, if_false, toBytes_length]
  refine ⟨_, rfl, ?_, rfl, rfl, rfl, fun i hi => ?_, fun hop i hi => ?_, fun hop => ?_⟩
  · rw [BitVec.toNat_ofNat]; omega
  · simpa using byteMask_getLsbD hi hfit
  · subst hop
    exact lineByte_lineSet_zero hi hfit
  · obtain ⟨o, rfl⟩ := Option.ne_none_iff_exists'.1 hop
    exact ⟨_, List.mem_singleton_self _, rfl, by rw [ofBytes_toBytes]⟩

/-- A store or reduction of a group with nothing in flight, on a page that is not present, is the first of its core's side log (R326). -/
theorem State.askPage_sideLog {s : State} {gid : Nat} {g : Group} (here : s.group? gid = some g) (settled : g.posted = [])
    (empty : (s.core (coreOf gid)).sideLog = []) {va n : Nat} (v : Nat) (hva : va < 2 ^ 64) (hfit : va % 64 + n ≤ 64) (rw : Rw)
    (op : Option Nat) (scope cmp : Nat) (rel : Option Nat) (path : Nat) :
    ∃ t, (s.askPage gid g va rw).sideLog gid g va (toBytes n v) op scope cmp rel path = .ok () t
      ∧ InSideLog s t gid g va n v op := by
  have only := s.askPage_onlyRecords gid g va rw
  have asked := s.askPage_asked gid g va rw
  generalize s.askPage gid g va rw = u at only asked
  rw [← only.group] at here
  rw [← only.core] at empty
  obtain ⟨e, hput, hret⟩ := State.sidePut_first empty (g := g) v hva hfit op scope cmp rel path
  refine ⟨_, (State.sideLog_settled here settled ..).trans hput, here, only.teams, ⟨e, ?_, only.launchOf g ▸ hret⟩, asked⟩
  rw [State.setCore_self]

end Sys2Proof.Machine
end

section
/-! SUPPORT. Scalar accesses (spec/07, spec/11): what the checks answer, and what each form does then. -/

namespace Sys2Proof.Machine

/-- A release that finds nothing to be performed goes on at once (R247). -/
theorem State.relBefore_atOnce {s : State} {g : Group} {o : Order} {sc : Scope} (here : s.group? s.cur = some g)
    (settled : g.posted = []) (free : ReleasesAtOnce s g o sc) : s.relBefore s.cur g o sc = .ok () s := by
  unfold State.relBefore
  split
  next hrel =>
    obtain ⟨hside, hver⟩ := free hrel
    unfold State.releaseWait
    rw [drain_none here settled]
    refine if_neg ?_
    simp only [Bool.or_eq_true, Bool.and_eq_true, decide_eq_true_eq]
    rintro (⟨h1, hentries⟩ | ⟨h3, hheld⟩)
    · simp [hside h1] at hentries
    · simp [hver h3] at hheld
  next => rfl

/-- A task without a version publishes nothing (R337). -/
theorem State.publishAt_none {t : State} {g : Group} {sc : Scope} (h : 3 ≤ sc.code → (t.teamOf g).version = none) : t.publishAt g sc = t := by
  unfold State.publishAt
  split
  next h3 => rw [h h3]
  next => rfl

/-- What follows an access leaves a side log and a request for a page as they are (R247, R337). -/
theorem InSideLog.ordAfter {s t : State} {g : Group} {gid va n v : Nat} {op : Option Nat} {o : Order} {sc : Scope}
    (h : InSideLog s t gid g va n v op) (free : ReleasesAtOnce s g o sc) : InSideLog s (t.ordAfter gid g o sc) gid g va n v op := by
  have hteam : t.teamOf g = s.teamOf g := by simp only [State.teamOf, State.team?, h.teams]
  have hpub : (if (o.releases && (t.sideOf gid g).isEmpty) = true then t.publishAt g sc else t) = t := by
    split
    next hrel =>
      refine State.publishAt_none fun h3 => ?_
      rw [hteam]
      exact (free (Bool.and_eq_true _ _ ▸ hrel).1).2 h3
    next => rfl
  unfold State.ordAfter
  dsimp only
  rw [hpub]
  unfold State.acquire
  split
  · split
    · exact ⟨h.here, h.teams, h.log, h.asked⟩
    · exact h
  · exact h

/-- An ordered access without a return that retires: a release waits before, and publishes after (R247, R326). -/
def retireOrdered (o : Order) (sc : Scope) (put : Nat → Group → Nat → State → Rc Unit) (gid : Nat) (g : Group) (va : Nat) (s : State) : Rc Unit :=
  match s.relBefore gid g o sc with
  | .ok _ s => match put gid g va s with
    | .ok _ s => .ok () (s.ordAfter gid g o sc)
    | .flt c s => .flt c s
    | .hold s => .hold s
  | .flt c s => .flt c s
  | .hold s => .hold s

theorem retireOrdered_inSideLog {s t : State} {g : Group} {o : Order} {sc : Scope} {put : Nat → Group → Nat → State → Rc Unit}
    {va n v : Nat} {op : Option Nat} (here : s.group? s.cur = some g) (settled : g.posted = []) (free : ReleasesAtOnce s g o sc)
    (hput : put s.cur g va s = .ok () t) (h : InSideLog s t s.cur g va n v op) :
    ∃ t', retireOrdered o sc put s.cur g va s = .ok () t' ∧ InSideLog s t' s.cur g va n v op := by
  refine ⟨_, ?_, h.ordAfter free⟩
  unfold retireOrdered
  rw [State.relBefore_atOnce here settled free]
  dsimp only
  rw [hput]

/-- The `ssto` frame with its store named. -/
theorem execSsto_eq (a b : Reg) (o : Order) (sc : Scope) (w : Bool) (s : State) : execSsto a b o sc w s =
    ordered s a sc w .wr
      (some (retireOrdered o sc fun gid g va s => s.store gid g 0 va (toBytes (wBytes w) (g.reg b).toNat) (carried o sc)))
      (fun gid g va s => (retireOrdered o sc (fun gid g va s => s.store gid g 0 va (toBytes (wBytes w) (g.reg b).toNat) (carried o sc))
        gid g va s).intoS gid g (BitVec.ofNat 64 va) fun _ s => .next (s.done gid id)) := rfl

/-- The reductions retire an entry of their operation (R326). -/
theorem sred_eq (j : Nat) (a b : Reg) (o : Order) (sc : Scope) (w : Bool) (s : State) : ∃ k, sred j a b o sc w s =
    ordered s a sc w .amo (some (retireOrdered o sc fun gid g va s =>
      (s.askPage gid g va .amo).sideLog gid g va (toBytes (wBytes w) (g.reg b).toNat) (some j) sc.code 0 (carried o sc) 0)) k := by
  unfold sred
  exact ⟨_, rfl⟩

theorem samo_eq (j : Nat) (d a b : Reg) (o : Order) (sc : Scope) (w : Bool) (s : State) :
    ∃ k, samo j d a b o sc w s = ordered s a sc w .amo none k := by
  unfold samo
  exact ⟨_, rfl⟩

theorem exec_scas_eq (d a b : Reg) (o : Order) (sc : Scope) (w : Bool) (s : State) :
    ∃ k, exec (.scas d a b o sc w) s = ordered s a sc w .amo none k := by
  change ∃ k, execScas d a b o sc w s = ordered s a sc w .amo none k
  unfold execScas
  exact ⟨_, rfl⟩

theorem exec_sldo_eq (d a : Reg) (o : Order) (sc : Scope) (w : Bool) (s : State) :
    ∃ k, exec (.sldo d a o sc w) s = ordered s a sc w .rd none k := by
  change ∃ k, execSldo d a o sc w s = ordered s a sc w .rd none k
  unfold execSldo
  exact ⟨_, rfl⟩

/-! What the checks answer (R176, R243). -/

/-- What the checks of an access answer by where its address leads, where no re-mapped window was refused to it (R176, R243). -/
def State.chkOf (s : State) (gid : Nat) (g : Group) (k va n : Nat) (rw : Rw) : Loc → Chk
  | .flt c => .flt c
  | .hold => .hold
  | .missing => if rw = .wr then (if s.gwHit gid g k va n rw then .flt .watch else .missing) else .missing
  | .moving => if s.gwHit gid g k va n rw then .flt .watch else .moving
  | .port _ => if s.gwHit gid g k va n rw then .flt .watch else .pass

section
variable {s u : State} {gid : Nat} {g : Group} {k va n : Nat} {rw : Rw}

theorem State.check_refused (hwin : inTeamWin va = true) (hrefused : g.refusedTo k va = true) :
    s.check gid g k va n rw = (.flt .protect, s) := by
  unfold State.check
  rw [hwin, hrefused]
  rfl

theorem State.check_of_locate (h : inTeamWin va = true → g.refusedTo k va = false) {l : Loc}
    (hl : s.locate gid g va n rw false = (l, u)) : s.check gid g k va n rw = (s.chkOf gid g k va n rw l, u) := by
  have hopen : ¬(inTeamWin va && g.refusedTo k va) = true := by
    cases hw : inTeamWin va with
    | false => simp
    | true => simp [h hw]
  simp only [State.check, if_neg hopen, hl]
  cases l with
  | missing => rfl
  | port pa => rfl
  | flt c => rfl
  | moving => rfl
  | hold => rfl

end

/-! The frame of an ordered access. -/

section
variable {s u : State} {g : Group} {a : Reg} {sc : Scope} {w : Bool} {rw : Rw} {side : Option (Nat → Group → Nat → State → Rc Unit)}
  {k : Nat → Group → Nat → State → Res}

theorem ordered_align (here : s.group? s.cur = some g) (alone : g.orun = none) (h : (g.reg a).toNat % wBytes w ≠ 0) :
    ordered s a sc w rw side k = s.trapS s.cur g .align (g.reg a) := by
  rw [ordered, scalar_eq here]
  simp [overWide, alone, h]

theorem ordered_fault (here : s.group? s.cur = some g) (alone : g.orun = none) (h : (g.reg a).toNat % wBytes w = 0)
    (room : s.tableRoom s.cur 0 1 = true) {c : Cause} (hc : s.check s.cur g 0 (g.reg a).toNat (wBytes w) rw = (.flt c, u)) :
    ordered s a sc w rw side k
      = (if c = .watch then u.gwCount s.cur g (g.reg a).toNat (wBytes w) rw else u).trapS s.cur g c (g.reg a) := by
  rw [ordered, scalar_eq here]
  simp [overWide, alone, h, room, hc]

theorem ordered_waits (here : s.group? s.cur = some g) (alone : g.orun = none) (h : (g.reg a).toNat % wBytes w = 0)
    (room : s.tableRoom s.cur 0 1 = true) (hc : s.check s.cur g 0 (g.reg a).toNat (wBytes w) rw = (.missing, u)) :
    ordered s a sc w rw none k = if g.refusedTo 0 (g.reg a).toNat then u.trapS s.cur g .pageload (g.reg a)
      else (u.holdOnPage s.cur g 0 (g.reg a).toNat rw).stallS := by
  rw [ordered, scalar_eq here]
  simp [overWide, alone, h, room, hc]

theorem ordered_retires (here : s.group? s.cur = some g) (alone : g.orun = none) (h : (g.reg a).toNat % wBytes w = 0)
    (room : s.tableRoom s.cur 0 1 = true) (hc : s.check s.cur g 0 (g.reg a).toNat (wBytes w) rw = (.missing, u))
    (unwatched : u.gwHit s.cur g 0 (g.reg a).toNat (wBytes w) rw = false) {f : Nat → Group → Nat → State → Rc Unit} {t : State}
    (hf : f s.cur g (g.reg a).toNat u = .ok () t) : ordered s a sc w rw (some f) k = .next (t.done s.cur id) := by
  rw [ordered, scalar_eq here]
  simp [overWide, alone, h, room, hc, unwatched, hf]

end

/-! Stores on a page that is not present. -/

/-- Whether an instruction finds room in the memory request table goes by the groups, the cores and their cycles (R237). -/
theorem State.tableRoom_congr {s t : State} (hgroups : t.groups = s.groups) (hcores : t.cores = s.cores) (hcyc : ∀ c, t.cyc c = s.cyc c)
    (gid k n : Nat) : t.tableRoom gid k n = s.tableRoom gid k n := by
  simp only [State.tableRoom, State.tableFree, State.tableUsed, State.groupsOn, State.group?, State.core, hgroups, hcores, hcyc]
  rfl

section
variable {s : State} {gid : Nat} {g : Group} {va n : Nat}

theorem State.post_missing (here : s.group? gid = some g) (alone : g.orun = none) (settled : g.posted = [])
    (empty : (s.core (coreOf gid)).sideLog = []) (v : Nat) (hva : va < 2 ^ 64) (hfit : va % 64 + n ≤ 64)
    (room : s.tableRoom gid 0 1 = true) (hl : s.locate gid g va n .wr true = (.missing, s)) :
    ∃ t, s.post gid g va (toBytes n v) = .ok () t ∧ InSideLog s t gid g va n v none := by
  obtain ⟨t, hlog, hin⟩ := State.askPage_sideLog here settled empty v hva hfit .wr none 0 0 none 0
  have only := s.askPage_onlyRecords gid g va .wr
  have room' : (s.askPage gid g va .wr).tableRoom gid 0 1 = true :=
    (State.tableRoom_congr only.groups only.cores only.cyc ..).trans room
  refine ⟨t, ?_, hin⟩
  simp [State.post, hl, alone, room', hlog]

theorem State.store_missing (here : s.group? gid = some g) (alone : g.orun = none) (settled : g.posted = [])
    (empty : (s.core (coreOf gid)).sideLog = []) (k v : Nat) (hva : va < 2 ^ 64) (hfit : va % 64 + n ≤ 64) (rel : Option Nat)
    (hl : s.locate gid g va n .wr true = (.missing, s)) :
    ∃ t, s.store gid g k va (toBytes n v) rel = .ok () t ∧ InSideLog s t gid g va n v none := by
  obtain ⟨t, hlog, hin⟩ := State.askPage_sideLog here settled empty v hva hfit .wr none 0 0 rel (g.streamId k)
  refine ⟨t, ?_, hin⟩
  simp [State.store, hl, alone, hlog]

end

/-! The forms of a scalar access. -/

/-- What every scalar access of a group does on each answer of its checks: it stops, and on a page that is not present it waits, or
retires into the side log (R176, R325, R326). -/
structure ScalarAccess (s : State) (g : Group) (i : Instr) (ea : W64) (n : Nat) (rw : Rw) (ret : Bool) (val : W64) (op : Option Nat)
    (free : Prop) : Prop where
  align : ea.toNat % n ≠ 0 → exec i s = s.trapS s.cur g .align ea
  faults : ea.toNat % n = 0 → s.tableRoom s.cur 0 1 = true → ∀ c u, s.check s.cur g 0 ea.toNat n rw = (.flt c, u) →
    exec i s = (if c = .watch then u.gwCount s.cur g ea.toNat n rw else u).trapS s.cur g c ea
  waits : ret = true → rw ≠ .wr ∧ (ea.toNat % n = 0 → s.tableRoom s.cur 0 1 = true →
    ∀ u, s.check s.cur g 0 ea.toNat n rw = (.missing, u) → exec i s =
      if g.refusedTo 0 ea.toNat then u.trapS s.cur g .pageload ea else (u.holdOnPage s.cur g 0 ea.toNat rw).stallS)
  retires : ret = false → ea.toNat % n = 0 → s.tableRoom s.cur 0 1 = true → ∀ u, s.check s.cur g 0 ea.toNat n rw = (.missing, u) →
    OnlyWalks s u → u.locate s.cur g ea.toNat n rw true = (.missing, u) → s.gwHit s.cur g 0 ea.toNat n rw = false → g.posted = [] →
    (s.core (coreOf s.cur)).sideLog = [] → free →
    ∃ t, exec i s = .next (t.done s.cur id) ∧ InSideLog u t s.cur g ea.toNat n val.toNat op

section
variable {s : State} {g : Group}

theorem sizeBytes_cases (sz : Size) : sz.bytes = 1 ∨ sz.bytes = 2 ∨ sz.bytes = 4 ∨ sz.bytes = 8 := by cases sz <;> decide

theorem wBytes_cases (w : Bool) : wBytes w = 1 ∨ wBytes w = 2 ∨ wBytes w = 4 ∨ wBytes w = 8 := by cases w <;> decide

theorem sld_access (here : s.group? s.cur = some g) (d a : Reg) (sz : Size) (bp : Bool) (off : BitVec 12) :
    ScalarAccess s g (.sld d a sz bp off) (g.reg a + off.signExtend 64) sz.bytes .rd true (g.reg d) none True where
  align h := by
    change execSld d a sz bp off s = _
    rw [execSld, scalar_eq here]
    exact if_pos h
  faults h room c u hc := by
    change execSld d a sz bp off s = _
    rw [execSld, scalar_eq here]
    simp only [effAddr, ne_eq, h, room, hc, not_true, if_false, Bool.not_true, Bool.false_eq_true]
  waits _ := ⟨nofun, fun h room u hc => by
    change execSld d a sz bp off s = _
    rw [execSld, scalar_eq here]
    simp only [effAddr, ne_eq, h, room, hc, not_true, if_false, Bool.not_true, Bool.false_eq_true]
    rfl⟩
  retires := nofun

theorem sst_access (here : s.group? s.cur = some g) (alone : g.orun = none) (d a : Reg) (sz : Size) (off : BitVec 12) :
    ScalarAccess s g (.sst d a sz off) (g.reg a + off.signExtend 64) sz.bytes .wr false (g.reg d) none True where
  align h := by
    change execSst d a sz off s = _
    rw [execSst, scalar_eq here]
    exact if_pos h
  faults h _ c u hc := by
    change execSst d a sz off s = _
    rw [execSst, scalar_eq here]
    simp only [effAddr, ne_eq, h, hc, not_true, if_false]
  waits := nofun
  retires _ h room u hc only hl _ settled empty _ := by
    have room' : u.tableRoom s.cur 0 1 = true := (State.tableRoom_congr only.groups only.cores only.cyc ..).trans room
    obtain ⟨t, hpost, hin⟩ := State.post_missing ((only.group _).trans here) alone settled ((only.core _).symm ▸ empty) (g.reg d).toNat
      (g.reg a + off.signExtend 64).isLt (aligned_fits (sizeBytes_cases sz) h) room' hl
    refine ⟨t, ?_, hin⟩
    change execSst d a sz off s = _
    rw [execSst, scalar_eq here]
    simp only [effAddr, ne_eq, h, hc, hpost, not_true, if_false, Rc.intoS]

/-- An ordered access that returns a value or waits for one (R244, R246, R249). -/
theorem returning_access (here : s.group? s.cur = some g) (alone : g.orun = none) {i : Instr} {a : Reg} {sc : Scope} {w : Bool} {rw : Rw}
    {k : Nat → Group → Nat → State → Res} (hexec : exec i s = ordered s a sc w rw none k) (hrw : rw ≠ .wr) (val : W64) (op : Option Nat)
    (free : Prop) : ScalarAccess s g i (g.reg a) (wBytes w) rw true val op free where
  align h := hexec.trans (ordered_align here alone h)
  faults h room _ _ hc := hexec.trans (ordered_fault here alone h room hc)
  waits _ := ⟨hrw, fun h room _ hc => hexec.trans (ordered_waits here alone h room hc)⟩
  retires := nofun

theorem samo_access (here : s.group? s.cur = some g) (alone : g.orun = none) {i : Instr} {j : Nat} {d a b : Reg} {o : Order} {sc : Scope}
    {w : Bool} (hexec : exec i s = samo j d a b o sc w s) (val : W64) (op : Option Nat) (free : Prop) :
    ScalarAccess s g i (g.reg a) (wBytes w) .amo true val op free := by
  obtain ⟨k, hk⟩ := samo_eq j d a b o sc w s
  exact returning_access here alone (hexec.trans hk) (by decide) val op free

/-- An ordered access that returns nothing, of which what it puts into the side log is known (R326). -/
theorem retiring_access (here : s.group? s.cur = some g) (alone : g.orun = none) {i : Instr} {a b : Reg} {o : Order} {sc : Scope} {w : Bool}
    {rw : Rw} {op : Option Nat} {put : Nat → Group → Nat → State → Rc Unit} {k : Nat → Group → Nat → State → Res}
    (hexec : exec i s = ordered s a sc w rw (some (retireOrdered o sc put)) k)
    (hput : ∀ u, OnlyWalks s u → u.locate s.cur g (g.reg a).toNat (wBytes w) rw true = (.missing, u) → g.posted = [] →
      (u.core (coreOf s.cur)).sideLog = [] → (g.reg a).toNat % 64 + wBytes w ≤ 64 →
      ∃ t, put s.cur g (g.reg a).toNat u = .ok () t ∧ InSideLog u t s.cur g (g.reg a).toNat (wBytes w) (g.reg b).toNat op) :
    ScalarAccess s g i (g.reg a) (wBytes w) rw false (g.reg b) op (ReleasesAtOnce s g o sc) where
  align h := hexec.trans (ordered_align here alone h)
  faults h room _ _ hc := hexec.trans (ordered_fault here alone h room hc)
  waits := nofun
  retires _ h room u hc only hl unwatched settled empty free := by
    have free' : ReleasesAtOnce u g o sc := by
      unfold ReleasesAtOnce
      rw [only.cur, only.sideOf, only.teamOf]
      exact free
    obtain ⟨t, hok, hin⟩ := hput u only hl settled (by rw [only.core, empty]) (aligned_fits (wBytes_cases w) h)
    rw [← only.cur] at hok hin
    obtain ⟨t', hok', hin'⟩ := retireOrdered_inSideLog (by rw [only.group, only.cur, here]) settled free' hok hin
    rw [only.cur] at hok' hin'
    exact ⟨t', hexec.trans (ordered_retires here alone h room hc (by rw [only.gwHit, unwatched]) hok'), hin'⟩

theorem ssto_access (here : s.group? s.cur = some g) (alone : g.orun = none) (a b : Reg) (o : Order) (sc : Scope) (w : Bool) :
    ScalarAccess s g (.ssto a b o sc w) (g.reg a) (wBytes w) .wr false (g.reg b) none (ReleasesAtOnce s g o sc) :=
  retiring_access here alone (execSsto_eq a b o sc w s) fun _ only hl settled empty hfit =>
    State.store_missing ((only.group _).trans here) alone settled empty 0 _ (g.reg a).isLt hfit _ hl

theorem sred_access (here : s.group? s.cur = some g) (alone : g.orun = none) {i : Instr} {j : Nat} {a b : Reg} {o : Order} {sc : Scope}
    {w : Bool} (hexec : exec i s = sred j a b o sc w s) :
    ScalarAccess s g i (g.reg a) (wBytes w) .amo false (g.reg b) (some j) (ReleasesAtOnce s g o sc) := by
  obtain ⟨k, hk⟩ := sred_eq j a b o sc w s
  exact retiring_access here alone (hexec.trans hk) fun _ only _ settled empty hfit =>
    State.askPage_sideLog ((only.group _).trans here) settled empty _ (g.reg a).isLt hfit _ _ _ _ _ _

/-- Out of an overreach `lock` and `unlock` are ordered accesses (R249). -/
theorem lock_eq (here : s.group? s.cur = some g) (alone : g.orun = none) (a : Reg) (sc : Scope) (w : Bool) :
    (∃ k, exec (.lock a sc w) s = ordered s a sc w .amo none k) ∧ ∃ k, exec (.unlock a sc w) s = ordered s a sc w .amo none k := by
  constructor
  · exact ⟨_, by
      change execLock a sc w s = _
      rw [execLock, scalar_eq here, alone]
      exact if_neg Bool.false_ne_true⟩
  · exact ⟨_, by
      change execUnlock a sc w s = _
      rw [execUnlock, scalar_eq here, alone]
      exact if_neg Bool.false_ne_true⟩

theorem orderedForms_access (here : s.group? s.cur = some g) (alone : g.orun = none) {d a b : Reg} {o : Order} {sc : Scope} {w : Bool}
    {i : Instr} {rw : Rw} {ret : Bool} {op : Option Nat} (hform : (i, rw, ret, op) ∈ orderedForms d a b o sc w) :
    ScalarAccess s g i (g.reg a) (wBytes w) rw ret (g.reg b) op (ReleasesAtOnce s g o sc) := by
  obtain ⟨⟨_, hlock⟩, ⟨_, hunlock⟩⟩ := lock_eq here alone a sc w
  obtain ⟨_, hcas⟩ := exec_scas_eq d a b o sc w s
  obtain ⟨_, hldo⟩ := exec_sldo_eq d a o sc w s
  rcases List.mem_append.1 hform with hform | hform
  · simp only [List.mem_cons, Prod.mk.injEq, List.not_mem_nil, or_false] at hform
    rcases hform with ⟨rfl, rfl, rfl, rfl⟩ | ⟨rfl, rfl, rfl, rfl⟩ | ⟨rfl, rfl, rfl, rfl⟩ | ⟨rfl, rfl, rfl, rfl⟩ | ⟨rfl, rfl, rfl, rfl⟩
      | ⟨rfl, rfl, rfl, rfl⟩ | ⟨rfl, rfl, rfl, rfl⟩ | ⟨rfl, rfl, rfl, rfl⟩ | ⟨rfl, rfl, rfl, rfl⟩ | ⟨rfl, rfl, rfl, rfl⟩
      | ⟨rfl, rfl, rfl, rfl⟩ | ⟨rfl, rfl, rfl, rfl⟩ | ⟨rfl, rfl, rfl, rfl⟩ | ⟨rfl, rfl, rfl, rfl⟩ | ⟨rfl, rfl, rfl, rfl⟩
      | ⟨rfl, rfl, rfl, rfl⟩ | ⟨rfl, rfl, rfl, rfl⟩ | ⟨rfl, rfl, rfl, rfl⟩ | ⟨rfl, rfl, rfl, rfl⟩ | ⟨rfl, rfl, rfl, rfl⟩
      | ⟨rfl, rfl, rfl, rfl⟩ | ⟨rfl, rfl, rfl, rfl⟩
    -- the nine `samo` that have both widths
    iterate 9 exact samo_access here alone rfl _ _ _
    · exact returning_access here alone hcas (by decide) _ _ _
    · exact returning_access here alone hldo (by decide) _ _ _
    · exact ssto_access here alone a b o sc w
    -- the eight `sred` that have both widths
    iterate 8 exact sred_access here alone rfl
    · exact returning_access here alone hlock (by decide) _ _ _
    · exact returning_access here alone hunlock (by decide) _ _ _
  · cases w with
    | true => simp at hform
    | false =>
      simp only [Bool.false_eq_true, if_false, List.mem_cons, Prod.mk.injEq, List.not_mem_nil, or_false] at hform
      rcases hform with ⟨rfl, rfl, rfl, rfl⟩ | ⟨rfl, rfl, rfl, rfl⟩
      · exact samo_access here alone rfl _ _ _
      · exact sred_access here alone rfl

theorem AccessForm.access (here : s.group? s.cur = some g) (alone : g.orun = none) {i : Instr} {ea : W64} {n : Nat} {rw : Rw} {ret : Bool}
    {val : W64} {op : Option Nat} {free : Prop} (h : AccessForm s g i ea n rw ret val op free) :
    ScalarAccess s g i ea n rw ret val op free := by
  cases h with
  | sld d a sz bp off => exact sld_access here d a sz bp off
  | sst d a sz off => exact sst_access here alone d a sz off
  | ordered d a b o sc w _ _ _ _ hform => exact orderedForms_access here alone hform

end

end Sys2Proof.Machine
end

section
/-! SUPPORT. Scalar accesses that stop, wait or retire, and refused stores (spec/07 R176, spec/16 R325, R326). -/

namespace Sys2Proof.Machine

/-! What a group that is held on a page, or whose access has retired, is left as. -/

@[simp] theorem Group.heldBy_pageWait (g : Group) (k : Nat) : (g.heldBy k).pageWait = g.pageWait := by unfold Group.heldBy; split <;> rfl
@[simp] theorem Group.heldBy_spc (g : Group) (k : Nat) : (g.heldBy k).spc = g.spc := by unfold Group.heldBy; split <;> rfl
@[simp] theorem Group.heldBy_s (g : Group) (k : Nat) : (g.heldBy k).s = g.s := by unfold Group.heldBy; split <;> rfl

/-- A hold on a page asks for the page and changes of the group what it waits on and since when (R325). -/
theorem State.holdOnPage_eq {s : State} {gid : Nat} {g : Group} (here : s.group? gid = some g) (k va : Nat) (rw : Rw) :
    ∃ g', s.holdOnPage gid g k va rw = (s.askPage gid g va rw).setGroup gid g' ∧ (g.streamId k, pageOf va) ∈ g'.pageWait
      ∧ g'.spc = g.spc ∧ g'.s = g.s := by
  have here' : (s.askPage gid g va rw).group? gid = some g := ((s.askPage_onlyRecords ..).group gid).trans here
  refine ⟨_, State.updGroup_eq _ _ _ _ here', ?_, rfl, rfl⟩
  dsimp only
  split
  next hin => exact List.contains_iff_mem.1 hin
  next => exact List.mem_append_right _ (List.mem_singleton_self _)

/-- The S-stream of a group is held on a page: its registers and its PC are as they were, and the page is asked for (R325). -/
theorem holdOnPage_stallS {s u : State} {g : Group} (hcur : u.cur = s.cur) (here : u.group? s.cur = some g) (va : Nat) (rw : Rw) :
    ∃ t g', (u.holdOnPage s.cur g 0 va rw).stallS = .next t ∧ t.group? s.cur = some g' ∧ (0, pageOf va) ∈ g'.pageWait
      ∧ g'.spc = g.spc ∧ g'.s = g.s ∧ PageAsked t (u.launchOf g) va := by
  obtain ⟨g1, hhold, hwait, hspc, hs⟩ := State.holdOnPage_eq here 0 va rw
  have hcur' : ((u.askPage s.cur g va rw).setGroup s.cur g1).cur = s.cur := (u.askPage_onlyRecords ..).cur.trans hcur
  rw [hhold, stallS_eq (g := g1) (by rw [hcur', State.setGroup_self]), hcur']
  exact ⟨_, _, rfl, State.setGroup_self .., (g1.heldBy_pageWait 0).symm ▸ hwait, (g1.heldBy_spc 0).trans hspc, (g1.heldBy_s 0).trans hs,
    u.askPage_asked s.cur g va rw⟩

/-- An instruction whose access has retired into the side log has issued (R326). -/
theorem InSideLog.done {s t : State} {gid : Nat} {g : Group} {va n v : Nat} {op : Option Nat} (h : InSideLog s t gid g va n v op) :
    ∃ e, (t.done gid id).group? gid = some g.advance ∧ ((t.done gid id).core (coreOf gid)).sideLog = [e]
      ∧ Retired e (s.launchOf g).asid (g.issuer gid) va n v op ∧ PageAsked (t.done gid id) (s.launchOf g) va := by
  obtain ⟨e, hlog, hret⟩ := h.log
  rw [State.done_eq h.here]
  exact ⟨e, State.setGroup_self .., hlog, hret, h.asked⟩

/-! A refused store (R326). -/

/-- The record of a stop that no instruction has raised (R158): of the path of a stream's name, where that lives. -/
def State.asyncRecord (s : State) (gid : Nat) (g : Group) (cause : Cause) (addr : W64) (k : Nat) : TrapRec :=
  match g.pathNamed k with
  | some p => { s.stopRecord gid g cause false with addr := addr, lpc := p.pc, amask := p.mask }
  | none => { s.stopRecord gid g cause false with addr := addr }

/-- Out of an overreach there is nothing to roll back (R231). -/
theorem State.rollback_none {s : State} {gid : Nat} {g : Group} (here : s.group? gid = some g) (alone : g.orun = none) :
    s.rollback gid = s := by
  simp only [State.rollback, here, alone]

theorem State.stopAsync_eq {s : State} {gid : Nat} {g : Group} (here : s.group? gid = some g) (alone : g.orun = none) (cause : Cause)
    (addr : W64) (k : Nat) : s.stopAsync gid cause addr k = s.stop gid (s.asyncRecord gid g cause addr k) := by
  simp only [State.stopAsync, here, State.rollback_none here alone, State.asyncRecord, alone]
  cases g.pathNamed k <;> rfl

/-- The stop of a refused store: with its address, of the path that issued it, once the group no longer has it pending (R22, R326). -/
theorem State.storeStop_eq {s : State} {gid : Nat} {g : Group} (here : s.group? gid = some g) (alone : g.orun = none) (a : W64) (k : Nat) :
    let g' := { g with pendStore := none }
    let u := s.setGroup gid g'
    s.storeStop gid a k = u.stop gid (u.asyncRecord gid g' (if inTeamWin a.toNat then .protect else .pagestore) a k) := by
  rw [State.storeStop, State.updGroup_eq s _ _ g here]
  exact State.stopAsync_eq (g := { g with pendStore := none }) (State.setGroup_self ..) alone ..

/-- A refused store stops its group in place of its next issue (R326). -/
theorem State.issue_refusedStore {s : State} {gid : Nat} {g : Group} (here : s.group? gid = some g) (slot : Option Nat) {a : W64} {k : Nat}
    (h : g.pendStore = some (a, k)) : s.issue gid slot = .next { (s.storeStop gid a k) with epoch := s.epoch + 1 } := by
  simp only [State.issue, here, h]

theorem State.asyncRecord_fields (s : State) (gid : Nat) (g : Group) (cause : Cause) (addr : W64) (k : Nat) :
    let r := s.asyncRecord gid g cause addr k
    r.cause = cause ∧ r.addr = addr ∧ r.lane = false ∧ r.ovrb = false ∧ r.spc = g.spc
      ∧ ∀ p, g.pathNamed k = some p → r.lpc = p.pc ∧ r.amask = p.mask := by
  unfold State.asyncRecord
  cases hp : g.pathNamed k with
  | none => exact ⟨rfl, rfl, rfl, rfl, rfl, nofun⟩
  | some p => exact ⟨rfl, rfl, rfl, rfl, rfl, fun q hq => by cases hq; exact ⟨rfl, rfl⟩⟩

/-! The statement. -/

section
variable {s u : State} {g : Group} {i : Instr} {ea : W64} {n : Nat} {rw : Rw} {ret : Bool} {val : W64} {op : Option Nat} {free : Prop}

/-- A stop of the checks but WATCH stops the instruction in the state that the checks have left (R176). -/
theorem ScalarAccess.stops (h : ScalarAccess s g i ea n rw ret val op free) (aligned : ea.toNat % n = 0)
    (room : s.tableRoom s.cur 0 1 = true) {c : Cause} (hc : s.check s.cur g 0 ea.toNat n rw = (.flt c, u)) (hwatch : c ≠ .watch) :
    StopsIn s u g i c ea := by
  have hexec := h.faults aligned room c u hc
  rw [if_neg hwatch] at hexec
  exact hexec

theorem ScalarAccess.stops_watch (h : ScalarAccess s g i ea n rw ret val op free) (aligned : ea.toNat % n = 0)
    (room : s.tableRoom s.cur 0 1 = true) (hc : s.check s.cur g 0 ea.toNat n rw = (.flt .watch, u)) :
    StopsIn s (u.gwCount s.cur g ea.toNat n rw) g i .watch ea :=
  h.faults aligned room .watch u hc

end

/-- Settles O23: every form of a scalar access does the same on each answer of its checks, and a page that the checks find absent is
absent when the access is retired too. -/
theorem scalarAccessFaults : Obligations.ScalarAccessFaults := by
  unfold Obligations.ScalarAccessFaults
  intro s g here alone
  refine ⟨fun i ea n rw ret val op free form => ?_, fun slot a k hrefused => ?_⟩
  · have access := AccessForm.access here alone form
    refine ⟨access.align, fun aligned room => ⟨fun hwin hrefused => ?_, fun hopen u => ⟨fun e he hl => ?_, fun pa hl hhit => ?_, fun hl => ?_⟩⟩⟩
    · exact access.stops aligned room (State.check_refused hwin hrefused) (by decide)
    · refine access.stops aligned room (State.check_of_locate hopen hl) ?_
      rintro rfl
      simp at he
    · have hc := State.check_of_locate hopen hl
      simp only [State.chkOf, hhit, if_true] at hc
      exact access.stops_watch aligned room hc
    · have hc := State.check_of_locate hopen hl
      obtain ⟨only, hl'⟩ := State.locate_missing hl
      refine ⟨fun hret hrefused => ?_, fun hret hasked => ?_, fun hret unwatched settled empty hfree => ?_⟩
      · obtain ⟨hrw, hwaits⟩ := access.waits hret
        have hexec := hwaits aligned room u (by simpa only [State.chkOf, if_neg hrw] using hc)
        rw [if_pos hrefused] at hexec
        exact hexec
      · obtain ⟨hrw, hwaits⟩ := access.waits hret
        have hexec := hwaits aligned room u (by simpa only [State.chkOf, if_neg hrw] using hc)
        rw [hasked, if_neg Bool.false_ne_true] at hexec
        obtain ⟨t, g', hstall, hheld⟩ := holdOnPage_stallS only.cur ((only.group _).trans here) ea.toNat rw
        rw [only.launchOf] at hheld
        exact ⟨t, g', hexec.trans hstall, hheld⟩
      · have hmissing : s.check s.cur g 0 ea.toNat n rw = (.missing, u) := by
          simpa only [State.chkOf, unwatched, Bool.false_eq_true, if_false, ite_self] using hc
        obtain ⟨t, hexec, hin⟩ := access.retires hret aligned room u hmissing only hl' unwatched settled empty hfree
        obtain ⟨e, hdone⟩ := hin.done
        rw [only.launchOf] at hdone
        exact ⟨_, e, hexec, hdone⟩
  · let g' := { g with pendStore := none }
    refine ⟨_, ?_, State.asyncRecord_fields (s.setGroup s.cur g') s.cur g' (if inTeamWin a.toNat then .protect else .pagestore) a k⟩
    rw [State.issue_refusedStore here slot hrefused, State.storeStop_eq here alone]

end Sys2Proof.Machine
end

section
/-! SUPPORT. The codec (spec/03): the fields that the decoder reads in an encoded word, format by format, and the round trips. -/

namespace Sys2Proof

open Laws.Encoding

/-! The fields of a word of each format (R65, R73). -/

/-- A register field that holds the number of a register reads as that register. -/
theorem regAt_of_bits {w lo : Nat} {r : Reg} (h : bits w lo 5 = r.toNat) : regAt w lo = r := by
  rw [regAt, h, BitVec.ofNat_toNat, BitVec.setWidth_eq]

/-- A field that holds a word's number reads as that word. -/
theorem ofNat_bits {w lo n len : Nat} {x : BitVec n} (h : bits w lo len = x.toNat) : BitVec.ofNat n (bits w lo len) = x := by
  rw [h, BitVec.ofNat_toNat, BitVec.setWidth_eq]

@[simp] theorem Size.ofCode_code (sz : Size) : Size.ofCode sz.code = sz := by cases sz <;> rfl
@[simp] theorem Order.ofCode_code (o : Order) : Order.ofCode o.code = o := by cases o <;> rfl
@[simp] theorem Scope.ofCode?_code (sc : Scope) : Scope.ofCode? sc.code = some sc := by cases sc <;> rfl
@[simp] theorem WaitKind.ofCode?_code (k : WaitKind) : WaitKind.ofCode? k.code = some k := by cases k <;> rfl
@[simp] theorem Ty.ofCode_code (t : Ty) : Ty.ofCode t.code = t := by cases t <;> rfl
@[simp] theorem Cond.ofCode?_code (cc : Cond) : Cond.ofCode? cc.code = some cc := by cases cc <;> rfl

/-- A one-bit field that holds a flag reads as that flag. -/
theorem bit_of_bits {w lo : Nat} {b : Bool} (h : bits w lo 1 = b.toNat) : bit w lo = b := by
  cases b <;> simp_all [bits, bit]

/-- The fields that formats R, I, B, M and E share: the opcode and two registers (R65). -/
structure Fields (w op : Nat) (d a : Reg) : Prop where
  op : bits w 26 6 = op
  d : regAt w 21 = d
  a : regAt w 16 = a

/-- A word with the opcode, two registers and sixteen bits more. -/
theorem fields_of_low {op low : Nat} (d a : Reg) (hop : op < 64) (hlow : low < 65536) :
    Fields (op * 2 ^ 26 + d.toNat * 2 ^ 21 + a.toNat * 2 ^ 16 + low) op d a where
  op := by unfold bits; omega
  d := regAt_of_bits (by unfold bits; omega)
  a := regAt_of_bits (by unfold bits; omega)

theorem encR_fields {op fn : Nat} (d a b : Reg) (hop : op < 64) (hfn : fn < 2048) :
    let w := encR op fn d.toNat a.toNat b.toNat
    Fields w op d a ∧ regAt w 11 = b ∧ bits w 0 11 = fn := by
  have hw : encR op fn d.toNat a.toNat b.toNat = op * 2 ^ 26 + d.toNat * 2 ^ 21 + a.toNat * 2 ^ 16 + (b.toNat * 2 ^ 11 + fn) := by
    unfold encR; omega
  refine ⟨hw ▸ fields_of_low d a hop (by omega), regAt_of_bits ?_, ?_⟩ <;> unfold bits encR <;> omega

theorem encI_fields {op n : Nat} (d a : Reg) (i : BitVec n) (hop : op < 64) (hn : n ≤ 16) :
    let w := encI op d.toNat a.toNat i.toNat
    Fields w op d a ∧ BitVec.ofNat n (bits w 0 n) = i := by
  have hi : i.toNat < 2 ^ n := i.isLt
  have hpow : 2 ^ n ≤ 2 ^ 16 := Nat.pow_le_pow_right (by decide) hn
  refine ⟨fields_of_low d a hop (by omega), ofNat_bits ?_⟩
  obtain ⟨k, hk⟩ : 2 ^ n ∣ 2 ^ 16 := Nat.pow_dvd_pow 2 hn
  have : encI op d.toNat a.toNat i.toNat = i.toNat + 2 ^ n * (k * (op * 2 ^ 10 + d.toNat * 2 ^ 5 + a.toNat)) := by
    rw [← Nat.mul_assoc, ← hk]; unfold encI; omega
  rw [this, bits, Nat.pow_zero, Nat.div_one, Nat.add_mul_mod_self_left, Nat.mod_eq_of_lt hi]

theorem encM_fields {op q : Nat} (d a : Reg) (sz : Size) (off : BitVec 12) (hop : op < 64) (hq : q < 4) :
    let w := encM op d.toNat a.toNat sz.code q off.toNat
    Fields w op d a ∧ Size.ofCode (bits w 14 2) = sz ∧ bits w 12 2 = q ∧ BitVec.ofNat 12 (bits w 0 12) = off := by
  have hsz := Size.code_lt sz
  have hoff := off.isLt
  have hw : encM op d.toNat a.toNat sz.code q off.toNat
      = op * 2 ^ 26 + d.toNat * 2 ^ 21 + a.toNat * 2 ^ 16 + (sz.code * 2 ^ 14 + q * 2 ^ 12 + off.toNat) := by
    unfold encM; omega
  refine ⟨hw ▸ fields_of_low d a hop (by omega), ?_, ?_, ofNat_bits ?_⟩
  · rw [show bits (encM op d.toNat a.toNat sz.code q off.toNat) 14 2 = sz.code by unfold bits encM; omega, Size.ofCode_code]
  · unfold bits encM; omega
  · unfold bits encM; omega

theorem encJ_fields {op : Nat} (off : BitVec 26) (hop : op < 64) :
    let w := encJ op off.toNat
    bits w 26 6 = op ∧ BitVec.ofNat 26 (bits w 0 26) = off := by
  have hoff := off.isLt
  refine ⟨?_, ofNat_bits ?_⟩ <;> unfold bits encJ <;> omega

theorem encE_fields {op fn : Nat} (d a b c : Reg) (hop : op < 64) (hfn : fn < 64) :
    let w := encE op fn d.toNat a.toNat b.toNat c.toNat
    Fields w op d a ∧ regAt w 11 = b ∧ regAt w 6 = c ∧ bits w 0 6 = fn := by
  have hw : encE op fn d.toNat a.toNat b.toNat c.toNat
      = op * 2 ^ 26 + d.toNat * 2 ^ 21 + a.toNat * 2 ^ 16 + (b.toNat * 2 ^ 11 + c.toNat * 2 ^ 6 + fn) := by
    unfold encE; omega
  refine ⟨hw ▸ fields_of_low d a hop (by omega), regAt_of_bits ?_, regAt_of_bits ?_, ?_⟩ <;> unfold bits encE <;> omega

theorem encE10_fields {op fn : Nat} (d a : Reg) (imm : BitVec 10) (hop : op < 64) (hfn : fn < 64) :
    let w := encE10 op fn d.toNat a.toNat imm.toNat
    Fields w op d a ∧ BitVec.ofNat 10 (bits w 6 10) = imm ∧ bits w 0 6 = fn := by
  have himm := imm.isLt
  have hw : encE10 op fn d.toNat a.toNat imm.toNat
      = op * 2 ^ 26 + d.toNat * 2 ^ 21 + a.toNat * 2 ^ 16 + (imm.toNat * 2 ^ 6 + fn) := by
    unfold encE10; omega
  refine ⟨hw ▸ fields_of_low d a hop (by omega), ofNat_bits ?_, ?_⟩ <;> unfold bits encE10 <;> omega

theorem encH_fields {op fn lo : Nat} (x y : Hnd) (hop : op < 64) (hfn : fn < 16) (hlo : lo < 1024) :
    let w := encH op fn x.toNat y.toNat lo
    bits w 26 6 = op ∧ bits w 22 4 = fn ∧ BitVec.ofNat 6 (bits w 16 6) = x ∧ BitVec.ofNat 6 (bits w 10 6) = y ∧ bits w 0 10 = lo := by
  refine ⟨?_, ?_, ofNat_bits ?_, ofNat_bits ?_, ?_⟩ <;> unfold bits encH <;> omega

theorem encA_fields {fn : Nat} (d a b : Reg) (o : Order) (sc : Scope) (v : Bool) (hfn : fn < 32) :
    let w := encA fn d.toNat a.toNat b.toNat o sc v
    bits w 26 6 = 0x1E ∧ bits w 21 5 = fn ∧ regAt w 16 = d ∧ regAt w 11 = a ∧ regAt w 6 = b
      ∧ Order.ofCode (bits w 4 2) = o ∧ Scope.ofCode? (bits w 1 3) = some sc ∧ bit w 0 = v := by
  have ho := Order.code_lt o
  have hsc := Scope.code_lt sc
  have hv := bool_lt v
  have horder : bits (encA fn d.toNat a.toNat b.toNat o sc v) 4 2 = o.code := by unfold bits encA; omega
  have hscope : bits (encA fn d.toNat a.toNat b.toNat o sc v) 1 3 = sc.code := by unfold bits encA; omega
  refine ⟨?_, ?_, regAt_of_bits ?_, regAt_of_bits ?_, regAt_of_bits ?_, by rw [horder, Order.ofCode_code],
    by rw [hscope, Scope.ofCode?_code], bit_of_bits ?_⟩ <;> unfold bits encA <;> omega

theorem encL_fields {op fn : Nat} (l : LaneWord) (hop : op < 256) (hfn : fn < 256) :
    let w := encL op fn l
    bits w 88 8 = op ∧ bits w 32 8 = fn ∧ rawFields w = l := by
  have := bool_lt l.gn; have := l.gp.isLt; have := l.la.isLt; have := l.vd.isLt; have := l.va.isLt; have := l.vb.isLt
  have := l.vc.isLt; have := Ty.code_lt l.ty; have := l.md.isLt; have := l.x32.isLt
  have hty : bits (encL op fn l) 44 4 = l.ty.code := by unfold bits encL; omega
  refine ⟨by unfold bits encL; omega, by unfold bits encL; omega, ?_⟩
  unfold rawFields
  congr 1
  case e_gn => exact bit_of_bits (by unfold bits encL; omega)
  case e_ty => rw [hty, Ty.ofCode_code]
  all_goals exact ofNat_bits (by unfold bits encL; omega)

/-! What the decoder reads in a scalar word, by format. Each lemma serves every instruction of its format. -/

/-- An instruction's own 32-bit word is read as it, before the check of what must be zero or in range (R66, R82). -/
def ReadsScalar (i : Instr) : Prop := rawScalar (encode i) = .ok i ∧ encode i < 2 ^ 32

/-- Op 0x01 (R67). -/
theorem readsScalar_alu {i : Instr} {fn : Nat} {d a b : Reg} (hword : encode i = encR 0x01 fn d.toNat a.toNat b.toNat)
    (hread : rawAlu fn d a b = some i) (hfn : fn < 2048) : ReadsScalar i := by
  obtain ⟨fields, hb, hf⟩ := encR_fields d a b (op := 0x01) (by decide) hfn
  refine ⟨?_, hword ▸ encR_lt (by decide) hfn d.isLt a.isLt b.isLt⟩
  rw [← hword] at fields hb hf
  generalize encode i = w at fields hb hf
  simp only [rawScalar, fields.op, fields.d, fields.a, hb, hf, hread, orReject]

/-- Op 0x17: the jumps to a register (R67). -/
theorem readsScalar_jump {i : Instr} {fn : Nat} {a : Reg} (hword : encode i = encR 0x17 fn (0 : Reg).toNat a.toNat (0 : Reg).toNat)
    (hread : ∀ w, Fields w 0x17 0 a → bits w 0 11 = fn → rawScalar w = .ok i) (hfn : fn < 2048) : ReadsScalar i := by
  obtain ⟨fields, -, hf⟩ := encR_fields 0 a 0 (op := 0x17) (by decide) hfn
  exact ⟨hread _ (hword ▸ fields) (hword ▸ hf), hword ▸ encR_lt (by decide) hfn (by decide) a.isLt (by decide)⟩

/-- The ops of formats I and B (R67, R68). -/
theorem readsScalar_imm {i : Instr} {op n : Nat} {d a : Reg} {imm : BitVec n} (hword : encode i = encI op d.toNat a.toNat imm.toNat)
    (hread : ∀ w, Fields w op d a → BitVec.ofNat n (bits w 0 n) = imm → rawScalar w = .ok i) (hop : op < 64) (hn : n ≤ 16) :
    ReadsScalar i := by
  obtain ⟨fields, himm⟩ := encI_fields d a imm hop hn
  have hpow : 2 ^ n ≤ 2 ^ 16 := Nat.pow_le_pow_right (by decide) hn
  exact ⟨hread _ (hword ▸ fields) (hword ▸ himm), hword ▸ encI_lt hop d.isLt a.isLt (imm.isLt.trans_le hpow)⟩

/-- The ops of format M (R66). -/
theorem readsScalar_mem {i : Instr} {op q : Nat} {d a : Reg} {sz : Size} {off : BitVec 12}
    (hword : encode i = encM op d.toNat a.toNat sz.code q off.toNat)
    (hread : ∀ w, Fields w op d a → Size.ofCode (bits w 14 2) = sz → bits w 12 2 = q → BitVec.ofNat 12 (bits w 0 12) = off →
      rawScalar w = .ok i) (hop : op < 64) (hq : q < 4) : ReadsScalar i := by
  obtain ⟨fields, hsz, hq', hoff⟩ := encM_fields d a sz off hop hq
  exact ⟨hread _ (hword ▸ fields) (hword ▸ hsz) (hword ▸ hq') (hword ▸ hoff),
    hword ▸ encM_lt hop d.isLt a.isLt (Size.code_lt sz) hq off.isLt⟩

/-- The ops of format J (R65). -/
theorem readsScalar_far {i : Instr} {op : Nat} {off : BitVec 26} (hword : encode i = encJ op off.toNat)
    (hread : ∀ w, bits w 26 6 = op → BitVec.ofNat 26 (bits w 0 26) = off → rawScalar w = .ok i) (hop : op < 64) : ReadsScalar i := by
  obtain ⟨hop', hoff⟩ := encJ_fields off hop
  exact ⟨hread _ (hword ▸ hop') (hword ▸ hoff), hword ▸ encJ_lt hop off.isLt⟩

/-- The opcodes and functions of format E that the decoder reads alike: all but `wait`, `btest` and `fence` (R69). -/
def plainE (op fn : Nat) : Bool :=
  [0x18, 0x19, 0x1C, 0x20, 0x21].contains op || op == 0x1D && fn != 4 && fn != 5 || op == 0x1F && fn != 0

theorem rawScalar_plainE {w op fn : Nat} {d a : Reg} (fields : Fields w op d a) (hfn : bits w 0 6 = fn) (hplain : plainE op fn = true) :
    rawScalar w = orReject (rawE op fn d a (regAt w 11) (regAt w 6) (BitVec.ofNat 10 (bits w 6 10))) (.function op fn) := by
  simp only [plainE, List.contains_eq_mem, List.mem_cons, List.not_mem_nil, or_false, Bool.or_eq_true, Bool.and_eq_true, decide_eq_true_eq,
    beq_iff_eq, bne_iff_ne] at hplain
  rcases hplain with ((rfl | rfl | rfl | rfl | rfl) | ⟨⟨rfl, h4⟩, h5⟩) | ⟨rfl, h0⟩
  case inl.inr =>
    simp only [rawScalar, fields.op, fields.d, fields.a]
    split <;> simp_all
  case inr =>
    simp only [rawScalar, fields.op, fields.d, fields.a]
    split <;> simp_all
  all_goals simp only [rawScalar, fields.op, fields.d, fields.a, hfn]

/-- Format E with five register fields (R69). -/
theorem readsScalar_E {i : Instr} {op fn : Nat} {d a b c : Reg} (hword : encode i = encE op fn d.toNat a.toNat b.toNat c.toNat)
    (hread : ∀ imm, rawE op fn d a b c imm = some i) (hplain : plainE op fn = true) (hop : op < 64) (hfn : fn < 64) : ReadsScalar i := by
  obtain ⟨fields, hb, hc, hf⟩ := encE_fields d a b c hop hfn
  refine ⟨?_, hword ▸ encE_lt hop hfn d.isLt a.isLt b.isLt c.isLt⟩
  rw [hword, rawScalar_plainE fields hf hplain, hb, hc, hread]
  rfl

/-- Format E with a ten-bit immediate (R69). -/
theorem readsScalar_E10 {i : Instr} {op fn : Nat} {d a : Reg} {imm : BitVec 10} (hword : encode i = encE10 op fn d.toNat a.toNat imm.toNat)
    (hread : ∀ b c, rawE op fn d a b c imm = some i) (hplain : plainE op fn = true) (hop : op < 64) (hfn : fn < 64) : ReadsScalar i := by
  obtain ⟨fields, himm, hf⟩ := encE10_fields d a imm hop hfn
  refine ⟨?_, hword ▸ encE10_lt hop hfn d.isLt a.isLt imm.isLt⟩
  rw [hword, rawScalar_plainE fields hf hplain, himm, hread]
  rfl

/-- Format E with a code in a register field: `wait`, `btest` and `fence` (R69, R72). -/
theorem readsScalar_code {i : Instr} {op fn b c : Nat} {d a : Reg} (hword : encode i = encE op fn d.toNat a.toNat b c)
    (hread : ∀ w, Fields w op d a → bits w 0 6 = fn → bits w 11 5 = b → bits w 6 5 = c → rawScalar w = .ok i)
    (hop : op < 64) (hfn : fn < 64) (hb : b < 32) (hc : c < 32) : ReadsScalar i := by
  obtain ⟨fields, -, -, hf⟩ := encE_fields d a (BitVec.ofNat 5 b) (BitVec.ofNat 5 c) hop hfn
  rw [BitVec.toNat_ofNat, BitVec.toNat_ofNat, Nat.mod_eq_of_lt hb, Nat.mod_eq_of_lt hc, ← hword] at fields hf
  refine ⟨hread _ fields hf ?_ ?_, hword ▸ encE_lt hop hfn d.isLt a.isLt hb hc⟩ <;> rw [hword] <;> unfold bits encE <;> omega

/-- Ops 0x1A and 0x1B (R70): lo holds two registers, or a register and a code, or a tag. -/
theorem readsScalar_H {i : Instr} {op fn lo : Nat} {x y : Hnd} (hword : encode i = encH op fn x.toNat y.toNat lo)
    (hread : ∀ w, bits w 0 10 = lo → rawH op fn x y (regAt w 5) (regAt w 0) w = some i) (hop : op = 0x1A ∨ op = 0x1B) (hfn : fn < 16)
    (hlo : lo < 1024) : ReadsScalar i := by
  have hop' : op < 64 := by omega
  obtain ⟨ho, hf, hx, hy, hlow⟩ := encH_fields x y hop' hfn hlo
  refine ⟨?_, hword ▸ encH_lt hop' hfn x.isLt y.isLt hlo⟩
  rw [← hword] at ho hf hx hy hlow
  have hread' := hread _ hlow
  generalize encode i = w at ho hf hx hy hread'
  rcases hop with rfl | rfl <;> simp only [rawScalar, ho, hf, hx, hy, hread', orReject]

/-- The two registers in the low ten bits of a format H word (R70). -/
theorem readsScalar_Hreg {i : Instr} {op fn lo : Nat} {x y : Hnd} (a b : Reg) (hword : encode i = encH op fn x.toNat y.toNat lo)
    (hread : ∀ w, rawH op fn x y a b w = some i) (hregs : lo = a.toNat * 32 + b.toNat) (hop : op = 0x1A ∨ op = 0x1B) (hfn : fn < 16) :
    ReadsScalar i := by
  refine readsScalar_H hword (fun w hlo => ?_) hop hfn (by omega)
  rw [regAt_of_bits (show bits w 5 5 = a.toNat by unfold bits at *; omega),
    regAt_of_bits (show bits w 0 5 = b.toNat by unfold bits at *; omega), hread]

/-- Op 0x1E (R71). -/
theorem readsScalar_A {i : Instr} {fn : Nat} {d a b : Reg} {o : Order} {sc : Scope} {v : Bool}
    (hword : encode i = encA fn d.toNat a.toNat b.toNat o sc v) (hread : rawA fn d a b o sc v = some i) (hfn : fn < 32) : ReadsScalar i := by
  obtain ⟨hop, hf, hd, ha, hb, ho, hsc, hv⟩ := encA_fields d a b o sc v hfn
  refine ⟨?_, hword ▸ encA_lt hfn d.isLt a.isLt b.isLt⟩
  rw [← hword] at hop hf hd ha hb ho hsc hv
  generalize encode i = w at hop hf hd ha hb ho hsc hv
  simp only [rawScalar, hop, hf, hd, ha, hb, ho, hsc, hv, hread, orReject]

/-- Every scalar instruction is read in its own word. -/
theorem readsScalar_of_words {i : Instr} (h : i.words = 1) : ReadsScalar i := by
  cases i with
  | add | sub | mul | mulh | mulhn | div | divn | rem | remn | and | or | xor | shl | shr | sra | min | max | minn | maxn | slt | sltn
  | seq | sne => exact readsScalar_alu rfl rfl (by decide)
  | clz | ctz | popc | sextB | sextH | sextW | zextB | zextH | zextW => exact readsScalar_alu (b := 0) rfl rfl (by decide)
  | addi | andi | ori | xori | shli | shri | srai | slti | lhh | lhx | beq | bne | blt | bge | bltn | bgen =>
    exact readsScalar_imm rfl (fun w fields himm => by simp only [rawScalar, fields.op, fields.d, fields.a, himm]) (by decide) (by decide)
  | lih =>
    exact readsScalar_imm (a := 0) rfl (fun w fields himm => by simp only [rawScalar, fields.op, fields.d, himm]) (by decide) (by decide)
  | sld d a sz bp off =>
    exact readsScalar_mem rfl (fun w fields hsz hq hoff => by
      have hbp : bit w 12 = bp := bit_of_bits (by have := bool_lt bp; unfold bits at *; omega)
      simp only [rawScalar, fields.op, fields.d, fields.a, hsz, hbp, hoff]) (by decide) (Nat.lt_of_lt_of_le (bool_lt bp) (by decide))
  | sst =>
    exact readsScalar_mem rfl (fun w fields hsz _ hoff => by simp only [rawScalar, fields.op, fields.d, fields.a, hsz, hoff])
      (by decide) (by decide)
  | jmp | call => exact readsScalar_far rfl (fun w hop hoff => by simp only [rawScalar, hop, hoff]) (by decide)
  | jr | callr => exact readsScalar_jump rfl (fun w fields hfn => by simp only [rawScalar, fields.op, fields.a, hfn]) (by decide)
  | ret => exact readsScalar_jump (a := 0) rfl (fun w fields hfn => by simp only [rawScalar, fields.op, hfn]) (by decide)
  | lgo => exact readsScalar_E (d := 0) rfl (fun _ => rfl) rfl (by decide) (by decide)
  | lsync | exit | yield =>
    exact readsScalar_E (d := 0) (a := 0) (b := 0) (c := 0) rfl (fun _ => rfl) rfl (by decide) (by decide)
  | spop | lqd | stime => exact readsScalar_E (a := 0) (b := 0) (c := 0) rfl (fun _ => rfl) rfl (by decide) (by decide)
  | spawn | barr | barrd => exact readsScalar_E (b := 0) (c := 0) rfl (fun _ => rfl) rfl (by decide) (by decide)
  | setprio | crit => exact readsScalar_E (d := 0) (a := 0) (b := 0) rfl (fun _ => rfl) rfl (by decide) (by decide)
  | srd => exact readsScalar_E10 (a := 0) rfl (fun _ _ => rfl) rfl (by decide) (by decide)
  | swr | mark => exact readsScalar_E10 (d := 0) rfl (fun _ _ => rfl) rfl (by decide) (by decide)
  | trap | brk => exact readsScalar_E10 (d := 0) (a := 0) rfl (fun _ _ => rfl) rfl (by decide) (by decide)
  | fmt => exact readsScalar_E (d := 0) (b := 0) (c := 0) rfl (fun _ => rfl) rfl (by decide) (by decide)
  | cpy | cpyt | cpys => exact readsScalar_E rfl (fun _ => rfl) rfl (by decide) (by decide)
  | bclose | vstat | curb => exact readsScalar_E (a := 0) (b := 0) rfl (fun _ => rfl) rfl (by decide) (by decide)
  | bexp | flush | inv => exact readsScalar_E (d := 0) (c := 0) rfl (fun _ => rfl) rfl (by decide) (by decide)
  | dlaunch => exact readsScalar_E (c := 0) rfl (fun _ => rfl) rfl (by decide) (by decide)
  | binit a b f =>
    have hf : (f.setWidth 5).toNat = f.toNat := by simp; omega
    exact readsScalar_E (op := 0x1D) (fn := 0) (d := 0) (a := a) (b := b) (c := f.setWidth 5) (by rw [hf]; rfl)
      (fun _ => by rw [rawE, hf, BitVec.ofNat_toNat, BitVec.setWidth_eq]) rfl (by decide) (by decide)
  | wait a b k =>
    exact readsScalar_code (d := 0) rfl (fun w fields hfn hb hk => by
      simp only [rawScalar, fields.op, fields.a, hfn, hk, regAt_of_bits hb, WaitKind.ofCode?_code]) (by decide) (by decide) b.isLt
      (WaitKind.code_lt k)
  | btest d a b k =>
    exact readsScalar_code rfl (fun w fields hfn hb hk => by
      simp only [rawScalar, fields.op, fields.d, fields.a, hfn, hk, regAt_of_bits hb, WaitKind.ofCode?_code]) (by decide) (by decide) b.isLt
      (WaitKind.code_lt k)
  | fence o sc =>
    exact readsScalar_code (d := 0) (a := 0) rfl (fun w fields hfn ho hsc => by
      simp only [rawScalar, fields.op, hfn, ho, hsc, Order.ofCode_code, Scope.ofCode?_code]) (by decide) (by decide)
      ((Order.code_lt o).trans (by decide)) ((Scope.code_lt sc).trans (by decide))
  | talloc h a | tgive h a | tinfo a h =>
    exact readsScalar_Hreg (y := 0) a 0 rfl (fun _ => rfl) (Nat.add_zero _).symm (by decide) (by decide)
  | tfree | tzero => exact readsScalar_Hreg (y := 0) 0 0 rfl (fun _ => rfl) rfl (by decide) (by decide)
  | tld h a b | tst h a b => exact readsScalar_Hreg (y := 0) a b rfl (fun _ => rfl) rfl (by decide) (by decide)
  | mxacq | mxrel => exact readsScalar_Hreg (x := 0) (y := 0) 0 0 rfl (fun _ => rfl) rfl (by decide) (by decide)
  | mxrdy t q v =>
    exact readsScalar_H (x := 0) rfl (fun w hlo => by
      simp only [rawH, ofNat_bits (show bits w 8 2 = q.toNat by unfold bits at *; omega),
        ofNat_bits (show bits w 0 8 = v.toNat by unfold bits at *; omega)]) (by decide) (by decide) (by omega)
  | mxa hd ha t | mxs hd ha t =>
    exact readsScalar_H rfl (fun w hlo => by
      simp only [rawH, ofNat_bits (show bits w 0 6 = t.toNat by unfold bits at *; omega)]) (by decide) (by decide) (by omega)
  | mxdr hd a b n => exact readsScalar_Hreg a b rfl (fun _ => rfl) rfl (by decide) (by decide)
  | cbld a n => exact readsScalar_Hreg (x := 0) a 0 rfl (fun _ => rfl) (Nat.add_zero _).symm (by decide) (by decide)
  | samoAdd | samoAnd | samoOr | samoXor | samoMin | samoMax | samoMinn | samoMaxn | samoSwap | scas | samoFadd =>
    exact readsScalar_A rfl rfl (by decide)
  | sldo => exact readsScalar_A (b := 0) rfl rfl (by decide)
  | ssto | sredAdd | sredAnd | sredOr | sredXor | sredMin | sredMax | sredMinn | sredMaxn | sredFadd =>
    exact readsScalar_A (d := 0) rfl rfl (by decide)
  | lock | unlock => exact readsScalar_A (d := 0) (b := 0) rfl rfl (by decide)
  | _ => cases h

/-! What the decoder reads in a lane word, by family (R78). -/

/-- An instruction's own 96-bit word is read as it, before the check of what must be zero or in range (R76, R82). -/
def ReadsLane (i : Instr) : Prop := rawLane (encode i) = .ok i ∧ encode i < 2 ^ 96

theorem readsLane_of_fields {i : Instr} {op fn : Nat} {l : LaneWord} (hword : encode i = encL op fn l)
    (hread : ∀ w, bits w 88 8 = op → bits w 32 8 = fn → rawFields w = l → rawLane w = .ok i) (hop : op < 256) (hfn : fn < 256) :
    ReadsLane i := by
  obtain ⟨ho, hf, hl⟩ := encL_fields l hop hfn
  exact ⟨hread _ (hword ▸ ho) (hword ▸ hf) (hword ▸ hl), hword ▸ encL_lt l hop hfn⟩

/-- Op8 1: VINT. -/
theorem readsLane_vint {i : Instr} {fn : Nat} {l : LaneWord} (hword : encode i = encL 1 fn l) (hread : rawVint fn l = some i)
    (hfn : fn < 256) : ReadsLane i :=
  readsLane_of_fields hword (fun w ho hf hl => by simp only [rawLane, ho, hf, hl, hread, orReject]) (by decide) hfn

/-- Op8 2: VFP. -/
theorem readsLane_vfp {i : Instr} {fn : Nat} {l : LaneWord} (hword : encode i = encL 2 fn l) (hread : rawVfp fn l = some i)
    (hfn : fn < 256) : ReadsLane i :=
  readsLane_of_fields hword (fun w ho hf hl => by simp only [rawLane, ho, hf, hl, hread, orReject]) (by decide) hfn

/-- Op8 3: VCMP; the function's top bit tells the float form, its other bits the condition (R79). -/
theorem readsLane_vcmp {i : Instr} {float : Bool} {cc : Cond} {l : LaneWord} (hword : encode i = encL 3 (128 * float.toNat + cc.code) l)
    (hread : i = if float then .vfcmp cc l else .vcmp cc l) : ReadsLane i := by
  have hcc := Cond.code_lt cc
  have hfloat := bool_lt float
  have hcond : Cond.ofCode? ((128 * float.toNat + cc.code) % 128) = some cc := by
    rw [Nat.mul_add_mod, Nat.mod_eq_of_lt (hcc.trans (by decide)), Cond.ofCode?_code]
  have hform : (128 * float.toNat + cc.code) / 128 = float.toNat := by omega
  have hraw : rawVcmp (128 * float.toNat + cc.code) l = some i := by
    rw [rawVcmp, hcond, hread]
    dsimp only
    rw [hform]
    cases float <;> rfl
  exact readsLane_of_fields hword (fun w ho hf hl => by simp only [rawLane, ho, hf, hl, hraw, orReject]) (by decide) (by omega)

/-- Op8 4 and 5: PLOG and VCVT. -/
theorem readsLane_cvt {i : Instr} {op fn : Nat} {l : LaneWord} (hword : encode i = encL op fn l) (hread : rawCvt op fn l = some i)
    (hop : op = 4 ∨ op = 5) (hfn : fn < 256) : ReadsLane i :=
  readsLane_of_fields hword (fun w ho hf hl => by rcases hop with rfl | rfl <;> simp only [rawLane, ho, hf, hl, hread, orReject])
    (by omega) hfn

/-- Op8 6: VMOV. -/
theorem readsLane_vmov {i : Instr} {fn : Nat} {l : LaneWord} (hword : encode i = encL 6 fn l) (hread : rawVmov fn l = some i)
    (hfn : fn < 256) : ReadsLane i :=
  readsLane_of_fields hword (fun w ho hf hl => by simp only [rawLane, ho, hf, hl, hread, orReject]) (by decide) hfn

/-- Op8 7 and 8: VMEM and LCTL. -/
theorem readsLane_mem {i : Instr} {op fn : Nat} {l : LaneWord} (hword : encode i = encL op fn l) (hread : rawMem op fn l = some i)
    (hop : op = 7 ∨ op = 8) (hfn : fn < 256) : ReadsLane i :=
  readsLane_of_fields hword (fun w ho hf hl => by rcases hop with rfl | rfl <;> simp only [rawLane, ho, hf, hl, hread, orReject])
    (by omega) hfn

/-- Every lane instruction is read in its own word. -/
theorem readsLane_of_words {i : Instr} (h : i.words = 3) : ReadsLane i := by
  cases i with
  | vadd | vsub | vmul | vmulh | vmad | vmin | vmax | vabs | vneg | vand | vor | vxor | vnot | vshl | vshr | vsra | vbfe | vbfi | vpopc
  | vclz | vbrev => exact readsLane_vint rfl rfl (by decide)
  | vfadd | vfsub | vfmul | vffma | vfmin | vfmax | vfdiv | vrcp | vrsq | vsqrt | vexp2 | vlog2 | vsin | vcos | vfrnd | vfcls =>
    exact readsLane_vfp rfl rfl (by decide)
  | vcmp cc l => exact readsLane_vcmp (float := false) (by rw [Bool.toNat_false, Nat.mul_zero, Nat.zero_add]; rfl) rfl
  | vfcmp cc l => exact readsLane_vcmp (float := true) rfl rfl
  | pand | por | pxor | pandn | vcvt | vquant | vdeq | vpack | vunpack | vscale => exact readsLane_cvt rfl rfl (by decide) (by decide)
  | vmov | vmovk | vmovi | vsel | vshfl | vbcast | vballot | vred | vscan | vput | vspec => exact readsLane_vmov rfl rfl (by decide)
  | vld | vst | vlds | vsts | vamo | vrdm | vtget | vtset | lbra | mjoin | join | lend | lkill | lfmt | lnop | lbrk =>
    exact readsLane_mem rfl rfl (by decide) (by decide)
  | _ => cases h

/-! Acceptance (R66, R76, R82). -/

/-- A word is accepted as an instruction exactly when it is read as one that is well-formed and has that word. -/
theorem accept_ok_iff {w : Nat} {r : Except Reject Instr} {i : Instr} :
    accept w r = .ok i ↔ r = .ok i ∧ i.wellFormed = true ∧ encode i = w := by
  cases r with
  | error e => simp [accept]
  | ok j =>
    rw [accept]
    split
    next h =>
      obtain ⟨hwf, hword⟩ := (Bool.and_eq_true _ _ ▸ h : j.wellFormed = true ∧ (encode j == w) = true)
      exact ⟨fun he => Except.ok.inj he ▸ ⟨rfl, hwf, beq_iff_eq.1 hword⟩, fun he => he.1⟩
    next h =>
      refine ⟨nofun, fun ⟨he, hwf, hword⟩ => absurd ?_ h⟩
      rw [Except.ok.inj he, hwf, hword, beq_self_eq_true, Bool.and_self]

theorem decodeScalar_eq {i : Instr} {w : Nat} (hwords : i.words = 1) (hword : encode i = w) (hwf : i.wellFormed = true) :
    decodeScalar w = .ok i :=
  accept_ok_iff.2 ⟨hword ▸ (readsScalar_of_words hwords).1, hwf, hword⟩

theorem decodeLane_eq {i : Instr} {w : Nat} (hwords : i.words = 3) (hword : encode i = w) (hwf : i.wellFormed = true) :
    decodeLane w = .ok i :=
  accept_ok_iff.2 ⟨hword ▸ (readsLane_of_words hwords).1, hwf, hword⟩

/-- Settles O1: the word is read as the instruction, which is well-formed and has that word, so it is accepted. -/
theorem decodeEncodeScalar : Obligations.DecodeEncodeScalar := by
  unfold Obligations.DecodeEncodeScalar
  intro i hwords hwf
  exact ⟨decodeScalar_eq hwords rfl hwf, (readsScalar_of_words hwords).2⟩

/-- Settles O2: as O1, for lane words. -/
theorem decodeEncodeLane : Obligations.DecodeEncodeLane := by
  unfold Obligations.DecodeEncodeLane
  intro i hwords hwf
  exact ⟨decodeLane_eq hwords rfl hwf, (readsLane_of_words hwords).2⟩

/-- Settles O3: both decoders accept only a well-formed instruction that has the word. -/
theorem encodeDecodeWord : Obligations.EncodeDecodeWord := by
  unfold Obligations.EncodeDecodeWord
  intro w i h
  rcases h with h | h <;> exact (accept_ok_iff.1 h).2

/-- Settles O4: each word is the encoding of its instruction, which is well-formed, so it decodes to it. -/
theorem decodeSpecWords : Obligations.DecodeSpecWords := by
  unfold Obligations.DecodeSpecWords
  refine ⟨decodeScalar_eq rfl ?_ rfl, decodeScalar_eq rfl ?_ rfl, decodeScalar_eq rfl ?_ rfl, decodeScalar_eq rfl ?_ rfl,
    decodeScalar_eq rfl ?_ rfl, decodeScalar_eq rfl ?_ rfl, decodeScalar_eq rfl ?_ rfl, decodeScalar_eq rfl ?_ rfl,
    decodeScalar_eq rfl ?_ rfl, decodeScalar_eq rfl ?_ rfl, decodeScalar_eq rfl ?_ rfl, decodeScalar_eq rfl ?_ rfl,
    decodeScalar_eq rfl ?_ rfl, decodeScalar_eq rfl ?_ rfl, decodeScalar_eq rfl ?_ rfl, decodeScalar_eq rfl ?_ rfl,
    decodeScalar_eq rfl ?_ rfl, decodeScalar_eq rfl ?_ rfl, decodeScalar_eq rfl ?_ rfl, decodeScalar_eq rfl ?_ rfl,
    decodeLane_eq rfl ?_ rfl, decodeLane_eq rfl ?_ rfl, decodeLane_eq rfl ?_ rfl⟩ <;> decide

end Sys2Proof
end

section
/-! SUPPORT. The step in which a stream issues (spec/05 R119), from the scheduler's choice to `exec`; and words that are no instruction. -/

namespace Sys2Proof.Machine

/-- When no input waits, the machine's next action is the first that it may take. -/
theorem State.act_of_acts {s : State} {a : Act} {rest : List Act} (hagenda : s.agenda = []) (hacts : s.acts = a :: rest) :
    s.act = (s.tryActs (a :: rest)).getD (.next s.clock) := by
  rw [State.act, hagenda]
  dsimp only
  rw [State.goOn, hacts]

theorem State.act_scalar {s u : State} {k gid : Nat} {rest : List Act} (hagenda : s.agenda = []) (hacts : s.acts = .scalar k :: rest)
    (hchosen : s.chosenS k = (u, some gid)) : s.act = u.issue gid none := by
  rw [State.act_of_acts hagenda hacts, State.tryActs, Option.getD_some, State.scalarIssue, hchosen]

theorem State.act_lane {s u : State} {k gid slot : Nat} {rest : List Act} (hagenda : s.agenda = []) (hacts : s.acts = .lane k :: rest)
    (hchosen : s.chosenL k = (u, some (gid, slot))) : s.act = u.issue gid (some slot) := by
  rw [State.act_of_acts hagenda hacts, State.tryActs, Option.getD_some, State.laneIssue, hchosen]

section
variable {u : State} {gid : Nat} {g : Group}

/-- A group with no held update, refused store or page wait to see to tries its instruction (R326, R426, R436). -/
theorem State.issue_eq_attempt (here : u.group? gid = some g) (hheld : g.heldUpd = []) (hstore : g.pendStore = none)
    (hpage : g.pageSince = none) (slot : Option Nat) : u.issue gid slot = u.attempt gid slot := by
  simp only [State.issue, here, hstore, State.pageReplay, hpage, hheld, List.isEmpty_nil, if_true]

theorem State.attempt_scalar (here : u.group? gid = some g) (hside : g.sideWait = none) :
    u.attempt gid none = onNext (u.scalarStep gid g)
      (fun t => t.afterIssue gid none g (BitVec.ofNat 32 (wordIndex (t.launchOf g) g.spc))) := by
  simp only [State.attempt, here, hside, Option.isNone_none, if_true]

theorem State.attempt_lane {slot : Nat} {p : Path} (here : u.group? gid = some g) (hside : g.sideWait = none) (hpath : g.path? slot = some p) :
    u.attempt gid (some slot) = onNext (u.laneStep gid slot g p) (fun t => t.afterIssue gid (some slot) g p.pc) := by
  simp only [State.attempt, here, hside, hpath, Option.isNone_none, if_true]

/-! What a stream does with the word that it has fetched (R62, R63, R82), or without one. -/

variable {s1 : State} {w : Nat} {i : Instr}

theorem State.scalarStep_exec (hfetch : u.fetchScalar gid g = (.word w, s1)) (hdecode : decodeScalar w = .ok i)
    (hlegal : i.legalIn g.vregs g.lanew ({ s1 with cur := gid }.launchOf g).desc.lsize = true) :
    u.scalarStep gid g = exec i { s1 with cur := gid } := by
  simp only [State.scalarStep, hfetch, hdecode, if_pos hlegal]

theorem State.scalarStep_illegal (hfetch : u.fetchScalar gid g = (.word w, s1))
    (hword : ∀ i, decodeScalar w = .ok i → i.legalIn g.vregs g.lanew ({ s1 with cur := gid }.launchOf g).desc.lsize = false) :
    u.scalarStep gid g = ({ s1 with cur := gid } : State).trapS gid g .illegal 0 := by
  simp only [State.scalarStep, hfetch]
  cases hdecode : decodeScalar w with
  | error r => rfl
  | ok i => exact if_neg (by rw [hword i hdecode]; exact Bool.false_ne_true)

theorem State.scalarStep_fault {c : Cause} {a : Nat} (hfetch : u.fetchScalar gid g = (.flt c a, s1)) :
    u.scalarStep gid g = ({ s1 with cur := gid } : State).trapS gid g c (BitVec.ofNat 64 a) := by
  simp only [State.scalarStep, hfetch]

variable {slot : Nat} {p : Path}

theorem State.laneStep_exec (hfetch : u.fetchLane gid g p.pc = (.word w, s1)) (hdecode : decodeLane w = .ok i)
    (hlegal : i.legalIn g.vregs g.lanew ({ s1 with cur := gid, slot := slot }.launchOf g).desc.lsize = true)
    (hleave : ({ s1 with cur := gid, slot := slot } : State).quarterLeave gid = true) :
    u.laneStep gid slot g p = exec i (({ s1 with cur := gid, slot := slot } : State).landEarly gid) := by
  simp only [State.laneStep, hfetch, hdecode, if_pos hlegal, if_pos hleave]

theorem State.laneStep_illegal (hfetch : u.fetchLane gid g p.pc = (.word w, s1))
    (hword : ∀ i, decodeLane w = .ok i → i.legalIn g.vregs g.lanew ({ s1 with cur := gid, slot := slot }.launchOf g).desc.lsize = false) :
    u.laneStep gid slot g p = ({ s1 with cur := gid, slot := slot } : State).trapL gid g .illegal 0 0 := by
  simp only [State.laneStep, hfetch]
  cases hdecode : decodeLane w with
  | error r => rfl
  | ok i => exact if_neg (by rw [hword i hdecode]; exact Bool.false_ne_true)

theorem State.laneStep_fault {c : Cause} {a : Nat} (hfetch : u.fetchLane gid g p.pc = (.flt c a, s1)) :
    u.laneStep gid slot g p = ({ s1 with cur := gid, slot := slot } : State).trapL gid g c (BitVec.ofNat 64 a) 0 := by
  simp only [State.laneStep, hfetch]

/-- A scalar PC that is misaligned or outside the kernel's code is not fetched from (R62). -/
theorem State.fetchScalar_outside (h : g.spc.toNat % 4 ≠ 0 ∨ g.spc.toNat < (u.launchOf g).desc.scode.toNat
    ∨ (u.launchOf g).desc.scode.toNat + 4 * (u.launchOf g).desc.ssize ≤ g.spc.toNat) :
    u.fetchScalar gid g = (.flt .illegal g.spc.toNat, u) := by
  unfold State.fetchScalar
  exact if_pos (by simpa [or_assoc] using h)

/-- A lane index past the kernel's lane code is not fetched from (R63). -/
theorem State.fetchLane_outside {idx : W32} (h : (u.launchOf g).desc.lsize ≤ idx.toNat) :
    u.fetchLane gid g idx = (.flt .illegal 0, u) := by
  unfold State.fetchLane
  exact if_pos h

end

/-- Settles O6: the scheduler's choice tries its instruction, whose word is fetched, decoded and executed; what follows is what an issue
and a step leave. -/
theorem stepRunsLaneWord : Obligations.StepRunsLaneWord := by
  unfold Obligations.StepRunsLaneWord
  intro s u k gid slot g p rest w s1 i hagenda hacts hchosen here hheld hstore hpage hside hpath hfetch hdecode hlegal hleave
  calc step s = onNext (u.attempt gid (some slot)) (State.finishStep s.tick) := by
        rw [step, State.act_lane hagenda hacts hchosen, State.issue_eq_attempt here hheld hstore hpage]
    _ = _ := by rw [State.attempt_lane here hside hpath, State.laneStep_exec hfetch hdecode hlegal hleave]

/-- Settles O9: a word without a legal instruction, and a fetch that cannot be made, both end in the ILLEGAL stop before the instruction. -/
theorem illegalWordStops : Obligations.IllegalWordStops := by
  unfold Obligations.IllegalWordStops
  intro s gid g
  refine ⟨fun w s1 hfetch hword => State.scalarStep_illegal hfetch hword, fun slot p w s1 hfetch hword => State.laneStep_illegal hfetch hword,
    fun hpc => ?_, fun slot p hpc => State.laneStep_fault (State.fetchLane_outside hpc)⟩
  rw [State.scalarStep_fault (State.fetchScalar_outside hpc), BitVec.ofNat_toNat, BitVec.setWidth_eq]

end Sys2Proof.Machine
end

section
/-! SUPPORT. Short lane instructions (spec/08): masks, writes of lane registers, and what an instruction of a path that can issue leaves. -/

namespace Sys2Proof.Machine

/-! Masks of lanes. -/

/-- The bits of a number that a fold sums from powers of two: those that a test picks. -/
theorem foldl_two_pow (f : Nat → Bool) (n : Nat) :
    let x := (List.range n).foldl (fun a l => if f l then a + 2 ^ l else a) 0
    x < 2 ^ n ∧ ∀ l < n, x.testBit l = f l := by
  induction n with
  | zero => simp
  | succ n ih =>
    obtain ⟨hlt, hbit⟩ := ih
    simp only [List.range_succ, List.foldl_append, List.foldl_cons, List.foldl_nil]
    generalize (List.range n).foldl (fun a l => if f l then a + 2 ^ l else a) 0 = x at hlt hbit
    have hpow : 2 ^ (n + 1) = 2 ^ n + 2 ^ n := by omega
    cases hf : f n with
    | false =>
      refine ⟨by simp only [Bool.false_eq_true, if_false]; omega, fun l hl => ?_⟩
      simp only [Bool.false_eq_true, if_false]
      rcases Nat.lt_succ_iff_lt_or_eq.1 hl with hl | rfl
      · exact hbit l hl
      · rw [hf, Nat.testBit_lt_two_pow hlt]
    | true =>
      refine ⟨by simp only [if_true]; omega, fun l hl => ?_⟩
      simp only [if_true, Nat.add_comm x]
      rcases Nat.lt_succ_iff_lt_or_eq.1 hl with hl | rfl
      · rw [Nat.testBit_two_pow_add_gt hl, hbit l hl]
      · rw [Nat.testBit_two_pow_add_eq, Nat.testBit_lt_two_pow hlt, hf, Bool.not_false]

/-- The mask of the lanes that a test picks. -/
theorem lane_maskOf (f : Nat → Bool) {l : Nat} (hl : l < 64) : lane (maskOf f) l = f l := by
  rw [lane, maskOf, BitVec.getLsbD_ofNat, (foldl_two_pow f 64).2 l hl]
  simp [hl]

theorem lane_lanesMask (n : Nat) {l : Nat} (hl : l < 64) : lane (lanesMask n) l = decide (l < n) := by
  rw [lane, lanesMask, BitVec.getLsbD_ofNat, Nat.testBit_two_pow_sub_one]
  simp [hl]

@[simp] theorem lane_and (m m' : W64) (l : Nat) : lane (m &&& m') l = (lane m l && lane m' l) := BitVec.getLsbD_and
@[simp] theorem lane_or (m m' : W64) (l : Nat) : lane (m ||| m') l = (lane m l || lane m' l) := BitVec.getLsbD_or
@[simp] theorem lane_xor (m m' : W64) (l : Nat) : lane (m ^^^ m') l = (lane m l ^^ lane m' l) := BitVec.getLsbD_xor
theorem lane_not (m : W64) {l : Nat} (hl : l < 64) : lane (~~~m) l = !lane m l := by simp [lane, hl]

theorem mem_lanesOf {m : W64} {l : Nat} : l ∈ lanesOf m ↔ lane m l = true := by
  simp only [lanesOf, List.mem_filter, List.mem_range, and_iff_right_iff_imp]
  intro h
  by_contra hl
  simp [lane, BitVec.getLsbD_of_ge m l (by omega)] at h

theorem lane_lt {m : W64} {l : Nat} (h : lane m l = true) : l < 64 := by
  have := mem_lanesOf.2 h
  simp [lanesOf] at this
  exact this.1

theorem lanesOf_nodup (m : W64) : (lanesOf m).Nodup := List.nodup_range.filter _

/-! Lane instructions of a path that can issue (R123). -/

section
variable {s : State} {g : Group} {p : Path}

/-- The meaning of a lane word runs: no window of the path is full, and nothing is to be shadowed. -/
theorem CanIssue.laneOp_eq (h : CanIssue s g p false) (rows : Group → Path → List Nat) (k : Nat → Group → Path → Res) :
    laneOp s false rows k = k s.cur g p := by
  have hwindow : g.pend.any (fun x => x.path == p.id && (false || x.left == 0)) = false := by
    rw [List.any_eq_false]
    intro x hx hbusy
    simp only [Bool.false_or, Bool.and_eq_true, beq_iff_eq] at hbusy
    exact absurd (h.windows x hx hbusy.1).2 (by omega)
  have hshadow : s.shadow s.cur g (rows g p) = some g := by
    simp [State.shadow, Group.newRows, h.alone]
  unfold laneOp
  simp only [h.here, h.path, hwindow, hshadow, Bool.false_eq_true, if_false]

end

/-- What a lane instruction of a path leaves of its group besides its results. -/
theorem Group.stepPath_pend (g : Group) (slot : Nat) (p : Path) :
    (g.stepPath slot p).pend = g.pend.map (fun x => if x.path = p.id then { x with left := x.left - 1 } else x) := by
  unfold Group.stepPath Group.setPath
  split <;> rfl


theorem Group.stepPath_slot_other (g : Group) (slot : Nat) (p : Path) : (g.stepPath slot p).path? (1 - slot) = g.path? (1 - slot) := by
  unfold Group.stepPath Group.setPath Group.path?
  by_cases h : slot = 0
  · subst h; rfl
  · have h' : 1 - slot = 0 := by omega
    rw [if_neg h, if_pos h', if_pos h']
    rfl

/-! Results in lane registers (R84, R179). -/

/-- The writes of n registers from a destination field in one lane; none to vz. -/
def regWrites (c : BitVec 8) (n l : Nat) (val : Nat → Nat) : List LaneWrite :=
  if RegCode.isV c then (List.range n).map (fun k => { reg := c.toNat + k, lane := l, val := BitVec.ofNat 32 (val k) }) else []

theorem resultWrites_eq (t : Ty) (c : BitVec 8) (l raw : Nat) :
    resultWrites t c l raw = regWrites c t.regs l (fun k => raw / 2 ^ (32 * k)) := by
  unfold resultWrites regWrites Ty.regs
  cases t.wide <;> simp [List.range_succ]

theorem mem_regWrites {c : BitVec 8} {n l : Nat} {val : Nat → Nat} {x : LaneWrite} :
    x ∈ regWrites c n l val ↔ RegCode.isV c = true ∧ ∃ k < n, x = { reg := c.toNat + k, lane := l, val := BitVec.ofNat 32 (val k) } := by
  unfold regWrites
  split
  next h => simp [h, eq_comm]
  next h => simp [h]

/-- A lane register after writes that agree on what they write. -/
theorem Group.vreg_foldl_setVreg (ws : List LaneWrite) (F : Nat → Nat → W32) (g : Group) (hlane : ∀ x ∈ ws, x.lane < 64)
    (hval : ∀ x ∈ ws, x.val = F x.reg x.lane) (r : Nat) {l : Nat} (hl : l < 64) :
    (ws.foldl (fun g x => g.setVreg x.reg x.lane x.val) g).vreg r l
      = if ∃ x ∈ ws, x.reg = r ∧ x.lane = l then F r l else g.vreg r l := by
  induction ws generalizing g with
  | nil => simp
  | cons x ws ih =>
    rw [List.foldl_cons, ih _ (fun y hy => hlane y (List.mem_cons_of_mem _ hy)) (fun y hy => hval y (List.mem_cons_of_mem _ hy))]
    by_cases hrest : ∃ y ∈ ws, y.reg = r ∧ y.lane = l
    · rw [if_pos hrest, if_pos (hrest.imp fun y hy => ⟨List.mem_cons_of_mem _ hy.1, hy.2⟩)]
    · rw [if_neg hrest]
      by_cases hx : x.reg = r ∧ x.lane = l
      · rw [if_pos ⟨x, List.mem_cons_self, hx⟩, ← hx.1, ← hx.2, Group.vreg_setVreg_self, hval x List.mem_cons_self]
      · have hother : 64 * r + l ≠ 64 * x.reg + x.lane := by
          have := hlane x List.mem_cons_self
          omega
        rw [Group.vreg_setVreg_other _ _ _ _ _ _ hother, if_neg]
        rintro ⟨y, hy, hyr⟩
        rcases List.mem_cons.1 hy with rfl | hy
        · exact hx hyr
        · exact hrest ⟨y, hy, hyr⟩

/-- Writes of lane registers change lane registers alone. -/
theorem Group.foldl_setVreg_eq (ws : List LaneWrite) (g : Group) :
    ∃ v, ws.foldl (fun g x => g.setVreg x.reg x.lane x.val) g = { g with v := v } := by
  induction ws generalizing g with
  | nil => exact ⟨g.v, rfl⟩
  | cons x ws ih =>
    obtain ⟨v, hv⟩ := ih (g.setVreg x.reg x.lane x.val)
    exact ⟨v, hv⟩

/-- Out of an overreach no row is kept (R229). -/
theorem Group.apply_eq {g : Group} (alone : g.orun = none) (ws : List LaneWrite) :
    g.apply ws = ws.foldl (fun g x => g.setVreg x.reg x.lane x.val) g := by
  simp only [Group.apply, Group.keepRows, alone]

/-- The writes and flags of lanes one after another. -/
theorem lanesResult_eq (ls : List Nat) (f : Nat → List LaneWrite × Flags) :
    lanesResult ls f = (ls.flatMap (fun l => (f l).1), ls.foldl (fun a l => a ||| (f l).2) 0) := by
  suffices h : ∀ a : List LaneWrite × Flags, ls.foldl (fun a l => let r := f l; (a.1 ++ r.1, a.2 ||| r.2)) a
      = (a.1 ++ ls.flatMap (fun l => (f l).1), ls.foldl (fun a l => a ||| (f l).2) a.2) from h ([], fl0)
  induction ls with
  | nil => simp
  | cons l ls ih => intro a; simp [ih, List.append_assoc]

/-- The lane registers after the lanes that take part have each written n registers. -/
theorem Group.vreg_apply_lanes {g : Group} (alone : g.orun = none) (p : Path) (w : LaneWord) (n : Nat) (val : Nat → Nat → Nat)
    (r : Nat) {l : Nat} (hl : l < 64) :
    (g.apply ((lanesOf (g.active p &&& g.guard w)).flatMap (fun l => regWrites w.vd n l (fun k => val k l)))).vreg r l
      = laneAfter g p w n val r l := by
  have hmem {x : LaneWrite} (hx : x ∈ (lanesOf (g.active p &&& g.guard w)).flatMap (fun l => regWrites w.vd n l (fun k => val k l))) :
      takesPart g p w x.lane = true ∧ RegCode.isV w.vd = true ∧ ∃ k < n,
        x = { reg := w.vd.toNat + k, lane := x.lane, val := BitVec.ofNat 32 (val k x.lane) } := by
    obtain ⟨m, hm, hx⟩ := List.mem_flatMap.1 hx
    obtain ⟨hv, k, hk, rfl⟩ := mem_regWrites.1 hx
    exact ⟨mem_lanesOf.1 hm, hv, k, hk, rfl⟩
  rw [Group.apply_eq alone, Group.vreg_foldl_setVreg _ (fun r l => BitVec.ofNat 32 (val (r - w.vd.toNat) l)) g
    (fun x hx => lane_lt (hmem hx).1)
    (fun x hx => by obtain ⟨-, -, k, -, h⟩ := hmem hx; rw [h]; simp) r hl]
  unfold laneAfter
  refine if_congr ⟨?_, fun h => ?_⟩ rfl rfl
  · rintro ⟨x, hx, rfl, rfl⟩
    obtain ⟨htakes, hv, k, hk, h⟩ := hmem hx
    rw [h]
    simp [htakes, hv, hk]
  · simp only [Bool.and_eq_true, decide_eq_true_eq] at h
    obtain ⟨⟨⟨htakes, hv⟩, hlow⟩, hhigh⟩ := h
    exact ⟨{ reg := r, lane := l, val := BitVec.ofNat 32 (val (r - w.vd.toNat) l) }, List.mem_flatMap.2 ⟨l, mem_lanesOf.2 htakes,
      mem_regWrites.2 ⟨hv, r - w.vd.toNat, by omega, by rw [Nat.add_sub_cancel' hlow]⟩⟩, rfl, rfl⟩

/-- What a short lane instruction leaves of its group: its registers, its FLAGS and its path's progress. -/
theorem OnlyLanes.apply_stepPath {g : Group} (alone : g.orun = none) (ws : List LaneWrite) (slot : Nat) (p : Path) (fl : Flags) :
    OnlyLanes g { (g.apply ws).stepPath slot p with flags := fl } := by
  obtain ⟨v, hv⟩ := Group.foldl_setVreg_eq ws g
  rw [Group.apply_eq alone, hv]
  unfold OnlyLanes Group.stepPath Group.setPath
  split <;> rfl

section
variable {s : State} {g : Group} {p : Path}

/-- A short lane instruction whose lanes each write n registers from its destination completes. -/
theorem CanIssue.laneRows (h : CanIssue s g p false) {i : Instr} {w : LaneWord} {rows : List Nat}
    {f : Group → Path → Nat → List LaneWrite × Flags} {n : Nat} {val : Nat → Nat → Nat} {fl : Nat → Flags}
    (hexec : exec i s = laneShort s w rows f) (hf : ∀ l, f g p l = (regWrites w.vd n l (fun k => val k l), fl l)) :
    LaneRows s g p i w n val fl := by
  have hresult : lanesResult (lanesOf (g.active p &&& g.guard w)) (f g p)
      = ((lanesOf (g.active p &&& g.guard w)).flatMap (fun l => regWrites w.vd n l (fun k => val k l)),
         (lanesOf (g.active p &&& g.guard w)).foldl (fun a l => a ||| fl l) 0) := by
    rw [lanesResult_eq]; simp only [hf]
  rw [laneShort, h.laneOp_eq, hresult] at hexec
  obtain ⟨v, hv⟩ := Group.foldl_setVreg_eq
    ((lanesOf (g.active p &&& g.guard w)).flatMap (fun l => regWrites w.vd n l (fun k => val k l))) g
  refine ⟨_, _, hexec, OnlyGroup.setGroup _ _ _, State.setGroup_self _ _ _, OnlyLanes.apply_stepPath h.alone .., fun r l hl => ?_, ?_, ?_,
    ?_, ?_⟩
  · change ((g.apply _).stepPath s.slot p).vreg r l = _
    rw [Group.stepPath_vreg, Group.vreg_apply_lanes h.alone p w n val r hl]
  · rw [Group.apply_eq h.alone, hv]; simp [flagsAfter]
  · change ((g.apply _).stepPath s.slot p).pend = _
    rw [Group.stepPath_pend, Group.apply_eq h.alone, hv]
  · change ((g.apply _).stepPath s.slot p).path? s.slot = _
    rw [Group.stepPath_self, Group.apply_eq h.alone, hv]
  · change ((g.apply _).stepPath s.slot p).path? (1 - s.slot) = _
    rw [Group.stepPath_slot_other, Group.apply_eq h.alone, hv]; rfl

end

end Sys2Proof.Machine
end

section
/-! SUPPORT. Lane moves (spec/08 R195, R196, R201). -/

namespace Sys2Proof.Machine

/-- A block parameter, of the block that executes; 0 without one (R128, R179). -/
theorem Group.param_toNat (g : Group) (n : Nat) :
    (g.param n).toNat = (g.laneQ.head?.map (fun b => (b.k.getD n 0).toNat)).getD 0 := by
  unfold Group.param
  cases g.laneQ with
  | nil => rfl
  | cons b r => simp [nth]

/-- Register k of what an operand field names, as 32 bits: of a register, a block parameter, or zero (R74, R179). -/
def Group.word32 (g : Group) (c : BitVec 8) (k l : Nat) : Nat :=
  if c.toNat < 0xF0 then (g.vreg (c.toNat + k) l).toNat
  else if c.toNat < 0xFF then ((g.laneQ.head?.map (fun b => (b.k.getD (c.toNat - 0xF0) 0).toNat)).getD 0) / 2 ^ (32 * k) % 2 ^ 32 else 0

theorem RegCode.isV_iff (c : BitVec 8) : RegCode.isV c = true ↔ c.toNat < 0xF0 := by simp [RegCode.isV]
theorem RegCode.isK_iff (c : BitVec 8) : RegCode.isK c = true ↔ 0xF0 ≤ c.toNat ∧ c.toNat < 0xFF := by simp [RegCode.isK]

theorem Group.read32_word32 (g : Group) (c : BitVec 8) (l : Nat) : g.read32 c l = g.word32 c 0 l := by
  unfold Group.read32 Group.word32
  simp only [RegCode.isV_iff, RegCode.isK_iff, ← Group.param_toNat]
  by_cases hv : c.toNat < 0xF0
  · rw [if_pos hv, if_pos hv, Nat.add_zero]
  · have : 0xF0 ≤ c.toNat := by omega
    simp [hv, this]

/-- The two registers of a pair. -/
theorem Group.read64_word32 (g : Group) (c : BitVec 8) (l : Nat) : g.read64 c l = g.word32 c 0 l + g.word32 c 1 l * 2 ^ 32 := by
  unfold Group.read64 Group.word32
  simp only [RegCode.isV_iff, RegCode.isK_iff, ← Group.param_toNat]
  by_cases hv : c.toNat < 0xF0
  · simp only [if_pos hv, Nat.add_zero]
  · have hlow : 0xF0 ≤ c.toNat := by omega
    have hlt := (g.param (c.toNat - 0xF0)).isLt
    by_cases hk : c.toNat < 0xFF
    · simp only [hv, hlow, hk, and_self, if_true, if_false]; omega
    · simp [hv, hk]

theorem Group.word32_lt (g : Group) (c : BitVec 8) (k l : Nat) : g.word32 c k l < 2 ^ 32 := by
  unfold Group.word32
  split
  · exact BitVec.isLt _
  · split
    · exact Nat.mod_lt _ (by decide)
    · decide

/-- Register k of a pair read, as the 32 bits that a write of it takes. -/
theorem Group.read64_part (g : Group) (c : BitVec 8) {k : Nat} (hk : k < 2) (l : Nat) :
    BitVec.ofNat 32 (g.read64 c l / 2 ^ (32 * k)) = BitVec.ofNat 32 (g.word32 c k l) := by
  have h0 := g.word32_lt c 0 l
  have h1 := g.word32_lt c 1 l
  apply BitVec.eq_of_toNat_eq
  rw [g.read64_word32, BitVec.toNat_ofNat, BitVec.toNat_ofNat]
  obtain rfl | rfl : k = 0 ∨ k = 1 := by omega
  · omega
  · omega

/-- Register k of an operand read for a type, as the 32 bits that a write of it takes. -/
theorem Group.readTy_part (g : Group) (t : Ty) (c : BitVec 8) {k : Nat} (hk : k < t.regs) (l : Nat) :
    BitVec.ofNat 32 (g.readTy t c l / 2 ^ (32 * k)) = BitVec.ofNat 32 (g.word32 c k l) := by
  unfold Group.readTy
  unfold Ty.regs at hk
  by_cases hwide : t.wide = true
  · rw [if_pos hwide] at hk ⊢
    exact g.read64_part c hk l
  · rw [if_neg hwide] at hk ⊢
    obtain rfl : k = 0 := by omega
    rw [g.read32_word32, Nat.mul_zero, Nat.pow_zero, Nat.div_one]

/-- The immediate of a type: sign-extended for i64 (R76, R182). -/
theorem immRaw_eq (t : Ty) (x : W32) : immRaw t x = if t = .i64 then (x.signExtend 64).toNat else x.toNat := by
  cases t <;> rfl

/-- Writes that agree on the registers they name are the same. -/
theorem regWrites_congr {c : BitVec 8} {n l : Nat} {val val' : Nat → Nat}
    (h : ∀ k < n, BitVec.ofNat 32 (val k) = BitVec.ofNat 32 (val' k)) : regWrites c n l val = regWrites c n l val' := by
  unfold regWrites
  refine ite_congr rfl (fun _ => List.map_congr_left fun k hk => ?_) (fun _ => rfl)
  rw [h k (List.mem_range.1 hk)]

/-- The selectors of `vspec` (R201). -/
theorem specValue_of_mem {gid : Nat} {g : Group} {p : Path} {n : Nat} {v : Nat → Nat}
    (h : (n, v) ∈ [(0, fun l => l), (1, fun _ => g.lanew), (2, fun _ => g.gidx), (3, fun _ => g.team),
      (4, fun _ => (p.mask &&& g.live).toNat % 2 ^ 32), (5, fun _ => (p.mask &&& g.live).toNat / 2 ^ 32), (6, fun _ => g.live.toNat % 2 ^ 32),
      (7, fun _ => g.live.toNat / 2 ^ 32), (8, fun _ => gid % 128), (9, fun _ => gid / 128)]) :
    n < 256 ∧ ∀ l, specValue gid g p n l = v l := by
  simp only [List.mem_cons, Prod.mk.injEq, List.not_mem_nil, or_false] at h
  rcases h with ⟨rfl, rfl⟩ | ⟨rfl, rfl⟩ | ⟨rfl, rfl⟩ | ⟨rfl, rfl⟩ | ⟨rfl, rfl⟩ | ⟨rfl, rfl⟩ | ⟨rfl, rfl⟩ | ⟨rfl, rfl⟩ | ⟨rfl, rfl⟩
    | ⟨rfl, rfl⟩ <;> exact ⟨by decide, fun _ => rfl⟩

/-- Settles O41: each move writes the registers of its destination with what it names, 32 bits at a time. -/
theorem laneMoves : Obligations.LaneMoves := by
  unfold Obligations.LaneMoves
  intro s g p w can src imm
  have himm (k : Nat) : immRaw w.ty w.x32 / 2 ^ (32 * k) = imm k := by
    rw [immRaw_eq]; exact apply_ite (· / 2 ^ (32 * k)) _ _ _
  refine ⟨?_, fun _ => ?_, ?_, ?_, fun n v hsel hv => ?_⟩
  · refine can.laneRows rfl fun l => Prod.ext ?_ rfl
    exact (resultWrites_eq ..).trans (regWrites_congr fun k hk => g.readTy_part w.ty w.va hk l)
  · refine can.laneRows rfl fun l => Prod.ext ?_ rfl
    exact (resultWrites_eq ..).trans (regWrites_congr fun k hk => g.read64_part w.va hk l)
  · refine can.laneRows rfl fun l => Prod.ext ?_ rfl
    exact (resultWrites_eq ..).trans (regWrites_congr fun k _ => congrArg _ (himm k))
  · refine can.laneRows rfl fun l => Prod.ext ?_ rfl
    refine (resultWrites_eq ..).trans (regWrites_congr fun k hk => ?_)
    unfold Group.readB
    split
    · exact g.readTy_part w.ty w.va hk l
    · split
      · exact congrArg _ (himm k)
      · exact g.readTy_part w.ty w.vb hk l
  · obtain ⟨hlt, hval⟩ := specValue_of_mem hv
    refine can.laneRows rfl fun l => Prod.ext ?_ rfl
    refine (resultWrites_eq ..).trans (regWrites_congr fun k hk => ?_)
    obtain rfl : k = 0 := Nat.lt_one_iff.1 hk
    rw [hsel, Nat.mod_eq_of_lt hlt, hval, Nat.mul_zero, Nat.pow_zero, Nat.div_one]

end Sys2Proof.Machine
end

section
/-! SUPPORT. Lane compares and predicate logic (spec/08 R193, R194). -/

namespace Sys2Proof.Machine

/-- A predicate lane of the group after a predicate is written: p7 reads 1 (R180). -/
theorem Group.lane_pred_setPred (g : Group) (n : Nat) (x : W64) (q : Nat) {l : Nat} (hl : l < g.lanew) (hl64 : l < 64) :
    lane ((g.setPred n x).pred q) l = if q = 7 then true else if q = n then lane x l else lane (g.pred q) l := by
  have hmask : lane (lanesMask g.lanew) l = true := by rw [lane_lanesMask _ hl64, decide_eq_true hl]
  rw [Group.pred_setPred]
  by_cases h7 : q = 7
  · subst h7
    rw [if_neg (fun h => h.2 h.1.symm), Group.pred_seven, hmask, if_pos rfl]
  · rw [if_neg h7]
    by_cases hq : q = n
    · rw [if_pos ⟨hq, hq ▸ h7⟩, if_pos hq, lane_and, hmask, Bool.and_true]
    · rw [if_neg (fun h => hq h.1), if_neg hq]

/-- Writing a predicate changes predicates alone. -/
theorem Group.setPred_eq (g : Group) (n : Nat) (x : W64) : ∃ ps, g.setPred n x = { g with p := ps } := by
  unfold Group.setPred
  split
  · exact ⟨g.p, rfl⟩
  · exact ⟨_, rfl⟩

/-! The flags of a float compare (R193). -/

theorem Val.isNan_of_isSnan {x : Val} (h : x.isSnan = true) : x.isNan = true := by
  cases x with
  | nan s => rfl
  | _ => cases h

/-- A compare raises NV or nothing: an ordered condition on any NaN, another on a signalling one. -/
theorem cmpFlags_eq (cc : Cond) (x y : Val) : cmpFlags cc x y
    = if (x.isSnan || y.isSnan) || ([Cond.lt, .le, .gt, .ge].contains cc && (x.isNan || y.isNan)) then flNV else 0 := by
  have hsnan : (x.isSnan || y.isSnan) = true → (x.isNan || y.isNan) = true := by
    simp only [Bool.or_eq_true]
    exact Or.imp Val.isNan_of_isSnan Val.isNan_of_isSnan
  have hordered : ((x.isSnan || y.isSnan) || (x.isNan || y.isNan)) = (x.isNan || y.isNan) := by
    cases hs : x.isSnan || y.isSnan with
    | false => rfl
    | true => rw [hsnan hs, Bool.or_true]
  cases cc with
  | lt | le | gt | ge =>
    change _ = if (x.isSnan || y.isSnan || (true && (x.isNan || y.isNan))) = true then flNV else 0
    rw [Bool.true_and, hordered]
    rfl
  | eq | ne | un | ord =>
    change _ = if (x.isSnan || y.isSnan || (false && (x.isNan || y.isNan))) = true then flNV else 0
    rw [Bool.false_and, Bool.or_false]
    rfl

/-- Lanes that each raise one flag or nothing raise it together when one of them does. -/
theorem foldl_or_flag (fl : Flags) (b : Nat → Bool) (ls : List Nat) :
    ls.foldl (fun f l => f ||| if b l then fl else 0) 0 = if ls.any b then fl else 0 := by
  induction ls using List.reverseRecOn with
  | nil => rfl
  | append_singleton ls l ih =>
    rw [List.foldl_append, ih, List.any_append]
    cases ls.any b <;> cases hb : b l <;> simp [hb]

section
variable {s : State} {g : Group} {p : Path}

/-- A lane word of which a path has issued, and whose group has changed in predicates and FLAGS alone. -/
theorem PredResult.intro {i : Instr} {g1 g2 : Group} {ps : Tbl W64} {val : Nat → Nat → Bool} {fl : Flags}
    (hexec : exec i s = .next (s.setGroup s.cur g2)) (hg1 : g1 = { g with p := ps })
    (hg2 : g2 = { g1.stepPath s.slot p with flags := g.flags ||| fl })
    (hval : ∀ q l, l < g.lanew → lane (g1.pred q) l = if q = 7 then true else val q l) : PredResult s g p i val fl := by
  refine ⟨_, _, hexec, OnlyGroup.setGroup _ _ _, State.setGroup_self _ _ _, ?_, fun q l hl => ?_, ?_, ?_, ?_⟩
  · rw [hg2, hg1]
    unfold OnlyPredicates Group.stepPath Group.setPath
    split <;> rfl
  · rw [hg2]
    change lane ((g1.stepPath s.slot p).pred q) l = _
    rw [Group.stepPath_pred, hval q l hl]
  · rw [hg2]
  · rw [hg2, hg1]; exact Group.stepPath_self _ s.slot p
  · rw [hg2, hg1]; exact Group.stepPath_slot_other _ s.slot p

/-- What a compare writes: in each active lane the condition and its complement under the guard (R193). -/
theorem CanIssue.compareResult (can : CanIssue s g p false) (width : g.lanew ≤ 64) {i : Instr} {w : LaneWord}
    (dests : w.vd.toNat / 4 % 8 ≠ w.vd.toNat / 32 ∨ w.vd.toNat / 32 = 7) {c : Group → Path → Nat → Bool × Flags}
    (hexec : exec i s = compare s w c) {holds raises : Nat → Bool} {fl : Flags}
    (hc : ∀ l, c g p l = (holds l, if raises l then fl else 0)) :
    CompareResult s g p i w holds (if (lanesOf (g.active p &&& g.guard w)).any raises then fl else 0) := by
  rw [compare, can.laneOp_eq] at hexec
  simp only [hc] at hexec
  generalize hpd1 : w.vd.toNat / 32 = pd1 at dests hexec
  generalize hpd2 : w.vd.toNat / 4 % 8 = pd2 at dests hexec
  generalize hx1 : (g.pred pd1 &&& ~~~ g.active p) ||| maskOf (fun l => lane (g.active p &&& g.guard w) l && holds l) = x1 at hexec
  generalize hx2 : (g.pred pd2 &&& ~~~ g.active p) ||| (g.active p &&& g.guard w
    &&& ~~~ maskOf (fun l => lane (g.active p &&& g.guard w) l && holds l)) = x2 at hexec
  obtain ⟨ps1, h1⟩ := g.setPred_eq pd1 x1
  obtain ⟨ps, h2⟩ := (g.setPred pd1 x1).setPred_eq pd2 x2
  have hflags : (((g.setPred pd1 x1).setPred pd2 x2).stepPath s.slot p).flags = g.flags := by simp
  refine PredResult.intro hexec (h2.trans (by rw [h1])) (by simp only [hflags, ← foldl_or_flag, fl0]) fun q l hl => ?_
  have hl64 : l < 64 := by omega
  rw [Group.lane_pred_setPred _ _ _ _ (by rw [Group.setPred_lanew]; exact hl) hl64, Group.lane_pred_setPred _ _ _ _ hl hl64]
  by_cases h7 : q = 7
  · rw [if_pos h7, if_pos h7]
  simp only [if_neg h7, hpd1, hpd2]
  by_cases hq2 : q = pd2
  · subst hq2
    simp only [← hx2, lane_or, lane_and, lane_not _ hl64, lane_maskOf _ hl64]
    have hne : (q == pd1) = false := beq_eq_false_iff_ne.2 (by omega)
    cases lane (g.active p) l <;> cases lane (g.guard w) l <;> simp
  · by_cases hq1 : q = pd1
    · subst hq1
      simp only [← hx1, lane_or, lane_and, lane_not _ hl64, lane_maskOf _ hl64]
      cases lane (g.active p) l <;> simp [hq2]
    · simp [hq1, hq2]

/-- What predicate logic writes: one predicate, in the lanes that take part (R194). -/
theorem CanIssue.plogResult (can : CanIssue s g p false) (width : g.lanew ≤ 64) {i : Instr} {w : LaneWord} {F : W64 → W64 → W64}
    {f : Bool → Bool → Bool} (hF : ∀ x y l, l < 64 → lane (F x y) l = f (lane x l) (lane y l)) (hexec : exec i s = plog s w F) :
    PredResult s g p i (fun q l => if takesPart g p w l && q == w.vd.toNat / 32
      then f (lane (g.pred (w.va.toNat / 32)) l) (lane (g.pred (w.vb.toNat / 32)) l) else lane (g.pred q) l) 0 := by
  rw [plog, can.laneOp_eq] at hexec
  generalize w.vd.toNat / 32 = pd at hexec ⊢
  generalize hx : (g.pred pd &&& ~~~ (g.active p &&& g.guard w)) ||| (F (g.pred (w.va.toNat / 32)) (g.pred (w.vb.toNat / 32))
    &&& (g.active p &&& g.guard w)) = x at hexec
  obtain ⟨ps, hps⟩ := g.setPred_eq pd x
  refine PredResult.intro hexec hps ?_ fun q l hl => ?_
  · rw [hx, show g.flags ||| 0 = ((g.setPred pd x).stepPath s.slot p).flags by simp]
  have hl64 : l < 64 := by omega
  rw [Group.lane_pred_setPred _ _ _ _ hl hl64]
  by_cases h7 : q = 7
  · rw [if_pos h7, if_pos h7]
  rw [if_neg h7, if_neg h7]
  by_cases hq : q = pd
  · subst hq
    simp only [← hx, lane_or, lane_and, lane_not _ hl64, hF _ _ _ hl64, takesPart]
    cases lane (g.active p) l <;> cases lane (g.guard w) l <;> simp
  · simp [hq]

end

/-- Settles O39: a compare writes its condition and the complement, predicate logic its one predicate. -/
theorem lanePredicates : Obligations.LanePredicates := by
  unfold Obligations.LanePredicates
  intro s g p w can width
  refine ⟨fun cc dests => ⟨fun _ _ => ?_, fun T hT => ?_⟩, fun i f hform => ?_⟩
  · rw [← ite_self (c := (lanesOf (g.active p &&& g.guard w)).any (fun _ => false) = true) (0 : Flags)]
    refine can.compareResult width dests rfl fun l => Prod.ext ?_ rfl
    cases cc <;> simp [Cond.holds, beq_eq_decide, bne]
  · refine can.compareResult width dests rfl fun l => ?_
    rw [hT, Option.getD_some]
    refine Prod.ext ?_ (cmpFlags_eq ..)
    refine ite_congr rfl (fun _ => rfl) fun _ => ?_
    cases cc <;> simp [Cond.holds, beq_eq_decide, bne]
  · simp only [List.mem_cons, Prod.mk.injEq, List.not_mem_nil, or_false] at hform
    rcases hform with ⟨rfl, rfl⟩ | ⟨rfl, rfl⟩ | ⟨rfl, rfl⟩ | ⟨rfl, rfl⟩
    · exact can.plogResult width (fun x y l _ => lane_and x y l) rfl
    · exact can.plogResult width (fun x y l _ => lane_or x y l) rfl
    · exact can.plogResult width (fun x y l _ => lane_xor x y l) rfl
    · exact can.plogResult width (F := fun a b => a &&& ~~~b) (f := fun a b => a && !b) (fun x y l hl => by rw [lane_and, lane_not _ hl]) rfl

end Sys2Proof.Machine
end

section
/-! SUPPORT. A lane atomic whose line takes the place of a clean line that DRAM no longer equals (spec/11 R240). -/

namespace Sys2Proof.Machine

/-! A machine whose home LLC is full. -/

/-- A group with one path, in which lane 0 alone lives. Its v4 and v5 name an address of a mapped page, its v6 holds 1. -/
def amoGroup : Group :=
  { (loadGroup 0) with laneQ := [{}], running := true, slot0 := some { pc := 0, mask := 1 }, nextPath := 1, live := 1,
                       v := [(256, 0x5000), (384, 1)] }
/-- Its path. -/
def amoPath : Path := { pc := 0, mask := 1 }
/-- `vamo` as a reduction that adds v6 to the word at v5:v4. -/
def amoWord : LaneWord := { gp := 7, vd := 0xFF, va := 4, vb := 6 }
/-- The leaf of the page: everything may be done in it, and its A and D are set (R318). -/
def amoLeaf : W64 := BitVec.ofNat 64 (0x40000000 / 4096 * 2 ^ 10 + 0xDF)
/-- The line beside the one that the reduction touches. -/
def staleLine : Nat := 0x1000001
/-- A version of n lines, all homed on die 0. -/
@[irreducible] def llcFillers (n : Nat) : Tbl Version := [(1, { lines := List.replicate n (0, {}) })]
/-- The lines of such a version are the die's. -/
theorem State.dieLines_llcFillers {s : State} {n : Nat} (h : s.versions = llcFillers n) : s.dieLines 0 = n := by
  have hhome (b : Bool) : (homeDie (64 * 0) == 0 || b) = true := by simp [homeDie, regionOf]
  simp [State.dieLines, h, llcFillers, List.filter_replicate, hhome]
/-- The machine: the page's translation stands in the core TLB (R324), and the LLC of die 0 holds a clean line, of ones, that DRAM no longer
equals, besides the lines of versions. -/
def fullLlc : State :=
  { State.reset with
    groups := [(0, amoGroup)], teams := [(keyOf 1 0, loadTeam)], launches := [(1, loadLaunch 0)],
    parts := [(0, { loadPart with rcd := loadPart.rcd ||| (1 <<< 80) })], cores := [(0, { tlb := [(tlbKey 0 0x5000, amoLeaf)] })],
    llc := [(staleLine, { data := 1 })], versions := llcFillers 6291456 }

/-- The state once the stale line has left for the line of the reduction. -/
def llcEvicted : State := { fullLlc with llc := [(0x1000000, { data := fullLlc.dramLine 0x1000000 })] }

theorem fullLlc_llcTouch : fullLlc.llcTouch 0x1000000 = llcEvicted := by
  have hfind : Tbl.find fullLlc.llc 0x1000000 = none := by decide +kernel
  have hfilter : fullLlc.llc.filter (fun e => homeDie (64 * e.1) == homeDie (64 * 0x1000000)) = [(staleLine, { data := 1 })] := by decide +kernel
  have hroom : fullLlc.llcRoom 0x1000000 = fullLlc.llcEvict staleLine := by
    unfold State.llcRoom
    simp only [hfilter]
    have hd : homeDie (64 * 0x1000000) = 0 := by decide +kernel
    rw [hd, State.dieLines_llcFillers (n := 6291456) rfl]
    simp [Nat.mod_one]
  unfold State.llcTouch State.llcPut
  simp only [hfind, hroom, Option.isSome_none, Bool.false_eq_true, if_false]
  rfl


/-! Where the reduction leads. -/

/-- A translation that a core holds is held again as it is. -/
theorem State.holdLeaf_same {s : State} {core key : Nat} {leaf : W64} (hs : Tbl.sorted s.cores = true)
    (htlb : (s.core core).tlb = [(key, leaf)]) : s.holdLeaf core false key leaf = s := by
  have hput : Tbl.put (s.core core).tlb key leaf = (s.core core).tlb := by simp [htlb, Tbl.put]
  have hne : s.core core ≠ {} := fun h => by rw [h] at htlb; exact nomatch htlb
  simp only [State.holdLeaf, State.updCore, State.setCore, Bool.false_eq_true, if_false, hput]
  show ({ s with cores := Tbl.set s.cores core (s.core core) {} } : State) = s
  rw [show Tbl.set s.cores core (s.core core) {} = s.cores from Tbl.set_get _ _ _ hs hne]

/-- In host-assisted mode a page whose translation the core holds, A and D set, leads to its frame (R318, R320, R324). -/
theorem State.translate_held {s : State} {core va pa : Nat} {l : Launch} {leaf : W64} (hs : Tbl.sorted s.cores = true)
    (htlb : (s.core core).tlb = [(tlbKey l.asid.toNat va, leaf)]) (assisted : fld (s.part l.part).rcd 80 1 = 1)
    (canonical : bits va 56 8 = 0) (hpred : l.pred = false)
    (hleaf : setBits leaf.toNat 54 3 0 = leaf.toNat ∧ fld leaf 54 3 = 0 ∧ permitted leaf.toNat .amo = true ∧ leaf.toNat &&& 0xC0 = 0xC0
      ∧ bit leaf.toNat 5 = false ∧ tlbLeaf leaf.toNat 0 = leaf)
    (hplace : s.place (leafAddr leaf.toNat 0 va) = some pa) (hreach : s.reachable l.part pa .amo = true) (hmoving : s.frameMoving pa = false)
    (touch : Bool) : s.translate core l va .amo touch = (.port pa, s) := by
  obtain ⟨hbits, hlevel, hperm, had, hglobal, hheld⟩ := hleaf
  have hfor (need : Nat) : s.leafFor core l va need false = (.leaf leaf.toNat 0 0, s) := by
    simp [State.leafFor, Core.tlbOf, htlb, Tbl.find, assisted, hbits, hlevel]
  simp [State.translate, canonical, hfor, hperm, hplace, hreach, hpred, hmoving, Rw.writes, leafKey, hglobal, hheld,
    State.holdLeaf_same hs htlb]

/-- The reduction leads to its word in device memory, in the machine and once accesses have been made in it. -/
theorem fullLlc_locate {u : State} (hu : OnlyDevice fullLlc u 0) (touch : Bool) :
    u.locate 0 amoGroup 0x5000 4 .amo touch = (.port 0x40000000, u) := by
  obtain ⟨hfields, -, hcore, -, -, hsorted, -⟩ := hu
  have htlb : (u.core 0).tlb = [(tlbKey 0 0x5000, amoLeaf)] := by rw [hcore]; rfl
  have hlaunch : u.launchOf amoGroup = fullLlc.launchOf amoGroup := by rw [hfields]; rfl
  have hpart : u.part 0 = fullLlc.part 0 := by rw [hfields]; rfl
  have hplace : u.place 0x40000000 = fullLlc.place 0x40000000 := by rw [hfields]; rfl
  have hreach : u.reachable 0 0x40000000 .amo = fullLlc.reachable 0 0x40000000 .amo := by rw [hfields]; rfl
  have hmoving : u.frameMoving 0x40000000 = fullLlc.frameMoving 0x40000000 := by rw [hfields]; rfl
  have houtside : inAperture 0x5000 = false ∧ inTeamWin 0x5000 = false := by decide +kernel
  simp only [State.locate, houtside, Bool.false_eq_true, if_false, hlaunch]
  have hl : (fullLlc.launchOf amoGroup).part = 0 ∧ (fullLlc.launchOf amoGroup).asid.toNat = 0
    ∧ (fullLlc.launchOf amoGroup).pred = false := by decide +kernel
  obtain ⟨hlpart, hlasid, hlpred⟩ := hl
  refine State.translate_held (leaf := amoLeaf) (hsorted (by decide +kernel)) (by rw [hlasid]; exact htlb) ?_ (by decide +kernel) hlpred
    (by decide +kernel) ?_ ?_ ?_ touch
  · rw [hlpart, hpart]; decide +kernel
  · rw [show leafAddr amoLeaf.toNat 0 0x5000 = 0x40000000 by decide +kernel, hplace]; decide +kernel
  · rw [hlpart, hreach]; decide +kernel
  · rw [hmoving]; decide +kernel


/-! The reduction. -/

theorem fullLlc_setGroup : fullLlc.setGroup 0 amoGroup = fullLlc := rfl

theorem amoWord_takesPart {l : Nat} (h : takesPart amoGroup amoPath amoWord l = true) : l = 0 := by
  have hpart : amoGroup.active amoPath &&& amoGroup.guard amoWord = 1 := by decide +kernel
  rw [takesPart, lane, hpart] at h
  by_contra hl
  simp [BitVec.getLsbD_one, hl] at h

theorem fullLlc_canIssue : CanIssue fullLlc amoGroup amoPath false :=
  ⟨rfl, rfl, fun _ h => (nomatch h), rfl⟩

theorem fullLlc_self : OnlyDevice fullLlc fullLlc 0 := ⟨rfl, fun _ _ => rfl, fun _ => rfl, fun _ => rfl, fun _ => rfl, id, id⟩

/-- An ordinary access passes its checks. -/
theorem Access.check_pass {s : State} {g : Group} {k va n pa : Nat} {rw : Rw} (h : Access s g k va n pa rw) :
    s.check s.cur g k va n rw = (.pass, s) := by
  rw [State.check_of_locate h.unrefused (h.port false), State.chkOf, h.unwatched]
  rfl

theorem fullLlc_access : Access fullLlc amoGroup 1 0x5000 4 0x40000000 .amo where
  here := rfl
  port := fullLlc_locate fullLlc_self
  unrefused := by decide +kernel
  kind := .inr
    { dram := by decide +kernel
      line := by decide
      decided := by decide +kernel
      current := fun l hl => by
        rw [show Tbl.find fullLlc.llc (0x40000000 / 64) = none by decide +kernel] at hl
        exact nomatch hl
      named := by decide +kernel
      goes := fun _ => ⟨rfl, rfl, by
        rw [show fullLlc.taskHead amoGroup = none by decide +kernel]
        exact ⟨by decide +kernel, by decide +kernel⟩⟩ }
  aligned := by decide
  unwatched := by decide +kernel
  alone := rfl
  settled := rfl
  room := fun h => absurd h (by decide)
  clear := by decide +kernel
  unlocked := rfl
  good := by decide +kernel

theorem amoWord_address : amoGroup.read64 amoWord.va 0 = 0x5000 := by decide +kernel

theorem fullLlc_lanesAccess :
    LanesAccess fullLlc amoGroup amoPath amoWord (fun l => amoGroup.read64 amoWord.va l) (fun _ => 0x40000000) 4 .amo where
  whole := rfl
  lanes l hl := by
    obtain rfl := amoWord_takesPart hl
    rw [amoWord_address]
    exact fullLlc_access
  stays l hl u touch hu _ := by
    obtain rfl := amoWord_takesPart hl
    rw [amoWord_address]
    exact fullLlc_locate hu touch

/-- The state once the reduction has been performed: it has written 1 to its word. -/
def amoDone : State :=
  ((llcEvicted.portPut 0x40000000 [1, 0, 0, 0]).snoop 0 0x40000000 [1, 0, 0, 0] true).note
    { pa := 0x40000000, len := 4, who := some 0, launch := 1, committed := true }

theorem llcEvicted_writeFor :
    llcEvicted.writeFor (some 0) (some 0) amoGroup.key 0x5000 0x40000000 [1, 0, 0, 0] false = .ok () amoDone := by
  have htarget : llcEvicted.target (some 0) amoGroup.key 0x40000000 false 1 1 = .ok none llcEvicted := rfl
  have hkey : amoGroup.key / 2 ^ 32 = 1 := by decide +kernel
  unfold State.writeFor
  rw [htarget, hkey]
  rfl

theorem fullLlc_rmw : fullLlc.rmw 0 amoGroup (1 + fullLlc.slot) 0x5000 0x40000000 4 .grp (amoNew amoWord amoGroup 0) = .ok 0 amoDone := by
  have hdrain : fullLlc.drainFor 0 0x40000000 4 true = .ok () fullLlc := rfl
  have hreach : fullLlc.reach 0 0x40000000 = fullLlc := rfl
  have hmark : fullLlc.markRead amoGroup 0x40000000 4 = fullLlc := rfl
  have hbad : fullLlc.bad 0x40000000 4 = false := by decide +kernel
  have hregion : regionOf 0x40000000 = .dram := by decide +kernel
  have hread : fullLlc.rmwRead amoGroup.key 0x40000000 4 false = 0 := by decide +kernel
  have hbytes : toBytes 4 (amoNew amoWord amoGroup 0 0) = [1, 0, 0, 0] := by decide +kernel
  have hscope : decide (2 ≤ Scope.grp.code) = false := rfl
  have halone : amoGroup.orun = none := rfl
  unfold State.rmw
  rw [hdrain]
  simp only [halone, hbad, coreOf, Nat.zero_div, hreach, hmark, hscope, State.rmwPut, hregion, hread, hbytes, Bool.false_eq_true, if_false]
  rw [show 0x40000000 / 64 = 0x1000000 from rfl, fullLlc_llcTouch, llcEvicted_writeFor]
  rfl

/-- A lane's reduction at a port where nothing keeps it waiting. -/
theorem redOne_performed {s t : State} {gid n l ea pa m : Nat} {w : LaneWord} {g : Group}
    (port : s.locate gid g ea n .amo true = (.port pa, s)) (clear : s.sideBlocks gid g ea pa n true = false)
    (settled : s.drainFor gid pa n true = .ok () s)
    (performed : s.rmw gid g (1 + s.slot) ea pa n (amoScope w) (amoNew w g l) = .ok m t) : redOne gid w n g l ea s = .ok [] t := by
  simp only [redOne, port, State.afterSide, clear, settled, performed, Bool.false_eq_true, if_false]

/-- A relaxed reduction of one lane whose checks pass issues in the state that its lane leaves. -/
theorem execVamo_reduction {s t : State} {g : Group} {p : Path} {w : LaneWord} {l ea : Nat} (h : CanIssue s g p false)
    (hvd : w.vd = 0xFF) (horder : amoOrder w = .rlx) (hself : s.setGroup s.cur g = s)
    (hpart : g.active p &&& g.guard w ≠ 0) (hlanes : (lanesOf (g.active p &&& g.guard w)).map (fun l => (l, amoEa w g l)) = [(l, ea)])
    (haligned : ea % tyBytes w.ty = 0) (hcheck : s.check s.cur g (1 + s.slot) ea (tyBytes w.ty) .amo = (.pass, s))
    (hroom : s.tableRoom s.cur (1 + s.slot) 1 = true) (hlog : (s.core (coreOf s.cur)).sideLog.length ≤ 256)
    (hone : redOne s.cur w (tyBytes w.ty) g l ea s = .ok [] t) :
    exec (.vamo w) s = (t.heal s.wrote.length).issued s.cur p w [] := by
  change execVamo w s = _
  have hacquires : (amoOrder w).acquires = false := by rw [horder]; rfl
  have hreleases : (amoOrder w).releases = false := by rw [horder]; rfl
  simp [execVamo, laneMem, h.laneOp_eq, h.alone, hlanes, haligned, hself, State.checkLanes, hcheck, releaseFirst, hacquires, hreleases,
    hvd, laneStore, firstCause, lanesThat, granules, hroom, State.laneOrder, lanesOverlap, State.performLanes, h.here, hone, Nat.not_lt.2 hlog]
  exact fun hnone => absurd hnone hpart

theorem fullLlc_redOne : redOne 0 amoWord 4 amoGroup 0 0x5000 fullLlc = .ok [] amoDone := by
  have hclear : fullLlc.sideBlocks 0 amoGroup 0x5000 0x40000000 4 true = false := by decide +kernel
  have hdrain : fullLlc.drainFor 0 0x40000000 4 true = .ok () fullLlc := rfl
  have hscope : amoScope amoWord = .grp := by decide +kernel
  exact redOne_performed (fullLlc_locate fullLlc_self true) hclear hdrain (by rw [hscope]; exact fullLlc_rmw)

theorem fullLlc_exec : exec (.vamo amoWord) fullLlc = (amoDone.heal fullLlc.wrote.length).issued 0 amoPath amoWord [] := by
  have hpart : amoGroup.active amoPath &&& amoGroup.guard amoWord = 1 := by decide +kernel
  exact execVamo_reduction fullLlc_canIssue rfl (by decide +kernel) fullLlc_setGroup (by rw [hpart]; decide) (by decide +kernel) (by decide +kernel)
    fullLlc_access.check_pass (by decide +kernel) (by decide +kernel) fullLlc_redOne

/-- A lane instruction that issues changes no byte of memory any more. -/
theorem State.issued_memByte {s t : State} {gid n : Nat} {p : Path} {w : LaneWord} {ws : List LaneWrite}
    (h : (s.heal n).issued gid p w ws = .next t) (a : Nat) : t.memByte a = s.memByte a := by
  have hheal : (s.heal n).llc = s.llc ∧ (s.heal n).mem = s.mem := by
    unfold State.heal
    split <;> exact ⟨rfl, rfl⟩
  injection h with h
  rw [← h, State.updGroup]
  split <;> simp [State.memByte, State.comByte, hheal]

/-- The reduction changes the byte beside its line. -/
theorem fullLlc_stale_lost {t : State} (h : exec (.vamo amoWord) fullLlc = .next t) : t.memByte (64 * staleLine) ≠ fullLlc.memByte (64 * staleLine) := by
  rw [fullLlc_exec] at h
  rw [State.issued_memByte h]
  decide +kernel

/-- Refutes O45: where the home LLC is full, the line of a lane's word takes the place of another, and a clean one that DRAM no longer equals
(R240) leaves it without a write-back. The byte of that line, which no lane touches, then reads as DRAM has it. -/
theorem not_laneAtomics : ¬ Obligations.LaneAtomics := by
  unfold Obligations.LaneAtomics
  intro h
  obtain ⟨hperforms, -⟩ := h fullLlc amoGroup amoPath amoWord (fun _ => 0x40000000) fullLlc_canIssue (by decide +kernel) (by decide +kernel) (by decide +kernel)
    (.inr rfl) (by decide) (fun hrel => absurd hrel (by decide +kernel))
  have hapart : LanesApart amoGroup amoPath amoWord (fun _ => 0x40000000) (tyBytes amoWord.ty) :=
    fun l m hl hm hne => absurd ((amoWord_takesPart hl).trans (amoWord_takesPart hm).symm) hne
  obtain ⟨-, hissues⟩ := hperforms hapart fullLlc_lanesAccess (fun _ _ _ => .inl (by decide +kernel)) 0 _ (by decide +kernel)
    List.mem_cons_self
  obtain ⟨t, -, hexec, ⟨-, hother, -⟩, -⟩ := hissues (by decide +kernel)
  have hbyte := (hother (64 * staleLine) (fun _ _ => .inr (show 0x40000000 + tyBytes amoWord.ty ≤ 64 * staleLine by decide +kernel))).2
  exact fullLlc_stale_lost hexec hbyte

end Sys2Proof.Machine
end

section
/-! SUPPORT. What leaves the kernels of the launches as they are (spec/05 R119): no scalar instruction changes the descriptor that a launch was
accepted with (R60), so the index of a word in its kernel's code is the same after the instruction as before. One lemma for each operation
of the state that a scalar instruction can make, in the order of the model's files: its proof states the facts about the operations that it is
made of, and `grind` follows the branches of its definition. -/

namespace Sys2Proof.Machine

/-- The kernel descriptor of every launch. -/
def Kernels : Type := Nat → Option Desc
def kernelsOf (ls : Tbl Launch) : Kernels := fun id => (Tbl.find ls id).map (·.desc)
def State.descs (s : State) : Kernels := kernelsOf s.launches

/-- The state that an answer leaves. -/
def Rc.state {α : Type} : Rc α → State
  | .ok _ s => s
  | .flt _ s => s
  | .hold s => s
/-- The state that an engine's answer leaves. -/
def Eng.state {α : Type} : Eng α → State
  | .ok _ s => s
  | .fail _ s => s
  | .page _ _ s => s
  | .wait s => s

theorem kernelsOf_put_same {ls : Tbl Launch} {k : Nat} {l l' : Launch} (h : Tbl.find ls k = some l) (hd : l'.desc = l.desc) :
    kernelsOf (Tbl.put ls k l') = kernelsOf ls := by
  funext j
  unfold kernelsOf
  by_cases hj : j = k
  · subst hj; simp [h, hd]
  · rw [Tbl.find_put_other _ _ _ _ hj]

theorem State.descs_congr {s t : State} (h : t.launches = s.launches) : t.descs = s.descs := by rw [State.descs, State.descs, h]

theorem Rc.descs_congr {α : Type} {r x : Rc α} (h : r = x) : x.state.descs = r.state.descs := by rw [h]

/-- The descriptor of a group's launch is read from the kernels. -/
theorem State.launchOf_desc_congr {s t : State} (h : t.descs = s.descs) (g : Group) : (t.launchOf g).desc = (s.launchOf g).desc := by
  have hlaunch : (t.launch? g.launch).map (·.desc) = (s.launch? g.launch).map (·.desc) := congrFun h g.launch
  unfold State.launchOf
  cases ht : t.launch? g.launch <;> cases hs : s.launch? g.launch <;> simp_all

theorem State.updLaunch_descs (s : State) (k : Nat) (f : Launch → Launch) (h : ∀ l, (f l).desc = l.desc) :
    (s.updLaunch k f).descs = s.descs := by
  unfold State.updLaunch
  split
  next l hl => exact kernelsOf_put_same hl (h l)
  next => rfl

theorem foldl_descs {β : Type} {f : State → β → State} (h : ∀ s x, (f s x).descs = s.descs) (l : List β) (s : State) :
    (l.foldl f s).descs = s.descs := by
  induction l generalizing s with
  | nil => rfl
  | cons x l ih => rw [List.foldl_cons, ih, h]

/-! Groups, teams, cores and the parts around them: the accessors. -/

theorem State.setGroup_descs (s : State) (gid : Nat) (g : Group) : (s.setGroup gid g).descs = s.descs := rfl

theorem State.updGroup_descs (s : State) (gid : Nat) (f : Group → Group) : (s.updGroup gid f).descs = s.descs :=
  State.descs_congr (State.updGroup_launches ..)

theorem State.setTeam_descs (s : State) (key : Nat) (t : Team) : (s.setTeam key t).descs = s.descs := rfl

theorem State.updTeam_descs (s : State) (key : Nat) (f : Team → Team) : (s.updTeam key f).descs = s.descs :=
  State.descs_congr (State.updTeam_launches ..)

theorem State.setCore_descs (s : State) (c : Nat) (x : Core) : (s.setCore c x).descs = s.descs := rfl

theorem State.updCore_descs (s : State) (c : Nat) (f : Core → Core) : (s.updCore c f).descs = s.descs := rfl

theorem State.delGroup_descs (s : State) (gid : Nat) : (s.delGroup gid).descs = s.descs :=
  State.descs_congr (State.delGroup_launches ..)

theorem State.setDie_descs (s : State) (d : Nat) (x : Die) : (s.setDie d x).descs = s.descs := rfl

theorem State.updDie_descs (s : State) (d : Nat) (f : Die → Die) : (s.updDie d f).descs = s.descs := rfl

theorem State.setComplex_descs (s : State) (t : Nat) (x : Complex) : (s.setComplex t x).descs = s.descs := rfl

theorem State.updQueue_descs (s : State) (q : Nat) (f : Queue → Queue) : (s.updQueue q f).descs = s.descs := rfl

theorem State.setPart_descs (s : State) (p : Nat) (x : Partition) : (s.setPart p x).descs = s.descs := rfl

theorem State.updPart_descs (s : State) (p : Nat) (f : Partition → Partition) : (s.updPart p f).descs = s.descs := rfl

theorem State.useFresh_descs (s : State) : s.useFresh.2.descs = s.descs := rfl

/-! Ports, the LLC, versions and the side log. -/

theorem State.llcEvict_descs (s : State) (n : Nat) : (s.llcEvict n).descs = s.descs := by
  grind [State.llcEvict, State.descs]

theorem State.llcRoom_descs (s : State) (n : Nat) : (s.llcRoom n).descs = s.descs := by
  have := State.llcEvict_descs
  grind [State.llcRoom, State.descs]

theorem State.llcPut_descs (s : State) (n : Nat) (l : LlcLine) : (s.llcPut n l).descs = s.descs := by
  have := State.llcRoom_descs
  grind [State.llcPut, State.descs]

theorem State.llcTouch_descs (s : State) (n : Nat) : (s.llcTouch n).descs = s.descs := by
  have := State.llcPut_descs; have := State.useFresh_descs
  grind [State.llcTouch, State.descs]

theorem State.comSet_descs (s : State) (pa : Nat) (b : Byte) : (s.comSet pa b).descs = s.descs := by
  have := State.llcPut_descs
  grind [State.comSet, State.descs]

theorem State.chipSet_descs (s : State) (core off : Nat) (b : Byte) : (s.chipSet core off b).descs = s.descs := by
  have := State.setGroup_descs
  grind [State.chipSet, State.descs]

theorem State.portSet_descs (s : State) (pa : Nat) (b : Byte) : (s.portSet pa b).descs = s.descs := by
  have := State.comSet_descs; have := State.chipSet_descs
  grind [State.portSet, State.descs]

theorem State.portPut_descs (s : State) (pa : Nat) (x : List Byte) : (s.portPut pa x).descs = s.descs := by
  have := State.portSet_descs
  fun_induction State.portPut s pa x <;> grind [State.descs]

theorem State.note_descs (s : State) (w : Wrote) : (s.note w).descs = s.descs := by
  grind [State.note, State.descs]

theorem State.heal_descs (s : State) (n : Nat) : (s.heal n).descs = s.descs := by
  grind [State.heal, State.descs]

theorem State.portWrite_descs (s : State) (pa : Nat) (bs : List Byte) (launch : Nat) (own : Bool) :
    (s.portWrite pa bs launch own).descs = s.descs := by
  have := State.heal_descs; have := State.note_descs; have := State.portPut_descs
  grind [State.portWrite, State.descs]

theorem State.logError_descs (s : State) (pa who : Nat) : (s.logError pa who).descs = s.descs := by
  have := State.updDie_descs
  grind [State.logError, State.descs]

theorem State.verSet_descs (s : State) (v va pa : Nat) (b : Byte) : (s.verSet v va pa b).descs = s.descs := by
  have := State.llcRoom_descs
  grind [State.verSet, State.descs]

theorem State.mergeLine_descs (s : State) (parent : Option Nat) (n : Nat) (l : VLine) : (s.mergeLine parent n l).descs = s.descs := by
  have := State.comSet_descs; have := State.verSet_descs; have := @foldl_descs
  grind [State.mergeLine, State.descs]

theorem State.reparent_descs (s : State) (v : Nat) (p : Option Nat) : (s.reparent v p).descs = s.descs := by
  grind [State.reparent, State.descs]

theorem State.pubSnoop_descs (s : State) (launch : Nat) (lines : List Nat) : (s.pubSnoop launch lines).descs = s.descs := by
  grind [State.pubSnoop, State.descs]

theorem State.publish_descs (s : State) (v : Nat) : (s.publish v).descs = s.descs := by
  have := State.note_descs; have := State.mergeLine_descs; have := State.pubSnoop_descs; have := State.reparent_descs
  have := State.updTeam_descs; have := State.updLaunch_descs; have := @foldl_descs
  grind [State.publish, State.descs]

theorem State.discard_descs (s : State) (v : Nat) : (s.discard v).descs = s.descs := by
  have := State.updTeam_descs; have := State.updLaunch_descs
  grind [State.discard, State.descs]

theorem State.through_descs (s : State) (pa : Nat) (b : Byte) : (s.through pa b).descs = s.descs := by
  have := State.portSet_descs
  grind [State.through, State.descs]

theorem State.throughAll_descs (s : State) (pa : Nat) (x : List Byte) : (s.throughAll pa x).descs = s.descs := by
  have := State.through_descs
  fun_induction State.throughAll s pa x <;> grind [State.descs]

theorem State.record_descs (s : State) (part pa n v : Nat) : (s.record part pa n v).descs = s.descs := by
  have := State.heal_descs; have := State.note_descs; have := State.throughAll_descs
  grind [State.record, State.descs]

theorem State.versionEvent_descs (s : State) (p launch team event pubcount lines : Nat) :
    (s.versionEvent p launch team event pubcount lines).descs = s.descs := by
  have := State.updPart_descs; have := State.record_descs
  grind [State.versionEvent, State.descs]

theorem State.force_descs (s : State) (v event : Nat) : (s.force v event).descs = s.descs := by
  have := State.discard_descs; have := State.publish_descs; have := State.versionEvent_descs
  grind [State.force, State.descs]

theorem State.taskVersion_descs (s : State) (key : Nat) (l : Launch) : (s.taskVersion key l).state.descs = s.descs := by
  have := State.updTeam_descs; have := State.force_descs
  grind [State.taskVersion, State.descs, Rc.state]

theorem State.detectOnly_descs (s : State) (id event : Nat) : (s.detectOnly id event).descs = s.descs := by
  have := State.publish_descs; have := State.versionEvent_descs; have := State.updLaunch_descs
  grind [State.detectOnly, State.descs]

theorem State.stallEvent_descs (s : State) (who : Option Nat) (id event : Nat) : (State.stallEvent s who id event).descs = s.descs := by
  have := State.versionEvent_descs; have := State.setGroup_descs; have := State.updLaunch_descs
  cases who <;> grind [State.stallEvent]

theorem State.budget_descs (s : State) (who : Option Nat) (key v pa na nd : Nat) (x : Nat) :
    (s.budget who key v pa na nd x).state.descs = s.descs := by
  fun_induction State.budget s who key v pa na nd x
  all_goals
    have := State.taskVersion_descs; have := State.force_descs; have := State.stallEvent_descs; have := State.detectOnly_descs
    grind [State.descs, Rc.state]

theorem State.roomIn_descs (s : State) (who : Option Nat) (key v pa na nd : Nat) : (s.roomIn who key v pa na nd).state.descs = s.descs := by
  have := State.budget_descs
  grind [State.roomIn, State.descs, Rc.state]

theorem State.unstallLog_descs (s : State) (who : Option Nat) (id : Nat) : (State.unstallLog s who id).descs = s.descs := by
  cases who with
  | some gid =>
    have := State.setGroup_descs
    grind [State.unstallLog]
  | none =>
    simp only [State.unstallLog]
    split
    next l hl =>
      split
      · exact kernelsOf_put_same hl rfl
      · rfl
    next => rfl

theorem State.snoop_descs (s : State) (core pa : Nat) (bs : List Byte) (committed : Bool) :
    (s.snoop core pa bs committed).descs = s.descs := by
  have := State.updCore_descs; have := State.updDie_descs
  grind [State.snoop, State.descs]

theorem State.fill_descs (s : State) (core pa : Nat) (scalar : Bool) : (s.fill core pa scalar).descs = s.descs := by
  have := State.updCore_descs; have := State.updDie_descs
  grind [State.fill, State.descs]

theorem State.refresh_descs (s : State) (core pa : Nat) : (s.refresh core pa).descs = s.descs := by
  have := State.updDie_descs
  grind [State.refresh, State.descs]

theorem State.readDram_descs (s : State) (core : Nat) (ch : List Nat) (fresh pa n : Nat) (via : Via) :
    (s.readDram core ch fresh pa n via).2.descs = s.descs := by
  have := State.logError_descs; have := State.llcTouch_descs; have := State.refresh_descs; have := State.fill_descs
  have := State.useFresh_descs
  grind [State.readDram, State.descs]

theorem State.target_descs (s : State) (who : Option Nat) (key pa : Nat) (wide : Bool) (na nd : Nat) :
    (s.target who key pa wide na nd).state.descs = s.descs := by
  have := State.roomIn_descs; have := State.taskVersion_descs
  grind [State.target, State.descs, Rc.state]

theorem State.holdWriter_descs (s : State) (who : Option Nat) : (State.holdWriter s who).descs = s.descs := by
  have := State.updGroup_descs
  cases who <;> grind [State.holdWriter]

theorem State.writeFor_descs (s : State) (core who : Option Nat) (key va pa : Nat) (bs : List Byte) (wide : Bool) :
    (s.writeFor core who key va pa bs wide).state.descs = s.descs := by
  have := State.snoop_descs; have := State.target_descs; have := State.verSet_descs; have := State.unstallLog_descs
  have := State.note_descs; have := State.portPut_descs; have := State.holdWriter_descs; have := @foldl_descs
  grind [State.writeFor, State.descs, Rc.state]

theorem State.parentRoom_descs (s : State) (who : Option Nat) (key pa : Nat) : (s.parentRoom who key pa).state.descs = s.descs := by
  have := State.roomIn_descs; have := State.holdWriter_descs
  grind [State.parentRoom, State.descs, Rc.state]

theorem State.moveBytes_descs (s : State) (key pa n : Nat) : (State.moveBytes s key pa n).descs = s.descs := by
  unfold State.moveBytes
  split
  · rfl
  split
  · rfl
  split
  · rfl
  dsimp only
  split
  · rfl
  · exact (State.descs_congr (s := State.mergeLine _ _ _ _) rfl).trans (State.mergeLine_descs ..)

theorem State.writePort_descs (s : State) (core : Nat) (who : Option Nat) (key va pa : Nat) (bs : List Byte) :
    (s.writePort core who key va pa bs).state.descs = s.descs := by
  have := State.writeFor_descs; have := State.logError_descs; have := State.note_descs; have := State.portPut_descs
  grind [State.writePort, State.descs, Rc.state]

/-! Trace packets and monitors. -/

theorem State.traceBytes_descs (s : State) (core base size : Nat) (wrap : Bool) (x : List Byte) :
    (s.traceBytes core base size wrap x).descs = s.descs := by
  have := State.setCore_descs; have := State.through_descs
  fun_induction State.traceBytes s core base size wrap x <;> grind [State.descs]

theorem State.packetOut_descs (s : State) (core : Nat) (ctl : BitVec 128) (bs : List Byte) : (s.packetOut core ctl bs).descs = s.descs := by
  have := State.traceBytes_descs; have := State.updCore_descs
  grind [State.packetOut, State.descs]

theorem State.syncPacket_descs (s : State) (core : Nat) (ctl : BitVec 128) : (s.syncPacket core ctl).descs = s.descs := by
  have := State.packetOut_descs; have := State.updCore_descs
  grind [State.syncPacket, State.descs]

theorem State.syncDue_descs (s : State) (core : Nat) (ctl : BitVec 128) : (s.syncDue core ctl).descs = s.descs := by
  have := State.syncPacket_descs
  grind [State.syncDue, State.descs]

theorem State.traceLoss_descs (s : State) (core : Nat) (ctl : BitVec 128) : (s.traceLoss core ctl).descs = s.descs := by
  have := State.useFresh_descs; have := State.syncPacket_descs; have := State.updCore_descs; have := State.packetOut_descs
  have := State.syncDue_descs
  grind [State.traceLoss, State.descs]

theorem State.packet_descs (s : State) (gid : Nat) (g : Group) (ty : Nat) (payload : List Byte) :
    (s.packet gid g ty payload).descs = s.descs := by
  have := State.traceLoss_descs; have := State.useFresh_descs; have := State.updCore_descs; have := State.syncPacket_descs
  have := State.syncDue_descs; have := State.packetOut_descs
  grind [State.packet, State.descs]

theorem State.traceBranch_descs (s : State) (gid : Nat) (g : Group) (target : W64) : (s.traceBranch gid g target).descs = s.descs := by
  have := State.packet_descs
  grind [State.traceBranch, State.descs]

theorem State.monitor_descs (s : State) (core part ev v : Nat) : (s.monitor core part ev v).descs = s.descs := by
  have := State.setDie_descs
  grind [State.monitor, State.descs]

theorem State.monitorFree_descs (s : State) (core part ev : Nat) : (s.monitorFree core part ev).descs = s.descs := by
  have := State.useFresh_descs; have := State.monitor_descs
  grind [State.monitorFree, State.descs]

theorem State.portLevel_descs (s : State) (core pa : Nat) : (s.portLevel core pa).2.descs = s.descs := by
  have := State.useFresh_descs
  grind [State.portLevel, State.descs]

theorem State.levelAt_descs (s : State) (core pa : Nat) : (s.levelAt core pa).2.descs = s.descs := by
  have := State.portLevel_descs
  grind [State.levelAt, State.descs]

theorem State.reachAt_descs (s : State) (core pa level : Nat) : (s.reachAt core pa level).descs = s.descs := by
  grind [State.reachAt, State.descs]

theorem State.reach_descs (s : State) (core pa : Nat) : (s.reach core pa).descs = s.descs := by
  have := State.levelAt_descs; have := State.reachAt_descs
  grind [State.reach, State.descs]

/-! Translation of addresses. -/

theorem State.walkEntry_descs (s : State) (die asid va k a : Nat) : (s.walkEntry die asid va k a).2.descs = s.descs := by
  have := State.updDie_descs
  grind [State.walkEntry, State.descs]

theorem State.walk_descs (s : State) (die asid va : Nat) (bad : Bool) (table : Nat) (x : Nat) :
    (s.walk die asid va bad table x).2.descs = s.descs := by
  have := State.walkEntry_descs
  fun_induction State.walk s die asid va bad table x <;> grind [State.descs]

theorem State.holdLeaf_descs (s : State) (core : Nat) (eng : Bool) (key : Nat) (leaf : W64) :
    (s.holdLeaf core eng key leaf).descs = s.descs := by
  have := State.updCore_descs
  grind [State.holdLeaf, State.descs]

theorem State.leafFor_descs (s : State) (core : Nat) (l : Launch) (va need : Nat) (eng : Bool) :
    (s.leafFor core l va need eng).2.descs = s.descs := by
  have := State.walk_descs
  grind [State.leafFor, State.descs]

theorem State.translate_descs (s : State) (core : Nat) (l : Launch) (va : Nat) (rw : Rw) (touch : Bool) (eng : Bool) :
    (s.translate core l va rw touch eng).2.descs = s.descs := by
  have hleaf := State.leafFor_descs s core l va (0x40 + (if rw.writes then 0x80 else 0)) eng
  unfold State.translate
  dsimp only
  split
  · rfl
  generalize s.leafFor core l va (0x40 + (if rw.writes then 0x80 else 0)) eng = x at hleaf ⊢
  obtain ⟨f, t⟩ := x
  cases f with
  | missing => exact hleaf
  | bad => exact hleaf
  | asked => exact hleaf
  | leaf e a k =>
    rw [← hleaf]
    dsimp only
    split
    · rfl
    split
    · rfl
    · cases hpte : t.place a <;>
        simp only [apply_ite Prod.snd, apply_ite State.descs, State.holdLeaf_descs, State.portWrite_descs, ite_self]

theorem State.frameOf_descs (s : State) (core : Nat) (l : Launch) (va : Nat) (eng : Bool) :
    (s.frameOf core l va eng).2.descs = s.descs := by
  have := State.leafFor_descs
  grind [State.frameOf, State.descs]

theorem State.locate_descs (s : State) (gid : Nat) (g : Group) (va n : Nat) (rw : Rw) (touch : Bool) (eng : Bool) :
    (s.locate gid g va n rw touch eng).2.descs = s.descs := by
  have := State.translate_descs
  grind [State.locate, State.descs]

theorem State.requestPage_descs (s : State) (core ctx : Nat) (l : Launch) (va : Nat) (rw : Rw) (engine : Bool) :
    (s.requestPage core ctx l va rw engine).descs = s.descs := by
  have := State.setPart_descs; have := State.record_descs
  grind [State.requestPage, State.descs]

/-! Loads, stores and atomic accesses at their ports. -/

theorem State.gwCount_descs (s : State) (gid : Nat) (g : Group) (va n : Nat) (rw : Rw) : (s.gwCount gid g va n rw).descs = s.descs := by
  have := State.updCore_descs
  grind [State.gwCount, State.descs]

theorem State.check_descs (s : State) (gid : Nat) (g : Group) (k : Nat) (va n : Nat) (rw : Rw) :
    (s.check gid g k va n rw).2.descs = s.descs := by
  have := State.locate_descs
  grind [State.check, State.descs]

theorem State.overStore_descs (s : State) (gid : Nat) (o : Over) (path va pa : Nat) (bs : List Byte) :
    (s.overStore gid o path va pa bs).state.descs = s.descs := by
  have := State.updGroup_descs
  grind [State.overStore, State.descs, Rc.state]

theorem State.holdGroup_descs (s : State) (gid k : Nat) : (s.holdGroup gid k).descs = s.descs := by
  have := State.updGroup_descs
  grind [State.holdGroup, State.descs]

theorem State.sidePut_descs (s : State) (gid : Nat) (g : Group) (va : Nat) (bs : List Byte) (op : Option Nat) (scope : Nat) (cmp : Nat)
    (rel : Option Nat) (path : Nat) : (s.sidePut gid g va bs op scope cmp rel path).state.descs = s.descs := by
  have := State.setCore_descs
  grind [State.sidePut, State.descs, Rc.state]

theorem State.sideHold_descs (s : State) (gid k n : Nat) : (s.sideHold gid k n).descs = s.descs := by
  have := State.holdGroup_descs
  grind [State.sideHold, State.descs]

theorem State.done_descs (s : State) (gid : Nat) (f : Group → Group) : (s.done gid f).descs = s.descs := by
  have := State.updGroup_descs
  grind [State.done, State.descs]

theorem State.acquire_descs (s : State) (gid : Nat) (scope : Scope) : (s.acquire gid scope).descs = s.descs := by
  have := State.updDie_descs
  grind [State.acquire, State.descs]

theorem State.rmwPut_descs (s : State) (core : Nat) (who : Option Nat) (key va pa n : Nat) (wide : Bool) (f : Nat → Nat) :
    (s.rmwPut core who key va pa n wide f).state.descs = s.descs := by
  have := State.writeFor_descs; have := State.llcTouch_descs; have := State.parentRoom_descs; have := State.moveBytes_descs
  have := State.writePort_descs
  grind [State.rmwPut, State.descs, Rc.state]

theorem State.tryLock_descs (s : State) (x : LockWait) : (s.tryLock x).2.descs = s.descs := by
  have := State.rmwPut_descs
  grind [State.tryLock, State.descs, Rc.state]

theorem State.granted_descs (s : State) (x : LockWait) : (s.granted x).descs = s.descs := by
  have := State.updGroup_descs; have := State.acquire_descs; have := State.done_descs
  grind [State.granted, State.descs]

theorem State.grantLocks_descs (s : State) (tried : List (Nat × Option Nat)) (x : List LockWait) :
    (s.grantLocks tried x).descs = s.descs := by
  have := State.tryLock_descs; have := State.granted_descs
  fun_induction State.grantLocks s tried x <;> grind [State.descs]

theorem State.grantAll_descs (s : State) : (s.grantAll).descs = s.descs := by
  have := State.grantLocks_descs
  grind [State.grantAll, State.descs]

theorem Rc.grant_descs {α : Type} (r : Rc α) : r.grant.state.descs = r.state.descs := by
  cases r with
  | ok a s => exact State.grantAll_descs s
  | flt c s => rfl
  | hold s => rfl

theorem State.performPosted_descs (s : State) (gid : Nat) (p : Posted) : (s.performPosted gid p).state.descs = s.descs := by
  have := State.setGroup_descs; have := State.updGroup_descs; have := State.sidePut_descs; have := @Rc.grant_descs
  have := State.writePort_descs
  grind [State.performPosted, State.descs, Rc.state]

theorem State.performAll_descs (s : State) (gid : Nat) (x : List Posted) : (s.performAll gid x).state.descs = s.descs := by
  have := State.performPosted_descs
  fun_induction State.performAll s gid x <;> grind [State.descs, Rc.state]

theorem State.drain_descs (s : State) (gid : Nat) : (s.drain gid).state.descs = s.descs := by
  have := State.performAll_descs
  grind [State.drain, State.descs, Rc.state]

theorem State.drainFor_descs (s : State) (gid pa n : Nat) (wr : Bool) : (s.drainFor gid pa n wr).state.descs = s.descs := by
  have := State.performAll_descs
  grind [State.drainFor, State.descs, Rc.state]

theorem State.sideLog_descs (s : State) (gid : Nat) (g : Group) (va : Nat) (bs : List Byte) (op : Option Nat) (scope : Nat) (cmp : Nat)
    (rel : Option Nat) (path : Nat) : (s.sideLog gid g va bs op scope cmp rel path).state.descs = s.descs := by
  have := State.performAll_descs; have := State.sidePut_descs
  grind [State.sideLog, State.descs, Rc.state]

theorem State.leaveLate_descs (s : State) (gid : Nat) : (s.leaveLate gid).descs = s.descs := by
  have := State.updCore_descs
  grind [State.leaveLate, State.descs]

theorem State.tableWait_descs (s : State) (gid k : Nat) : (s.tableWait gid k).descs = s.descs := by
  have := State.updGroup_descs
  grind [State.tableWait, State.descs]

theorem State.askPage_descs (s : State) (gid : Nat) (g : Group) (va : Nat) (rw : Rw) : (s.askPage gid g va rw).descs = s.descs := by
  have := State.requestPage_descs
  grind [State.askPage, State.descs]

theorem State.holdOnPage_descs (s : State) (gid : Nat) (g : Group) (k va : Nat) (rw : Rw) :
    (s.holdOnPage gid g k va rw).descs = s.descs := by
  have := State.updGroup_descs; have := State.askPage_descs
  grind [State.holdOnPage, State.descs]

theorem State.markRead_descs (s : State) (g : Group) (pa n : Nat) : (s.markRead g pa n).descs = s.descs := by
  have := State.updLaunch_descs
  grind [State.markRead, State.descs]

theorem State.loadPort_descs (s : State) (gid : Nat) (g : Group) (pa n : Nat) (via : Via) :
    (s.loadPort gid g pa n via).state.descs = s.descs := by
  have hdrain := State.drainFor_descs s gid pa n false
  unfold State.loadPort
  split
  next h => exact (Rc.descs_congr h).trans hdrain
  next h => exact (Rc.descs_congr h).trans hdrain
  next t h =>
    replace hdrain : t.descs = s.descs := (Rc.descs_congr h).trans hdrain
    dsimp only
    split
    · split
      next bs served v hread =>
        have hread' : v.descs = _ := (congrArg (·.2.descs) hread).symm.trans (State.readDram_descs ..)
        split <;> simp only [Rc.state, State.updGroup_descs, State.reachAt_descs, State.markRead_descs, State.levelAt_descs, hread', hdrain]
      next v hread =>
        have hread' : v.descs = _ := (congrArg (·.2.descs) hread).symm.trans (State.readDram_descs ..)
        exact hread'.trans ((State.levelAt_descs ..).trans hdrain)
    · split
      · exact hdrain
      split
      · exact (State.logError_descs ..).trans hdrain
      split <;> simp only [Rc.state, State.updGroup_descs, State.reach_descs, hdrain]

theorem State.afterSide_descs {α : Type} (s : State) (gid : Nat) (g : Group) (k va pa n : Nat) (wr : Bool) (f : State → Rc α)
    (hf : ∀ t, (f t).state.descs = t.descs) : (s.afterSide gid g k va pa n wr f).state.descs = s.descs := by
  have := State.holdGroup_descs; have := State.drainFor_descs
  grind [State.afterSide, Rc.state]

theorem State.load_descs (s : State) (gid : Nat) (g : Group) (k va n : Nat) (via : Via) :
    (s.load gid g k va n via).state.descs = s.descs := by
  have := State.locate_descs; have := @State.afterSide_descs; have := State.loadPort_descs
  grind [State.load, State.descs, Rc.state]

theorem State.store_descs (s : State) (gid : Nat) (g : Group) (k va : Nat) (bs : List Byte) (rel : Option Nat) :
    (s.store gid g k va bs rel).state.descs = s.descs := by
  have := State.locate_descs; have := @State.afterSide_descs; have := State.overStore_descs; have := @Rc.grant_descs
  have := State.writePort_descs; have := State.reach_descs; have := State.sideLog_descs; have := State.askPage_descs
  grind [State.store, State.descs, Rc.state]

theorem State.post_descs (s : State) (gid : Nat) (g : Group) (va : Nat) (bs : List Byte) : (s.post gid g va bs).state.descs = s.descs := by
  have := State.tableWait_descs; have := State.sideLog_descs; have := State.sideHold_descs; have := State.locate_descs
  have := State.holdGroup_descs; have := State.overStore_descs; have := State.updGroup_descs; have := State.reach_descs
  have := State.askPage_descs
  grind [State.post, State.descs, Rc.state]

theorem State.rmw_descs (s : State) (gid : Nat) (g : Group) (k va pa n : Nat) (scope : Scope) (f : Nat → Nat) :
    (s.rmw gid g k va pa n scope f).state.descs = s.descs := by
  have hdrain := State.drainFor_descs s gid pa n true
  unfold State.rmw
  split
  next h => exact (Rc.descs_congr h).trans hdrain
  next h => exact (Rc.descs_congr h).trans hdrain
  next t h =>
    replace hdrain : t.descs = s.descs := (Rc.descs_congr h).trans hdrain
    rw [← hdrain]
    split
    · have := State.loadPort_descs; have := State.overStore_descs
      grind [Rc.state]
    · split
      · exact State.logError_descs ..
      · rw [Rc.grant_descs, State.rmwPut_descs, State.markRead_descs, State.reach_descs]

theorem State.lostReduction_descs (s : State) (gid va : Nat) : (s.lostReduction gid va).descs = s.descs := by
  have := State.updGroup_descs
  grind [State.lostReduction, State.descs]

theorem State.releaseWait_descs (s : State) (gid : Nat) (g : Group) (scope : Scope) :
    (s.releaseWait gid g scope).state.descs = s.descs := by
  have := State.drain_descs
  grind [State.releaseWait, State.descs, Rc.state]

theorem State.allPerformed_descs (s : State) (gid : Nat) (g : Group) : (s.allPerformed gid g).state.descs = s.descs := by
  have := State.releaseWait_descs
  grind [State.allPerformed, State.descs, Rc.state]

theorem State.publishAt_descs (s : State) (g : Group) (scope : Scope) : (s.publishAt g scope).descs = s.descs := by
  have := State.publish_descs
  grind [State.publishAt, State.descs]

theorem State.release_descs (s : State) (gid : Nat) (g : Group) (scope : Scope) : (s.release gid g scope).state.descs = s.descs := by
  have := State.releaseWait_descs; have := State.publishAt_descs
  grind [State.release, State.descs, Rc.state]

/-! Endings and stops. -/

theorem State.spillStack_descs (s : State) (gid : Nat) (g : Group) : (s.spillStack gid g).descs = s.descs := by
  grind [State.spillStack, State.descs]

theorem State.toHost_descs (s : State) (part : Nat) (r : TrapRec) : (s.toHost part r).descs = s.descs := by
  have := State.record_descs; have := State.updPart_descs; have := State.setPart_descs
  grind [State.toHost, State.descs]

theorem State.toSup_descs (s : State) (core : Nat) (r : TrapRec) : (s.toSup core r).descs = s.descs := by
  have := State.setCore_descs; have := State.updCore_descs; have := State.record_descs
  grind [State.toSup, State.descs]

theorem State.completes_descs (s : State) (gid : Nat) (x : Pend) : (s.completes gid x).descs = s.descs := by
  have := State.setGroup_descs; have := State.monitor_descs
  grind [State.completes, State.descs]

theorem State.settleIssued_descs (s : State) (gid : Nat) : (s.settleIssued gid).descs = s.descs := by
  have := State.completes_descs; have := State.drain_descs; have := @foldl_descs
  grind [State.settleIssued, State.descs, Rc.state]

theorem State.setObj_descs (s : State) (pa w : Nat) : (s.setObj pa w).descs = s.descs := by
  unfold State.setObj
  generalize toBytes 64 _ = bs
  exact State.portPut_descs ..

theorem State.setWaiter_descs (s : State) (t : Team) (obj : W64) (gid : Nat) (on : Bool) :
    (State.setWaiter s t obj gid on).descs = s.descs := by
  -- Its body is opened without its equations: the object's offset from the aperture is a subtraction of a literal that the kernel would count out.
  have h : State.setWaiter = State.setWaiter := rfl
  conv at h => rhs; delta State.setWaiter
  rw [h]
  beta_reduce
  generalize scratchLoc t _ 64 = l
  cases l with
  | port pa => exact State.setObj_descs ..
  | _ => rfl

theorem State.leaveWaits_descs (s : State) (gid : Nat) : (s.leaveWaits gid).descs = s.descs := by
  have := State.updCore_descs; have := State.updDie_descs
  grind [State.leaveWaits, State.descs]

theorem State.discTags_descs (s : State) (gid : Nat) : (s.discTags gid).descs = s.descs := by
  grind [State.discTags, State.descs]

theorem State.setTests_descs (s : State) (x : List (Nat × Nat)) : ({ s with tests := x } : State).descs = s.descs := rfl

theorem State.rollback_descs (s : State) (gid : Nat) : (State.rollback s gid).descs = s.descs := by
  unfold State.rollback
  split
  · rfl
  split
  · rfl
  · dsimp only
    rw [State.setTests_descs, State.setWaiter_descs, State.setGroup_descs, State.discTags_descs, State.leaveWaits_descs]

theorem State.clearWaiter_descs (s : State) (gid : Nat) : (s.clearWaiter gid).descs = s.descs := by
  have := State.setWaiter_descs
  grind [State.clearWaiter, State.descs]

theorem State.endGroup_descs (s : State) (gid : Nat) : (s.endGroup gid).descs = s.descs := by
  have := State.discTags_descs; have := State.settleIssued_descs; have := State.leaveWaits_descs; have := State.updGroup_descs
  have := State.delGroup_descs; have := State.leaveLate_descs
  grind [State.endGroup, State.descs]

theorem State.endTask_descs (s : State) (key : Nat) : (s.endTask key).descs = s.descs := by
  have := State.updTeam_descs; have := State.updPart_descs; have := State.endGroup_descs; have := State.discard_descs
  have := State.updLaunch_descs; have := @foldl_descs
  grind [State.endTask, State.descs]

theorem State.freeze_descs (s : State) (gid : Nat) (g : Group) (after : W64) (p : Park) (spill : Bool) :
    (s.freeze gid g after p spill).descs = s.descs := by
  have := State.setGroup_descs; have := State.leaveWaits_descs; have := State.clearWaiter_descs; have := State.spillStack_descs
  have := State.packet_descs; have := State.record_descs
  grind [State.freeze, State.descs]

theorem State.park_descs (s : State) (gid : Nat) (g : Group) (r : TrapRec) (after : W64) (slot : Nat) (spill : Bool) :
    (s.park gid g r after slot spill).descs = s.descs := by
  have := State.freeze_descs; have := State.toSup_descs; have := State.toHost_descs; have := State.endTask_descs
  grind [State.park, State.descs]

theorem State.parkEnding_descs (s : State) (gid : Nat) (g : Group) (e : Ending) : (s.parkEnding gid g e).descs = s.descs := by
  have := State.freeze_descs; have := State.park_descs
  grind [State.parkEnding, State.descs]

theorem State.endWith_descs (s : State) (gid : Nat) (e : Ending) : (s.endWith gid e).descs = s.descs := by
  have := State.setGroup_descs; have := State.leaveWaits_descs; have := State.clearWaiter_descs; have := State.settleIssued_descs
  have := State.parkEnding_descs
  grind [State.endWith, State.descs]

theorem State.stop_descs (s : State) (gid : Nat) (r : TrapRec) (after : W64) : (s.stop gid r after).descs = s.descs := by
  have := State.rollback_descs; have := State.updLaunch_descs; have := State.endWith_descs
  grind [State.stop, State.descs]

/-! Barrier objects and the groups that wait on them. -/

theorem State.endOver_descs (s : State) (gid : Nat) : (s.endOver gid).descs = s.descs := by
  have := State.updGroup_descs
  grind [State.endOver, State.descs]

theorem State.unblock_descs (s : State) (gid : Nat) : (s.unblock gid).descs = s.descs := by
  have := State.updGroup_descs; have := State.clearWaiter_descs
  grind [State.unblock, State.descs]

theorem State.endOvers_descs (s : State) (o : ObjRef) (w : Nat) : (s.endOvers o w).descs = s.descs := by
  have := State.unblock_descs; have := State.rollback_descs; have := State.endOver_descs; have := @foldl_descs
  grind [State.endOvers, State.descs]

theorem State.admitHeld_descs (s : State) (o : ObjRef) (x : List (Nat × Group)) : (s.admitHeld o x).descs = s.descs := by
  have := State.setObj_descs; have := State.done_descs
  fun_induction State.admitHeld s o x <;> grind [State.descs]

theorem State.rouse_descs (s : State) (gid : Nat) (g : Group) (b : Blocked) : (s.rouse gid g b).descs = s.descs := by
  have := State.monitor_descs; have := State.setGroup_descs
  grind [State.rouse, State.descs]

theorem State.wake_descs (s : State) (o : ObjRef) (gid : Nat) : (s.wake o gid).descs = s.descs := by
  unfold State.wake
  split
  · rfl
  split
  · rfl
  split
  · exact State.rouse_descs ..
  · rfl

theorem State.complete1_descs (s : State) (o : ObjRef) : (s.complete1 o).descs = s.descs := by
  have := State.setObj_descs; have := State.wake_descs; have := State.admitHeld_descs; have := State.endOvers_descs; have := @foldl_descs
  grind [State.complete1, State.descs]

theorem State.evaluateN_descs (s : State) (o : ObjRef) (x : Nat) : (s.evaluateN o x).descs = s.descs := by
  have := State.complete1_descs
  fun_induction State.evaluateN s o x <;> grind [State.descs]

theorem State.evaluate_descs (s : State) (o : ObjRef) : (s.evaluate o).descs = s.descs := by
  have := State.evaluateN_descs
  grind [State.evaluate, State.descs]

theorem State.orphan_descs (s : State) (va : Nat) (gids : List Nat) : (s.orphan va gids).descs = s.descs := by
  have := State.stop_descs; have := @foldl_descs
  grind [State.orphan, State.descs]

theorem State.orphanTest_descs (s : State) (o : ObjRef) : (s.orphanTest o).descs = s.descs := by
  have := State.orphan_descs
  grind [State.orphanTest, State.descs]

theorem State.block_descs (s : State) (gid : Nat) (g : Group) (o : ObjRef) (n : W32) : (s.block gid g o n).descs = s.descs := by
  have := State.setObj_descs; have := State.orphanTest_descs; have := State.updGroup_descs
  grind [State.block, State.descs]

/-! Engines that read memory. -/

theorem State.askLeave_descs (s : State) (die cls who id : Nat) (curb : Bool) : (s.askLeave die cls who id curb).descs = s.descs := by
  have := State.updDie_descs
  grind [State.askLeave, State.descs]

theorem Eng.bind_descs {α β : Type} (e : Eng α) (k : α → State → Eng β) (hk : ∀ a t, (k a t).state.descs = t.descs) :
    (e.bind k).state.descs = e.state.descs := by
  cases e with
  | ok a s => exact hk a s
  | fail c s => rfl
  | page va rw s => rfl
  | wait s => rfl

theorem State.engPort_descs (s : State) (core key va n : Nat) (rw : Rw) : (s.engPort core key va n rw).state.descs = s.descs := by
  have := State.translate_descs
  grind [State.engPort, State.descs, Eng.state]

theorem State.engRead1_descs (s : State) (core key va : Nat) : (s.engRead1 core key va).state.descs = s.descs := by
  have := @Eng.bind_descs; have := State.engPort_descs; have := State.logError_descs; have := State.llcTouch_descs
  have := State.updLaunch_descs
  grind [State.engRead1, State.descs, Eng.state]

theorem State.engRead_descs (s : State) (core key va : Nat) (x : Nat) : (s.engRead core key va x).state.descs = s.descs := by
  fun_induction State.engRead s core key va x with
  | case1 s va => rfl
  | case2 s va k ih =>
    exact (Eng.bind_descs _ _ fun b t => (Eng.bind_descs _ _ fun r u => rfl).trans (ih t)).trans (State.engRead1_descs ..)

theorem State.engAsk_descs (s : State) (core key va : Nat) (rw : Rw) : (s.engAsk core key va rw).descs = s.descs := by
  have := State.requestPage_descs
  grind [State.engAsk, State.descs]

/-! Choices. -/

theorem State.pick_descs {α : Type} (s : State) (xs : List α) : (s.pick xs).2.descs = s.descs := by
  unfold State.pick
  split <;> rfl

/-! Groups and child launches. -/

theorem State.spawnAt_descs (s : State) (core ctx j rb reserve : Nat) (g : Group) (pc : W64) :
    (s.spawnAt core ctx j rb reserve g pc).descs = s.descs := by
  have := State.setTeam_descs; have := State.setGroup_descs
  grind [State.spawnAt, State.descs]

theorem State.retest_descs (s : State) (key : Nat) : (s.retest key).descs = s.descs := by
  have := State.orphanTest_descs; have := @foldl_descs
  grind [State.retest, State.descs]

theorem State.retire_descs (s : State) (gid : Nat) (g : Group) : (s.retire gid g).descs = s.descs := by
  have := State.delGroup_descs; have := State.leaveLate_descs; have := State.leaveWaits_descs; have := State.updTeam_descs
  have := State.retest_descs
  grind [State.retire, State.descs]

theorem State.checkLines_descs (s : State) (gid : Nat) (g : Group) (va : Nat) (x : Nat) : (s.checkLines gid g va x).2.descs = s.descs := by
  have := State.check_descs
  fun_induction State.checkLines s gid g va x <;> grind [State.descs]

theorem State.readLines_descs (s : State) (gid : Nat) (g : Group) (va : Nat) (x : Nat) :
    (s.readLines gid g va x).state.descs = s.descs := by
  have := State.load_descs
  fun_induction State.readLines s gid g va x <;> grind [State.descs, Rc.state]

theorem State.addKid_descs (s : State) (q : Nat) (gid : Nat) (g : Group) (bs : List Byte) (d : Reg) :
    (s.addKid q gid g bs d).descs = s.descs := by
  have := State.updQueue_descs; have := State.updLaunch_descs; have := State.updTeam_descs; have := State.done_descs
  grind [State.addKid, State.descs]

/-! Sealed destinations of a copy. -/

theorem State.sealedDst_descs (s : State) (gid : Nat) (g : Group) (dst : Nat) (x : Nat) :
    (s.sealedDst gid g dst x).state.descs = s.descs := by
  have := State.frameOf_descs; have := State.holdOnPage_descs
  fun_induction State.sealedDst s gid g dst x <;> grind [State.descs, Rc.state]

/-! Instruction fetch. -/

theorem State.codeBytes_descs (s : State) (core fresh : Nat) (ps : List (Nat × Nat)) : (s.codeBytes core fresh ps).2.descs = s.descs := by
  have := State.updCore_descs; have := State.useFresh_descs
  grind [State.codeBytes, State.descs]

theorem State.fetchPorts_descs (s : State) (gid : Nat) (g : Group) (va n : Nat) : (s.fetchPorts gid g va n).2.descs = s.descs := by
  have := State.translate_descs; have := State.logError_descs
  grind [State.fetchPorts, State.descs]

theorem State.fetchAt_descs (s : State) (gid : Nat) (g : Group) (va n : Nat) : (s.fetchAt gid g va n).2.descs = s.descs := by
  have := State.codeBytes_descs; have := State.fetchPorts_descs
  grind [State.fetchAt, State.descs]

theorem State.fetchScalar_descs (s : State) (gid : Nat) (g : Group) : (s.fetchScalar gid g).2.descs = s.descs := by
  have := State.fetchAt_descs
  grind [State.fetchScalar, State.descs]

/-! The matrix complex. -/

theorem State.setMx_descs (s : State) (key i : Nat) (c : MxCmd) : (s.setMx key i c).descs = s.descs := by
  have := State.updTeam_descs
  grind [State.setMx, State.descs]

theorem State.acceptMx_descs (s : State) (key i : Nat) : (State.acceptMx s key i).descs = s.descs := by
  unfold State.acceptMx
  split
  · rfl
  split
  · rfl
  dsimp only
  split
  · rfl
  split
  · simp only [State.updTeam_descs, State.setMx_descs]
  · have := State.updTeam_descs; have := State.setMx_descs; have := State.engRead_descs; have := State.engAsk_descs
    grind [Eng.state]
  · exact State.setMx_descs ..

theorem State.acceptAll_descs (s : State) (key : Nat) : (s.acceptAll key).descs = s.descs := by
  have := State.acceptMx_descs; have := @foldl_descs
  grind [State.acceptAll, State.descs]

theorem State.releaseComplex_descs (s : State) (key : Nat) (t : Team) : (s.releaseComplex key t).descs = s.descs := by
  have := State.setTeam_descs; have := State.setComplex_descs
  grind [State.releaseComplex, State.descs]

/-! The next scalar word. -/

theorem State.goTo_descs (s : State) (gid : Nat) (g : Group) (t : W64) : (s.goTo gid g t).descs = s.descs := by
  have := State.setGroup_descs
  grind [State.goTo, State.descs]

/-! What an ordered access does before and after its performance. -/

theorem State.relBefore_descs (s : State) (gid : Nat) (g : Group) (o : Order) (sc : Scope) :
    (s.relBefore gid g o sc).state.descs = s.descs := by
  have := State.releaseWait_descs
  grind [State.relBefore, State.descs, Rc.state]

theorem State.ordAfter_descs (s : State) (gid : Nat) (g : Group) (o : Order) (sc : Scope) : (s.ordAfter gid g o sc).descs = s.descs := by
  have := State.publishAt_descs; have := State.acquire_descs
  grind [State.ordAfter, State.descs]

theorem State.lineOf_descs (s : State) (core : Nat) (l : Launch) (va : Nat) : (s.lineOf core l va).state.descs = s.descs := by
  have := State.frameOf_descs
  grind [State.lineOf, State.descs, Rc.state]

theorem State.linesUnder_descs (s : State) (core : Nat) (l : Launch) (x : List Nat) : (s.linesUnder core l x).state.descs = s.descs := by
  have := State.lineOf_descs
  fun_induction State.linesUnder s core l x <;> grind [State.descs, Rc.state]

theorem State.writeBack_descs (s : State) (n : Nat) : (s.writeBack n).descs = s.descs := by
  grind [State.writeBack, State.descs]

theorem State.dropLine_descs (s : State) (n : Nat) : (s.dropLine n).descs = s.descs := by
  grind [State.dropLine, State.descs]
end Sys2Proof.Machine
end

section
/-! SUPPORT. Scalar instructions leave the kernels of the launches as they are; and the step in which an S-stream issues. -/

namespace Sys2Proof.Machine

/-- An outcome that is a state leaves the kernels K. -/
def Leaves (K : Kernels) : Res → Prop
  | .next t => t.descs = K
  | .fault _ => True
  | .refused _ => True

theorem scalar_leaves {s : State} {k : Nat → Group → Res} {K : Kernels} (hk : ∀ g, Leaves K (k s.cur g)) : Leaves K (scalar s k) := by
  unfold scalar
  split
  · exact hk _
  · trivial

/-! How a scalar instruction ends without effect, and the instructions with a result alone. -/

theorem State.stallS_leaves {s : State} {K : Kernels} (hs : s.descs = K) : Leaves K (s.stallS) := by
  have := State.updGroup_descs
  grind [State.stallS, State.descs, Leaves]

theorem State.trapS_leaves {s : State} (gid : Nat) (g : Group) (cause : Cause) (addr : W64) {K : Kernels} (hs : s.descs = K) :
    Leaves K (s.trapS gid g cause addr) := by
  have := State.stop_descs
  grind [State.trapS, State.descs, Leaves]

theorem settled_leaves {s : State} {g : Group} {k : Res} {K : Kernels} (h : s.descs = K) (hk : Leaves K k) : Leaves K (settled s g k) := by
  have := @State.stallS_leaves
  grind [settled]

theorem setResult_leaves {s : State} (d : Reg) (f : Group → W64) {K : Kernels} (hs : s.descs = K) : Leaves K (setResult s d f) := by
  have := @scalar_leaves; have := State.done_descs
  grind [setResult, State.descs, Leaves]

theorem Rc.intoS_leaves {α : Type} {r : Rc α} {gid : Nat} {g : Group} {addr : W64} {k : α → State → Res} {K : Kernels}
    (hr : r.state.descs = K) (hk : ∀ a t, t.descs = K → Leaves K (k a t)) : Leaves K (r.intoS gid g addr k) := by
  cases r with
  | ok a s => exact hk a s hr
  | flt c s => exact State.trapS_leaves gid g c addr hr
  | hold s => exact State.stallS_leaves hr

/-! Barrier instructions. -/

theorem execBinit_leaves {s : State} (a b : Reg) (f : BitVec 3) {K : Kernels} (hs : s.descs = K) : Leaves K (execBinit a b f s) := by
  have := @scalar_leaves; have := @settled_leaves; have := @State.trapS_leaves; have := State.gwCount_descs; have := State.setObj_descs
  have := State.done_descs; have := State.evaluate_descs; have := State.orphan_descs
  grind [execBinit, State.descs, Leaves, Rc.state]

theorem arrive_leaves {s : State} (d a : Reg) (drop : Bool) {K : Kernels} (hs : s.descs = K) : Leaves K (arrive d a drop s) := by
  have := @scalar_leaves; have := @settled_leaves; have := @State.trapS_leaves; have := State.gwCount_descs; have := @Rc.intoS_leaves
  have := State.releaseWait_descs; have := State.orphanTest_descs; have := State.updGroup_descs; have := State.done_descs
  have := State.setObj_descs; have := State.evaluate_descs
  grind [arrive, State.descs, Leaves, Rc.state]

theorem execBexp_leaves {s : State} (a b : Reg) {K : Kernels} (hs : s.descs = K) : Leaves K (execBexp a b s) := by
  have := @scalar_leaves; have := @settled_leaves; have := @State.trapS_leaves; have := State.gwCount_descs; have := State.evaluate_descs
  have := State.done_descs; have := State.setObj_descs
  grind [execBexp, State.descs, Leaves, Rc.state]

theorem execWait_leaves (a b : Reg) (kind : WaitKind) {s : State} {K : Kernels} (hs : s.descs = K) : Leaves K (execWait a b kind s) := by
  refine scalar_leaves fun g => settled_leaves hs ?_
  have hdone := fun f => (State.done_descs s s.cur f).trans hs
  have hstall := State.stallS_leaves hs
  have htrap := fun c x => State.trapS_leaves s.cur g c x hs
  have hblock := fun o n => (State.block_descs s s.cur g o n).trans hs
  dsimp only
  split
  · split
    · exact htrap ..
    split
    · exact hdone _
    · exact hs
  split
  · split
    · exact State.trapS_leaves _ _ _ _ ((State.gwCount_descs ..).trans hs)
    · exact htrap ..
  split
  · exact hdone _
  split
  · split
    · split
      · exact htrap ..
      · exact hstall
    split
    · exact hdone _
    · exact hblock ..
  · exact hblock ..

theorem execBtest_leaves {s : State} (d a b : Reg) (kind : WaitKind) {K : Kernels} (hs : s.descs = K) :
    Leaves K (execBtest d a b kind s) := by
  have := @scalar_leaves; have := State.done_descs; have := @State.trapS_leaves; have := State.gwCount_descs
  grind [execBtest, State.descs, Leaves, Rc.state]

/-! Groups, marks and child launches. -/

theorem execSpawn_leaves {s : State} (d a : Reg) {K : Kernels} (hs : s.descs = K) : Leaves K (execSpawn d a s) := by
  have := @scalar_leaves; have := @settled_leaves; have := State.done_descs; have := @Rc.intoS_leaves; have := State.releaseWait_descs
  have := @State.pick_descs; have := State.spawnAt_descs
  grind [execSpawn, State.descs, Leaves]

theorem execExit_leaves {s : State} {K : Kernels} (hs : s.descs = K) : Leaves K (execExit s) := by
  have := @scalar_leaves; have := @settled_leaves; have := @State.stallS_leaves; have := State.retire_descs
  grind [execExit, State.descs, Leaves]

theorem execMark_leaves {s : State} (a : Reg) (n : BitVec 10) {K : Kernels} (hs : s.descs = K) : Leaves K (execMark a n s) := by
  have := @scalar_leaves; have := State.done_descs; have := State.packet_descs
  grind [execMark, State.descs, Leaves]

theorem execDlaunch_leaves {s : State} (d a b : Reg) {K : Kernels} (hs : s.descs = K) : Leaves K (execDlaunch d a b s) := by
  have := @scalar_leaves; have := @settled_leaves; have := State.done_descs; have := @State.trapS_leaves; have := @Rc.intoS_leaves
  have := State.releaseWait_descs; have := State.checkLines_descs; have := State.gwCount_descs; have := @State.stallS_leaves
  have := State.holdOnPage_descs; have := State.readLines_descs; have := State.addKid_descs; have := State.publishAt_descs
  grind [execDlaunch, State.descs, Leaves]

/-! Tile handles. -/

theorem tileOp_leaves {s : State} {hd : Hnd} {k : Nat → Group → Team → Handle → Res} {K : Kernels} (h : s.descs = K)
    (hk : ∀ gid g t x, Leaves K (k gid g t x)) : Leaves K (tileOp s hd k) := by
  refine scalar_leaves fun g => settled_leaves h ?_
  split
  · exact State.trapS_leaves _ _ _ _ h
  · exact hk ..

theorem execTalloc_leaves {s : State} (h : Hnd) (a : Reg) {K : Kernels} (hs : s.descs = K) : Leaves K (execTalloc h a s) := by
  have := @scalar_leaves; have := @settled_leaves; have := @State.trapS_leaves; have := State.done_descs; have := State.setTeam_descs
  have := @State.stallS_leaves; have := State.updGroup_descs
  grind [execTalloc, State.descs, Leaves]

theorem execTgive_leaves {s : State} (h : Hnd) (a : Reg) {K : Kernels} (hs : s.descs = K) : Leaves K (execTgive h a s) := by
  have := @tileOp_leaves; have := State.done_descs; have := State.setTeam_descs; have := @State.trapS_leaves
  grind [execTgive, State.descs, Leaves]

theorem execTfree_leaves {s : State} (h : Hnd) {K : Kernels} (hs : s.descs = K) : Leaves K (execTfree h s) := by
  have := @tileOp_leaves; have := State.done_descs; have := State.setTeam_descs
  grind [execTfree, State.descs, Leaves]

theorem execTzero_leaves {s : State} (h : Hnd) {K : Kernels} (hs : s.descs = K) : Leaves K (execTzero h s) := by
  have := @tileOp_leaves; have := State.done_descs; have := State.setTeam_descs
  grind [execTzero, State.descs, Leaves]

theorem execTinfo_leaves {s : State} (d : Reg) (h : Hnd) {K : Kernels} (hs : s.descs = K) : Leaves K (execTinfo d h s) := by
  have := @scalar_leaves; have := @settled_leaves; have := State.done_descs
  grind [execTinfo, State.descs, Leaves]

/-! Copy commands. -/

theorem State.awaitPlace_leaves {s : State} (gid : Nat) {K : Kernels} (hs : s.descs = K) : Leaves K (s.awaitPlace gid) := by
  have := @State.stallS_leaves; have := State.updCore_descs
  grind [State.awaitPlace, State.descs, Leaves]

theorem State.handOver_leaves {s : State} (gid : Nat) (g : Group) (c : CopyCmd) {K : Kernels} (hs : s.descs = K) :
    Leaves K (s.handOver gid g c) := by
  have := @State.awaitPlace_leaves; have := @Rc.intoS_leaves; have := State.drain_descs; have := State.updCore_descs
  have := State.done_descs
  grind [State.handOver, State.descs, Leaves]

theorem watchRecord_leaves {s : State} {gid : Nat} {g : Group} {a : W64} {k : Res} {K : Kernels} (h : s.descs = K) (hk : Leaves K k) :
    Leaves K (watchRecord s gid g a k) := by
  have := @State.trapS_leaves; have := State.gwCount_descs
  grind [watchRecord]

theorem execCpy_leaves {s : State} (bar a b c : Reg) {K : Kernels} (hs : s.descs = K) : Leaves K (execCpy bar a b c s) := by
  have := @scalar_leaves; have := @settled_leaves; have := @State.handOver_leaves
  grind [execCpy, State.descs, Leaves]

theorem execCpyt_leaves {s : State} (bar a b c : Reg) {K : Kernels} (hs : s.descs = K) : Leaves K (execCpyt bar a b c s) := by
  have := @scalar_leaves; have := @settled_leaves; have := @watchRecord_leaves; have := @State.handOver_leaves
  grind [execCpyt, State.descs, Leaves]

theorem tileMove_leaves {s : State} (h : Hnd) (a b : Reg) (kind : CopyKind) {K : Kernels} (hs : s.descs = K) :
    Leaves K (tileMove s h a b kind) := by
  have := @tileOp_leaves; have := @watchRecord_leaves; have := @State.awaitPlace_leaves; have := @Rc.intoS_leaves
  have := State.drain_descs; have := @State.handOver_leaves; have := State.setTeam_descs
  grind [tileMove, State.descs, Leaves]

theorem execBclose_leaves {s : State} (d : Reg) (n : BitVec 5) {K : Kernels} (hs : s.descs = K) : Leaves K (execBclose d n s) := by
  have := @scalar_leaves; have := @settled_leaves; have := State.done_descs; have := State.setGroup_descs
  grind [execBclose, State.descs, Leaves]

theorem State.readHeader_leaves {s : State} {gid : Nat} {g : Group} {m : W64} {k : BitVec 128 → State → Res} {K : Kernels}
    (hs : s.descs = K) (hk : ∀ x t, t.descs = K → Leaves K (k x t)) : Leaves K (s.readHeader gid g m k) := by
  unfold State.readHeader
  dsimp only
  split
  · exact hk _ _ hs
  split
  · exact State.trapS_leaves gid g _ m hs
  have hloc := (State.locate_descs s gid g m.toNat 16 .rd true true).trans hs
  split
  next h => rw [h] at hloc; exact State.trapS_leaves gid g _ m hloc
  next h => rw [h] at hloc; exact State.stallS_leaves ((State.holdOnPage_descs ..).trans hloc)
  next h => rw [h] at hloc; exact State.stallS_leaves hloc
  next h => rw [h] at hloc; exact State.stallS_leaves hloc
  next h =>
    rw [h] at hloc
    exact Rc.intoS_leaves ((State.afterSide_descs _ _ _ _ _ _ _ _ _ fun _ => State.loadPort_descs ..).trans hloc)
      fun _ t ht => hk _ _ ((State.updGroup_descs ..).trans ht)

theorem execCpys_leaves {s : State} (bar a b c : Reg) {K : Kernels} (hs : s.descs = K) : Leaves K (execCpys bar a b c s) := by
  have := @scalar_leaves; have := @settled_leaves; have := @State.stallS_leaves; have := @State.trapS_leaves
  have := @State.readHeader_leaves; have := @State.handOver_leaves; have := @Rc.intoS_leaves; have := State.sealedDst_descs
  grind [execCpys, State.descs, Leaves]

/-! Matrix commands. -/

theorem mxOp_leaves {s : State} {engine : Bool} {k : Nat → Group → Team → Res} {K : Kernels} (h : s.descs = K)
    (hk : ∀ gid g t, Leaves K (k gid g t)) : Leaves K (mxOp s engine k) := by
  refine scalar_leaves fun g => settled_leaves h ?_
  dsimp only
  split
  · exact State.trapS_leaves _ _ _ _ h
  · exact hk ..

theorem State.mxIssue_leaves {s : State} (gid : Nat) (g : Group) (place : Team → Team × MxCmd) {K : Kernels} (hs : s.descs = K) :
    Leaves K (s.mxIssue gid g place) := by
  have := @State.stallS_leaves; have := @Rc.intoS_leaves; have := State.drain_descs; have := State.acceptAll_descs
  have := State.done_descs; have := State.setTeam_descs
  grind [State.mxIssue, State.descs, Leaves]

theorem execMxacq_leaves {s : State} {K : Kernels} (hs : s.descs = K) : Leaves K (execMxacq s) := by
  have := @scalar_leaves; have := @settled_leaves; have := State.done_descs; have := State.acceptAll_descs; have := State.setTeam_descs
  have := State.setComplex_descs; have := @State.stallS_leaves
  grind [execMxacq, State.descs, Leaves]

theorem execMxrel_leaves {s : State} {K : Kernels} (hs : s.descs = K) : Leaves K (execMxrel s) := by
  have := @mxOp_leaves; have := State.done_descs; have := State.releaseComplex_descs
  grind [execMxrel, State.descs, Leaves]

theorem execMxrdy_leaves {s : State} (tag : BitVec 6) (q : BitVec 2) (vn : BitVec 8) {K : Kernels} (hs : s.descs = K) :
    Leaves K (execMxrdy tag q vn s) := by
  have := @mxOp_leaves; have := @State.stallS_leaves; have := @State.mxIssue_leaves
  grind [execMxrdy, State.descs, Leaves]

theorem mxHandles_leaves {s : State} {gid : Nat} {g : Group} {t : Team} {hd ha : Hnd} {k : Handle → Handle → Res} {K : Kernels}
    (h : s.descs = K) (hk : ∀ a b, Leaves K (k a b)) : Leaves K (mxHandles s gid g t hd ha k) := by
  have := @State.trapS_leaves
  grind [mxHandles]

theorem mxOperate_leaves {s : State} (hd ha : Hnd) (tag : BitVec 6) (sparse : Bool) {K : Kernels} (hs : s.descs = K) :
    Leaves K (mxOperate s hd ha tag sparse) := by
  have := @mxOp_leaves; have := @mxHandles_leaves; have := @State.trapS_leaves; have := @State.mxIssue_leaves
  grind [mxOperate, State.descs, Leaves]

theorem execMxdr_leaves {s : State} (hd : Hnd) (a b : Reg) (n : BitVec 6) {K : Kernels} (hs : s.descs = K) :
    Leaves K (execMxdr hd a b n s) := by
  have := @mxOp_leaves; have := @State.trapS_leaves; have := @State.mxIssue_leaves
  grind [execMxdr, State.descs, Leaves, Rc.state]

theorem execCbld_leaves {s : State} (a : Reg) (n : BitVec 6) {K : Kernels} (hs : s.descs = K) : Leaves K (execCbld a n s) := by
  have := @mxOp_leaves; have := @State.trapS_leaves; have := @State.mxIssue_leaves
  grind [execCbld, State.descs, Leaves]

/-! Branches. -/

theorem State.jumpTo_leaves {s : State} (gid : Nat) (g : Group) (t : W64) {K : Kernels} (hs : s.descs = K) :
    Leaves K (s.jumpTo gid g t) := by
  have := State.traceBranch_descs; have := State.goTo_descs
  grind [State.jumpTo, State.descs, Leaves]

theorem branchIf_leaves {s : State} (a b : Reg) (off : BitVec 16) (c : W64 → W64 → Bool) {K : Kernels} (hs : s.descs = K) :
    Leaves K (branchIf s a b off c) := by
  have := @scalar_leaves; have := @State.jumpTo_leaves; have := State.goTo_descs
  grind [branchIf, State.descs, Leaves]

theorem jumpReg_leaves {s : State} (a : Reg) (link : Bool) {K : Kernels} (hs : s.descs = K) : Leaves K (jumpReg s a link) := by
  have := @scalar_leaves; have := @State.trapS_leaves; have := @State.jumpTo_leaves
  grind [jumpReg, State.descs, Leaves]

theorem execCall_leaves {s : State} (off : BitVec 26) {K : Kernels} (hs : s.descs = K) : Leaves K (execCall off s) := by
  have := @scalar_leaves; have := @State.jumpTo_leaves
  grind [execCall, State.descs, Leaves]

/-! Ordered accesses, atomics, locks and maintenance. -/

theorem ordered_leaves {s : State} {a : Reg} {sc : Scope} {w : Bool} {rw : Rw} {side : Option (Nat → Group → Nat → State → Rc Unit)}
    {k : Nat → Group → Nat → State → Res} {K : Kernels} (hs : s.descs = K)
    (hside : ∀ f, side = some f → ∀ gid g va t, (f gid g va t).state.descs = t.descs)
    (hk : ∀ gid g va t, t.descs = K → Leaves K (k gid g va t)) : Leaves K (ordered s a sc w rw side k) := by
  refine scalar_leaves fun g => ?_
  dsimp only
  split
  · exact State.stallS_leaves hs
  split
  · exact State.trapS_leaves _ g _ _ hs
  split
  · exact State.stallS_leaves ((State.tableWait_descs ..).trans hs)
  have hcheck := (State.check_descs s s.cur g 0 (g.reg a).toNat (wBytes w) rw).trans hs
  generalize s.check s.cur g 0 (g.reg a).toNat (wBytes w) rw = x at hcheck ⊢
  obtain ⟨c, t⟩ := x
  have hstall := State.stallS_leaves hcheck
  have htrap := fun c => State.trapS_leaves s.cur g c (g.reg a) hcheck
  have hwatch := State.trapS_leaves s.cur g .watch (g.reg a) ((State.gwCount_descs t s.cur g (g.reg a).toNat (wBytes w) rw).trans hcheck)
  cases c with
  | pass => exact hk _ _ _ _ hcheck
  | hold => exact hstall
  | flt c => grind
  | missing =>
    cases side with
    | none =>
      have := State.holdOnPage_descs; have := @State.stallS_leaves
      grind
    | some f =>
      have hretires := (hside f rfl s.cur g (g.reg a).toNat t).trans hcheck
      have := @State.trapS_leaves; have := @State.stallS_leaves; have := State.done_descs; have := State.sideHold_descs
      grind [Leaves, Rc.state]
  | moving =>
    cases side with
    | none =>
      have := State.holdGroup_descs; have := @State.stallS_leaves
      grind
    | some f =>
      have hretires := (hside f rfl s.cur g (g.reg a).toNat t).trans hcheck
      have := @State.trapS_leaves; have := @State.stallS_leaves; have := State.done_descs; have := State.sideHold_descs
      grind [Leaves, Rc.state]

theorem State.atomicS_leaves {s : State} (gid : Nat) (g : Group) (va : Nat) (o : Order) (sc : Scope) (w : Bool) (f : Nat → Nat)
    (fin : Nat → Group → Group) {K : Kernels} (hs : s.descs = K) : Leaves K (s.atomicS gid g va o sc w f fin) := by
  have := @Rc.intoS_leaves; have := State.relBefore_descs; have := State.locate_descs; have := @State.afterSide_descs
  have := State.rmw_descs; have := State.done_descs; have := State.ordAfter_descs; have := @State.stallS_leaves
  grind [State.atomicS, State.descs, Leaves]

theorem samo_leaves (op : Nat) (d a b : Reg) (o : Order) (sc : Scope) (w : Bool) {s : State} {K : Kernels} (hs : s.descs = K) :
    Leaves K (samo op d a b o sc w s) :=
  ordered_leaves hs (fun _ h => nomatch h) fun _ _ _ _ ht => State.atomicS_leaves _ _ _ _ _ _ _ _ ht

theorem execScas_leaves (d a b : Reg) (o : Order) (sc : Scope) (w : Bool) {s : State} {K : Kernels} (hs : s.descs = K) :
    Leaves K (execScas d a b o sc w s) :=
  ordered_leaves hs (fun _ h => nomatch h) fun _ _ _ _ ht => State.atomicS_leaves _ _ _ _ _ _ _ _ ht

theorem execSldo_leaves (d a : Reg) (o : Order) (sc : Scope) (w : Bool) {s : State} {K : Kernels} (hs : s.descs = K) :
    Leaves K (execSldo d a o sc w s) :=
  ordered_leaves hs (fun _ h => nomatch h) fun _ _ _ _ ht => Rc.intoS_leaves ((State.load_descs ..).trans ht)
    fun _ _ hu => (State.done_descs ..).trans ((State.ordAfter_descs ..).trans hu)

theorem retireOrdered_descs {o : Order} {sc : Scope} {put : Nat → Group → Nat → State → Rc Unit}
    (hput : ∀ gid g va s, (put gid g va s).state.descs = s.descs) (gid : Nat) (g : Group) (va : Nat) (s : State) :
    (retireOrdered o sc put gid g va s).state.descs = s.descs := by
  have := State.relBefore_descs; have := State.ordAfter_descs
  grind [retireOrdered, Rc.state]

theorem execSsto_leaves (a b : Reg) (o : Order) (sc : Scope) (w : Bool) {s : State} {K : Kernels} (hs : s.descs = K) :
    Leaves K (execSsto a b o sc w s) := by
  have hput := @retireOrdered_descs o sc (fun gid g va s => s.store gid g 0 va (toBytes (wBytes w) (g.reg b).toNat) (carried o sc))
    fun _ _ _ _ => State.store_descs ..
  rw [execSsto_eq]
  exact ordered_leaves hs (fun _ hf => Option.some.inj hf ▸ hput) fun _ _ _ _ ht => Rc.intoS_leaves ((hput ..).trans ht)
    fun _ _ hu => (State.done_descs ..).trans hu

theorem sred_leaves (op : Nat) (a b : Reg) (o : Order) (sc : Scope) (w : Bool) {s : State} {K : Kernels} (hs : s.descs = K) :
    Leaves K (sred op a b o sc w s) := by
  have hside := @retireOrdered_descs o sc (fun gid g va s =>
      (s.askPage gid g va .amo).sideLog gid g va (toBytes (wBytes w) (g.reg b).toNat) (some op) sc.code 0 (carried o sc) 0)
    fun _ _ _ _ => (State.sideLog_descs ..).trans (State.askPage_descs ..)
  unfold sred
  refine ordered_leaves hs (fun _ hf => Option.some.inj hf ▸ hside) fun gid g va t ht => ?_
  refine Rc.intoS_leaves ((State.relBefore_descs ..).trans ht) fun _ u hu => ?_
  have hloc := (State.locate_descs u gid g va (wBytes w) .amo true false).trans hu
  split
  next v h =>
    rw [h] at hloc
    have hafter := fun pa f => (State.afterSide_descs v gid g 0 va pa (wBytes w) true (fun s => s.rmw gid g 0 va pa (wBytes w) sc f)
      fun _ => State.rmw_descs ..).trans hloc
    split
    next h => exact (State.done_descs ..).trans ((State.ordAfter_descs ..).trans ((Rc.descs_congr h).trans (hafter ..)))
    next h =>
      exact (State.done_descs ..).trans ((State.ordAfter_descs ..).trans ((State.lostReduction_descs ..).trans
        ((Rc.descs_congr h).trans (hafter ..))))
    next h => exact State.stallS_leaves ((Rc.descs_congr h).trans (hafter ..))
  next h => rw [h] at hloc; exact State.stallS_leaves hloc

theorem execLock_leaves (a : Reg) (sc : Scope) (w : Bool) {s : State} {K : Kernels} (hs : s.descs = K) : Leaves K (execLock a sc w s) := by
  refine scalar_leaves fun g0 => ?_
  split
  · exact State.stallS_leaves hs
  refine ordered_leaves hs (fun _ h => nomatch h) fun gid g va t ht => ?_
  have hloc := (State.locate_descs t gid g va (wBytes w) .amo true false).trans ht
  split
  next h =>
    rw [h] at hloc
    refine Rc.intoS_leaves ((State.afterSide_descs _ _ _ _ _ _ _ _ _ fun _ => rfl).trans hloc) fun _ u hu => ?_
    split
    · exact State.trapS_leaves gid g _ _ ((State.logError_descs ..).trans hu)
    · exact (State.grantLocks_descs ..).trans ((State.updGroup_descs ..).trans hu)
  next h => rw [h] at hloc; exact State.stallS_leaves hloc

theorem execUnlock_leaves (a : Reg) (sc : Scope) (w : Bool) {s : State} {K : Kernels} (hs : s.descs = K) :
    Leaves K (execUnlock a sc w s) := by
  refine scalar_leaves fun g0 => ?_
  split
  · exact State.stallS_leaves hs
  · exact ordered_leaves hs (fun _ h => nomatch h) fun _ _ _ _ ht => State.atomicS_leaves _ _ _ _ _ _ _ _ ht

theorem execFence_leaves (o : Order) (sc : Scope) {s : State} {K : Kernels} (hs : s.descs = K) : Leaves K (execFence o sc s) := by
  have := @scalar_leaves; have := @State.stallS_leaves; have := @Rc.intoS_leaves; have := State.release_descs; have := State.done_descs
  have := State.acquire_descs
  grind [execFence, Leaves, Rc.state]

theorem execFlush_leaves {s : State} (a b : Reg) {K : Kernels} (hs : s.descs = K) : Leaves K (execFlush a b s) := by
  have := @scalar_leaves; have := @settled_leaves; have := @State.stallS_leaves; have := @Rc.intoS_leaves; have := State.linesUnder_descs
  have := State.release_descs; have := State.done_descs; have := State.writeBack_descs; have := @foldl_descs
  grind [execFlush, State.descs, Leaves]

theorem execInv_leaves {s : State} (a b : Reg) {K : Kernels} (hs : s.descs = K) : Leaves K (execInv a b s) := by
  have := @scalar_leaves; have := @settled_leaves; have := @Rc.intoS_leaves; have := State.linesUnder_descs; have := State.done_descs
  have := State.acquire_descs; have := State.dropLine_descs; have := @foldl_descs
  grind [execInv, State.descs, Leaves]

theorem execVstat_leaves {s : State} (d : Reg) (n : BitVec 5) {K : Kernels} (hs : s.descs = K) : Leaves K (execVstat d n s) := by
  have := @scalar_leaves; have := State.done_descs; have := @State.stallS_leaves; have := @Rc.intoS_leaves
  have := State.allPerformed_descs
  grind [execVstat, State.descs, Leaves]

/-! Loads and stores. -/

theorem execSld_leaves {s : State} (d a : Reg) (sz : Size) (bp : Bool) (off : BitVec 12) {K : Kernels} (hs : s.descs = K) :
    Leaves K (execSld d a sz bp off s) := by
  have := @scalar_leaves; have := @State.trapS_leaves; have := @State.stallS_leaves; have := State.tableWait_descs
  have := State.check_descs; have := State.gwCount_descs; have := State.holdOnPage_descs; have := @Rc.intoS_leaves
  have := State.load_descs; have := State.done_descs; have := State.monitorFree_descs
  grind [execSld, State.descs, Leaves]

theorem execSst_leaves {s : State} (d a : Reg) (sz : Size) (off : BitVec 12) {K : Kernels} (hs : s.descs = K) :
    Leaves K (execSst d a sz off s) := by
  have := @scalar_leaves; have := @State.trapS_leaves; have := State.check_descs; have := State.gwCount_descs
  have := @State.stallS_leaves; have := @Rc.intoS_leaves; have := State.post_descs; have := State.done_descs
  grind [execSst, State.descs, Leaves]

/-! The lane stream and the registers of the group. -/

theorem execLgo_leaves {s : State} (a b : Reg) (n : BitVec 5) {K : Kernels} (hs : s.descs = K) : Leaves K (execLgo a b n s) := by
  have := @scalar_leaves; have := @State.trapS_leaves; have := @State.stallS_leaves; have := @Rc.intoS_leaves; have := State.drain_descs
  have := State.done_descs
  grind [execLgo, State.descs, Leaves]

theorem execLsync_leaves {s : State} {K : Kernels} (hs : s.descs = K) : Leaves K (execLsync s) := by
  have := @scalar_leaves; have := State.done_descs; have := @State.trapS_leaves; have := @State.stallS_leaves
  grind [execLsync, State.descs, Leaves]

theorem execSpop_leaves {s : State} (d : Reg) {K : Kernels} (hs : s.descs = K) : Leaves K (execSpop d s) := by
  have := @scalar_leaves; have := State.done_descs; have := @State.trapS_leaves; have := @State.stallS_leaves
  grind [execSpop, State.descs, Leaves]

theorem execYield_leaves {s : State} {K : Kernels} (hs : s.descs = K) : Leaves K (execYield s) := by
  have := @scalar_leaves; have := State.done_descs
  grind [execYield, State.descs, Leaves]

theorem execSetprio_leaves {s : State} (n : BitVec 5) {K : Kernels} (hs : s.descs = K) : Leaves K (execSetprio n s) := by
  have := @scalar_leaves; have := State.done_descs
  grind [execSetprio, State.descs, Leaves]

theorem execCrit_leaves {s : State} (n : BitVec 5) {K : Kernels} (hs : s.descs = K) : Leaves K (execCrit n s) := by
  have := @scalar_leaves; have := State.done_descs
  grind [execCrit, State.descs, Leaves]

theorem execSrd_leaves {s : State} (d : Reg) (code : BitVec 10) {K : Kernels} (hs : s.descs = K) : Leaves K (execSrd d code s) := by
  have := @scalar_leaves; have := State.done_descs
  grind [execSrd, State.descs, Leaves]

theorem execSwr_leaves {s : State} (a : Reg) (code : BitVec 10) {K : Kernels} (hs : s.descs = K) : Leaves K (execSwr a code s) := by
  have := @scalar_leaves; have := State.done_descs; have := @State.trapS_leaves
  grind [execSwr, State.descs, Leaves]

theorem execFmt_leaves {s : State} (a : Reg) {K : Kernels} (hs : s.descs = K) : Leaves K (execFmt a s) := by
  have := @scalar_leaves; have := State.done_descs
  grind [execFmt, State.descs, Leaves]

theorem execStime_leaves {s : State} (d : Reg) {K : Kernels} (hs : s.descs = K) : Leaves K (execStime d s) := by
  have := @scalar_leaves; have := @State.stallS_leaves; have := @Rc.intoS_leaves; have := State.allPerformed_descs
  have := State.done_descs
  grind [execStime, State.descs, Leaves]

/-! Instructions that stop or wait for leave. -/

theorem stopAfter_leaves {s : State} (cause : Cause) (n : BitVec 10) {K : Kernels} (hs : s.descs = K) : Leaves K (stopAfter cause n s) := by
  have := @scalar_leaves; have := State.stop_descs
  grind [stopAfter, State.descs, Leaves]

theorem execCurb_leaves {s : State} (d : Reg) (n : BitVec 5) {K : Kernels} (hs : s.descs = K) : Leaves K (execCurb d n s) := by
  have := @scalar_leaves; have := State.done_descs; have := @State.stallS_leaves; have := State.updGroup_descs
  have := State.askLeave_descs; have := @foldl_descs
  grind [execCurb, State.descs, Leaves]
/-! Every scalar instruction. -/

theorem execJmp_leaves {s : State} (off : BitVec 26) {K : Kernels} (hs : s.descs = K) : Leaves K (execJmp off s) := by
  unfold execJmp
  exact scalar_leaves fun g => State.jumpTo_leaves s.cur g _ hs

/-- A scalar instruction leaves the kernels as they are. -/
theorem exec_leaves {i : Instr} (h : i.words = 1) {s : State} {K : Kernels} (hs : s.descs = K) : Leaves K (exec i s) := by
  cases i with
  | add | sub | mul | mulh | mulhn | div | divn | rem | remn | and | or | xor | shl | shr | sra | min | max | minn | maxn | slt | sltn
  | seq | sne | clz | ctz | popc | sextB | sextH | sextW | zextB | zextH | zextW | addi | andi | ori | xori | shli | shri | srai | slti
  | lih | lhh | lhx | lqd => exact setResult_leaves _ _ hs
  | sld => exact execSld_leaves _ _ _ _ _ hs
  | sst => exact execSst_leaves _ _ _ _ hs
  | beq | bne => exact branchIf_leaves _ _ _ _ hs
  | blt a b off => exact branchIf_leaves a b off (fun x y => decide (x.toInt < y.toInt)) hs
  | bge a b off => exact branchIf_leaves a b off (fun x y => decide (y.toInt ≤ x.toInt)) hs
  | bltn a b off => exact branchIf_leaves a b off (fun x y => decide (x.toNat < y.toNat)) hs
  | bgen a b off => exact branchIf_leaves a b off (fun x y => decide (y.toNat ≤ x.toNat)) hs
  | jmp => exact execJmp_leaves _ hs
  | call => exact execCall_leaves _ hs
  | jr | callr | ret => exact jumpReg_leaves _ _ hs
  | lgo => exact execLgo_leaves _ _ _ hs
  | lsync => exact execLsync_leaves hs
  | spop => exact execSpop_leaves _ hs
  | spawn => exact execSpawn_leaves _ _ hs
  | exit => exact execExit_leaves hs
  | yield => exact execYield_leaves hs
  | setprio => exact execSetprio_leaves _ hs
  | crit => exact execCrit_leaves _ hs
  | srd => exact execSrd_leaves _ _ hs
  | swr => exact execSwr_leaves _ _ hs
  | fmt => exact execFmt_leaves _ hs
  | stime => exact execStime_leaves _ hs
  | mark => exact execMark_leaves _ _ hs
  | talloc => exact execTalloc_leaves _ _ hs
  | tgive => exact execTgive_leaves _ _ hs
  | tfree => exact execTfree_leaves _ hs
  | tld | tst => exact tileMove_leaves _ _ _ _ hs
  | tzero => exact execTzero_leaves _ hs
  | tinfo => exact execTinfo_leaves _ _ hs
  | mxacq => exact execMxacq_leaves hs
  | mxrel => exact execMxrel_leaves hs
  | mxrdy => exact execMxrdy_leaves _ _ _ hs
  | mxa | mxs => exact mxOperate_leaves _ _ _ _ hs
  | mxdr => exact execMxdr_leaves _ _ _ _ hs
  | cbld => exact execCbld_leaves _ _ hs
  | cpy => exact execCpy_leaves _ _ _ _ hs
  | cpyt => exact execCpyt_leaves _ _ _ _ hs
  | cpys => exact execCpys_leaves _ _ _ _ hs
  | bclose => exact execBclose_leaves _ _ hs
  | binit => exact execBinit_leaves _ _ _ hs
  | barr | barrd => exact arrive_leaves _ _ _ hs
  | bexp => exact execBexp_leaves _ _ hs
  | wait => exact execWait_leaves _ _ _ hs
  | btest => exact execBtest_leaves _ _ _ _ hs
  | samoAdd | samoAnd | samoOr | samoXor | samoMin | samoMax | samoMinn | samoMaxn | samoSwap | samoFadd =>
    exact samo_leaves _ _ _ _ _ _ _ hs
  | scas => exact execScas_leaves _ _ _ _ _ _ hs
  | sldo => exact execSldo_leaves _ _ _ _ _ hs
  | ssto => exact execSsto_leaves _ _ _ _ _ hs
  | lock => exact execLock_leaves _ _ _ hs
  | unlock => exact execUnlock_leaves _ _ _ hs
  | sredAdd | sredAnd | sredOr | sredXor | sredMin | sredMax | sredMinn | sredMaxn | sredFadd => exact sred_leaves _ _ _ _ _ _ hs
  | fence => exact execFence_leaves _ _ hs
  | flush => exact execFlush_leaves _ _ hs
  | inv => exact execInv_leaves _ _ hs
  | vstat => exact execVstat_leaves _ _ hs
  | dlaunch => exact execDlaunch_leaves _ _ _ hs
  | trap | brk => exact stopAfter_leaves _ _ hs
  | curb => exact execCurb_leaves _ _ hs
  | _ => cases h

/-! A scalar word decodes to a scalar instruction. -/

theorem orReject_ok {o : Option Instr} {r : Reject} {i : Instr} (h : orReject o r = .ok i) : o = some i := by
  cases o with
  | none => cases h
  | some j => exact congrArg some (Except.ok.inj h)

theorem rawAlu_words {fn : Nat} {d a b : Reg} {i : Instr} (h : rawAlu fn d a b = some i) : i.words = 1 := by
  unfold rawAlu at h
  split at h <;> cases h <;> rfl

theorem rawE_words {op fn : Nat} {d a b c : Reg} {n : BitVec 10} {i : Instr} (h : rawE op fn d a b c n = some i) : i.words = 1 := by
  unfold rawE at h
  split at h <;> cases h <;> rfl

theorem rawH_words {op fn : Nat} {x y : Hnd} {a b : Reg} {w : Nat} {i : Instr} (h : rawH op fn x y a b w = some i) : i.words = 1 := by
  unfold rawH at h
  split at h <;> cases h <;> rfl

theorem rawA_words {fn : Nat} {d a b : Reg} {o : Order} {sc : Scope} {v : Bool} {i : Instr} (h : rawA fn d a b o sc v = some i) :
    i.words = 1 := by
  unfold rawA at h
  split at h <;> cases h <;> rfl

theorem rawScalar_words {w : Nat} {i : Instr} (h : rawScalar w = .ok i) : i.words = 1 := by
  unfold rawScalar at h
  dsimp only at h
  split at h
  case h_1 => exact rawAlu_words (orReject_ok h)
  case h_23 => split at h <;> cases h <;> rfl
  case h_24 | h_25 => exact rawH_words (orReject_ok h)
  case h_26 =>
    split at h
    · exact rawA_words (orReject_ok h)
    · cases h
  case h_27 =>
    split at h
    case h_3 => exact rawE_words (orReject_ok h)
    case h_1 | h_2 =>
      split at h
      · cases h; rfl
      · cases h
  case h_28 =>
    split at h
    case h_2 => exact rawE_words (orReject_ok h)
    split at h
    · cases h; rfl
    · cases h
  case h_29 | h_30 | h_31 | h_32 | h_33 => exact rawE_words (orReject_ok h)
  all_goals cases h <;> rfl

theorem decodeScalar_words {w : Nat} {i : Instr} (h : decodeScalar w = .ok i) : i.words = 1 :=
  rawScalar_words (accept_ok_iff.1 h).1

/-- A word's index depends on the launch by its kernel alone. -/
theorem wordIndex_congr {l l' : Launch} (h : l.desc = l'.desc) (pc : W64) : wordIndex l pc = wordIndex l' pc := by
  simp only [wordIndex, h]

/-- What follows an outcome may rest on the kernels that the outcome leaves. -/
theorem Leaves.onNext_congr {r : Res} {K : Kernels} {f f' : State → State} (h : Leaves K r) (hf : ∀ t, t.descs = K → f t = f' t) :
    onNext r f = onNext r f' := by
  cases r with
  | next t => simp only [onNext, hf t h]
  | fault e => rfl
  | refused e => rfl

/-- The word's index that an issue records may be counted in any state with the same kernels. -/
theorem afterIssue_descs_congr {t u : State} (h : t.descs = u.descs) (gid : Nat) (g : Group) :
    t.afterIssue gid none g (BitVec.ofNat 32 (wordIndex (t.launchOf g) g.spc)) =
      t.afterIssue gid none g (BitVec.ofNat 32 (wordIndex (u.launchOf g) g.spc)) := by
  rw [wordIndex_congr (State.launchOf_desc_congr h g) g.spc]

/-- Settles O5: the scheduler's choice tries its instruction, whose word is fetched, decoded and executed; neither the fetch nor the
instruction changes the kernel that the word's index is counted in. -/
theorem stepRunsScalarWord : Obligations.StepRunsScalarWord := by
  unfold Obligations.StepRunsScalarWord
  intro s u k gid g rest w s1 i hagenda hacts hchosen here hheld hstore hpage hside hfetch hdecode hlegal
  have hfetched : s1.descs = u.descs := by
    have hdescs := State.fetchScalar_descs u gid g
    rw [hfetch] at hdescs
    exact hdescs
  have hcur : ({ s1 with cur := gid } : State).descs = u.descs := (State.descs_congr rfl).trans hfetched
  have hleaves : Leaves u.descs (exec i { s1 with cur := gid }) := exec_leaves (decodeScalar_words hdecode) hcur
  have hrun : u.attempt gid none = onNext (exec i { s1 with cur := gid })
      (fun t => t.afterIssue gid none g (BitVec.ofNat 32 (wordIndex (t.launchOf g) g.spc))) := by
    rw [State.attempt_scalar here hside, State.scalarStep_exec hfetch hdecode hlegal]
  have hindex := hleaves.onNext_congr fun t ht => afterIssue_descs_congr ht gid g
  rw [step, State.act_scalar hagenda hacts hchosen, State.issue_eq_attempt here hheld hstore hpage, hrun, hindex]

end Sys2Proof.Machine
end

section
/-! SUPPORT. Special registers written, and the queues between the streams (spec/05 R122, R126-R131, R135, R137). -/

namespace Sys2Proof.Machine

/-- The critical count goes up to 255 and stays there (R122). -/
theorem Group.critStep_up (g : Group) : g.critStep true = { g with crit := if g.crit.toNat < 255 then g.crit + 1 else 255 } := by
  have hfull : g.crit = 255 ↔ ¬ g.crit.toNat < 255 := by bv_omega
  simp only [Group.critStep, if_true, hfull, ite_not]

theorem Group.laneIdle_iff (g : Group) : g.laneIdle = true ↔ g.laneQ = [] ∧ g.pend = [] := by
  simp [Group.laneIdle]

theorem Group.laneIdle_eq_false (g : Group) : g.laneIdle = false ↔ g.laneQ ≠ [] ∨ g.pend ≠ [] := by
  rw [← Bool.not_eq_true, g.laneIdle_iff, not_and_or]

section
variable {s : State} {g : Group} (here : s.group? s.cur = some g)
include here

/-! Writes of special registers. -/

theorem execFmt_eq (a : Reg) : execFmt a s = .next (s.setGroup s.cur ({ g with fmt := (g.reg a).setWidth 19 } : Group).advance) := by
  rw [execFmt, scalar_eq here, State.done_eq here]

theorem execSwr_fmt (a : Reg) : execSwr a 0x0D s = execFmt a s := by
  rw [execSwr, execFmt, scalar_eq here, scalar_eq here, if_pos rfl]

theorem execSwr_flags (a : Reg) :
    execSwr a 0x11 s = .next (s.setGroup s.cur ({ g with flags := (g.reg a).setWidth 7 } : Group).advance) := by
  rw [execSwr, scalar_eq here, if_neg (by decide), if_pos rfl, State.done_eq here]

theorem execSwr_other (a : Reg) {c : BitVec 10} (hfmt : c ≠ 0x0D) (hflags : c ≠ 0x11) :
    execSwr a c s = s.trapS s.cur g .priv (c.setWidth 64) := by
  rw [execSwr, scalar_eq here, if_neg hfmt, if_neg hflags]

theorem execSetprio_eq (n : BitVec 5) : execSetprio n s = .next (s.setGroup s.cur ({ g with cls := BitVec.ofNat 2 n.toNat } : Group).advance) := by
  rw [execSetprio, scalar_eq here, State.done_eq here]

theorem execCrit_eq (n : BitVec 5) : execCrit n s = .next (s.setGroup s.cur (g.critStep (n == 1)).advance) := by
  rw [execCrit, scalar_eq here, State.done_eq here]

theorem execYield_eq : execYield s = .next (s.setGroup s.cur g.advance) := by
  rw [execYield, scalar_eq here, State.done_eq here, id]

theorem execMark_eq (untraced : s.traced (s.launchOf g) g.launch = false) (a : Reg) (n : BitVec 10) :
    execMark a n s = .next (s.setGroup s.cur g.advance) := by
  rw [execMark, scalar_eq here, packet_none untraced, State.done_eq here, id]

/-! The lane queue and the return queue. -/

theorem execLgo_room (room : g.laneQ.length < 8) (posted : g.posted = []) (a b : Reg) (n : BitVec 5) :
    execLgo a b n s = .next (s.setGroup s.cur ({ g with laneQ := g.laneQ ++
        [{ start := (g.reg a).setWidth 32, k := (List.range n.toNat).map (fun i => g.reg (b + BitVec.ofNat 5 i)), fmt := g.fmt,
           at_ := s.cycles }] } : Group).advance) := by
  rw [execLgo, scalar_eq here, if_neg (Nat.not_le.2 room), drain_none here posted]
  exact congrArg Host.Outcome.next (State.done_eq here _)

theorem execLgo_full (full : 8 ≤ g.laneQ.length) (a b : Reg) (n : BitVec 5) :
    execLgo a b n s = if g.vputFull then s.trapS s.cur g .orphanwait 0 else s.stallS := by
  rw [execLgo, scalar_eq here, if_pos full]

theorem execLsync_idle (idle : g.laneIdle = true) : execLsync s = .next (s.setGroup s.cur g.advance) := by
  rw [execLsync, scalar_eq here, if_pos idle, State.done_eq here, id]

theorem execLsync_busy (busy : g.laneIdle = false) :
    execLsync s = if g.vputFull then s.trapS s.cur g .orphanwait 0 else s.stallS := by
  rw [execLsync, scalar_eq here, if_neg (Bool.eq_false_iff.1 busy)]

theorem execSpop_cons {x : W64} {r : List W64} (queue : g.retQ = x :: r) (d : Reg) :
    execSpop d s = .next (s.setGroup s.cur ({ (g.joined (g.retAt.headD 0)).setReg d x with
      retQ := r, retAt := g.retAt.tail, vputFull := false } : Group).advance) := by
  rw [execSpop, scalar_eq here]
  simp only [queue]
  rw [State.done_eq here]

theorem execSpop_nil (queue : g.retQ = []) (d : Reg) :
    execSpop d s = if g.laneIdle then s.trapS s.cur g .orphanwait 0 else s.stallS := by
  rw [execSpop, scalar_eq here]
  simp only [queue]

omit here in
/-- Where a full return queue keeps the lanes from going on, no party can end the S-stream's wait for them (R130). -/
theorem stopsS_of_vputFull {i : Instr} {cause : Cause} (hexec : exec i s = if g.vputFull then s.trapS s.cur g cause 0 else s.stallS)
    (full : g.vputFull = true) : StopsS s g i cause 0 := hexec.trans (if_pos full)

/-- Where the lanes go on, the S-stream waits. -/
theorem heldS_of_not_vputFull {i : Instr} {cause : Cause} (hexec : exec i s = if g.vputFull then s.trapS s.cur g cause 0 else s.stallS)
    (room : g.vputFull = false) : HeldS s g i :=
  (hexec.trans (if_neg (Bool.eq_false_iff.1 room))).trans (stallS_eq here)

end

/-- Settles O16: each instruction writes the one field of its group that it names. -/
theorem specialRegisterWrites : Obligations.SpecialRegisterWrites := by
  unfold Obligations.SpecialRegisterWrites
  intro s g here a n m c
  have hcrit : execCrit 1 s = .next (s.setGroup s.cur (g.critStep true).advance) := execCrit_eq here 1
  rw [g.critStep_up] at hcrit
  exact ⟨execFmt_eq here a, (execSwr_fmt here a).trans (execFmt_eq here a), execSwr_flags here a,
    fun hfmt hflags => execSwr_other here a hfmt hflags, execSetprio_eq here n, hcrit, execCrit_eq here 0, execYield_eq here,
    fun untraced => execMark_eq here untraced a m⟩

/-- Settles O17: each instruction looks at the queue that it needs; it goes on, waits, or stops where no party can end the wait. -/
theorem laneQueueInstructions : Obligations.LaneQueueInstructions := by
  unfold Obligations.LaneQueueInstructions
  intro s g here d a b n
  refine ⟨fun room posted => execLgo_room here room posted a b n, fun full => stopsS_of_vputFull (execLgo_full here full a b n),
    fun full => heldS_of_not_vputFull here (execLgo_full here full a b n), fun queue pend => execLsync_idle here (g.laneIdle_iff.2 ⟨queue, pend⟩),
    fun busy => stopsS_of_vputFull (execLsync_busy here (g.laneIdle_eq_false.2 busy)),
    fun busy => heldS_of_not_vputFull here (execLsync_busy here (g.laneIdle_eq_false.2 busy)), fun x r queue => execSpop_cons here queue d,
    fun queue lanes pend => (execSpop_nil here queue d).trans (if_pos (g.laneIdle_iff.2 ⟨lanes, pend⟩)), fun queue busy => ?_, ?_⟩
  · have hstall : exec (.spop d) s = s.stallS :=
      (execSpop_nil here queue d).trans (if_neg (Bool.eq_false_iff.1 (g.laneIdle_eq_false.2 busy)))
    exact hstall.trans (stallS_eq here)
  · rw [Nat.mul_comm (2 ^ 8)]
    exact ScalarResult.intro (setResult_eq here d _)

end Sys2Proof.Machine
end

section
/-! SUPPORT. Lane results put together from elements (spec/04 R84, spec/08 R181). -/

namespace Sys2Proof.Machine

/-! The result and the flags of a word from those of its elements. -/

/-- Elements put together, by their places. -/
theorem packElems_range (t : Ty) (f : Nat → Nat) : packElems t ((List.range t.elems).map f) = elements t f := by
  simp only [packElems, elements, List.foldr_map, Nat.mul_comm (2 ^ tyBits t)]

/-- Only the bits of an element's width count. -/
theorem elements_congr {t : Ty} {f f' : Nat → Nat} (h : ∀ e < t.elems, f e % 2 ^ tyBits t = f' e % 2 ^ tyBits t) :
    elements t f = elements t f' := by
  refine List.foldr_ext _ _ _ fun e he x => ?_
  rw [h e (List.mem_range.1 he)]

/-- A type whose register is one element. -/
theorem elements_one {t : Ty} (h : t.elems = 1) (f : Nat → Nat) : elements t f = f 0 % 2 ^ tyBits t := by
  simp [elements, h]

theorem foldl_or_range (n : Nat) (r : Nat → Nat × Flags) :
    ((List.range n).map r).foldl (fun x y => x ||| y.2) fl0 = (List.range n).foldl (fun x e => x ||| (r e).2) 0 := by
  rw [List.foldl_map]; rfl

theorem elementFlags_eq (t : Ty) (r : Nat → Nat × Flags) :
    ((List.range t.elems).map r).foldl (fun x y => x ||| y.2) fl0 = elementFlags t (fun e => (r e).2) := foldl_or_range _ r

/-- Elements that raise nothing. -/
@[simp] theorem elementFlags_zero (t : Ty) : elementFlags t (fun _ => 0) = 0 :=
  List.foldl_fixed' (fun _ => BitVec.or_zero) _

/-- The packed results of a register's elements. -/
theorem packed_range (t : Ty) (r : Nat → Nat × Flags) :
    packed t ((List.range t.elems).map r) = (elements t (fun e => (r e).1), elementFlags t (fun e => (r e).2)) := by
  rw [packed, List.map_map, elementFlags_eq]
  exact congrArg (·, _) (packElems_range t fun e => (r e).1)

theorem elem_lt (t : Ty) (raw e : Nat) : elem t raw e < 2 ^ tyBits t := Nat.mod_lt _ (Nat.two_pow_pos _)

section
variable {s : State} {g : Group} {p : Path}

/-- A short lane instruction with one result of the word's type completes (R84). -/
theorem CanIssue.laneResult (h : CanIssue s g p false) {i : Instr} {w : LaneWord} {rows : List Nat}
    {f : Group → Path → Nat → List LaneWrite × Flags} {val : Nat → Nat} {fl : Nat → Flags}
    (hexec : exec i s = laneShort s w rows f) (hf : ∀ l, f g p l = (resultWrites w.ty w.vd l (val l), fl l)) :
    LaneResult s g p i w val fl :=
  h.laneRows hexec fun l => by rw [hf l, resultWrites_eq]

/-- An element-by-element instruction completes with what it makes of each element (R181). -/
theorem CanIssue.elementwise (h : CanIssue s g p false) {i : Instr} {w : LaneWord} {f : Group → Path → Nat → Nat → Nat → Nat × Flags}
    (hexec : exec i s = elementwise s w f) :
    let r := fun l e => f g p (elem w.ty (g.readTy w.ty w.va l) e) (elem w.ty (g.readB w l) e) (elem w.ty (g.readTy w.ty w.vc l) e)
    LaneResult s g p i w (fun l => elements w.ty (fun e => (r l e).1)) (fun l => elementFlags w.ty (fun e => (r l e).2)) := by
  intro r
  refine h.laneResult hexec fun l => ?_
  change (resultWrites _ _ _ (packed w.ty ((List.range w.ty.elems).map (r l))).1, (packed w.ty ((List.range w.ty.elems).map (r l))).2) = _
  rw [packed_range]

end

end Sys2Proof.Machine
end

section
/-! SUPPORT. Integer lane arithmetic (spec/08 R184, R185). -/

namespace Sys2Proof.Machine

theorem tyBits_pos (t : Ty) : 0 < tyBits t := by cases t <;> decide

/-- The range of an integer type is not empty. -/
theorem intMin_le_intMax (t : Ty) : intMin t ≤ intMax t := by
  have hpow := Nat.two_pow_pos (tyBits t - 1)
  have hpow' := Nat.two_pow_pos (tyBits t)
  unfold intMin intMax
  split <;> omega

/-- A result wrapped or saturated is the number narrowed, and SAT is raised where saturation changed it (R185). -/
theorem intResult_eq (t : Ty) (sat : Bool) (r : Int) : intResult t sat r = (narrowed t sat r, satFlag t sat r) := by
  have hrange := intMin_le_intMax t
  cases sat with
  | false => simp [intResult, narrowed, satFlag, fl0]
  | true =>
    simp only [intResult, narrowed, satFlag, Bool.true_and, decide_eq_true_eq, if_true, true_and]
    by_cases hlow : r < intMin t
    · rw [if_pos hlow, if_pos (.inl hlow), min_eq_right (by omega), max_eq_left (by omega)]
    · by_cases hhigh : intMax t < r
      · rw [if_neg hlow, if_pos hhigh, if_pos (.inr hhigh), min_eq_left (by omega), max_eq_right hrange]
      · rw [if_neg hlow, if_neg hhigh, if_neg (not_or.2 ⟨hlow, hhigh⟩), min_eq_right (by omega), max_eq_right (by omega)]
        rfl

theorem ite_neg_eq_natAbs (x : Int) : (if x < 0 then -x else x) = (x.natAbs : Int) := by
  split <;> omega

/-- An instruction with an exact integer result completes with it narrowed, element by element. -/
theorem CanIssue.vint {s : State} {g : Group} {p : Path} (h : CanIssue s g p false) {i : Instr} {w : LaneWord} {f : Int → Int → Int → Int}
    (hexec : exec i s = vint s w f) {r : Nat → Nat → Int}
    (hr : ∀ l e, r l e = f (intVal w.ty (elem w.ty (g.readTy w.ty w.va l) e)) (intVal w.ty (elem w.ty (g.readB w l) e))
      (intVal w.ty (elem w.ty (g.readTy w.ty w.vc l) e))) :
    LaneResult s g p i w (fun l => elements w.ty (fun e => narrowed w.ty w.sat (r l e)))
      (fun l => elementFlags w.ty (fun e => satFlag w.ty w.sat (r l e))) := by
  have hresult := h.elementwise hexec
  simp only [intResult_eq, ← hr] at hresult
  exact hresult

/-- Settles O36: the word's meaning is the exact operation on the elements' values, narrowed. -/
theorem laneIntegerArithmetic : Obligations.LaneIntegerArithmetic := by
  unfold Obligations.LaneIntegerArithmetic
  intro s g p w can _ a b c i r hform
  simp only [List.mem_cons, Prod.mk.injEq, List.not_mem_nil, or_false] at hform
  rcases hform with ⟨rfl, rfl⟩ | ⟨rfl, rfl⟩ | ⟨rfl, rfl⟩ | ⟨rfl, rfl⟩ | ⟨rfl, rfl⟩ | ⟨rfl, rfl⟩ | ⟨rfl, rfl⟩ | ⟨rfl, rfl⟩ | ⟨rfl, rfl⟩
  · exact can.vint (f := fun x y _ => x + y) rfl fun _ _ => rfl
  · exact can.vint (f := fun x y _ => x - y) rfl fun _ _ => rfl
  · exact can.vint (f := fun x y _ => x * y) rfl fun _ _ => rfl
  · exact can.vint (f := fun x y _ => x * y / (2 ^ tyBits w.ty : Nat)) rfl fun _ _ => rfl
  · exact can.vint (f := fun x y z => x * y + z) rfl fun _ _ => rfl
  · exact can.vint (f := fun x y _ => min x y) rfl fun l e => (min_def_lt (b l e) (a l e)).symm.trans (min_comm _ _)
  · exact can.vint (f := fun x y _ => max x y) rfl fun l e => (max_def_lt (a l e) (b l e)).symm
  · exact can.vint (f := fun x _ _ => (x.natAbs : Int)) rfl fun l e => ite_neg_eq_natAbs (a l e)
  · exact can.vint (f := fun x _ _ => 0 - x) rfl fun l e => (zero_sub (a l e)).symm

end Sys2Proof.Machine
end

section
/-! SUPPORT. Bitwise, shift, bit-field and bit-count lane instructions (spec/08 R184, R186). -/

namespace Sys2Proof.Machine

/-! The bits of numbers, and the same operations on bit vectors. -/

theorem bit_eq_testBit (x i : Nat) : bit x i = x.testBit i := by
  rw [Nat.testBit_eq_decide_div_mod_eq]; exact beq_eq_decide ..

/-- `Sext` is the signed value of the low bits (R8). -/
theorem sextNat_eq_toInt (x : Nat) {n : Nat} (hn : 0 < n) : sextNat x n = (BitVec.ofNat n x).toInt := by
  obtain ⟨m, rfl⟩ := Nat.exists_eq_add_one.2 hn
  have hhalf : x % 2 ^ (m + 1) < 2 ^ m ↔ 2 * (x % 2 ^ (m + 1)) < 2 ^ (m + 1) := by omega
  rw [sextNat, BitVec.toInt_eq_toNat_cond, BitVec.toNat_ofNat, Nat.add_sub_cancel]
  exact if_congr hhalf rfl rfl

theorem sextNat_mod (x n : Nat) : sextNat (x % 2 ^ n) n = sextNat x n := by
  simp only [sextNat, Nat.mod_mod]

section
variable {n x y : Nat}

theorem sub_mod_eq_not (hx : x < 2 ^ n) : (2 ^ n - 1 - x) % 2 ^ n = (~~~ BitVec.ofNat n x).toNat := by
  rw [BitVec.toNat_not, BitVec.toNat_ofNat, Nat.mod_eq_of_lt hx]
  exact Nat.mod_eq_of_lt (by have := Nat.two_pow_pos n; omega)

theorem mul_two_pow_mod_eq_shiftLeft (x : Nat) (hy : y < 2 ^ n) :
    x * 2 ^ (y % n) % 2 ^ n = (BitVec.ofNat n x <<< ((BitVec.ofNat n y).toNat % n)).toNat := by
  rw [BitVec.toNat_shiftLeft, BitVec.toNat_ofNat, BitVec.toNat_ofNat, Nat.mod_eq_of_lt hy, Nat.shiftLeft_eq, Nat.mod_mul_mod]

theorem div_two_pow_mod_eq_ushiftRight (hx : x < 2 ^ n) (hy : y < 2 ^ n) :
    x / 2 ^ (y % n) % 2 ^ n = (BitVec.ofNat n x >>> ((BitVec.ofNat n y).toNat % n)).toNat := by
  rw [BitVec.toNat_ushiftRight, BitVec.toNat_ofNat, BitVec.toNat_ofNat, Nat.mod_eq_of_lt hx, Nat.mod_eq_of_lt hy, Nat.shiftRight_eq_div_pow]
  exact Nat.mod_eq_of_lt ((Nat.div_le_self _ _).trans_lt hx)

/-- The shift that fills with the top bit. -/
theorem sextNat_div_mod_eq_sshiftRight (hn : 0 < n) (x : Nat) (hy : y < 2 ^ n) :
    (sextNat x n / (2 ^ (y % n) : Nat) % (2 ^ n : Nat)).toNat % 2 ^ n
      = ((BitVec.ofNat n x).sshiftRight ((BitVec.ofNat n y).toNat % n)).toNat := by
  rw [BitVec.toNat_ofNat, Nat.mod_eq_of_lt hy, sextNat_eq_toInt x hn, ← Int.shiftRight_eq_div_pow, ← BitVec.toNat_ofInt]
  exact Nat.mod_eq_of_lt (BitVec.isLt _)

/-- The one bits counted. -/
theorem length_filter_bit_mod_eq (n x : Nat) : ((List.range n).filter (bit x)).length % 2 ^ n
    = (BitVec.ofNat n ((List.range n).countP (fun j => (BitVec.ofNat n x).getLsbD j))).toNat := by
  rw [BitVec.toNat_ofNat, ← List.countP_eq_length_filter]
  refine congrArg (· % 2 ^ n) (List.countP_congr fun j hj => ?_)
  rw [BitVec.getLsbD_ofNat, bit_eq_testBit, decide_eq_true (List.mem_range.1 hj), Bool.true_and]

/-- The zero bits above the highest one bit; all of them on zero. -/
theorem leadingZeros_mod_eq (hx : x < 2 ^ n) : (if x = 0 then n else n - 1 - Nat.log2 x) % 2 ^ n
    = (BitVec.ofNat n (n - Nat.log2 (2 * (BitVec.ofNat n x).toNat + 1))).toNat := by
  rw [BitVec.toNat_ofNat, BitVec.toNat_ofNat, Nat.mod_eq_of_lt hx]
  refine congrArg (· % 2 ^ n) ?_
  split
  next h => subst h; rfl
  next h =>
    have hhalf : (2 * x + 1) / 2 = x := by omega
    rw [Nat.log2_def (2 * x + 1), if_pos (by omega), hhalf]
    omega

/-- The bits of a number that takes those of another one after another, the lowest first. -/
theorem testBit_foldl_bit (x m j : Nat) :
    ((List.range m).foldl (fun y i => 2 * y + (bit x i).toNat) 0).testBit j = (decide (j < m) && x.testBit (m - 1 - j)) := by
  induction m generalizing j with
  | zero => simp
  | succ m ih =>
    rw [List.range_succ, List.foldl_append, List.foldl_cons, List.foldl_nil, ← Nat.bit_val]
    cases j with
    | zero => simp [bit_eq_testBit]
    | succ j =>
      rw [Nat.testBit_bit_succ, ih, show m + 1 - 1 - (j + 1) = m - 1 - j by omega]
      simp

/-- The bits in the reverse order. -/
theorem foldl_bit_mod_eq_reverse (n x : Nat) :
    (List.range n).foldl (fun y i => 2 * y + (bit x i).toNat) 0 % 2 ^ n = (BitVec.ofNat n x).reverse.toNat := by
  refine Nat.eq_of_testBit_eq fun j => ?_
  rw [Nat.testBit_mod_two_pow, testBit_foldl_bit, BitVec.testBit_toNat, BitVec.getLsbD_reverse, BitVec.getMsbD, BitVec.getLsbD_ofNat]
  by_cases hj : j < n
  · have hrev : n - 1 - j < n := by omega
    simp [hj, hrev]
  · simp [hj]

/-- A bit of a number in which a field has been replaced. -/
theorem testBit_setBits (x lo len v j : Nat) :
    (setBits x lo len v).testBit j = if lo ≤ j ∧ j < lo + len then v.testBit (j - lo) else x.testBit j := by
  have hx : x = 2 ^ lo * (2 ^ len * (x / 2 ^ lo / 2 ^ len) + x / 2 ^ lo % 2 ^ len) + x % 2 ^ lo := by
    rw [Nat.div_add_mod, Nat.div_add_mod]
  have hset : setBits x lo len v = 2 ^ lo * (2 ^ len * (x / 2 ^ lo / 2 ^ len) + v % 2 ^ len) + x % 2 ^ lo := by
    have hrest : x - bits x lo len * 2 ^ lo = 2 ^ lo * (2 ^ len * (x / 2 ^ lo / 2 ^ len)) + x % 2 ^ lo := by
      refine Nat.sub_eq_of_eq_add ?_
      conv_lhs => rw [hx]
      rw [bits]
      ring
    rw [setBits, hrest]
    ring
  have hfield (y : Nat) : y % 2 ^ len < 2 ^ len := Nat.mod_lt _ (Nat.two_pow_pos _)
  have hlow : x % 2 ^ lo < 2 ^ lo := Nat.mod_lt _ (Nat.two_pow_pos _)
  rw [hset]
  conv_rhs => rw [hx]
  rw [Nat.testBit_two_pow_mul_add _ hlow, Nat.testBit_two_pow_mul_add _ hlow, Nat.testBit_two_pow_mul_add _ (hfield v),
    Nat.testBit_two_pow_mul_add _ (hfield _)]
  by_cases hj : j < lo
  · rw [if_pos hj, if_pos hj, if_neg (by omega)]
  · by_cases hin : j - lo < len
    · rw [if_neg hj, if_pos hin, if_pos (by omega), Nat.testBit_mod_two_pow, decide_eq_true hin, Bool.true_and]
    · rw [if_neg hj, if_neg hin, if_neg (by omega), if_neg hj, if_neg hin]

/-- A field of a 32-bit number replaced, by masks. -/
theorem setBits_eq_mask {x lo len : Nat} (v : Nat) (hx : x < 2 ^ 32) (hfield : lo + len ≤ 32) :
    setBits x lo len v = ((BitVec.ofNat 32 x &&& ~~~ (BitVec.ofNat 32 (2 ^ len - 1) <<< lo)) |||
      (BitVec.ofNat 32 v &&& BitVec.ofNat 32 (2 ^ len - 1)) <<< lo).toNat := by
  refine Nat.eq_of_testBit_eq fun j => ?_
  rw [testBit_setBits, BitVec.testBit_toNat]
  simp only [BitVec.getLsbD_or, BitVec.getLsbD_and, BitVec.getLsbD_not, BitVec.getLsbD_shiftLeft, BitVec.getLsbD_ofNat,
    Nat.testBit_two_pow_sub_one]
  by_cases hj : j < 32
  · by_cases hlow : j < lo
    · rw [if_neg (by omega)]
      simp [hj, hlow]
    · have hj' : j - lo < 32 := by omega
      by_cases hin : j - lo < len
      · rw [if_pos (by omega)]
        simp [hj, hlow, hj', hin]
      · rw [if_neg (by omega)]
        simp [hj, hlow, hj', hin]
  · rw [if_neg (by omega), Nat.testBit_lt_two_pow (hx.trans_le (Nat.pow_le_pow_right (by decide) (Nat.not_lt.1 hj)))]
    simp [hj]

end

/-! The instructions. -/

theorem Group.read32_lt (g : Group) (c : BitVec 8) (l : Nat) : g.read32 c l < 2 ^ 32 := by
  rw [g.read32_word32]; exact g.word32_lt c 0 l

/-- The words of `vbfe` and `vbfi` act on one 32-bit register, in a field that lies within it (R186). -/
theorem bfOk_field {w : LaneWord} {b : Bool} (h : w.bfOk b = true) :
    (w.ty = .i32 ∨ w.ty = .n32) ∧ 1 ≤ bits w.x32.toNat 8 6 ∧ bits w.x32.toNat 0 6 + bits w.x32.toNat 8 6 ≤ 32 := by
  simp only [LaneWord.bfOk, LaneWord.fieldOk, Bool.and_eq_true, decide_eq_true_eq, List.contains_eq_mem, List.mem_cons, List.not_mem_nil,
    or_false] at h
  obtain ⟨⟨⟨⟨⟨⟨hty, -⟩, -⟩, -⟩, -⟩, -⟩, ⟨⟨-, hlen⟩, -⟩, hfield⟩ := h
  simp only [bits, Nat.pow_zero, Nat.div_one]
  exact ⟨hty, hlen, hfield⟩

section
variable {s : State} {g : Group} {p : Path}

/-- An instruction on the bits of its elements completes with them and raises no flag. -/
theorem CanIssue.vbits (h : CanIssue s g p false) {i : Instr} {w : LaneWord} {f : Nat → Nat → Nat} (hexec : exec i s = vbits s w f)
    {val : Nat → Nat → Nat}
    (hval : ∀ l, ∀ e < w.ty.elems, f (elem w.ty (g.readTy w.ty w.va l) e) (elem w.ty (g.readB w l) e) % 2 ^ tyBits w.ty
      = val l e % 2 ^ tyBits w.ty) :
    LaneResult s g p i w (fun l => elements w.ty (val l)) (fun _ => 0) := by
  have hresult := h.elementwise hexec
  have helements (l : Nat) : elements w.ty (fun e => f (elem w.ty (g.readTy w.ty w.va l) e) (elem w.ty (g.readB w l) e) % 2 ^ tyBits w.ty)
      = elements w.ty (val l) := elements_congr fun e he => by rw [Nat.mod_mod, hval l e he]
  have hflags : elementFlags w.ty (fun _ => fl0) = 0 := elementFlags_zero w.ty
  simp only [helements, hflags] at hresult
  exact hresult

/-- The same in the terms of bit vectors of the element's width. -/
theorem CanIssue.vbits_bitVec (h : CanIssue s g p false) {i : Instr} {w : LaneWord} {f : Nat → Nat → Nat} (hexec : exec i s = Machine.vbits s w f)
    {val : BitVec (tyBits w.ty) → BitVec (tyBits w.ty) → BitVec (tyBits w.ty)}
    (hval : ∀ x y, x < 2 ^ tyBits w.ty → y < 2 ^ tyBits w.ty →
      f x y % 2 ^ tyBits w.ty = (val (BitVec.ofNat _ x) (BitVec.ofNat _ y)).toNat) :
    LaneResult s g p i w (fun l => elements w.ty (fun e => (val (BitVec.ofNat _ (elem w.ty (g.readTy w.ty w.va l) e))
      (BitVec.ofNat _ (elem w.ty (g.readB w l) e))).toNat)) (fun _ => 0) :=
  h.vbits hexec fun l e _ => by
    rw [hval _ _ (elem_lt ..) (elem_lt ..), Nat.mod_eq_of_lt (BitVec.isLt _)]

/-- The field of a register that a word of `vbfe` names, sign-extended to 32 bits for i32 (R186). -/
def bfeField (w : LaneWord) (x : Nat) : Nat :=
  let f := BitVec.ofNat (bits w.x32.toNat 8 6) (x / 2 ^ bits w.x32.toNat 0 6)
  if w.ty = .i32 then (f.signExtend 32).toNat else f.toNat

theorem bfeField_lt {w : LaneWord} (hlen : bits w.x32.toNat 8 6 ≤ 32) (x : Nat) : bfeField w x < 2 ^ 32 := by
  unfold bfeField
  split
  · exact BitVec.isLt _
  · exact (BitVec.isLt _).trans_le (Nat.pow_le_pow_right (by decide) hlen)

/-- What the model computes for it. -/
theorem bfeField_eq {w : LaneWord} (hlen : 0 < bits w.x32.toNat 8 6) (x : Nat) :
    let y := bits x (bits w.x32.toNat 0 6) (bits w.x32.toNat 8 6)
    bfeField w x = if w.ty = .i32 then (sextNat y (bits w.x32.toNat 8 6) % (2 ^ 32 : Nat)).toNat else y := by
  refine if_congr Iff.rfl ?_ (BitVec.toNat_ofNat ..)
  rw [BitVec.signExtend, BitVec.toNat_ofInt, ← sextNat_eq_toInt _ hlen, ← sextNat_mod]
  rfl

/-- The 32-bit integer types have one element, the whole register, and i32 alone is signed. -/
theorem intWord_of_i32_or_n32 {t : Ty} (h : t = .i32 ∨ t = .n32) :
    t.elems = 1 ∧ tyBits t = 32 ∧ t.wide = false ∧ (tySigned t = true ↔ t = .i32) := by
  rcases h with rfl | rfl <;> decide

/-- `vbfe` completes with the field. -/
theorem CanIssue.vbfe (h : CanIssue s g p false) {w : LaneWord} (hty : w.ty = .i32 ∨ w.ty = .n32) (hlen : 0 < bits w.x32.toNat 8 6)
    (hfield : bits w.x32.toNat 8 6 ≤ 32) : LaneResult s g p (.vbfe w) w (fun l => bfeField w (g.read32 w.va l)) (fun _ => 0) := by
  obtain ⟨hone, h32, hwide, hsigned⟩ := intWord_of_i32_or_n32 hty
  have hraw (l : Nat) : elem w.ty (g.readTy w.ty w.va l) 0 = g.read32 w.va l := by
    have hlt := g.read32_lt w.va l
    rw [elem, bits, Group.readTy, hwide, h32, Nat.mul_zero, Nat.pow_zero, Nat.div_one]
    exact Nat.mod_eq_of_lt hlt
  have hexec : exec (.vbfe w) s = Machine.vbits s w fun x _ =>
      let y := bits x (bits w.x32.toNat 0 6) (bits w.x32.toNat 8 6)
      if tySigned w.ty then (sextNat y (bits w.x32.toNat 8 6) % (2 ^ 32 : Nat)).toNat else y := rfl
  have hresult := h.vbits hexec (val := fun l _ => bfeField w (g.read32 w.va l)) fun l e he => by
    rw [hone, Nat.lt_one_iff] at he
    rw [he, hraw, bfeField_eq hlen]
    simp only [hsigned]
  have helements (l : Nat) : elements w.ty (fun _ => bfeField w (g.read32 w.va l)) = bfeField w (g.read32 w.va l) := by
    rw [elements_one hone, h32, Nat.mod_eq_of_lt (bfeField_lt hfield _)]
  simp only [helements] at hresult
  exact hresult

end

/-- Settles O37: each operation on the elements' bits is that on bit vectors of the element's width, and the field instructions act on the
one field that their word names. -/
theorem laneBitOperations : Obligations.LaneBitOperations := by
  unfold Obligations.LaneBitOperations
  intro s g p w can _ n a b
  have hn : 0 < n := tyBits_pos w.ty
  refine ⟨fun i r hform => ?_, fun hwell => ?_, fun hwell => ?_⟩
  · simp only [List.mem_cons, Prod.mk.injEq, List.not_mem_nil, or_false] at hform
    rcases hform with ⟨rfl, rfl⟩ | ⟨rfl, rfl⟩ | ⟨rfl, rfl⟩ | ⟨rfl, rfl⟩ | ⟨rfl, rfl⟩ | ⟨rfl, rfl⟩ | ⟨rfl, rfl⟩ | ⟨rfl, rfl⟩ | ⟨rfl, rfl⟩
      | ⟨rfl, rfl⟩
    · exact can.vbits_bitVec (val := fun x y => x &&& y) rfl fun x y _ _ => Nat.and_mod_two_pow
    · exact can.vbits_bitVec (val := fun x y => x ||| y) rfl fun x y _ _ => Nat.or_mod_two_pow
    · exact can.vbits_bitVec (val := fun x y => x ^^^ y) rfl fun x y _ _ => Nat.xor_mod_two_pow
    · exact can.vbits_bitVec (val := fun x _ => ~~~x) rfl fun x y hx _ => sub_mod_eq_not hx
    · exact can.vbits_bitVec (val := fun x y => x <<< (y.toNat % n)) rfl fun x y _ hy => mul_two_pow_mod_eq_shiftLeft x hy
    · exact can.vbits_bitVec (val := fun x y => x >>> (y.toNat % n)) rfl fun x y hx hy => div_two_pow_mod_eq_ushiftRight hx hy
    · exact can.vbits_bitVec (val := fun x y => x.sshiftRight (y.toNat % n)) rfl fun x y _ hy => sextNat_div_mod_eq_sshiftRight hn x hy
    · exact can.vbits_bitVec (val := fun x _ => BitVec.ofNat n ((List.range n).countP (fun j => x.getLsbD j))) rfl
        fun x y _ _ => length_filter_bit_mod_eq n x
    · exact can.vbits_bitVec (val := fun x _ => BitVec.ofNat n (n - Nat.log2 (2 * x.toNat + 1))) rfl fun x y hx _ => leadingZeros_mod_eq hx
    · exact can.vbits_bitVec (val := fun x _ => x.reverse) rfl fun x y _ _ => foldl_bit_mod_eq_reverse n x
  · obtain ⟨hty, hlen, hfield⟩ := bfOk_field hwell
    exact can.vbfe hty hlen (le_of_add_le_right hfield)
  · obtain ⟨-, -, hfield⟩ := bfOk_field hwell
    refine can.laneResult rfl fun l => Prod.ext ?_ rfl
    rw [← setBits_eq_mask _ (g.read32_lt w.va l) hfield]

end Sys2Proof.Machine
end

section
/-! SUPPORT. Short floating-point lane instructions (spec/08 R187-R192). -/

namespace Sys2Proof.Machine

/-- What a floating-point operation makes of element e of a lane: its operands with their signs flipped as asked, and flushed (R188). -/
def floatElem (g : Group) (p : Path) (w : LaneWord) (f : Nat → Nat → Nat → Nat × Flags) (l e : Nat) : Nat × Flags :=
  let z := fmtFtz p.fmt
  f (ftzIn (ftOf w) z (negElem (ftOf w) w.negA (elem w.ty (g.readTy w.ty w.va l) e)))
    (ftzIn (ftOf w) z (negElem (ftOf w) w.negB (elem w.ty (g.readB w l) e))) (ftzIn (ftOf w) z (elem w.ty (g.readTy w.ty w.vc l) e))

theorem floatLane_eq (g : Group) (p : Path) (w : LaneWord) (l : Nat) (f : Nat → Nat → Nat → Nat × Flags) :
    floatLane g p w l f = (resultWrites w.ty w.vd l (elements w.ty (fun e => (floatElem g p w f l e).1)),
      elementFlags w.ty (fun e => (floatElem g p w f l e).2)) := by
  change (resultWrites _ _ _ (packed w.ty ((List.range w.ty.elems).map (floatElem g p w f l))).1,
    (packed w.ty ((List.range w.ty.elems).map (floatElem g p w f l))).2) = _
  rw [packed_range]

theorem ftOf_eq {w : LaneWord} {T : FT} (h : tyFloat w.ty = some T) : ftOf w = T := by
  rw [ftOf, h, Option.getD_some]

/-- A short floating-point instruction completes with its operation on each element. -/
theorem CanIssue.vfp {s : State} {g : Group} {p : Path} (h : CanIssue s g p false) {i : Instr} {w : LaneWord}
    {f : Path → Nat → Nat → Nat → Nat × Flags} (hexec : exec i s = vfp s w f) :
    LaneResult s g p i w (fun l => elements w.ty (fun e => (floatElem g p w (f p) l e).1))
      (fun l => elementFlags w.ty (fun e => (floatElem g p w (f p) l e).2)) :=
  h.laneResult hexec fun l => floatLane_eq g p w l (f p)

/-- Settles O38: each instruction is its exact operation on the elements, rounded once. -/
theorem laneFloatArithmetic : Obligations.LaneFloatArithmetic := by
  unfold Obligations.LaneFloatArithmetic
  intro s g p w T can hT
  obtain rfl := ftOf_eq hT
  intro z m a b c i r hform
  simp only [List.mem_cons, Prod.mk.injEq, List.not_mem_nil, or_false] at hform
  rcases hform with ⟨rfl, rfl⟩ | ⟨rfl, rfl⟩ | ⟨rfl, rfl⟩ | ⟨rfl, rfl⟩ | ⟨rfl, rfl⟩ | ⟨rfl, rfl⟩ | ⟨rfl, rfl⟩ | ⟨rfl, rfl⟩
  · exact can.vfp (f := fun p a b _ => roundTo w p (addVal (fmtRnd p.fmt) ((ftOf w).val a) ((ftOf w).val b))) rfl
  · exact can.vfp (f := fun p a b _ => roundTo w p (addVal (fmtRnd p.fmt) ((ftOf w).val a) ((ftOf w).val (negElem (ftOf w) true b)))) rfl
  · exact can.vfp (f := fun p a b _ => roundTo w p (mulVal ((ftOf w).val a) ((ftOf w).val b))) rfl
  · exact can.vfp (f := fun p a b c => roundTo w p (fmaVal (fmtRnd p.fmt) ((ftOf w).val a) ((ftOf w).val b) ((ftOf w).val c))) rfl
  · exact can.vfp (f := fun p a b _ => minMax (ftOf w) (fmtFtz p.fmt) false a b) rfl
  · exact can.vfp (f := fun p a b _ => minMax (ftOf w) (fmtFtz p.fmt) true a b) rfl
  · exact can.vfp (f := fun p a _ _ => ftzOut (ftOf w) (fmtFtz p.fmt) (roundIntegral (ftOf w) (fmtRnd p.fmt) a)) rfl
  · refine can.laneResult rfl fun l => Prod.ext ?_ (elementFlags_zero w.ty).symm
    exact congrArg (resultWrites w.ty w.vd l) (packElems_range w.ty fun e => classBit (ftOf w) (elem w.ty (g.readTy w.ty w.va l) e))

end Sys2Proof.Machine
end

section
/-! SUPPORT. Lane conversions (spec/04 R100-R107). -/

namespace Sys2Proof.Machine

/-- An operand field that is not vz names a register or a parameter (R74). -/
theorem RegCode.isV_or_isK (c : BitVec 8) : (RegCode.isV c || RegCode.isK c) = !decide (c.toNat = 0xFF) := by
  have hlt := c.isLt
  rw [Bool.eq_iff_iff, Bool.or_eq_true, RegCode.isV_iff, RegCode.isK_iff, Bool.not_eq_true', decide_eq_false_iff_not]
  omega

/-- The elements of one register, then those of another. -/
theorem map_range_append {α β : Type} (n : Nat) (x y : Nat → α) (c : α → β) :
    ((List.range n).map x ++ (List.range n).map y).map c = (List.range (2 * n)).map (fun e => c (if e < n then x e else y (e - n))) := by
  rw [Nat.two_mul, List.range_add, List.map_append, List.map_append, List.map_map, List.map_map, List.map_map]
  refine congrArg₂ _ (List.map_congr_left fun e he => ?_) (List.map_congr_left fun e _ => ?_)
  · rw [Function.comp, if_pos (List.mem_range.1 he)]
  · rw [Function.comp, Function.comp, if_neg (by omega), Nat.add_sub_cancel_left]

/-- Registers written from a list of results, and the flags of them all. -/
theorem listWrites_eq (c : BitVec 8) (l n : Nat) (q : Nat → Nat × Flags) :
    let rs := (List.range n).map q
    (if RegCode.isV c then (List.range rs.length).map (fun k => laneWrite (c.toNat + k) l (nth rs k (0, fl0)).1) else [],
      rs.foldl (fun x y => x ||| y.2) fl0) = (regWrites c n l (fun k => (q k).1), (List.range n).foldl (fun x k => x ||| (q k).2) 0) := by
  intro rs
  have hlength : rs.length = n := by simp [rs]
  refine Prod.ext ?_ (foldl_or_range n q)
  rw [hlength]
  refine regWrites_congr fun k hk => ?_
  simp [rs, nth, hk]

/-- A source element of `vdeq` (R106): an integer is a signed byte. -/
theorem deqVal_int {g : Group} {w : LaneWord} (hq4 : w.srcTy ≠ .q4x8) (he4m3 : w.srcTy ≠ .e4m3x4) (he5m2 : w.srcTy ≠ .e5m2x4) (x : Nat) :
    deqVal g w x = Val.ofInt (BitVec.ofNat 8 x).toInt := by
  rw [← sextNat_eq_toInt x (by decide)]
  unfold deqVal
  split
  next h => exact absurd h hq4
  next h => exact absurd h he4m3
  next h => exact absurd h he5m2
  next => rfl

/-- A value scaled by the E8 code in the low byte of an operand; vz scales nothing (R106, R107). -/
def scaledBy (g : Group) (w : LaneWord) (l : Nat) (x : Val) : Val :=
  if RegCode.isV w.vb || RegCode.isK w.vb then scaled (g.read32 w.vb l % 256) x else x

theorem scaledBy_eq (g : Group) (w : LaneWord) (l : Nat) (x : Val) :
    scaledBy g w l x = if w.vb.toNat = 0xFF then x
      else if g.read32 w.vb l % 256 = 0xFF then .nan false else x.scale ((g.read32 w.vb l % 256 : Nat) - 127) := by
  unfold scaledBy scaled
  rw [RegCode.isV_or_isK]
  by_cases h : w.vb.toNat = 0xFF
  · rw [if_pos h, decide_eq_true h]; rfl
  · rw [if_neg h, decide_eq_false h]; rfl

section
variable {s : State} {g : Group} {p : Path}

/-- An instruction that packs what it makes of each element completes with it. -/
theorem CanIssue.packed (h : CanIssue s g p false) {i : Instr} {w : LaneWord} {rows : List Nat} {f : Group → Path → Nat → List (Nat × Flags)}
    (hexec : exec i s = laneShort s w rows fun g p l =>
      (resultWrites w.ty w.vd l (packed w.ty (f g p l)).1, (packed w.ty (f g p l)).2))
    {r : Nat → Nat → Nat × Flags} (hr : ∀ l, f g p l = (List.range w.ty.elems).map (r l)) :
    LaneResult s g p i w (fun l => elements w.ty (fun e => (r l e).1)) (fun l => elementFlags w.ty (fun e => (r l e).2)) :=
  h.laneResult hexec fun l => by rw [hr l, packed_range]

/-- `vdeq` completes with the rows of its elements (R106). -/
theorem CanIssue.vdeq (h : CanIssue s g p false) {w : LaneWord} {r : Nat → Nat → Nat → Nat × Flags}
    (hr : ∀ k l e, r k l e = convert (ftOf w) (fmtRnd p.fmt) w.sat
      (scaledBy g w l (deqVal g w (elem w.srcTy (g.read32 w.va l) (k * w.ty.elems + e))))) :
    LaneRows s g p (.vdeq w) w (w.srcTy.elems / w.ty.elems) (fun k l => elements w.ty (fun e => (r k l e).1))
      (fun l => (List.range (w.srcTy.elems / w.ty.elems)).foldl (fun f k => f ||| elementFlags w.ty (fun e => (r k l e).2)) 0) := by
  obtain rfl : r = fun k l e => convert (ftOf w) (fmtRnd p.fmt) w.sat
      (scaledBy g w l (deqVal g w (elem w.srcTy (g.read32 w.va l) (k * w.ty.elems + e)))) := funext₃ hr
  refine h.laneRows rfl fun l => (listWrites_eq w.vd l _ _).trans ?_
  simp only [packed_range]
  rfl

end

/-- Settles O40: each instruction converts each source element once and packs the results. -/
theorem laneConversions : Obligations.LaneConversions := by
  unfold Obligations.LaneConversions
  intro s g p w can d n cv E
  refine ⟨?_, fun hd _ => ?_, fun _ => ?_, fun T hT _ => ?_⟩
  · exact can.packed rfl fun l => rfl
  · refine can.packed rfl fun l => ?_
    rw [map_range_append, ← hd]
  · exact can.packed rfl fun l => rfl
  · obtain rfl := ftOf_eq hT
    intro scale
    have hscale (l : Nat) (x : Val) : scaledBy g w l x = scale l x := scaledBy_eq g w l x
    refine ⟨fun _ => can.vdeq fun k l e => ?_, can.packed rfl fun l => List.map_congr_left fun e _ => ?_⟩
    · rw [hscale]
      refine congrArg (fun x => convert (ftOf w) (fmtRnd p.fmt) w.sat (scale l x)) ?_
      change _ = deqVal g w (E w.va l (k * d + e))
      generalize E w.va l (k * d + e) = x
      split
      next h => simp only [deqVal, h]
      next h => simp only [deqVal, h]
      next h => simp only [deqVal, h]
      next hq4 he4m3 he5m2 => exact (deqVal_int hq4 he4m3 he5m2 _).symm
    · exact congrArg (convert (ftOf w) (fmtRnd p.fmt) w.sat) (hscale l ((ftOf w).val (elem w.ty (g.read32 w.va l) e)))

end Sys2Proof.Machine
end

section
/-! SUPPORT. Long-latency lane instructions: the window that an issue opens, and what its completion writes (spec/05 R123-R125). -/

namespace Sys2Proof.Machine

/-! Writes of lane registers one after another. -/

/-- A lane register after a write of one. -/
theorem Group.vreg_setVreg (g : Group) (n k : Nat) (x : W32) (r l : Nat) :
    (g.setVreg n k x).vreg r l = if 64 * r + l = 64 * n + k then x else g.vreg r l := by
  split
  next h =>
    unfold Group.vreg Group.setVreg
    rw [h]; exact Tbl.get_set_self ..
  next h => exact Group.vreg_setVreg_other g n k r l x h

/-- A group after writes of lane registers, one after another. -/
def Group.written (g : Group) (ws : List LaneWrite) : Group := ws.foldl (fun g x => g.setVreg x.reg x.lane x.val) g

theorem Group.written_cons (g : Group) (x : LaneWrite) (ws : List LaneWrite) :
    g.written (x :: ws) = (g.setVreg x.reg x.lane x.val).written ws := rfl

theorem Group.written_append (g : Group) (ws ws' : List LaneWrite) : g.written (ws ++ ws') = (g.written ws).written ws' := List.foldl_append

/-- They change lane registers alone. -/
theorem Group.written_eq (g : Group) (ws : List LaneWrite) : ∃ v, g.written ws = { g with v := v } := Group.foldl_setVreg_eq ws g

/-- What a lane register holds after them rests, of the group before, on that register alone. -/
theorem Group.vreg_written_congr (ws : List LaneWrite) {g g' : Group} {r l : Nat} (h : g.vreg r l = g'.vreg r l) :
    (g.written ws).vreg r l = (g'.written ws).vreg r l := by
  induction ws generalizing g g' with
  | nil => exact h
  | cons x ws ih => exact ih (by rw [Group.vreg_setVreg, Group.vreg_setVreg, h])

/-- Writes of another lane leave a lane register as it is. -/
theorem Group.vreg_written_other {ws : List LaneWrite} {g : Group} {m l : Nat} (hws : ∀ x ∈ ws, x.lane = m) (hm : m < 64) (hl : l < 64)
    (h : m ≠ l) (r : Nat) : (g.written ws).vreg r l = g.vreg r l := by
  induction ws generalizing g with
  | nil => rfl
  | cons x ws ih =>
    have hx := hws x List.mem_cons_self
    rw [Group.written_cons, ih fun y hy => hws y (List.mem_cons_of_mem _ hy), Group.vreg_setVreg, if_neg (by omega)]

/-- Where each lane writes its own registers, a lane register holds what its lane has written. -/
theorem Group.vreg_written_lanes {F : Nat → List LaneWrite} (hF : ∀ m, ∀ x ∈ F m, x.lane = m) {ls : List Nat} (hnodup : ls.Nodup)
    (hls : ∀ m ∈ ls, m < 64) (g : Group) (r : Nat) {l : Nat} (hl : l < 64) :
    (g.written (ls.flatMap F)).vreg r l = if l ∈ ls then (g.written (F l)).vreg r l else g.vreg r l := by
  induction ls generalizing g with
  | nil => rfl
  | cons m ls ih =>
    obtain ⟨hm, hnodup⟩ := List.nodup_cons.1 hnodup
    rw [List.flatMap_cons, Group.written_append, ih hnodup (fun k hk => hls k (List.mem_cons_of_mem _ hk))]
    by_cases hml : m = l
    · subst hml
      rw [if_neg hm, if_pos List.mem_cons_self]
    · have hother := Group.vreg_written_other (g := g) (hF m) (hls m List.mem_cons_self) hl hml r
      rw [Group.vreg_written_congr (F l) hother, hother]
      simp only [List.mem_cons, Ne.symm hml, false_or]

/-- The registers of one lane after n of them are written from a destination field. -/
theorem Group.vreg_written_regWrites (g : Group) (c : BitVec 8) (n : Nat) (val : Nat → Nat) (r : Nat) {l : Nat} (hl : l < 64) :
    (g.written (regWrites c n l val)).vreg r l
      = if RegCode.isV c && decide (c.toNat ≤ r) && decide (r < c.toNat + n) then BitVec.ofNat 32 (val (r - c.toNat)) else g.vreg r l := by
  rw [Group.written, Group.vreg_foldl_setVreg _ (fun r _ => BitVec.ofNat 32 (val (r - c.toNat))) g
    (fun x hx => by obtain ⟨-, k, -, rfl⟩ := mem_regWrites.1 hx; exact hl)
    (fun x hx => by obtain ⟨-, k, -, rfl⟩ := mem_regWrites.1 hx; simp) r hl]
  refine if_congr ⟨?_, fun h => ?_⟩ rfl rfl
  · rintro ⟨x, hx, rfl, -⟩
    obtain ⟨hv, k, hk, rfl⟩ := mem_regWrites.1 hx
    simp [hv, hk]
  · simp only [Bool.and_eq_true, decide_eq_true_eq] at h
    obtain ⟨⟨hv, hlow⟩, hhigh⟩ := h
    exact ⟨{ reg := r, lane := l, val := BitVec.ofNat 32 (val (r - c.toNat)) },
      mem_regWrites.2 ⟨hv, r - c.toNat, by omega, by rw [Nat.add_sub_cancel' hlow]⟩, rfl, rfl⟩

/-! The window of a long-latency instruction, and its completion. -/

/-- The entry of an instruction that computes from registers alone. -/
def Group.longEntry (g : Group) (p : Path) (w : LaneWord) (r : List LaneWrite × Flags) : Pend :=
  { path := p.id, left := w.la.toNat, at_ := g.laneN + 1, writes := r.1, flags := r.2 }

/-- The group after its issue. -/
def Group.longIssued (g : Group) (slot : Nat) (p : Path) (x : Pend) : Group :=
  { g.stepPath slot p with pend := (g.stepPath slot p).pend ++ [x] }

theorem Group.stepPath_laneN (g : Group) (slot : Nat) (p : Path) : (g.stepPath slot p).laneN = g.laneN + 1 := by
  unfold Group.stepPath Group.setPath
  split <;> rfl

theorem Group.issueLL_none (g : Group) (slot : Nat) (p : Path) (w : LaneWord) (r : List LaneWrite × Flags) :
    g.issueLL slot p w true r = g.stepPath slot p := rfl

theorem Group.issueLL_some (g : Group) (slot : Nat) (p : Path) (w : LaneWord) (r : List LaneWrite × Flags) :
    g.issueLL slot p w false r = g.longIssued slot p (g.longEntry p w r) := by
  unfold Group.longIssued Group.longEntry
  rw [← Group.stepPath_laneN g slot p]
  rfl

/-- A write of a completion that is still to be made, to a register of the group (R125). -/
def LaneWrite.open_ (g : Group) (x : LaneWrite) : Prop := x.landed = false ∧ x.reg < g.vregs

/-- Such writes are all made. -/
theorem Group.foldl_open {ws : List LaneWrite} {g : Group} (hopen : ∀ x ∈ ws, x.open_ g) :
    ws.foldl (fun g x => if !x.landed && decide (x.reg < g.vregs) then g.setVreg x.reg x.lane x.val else g) g = g.written ws := by
  induction ws generalizing g with
  | nil => rfl
  | cons x ws ih =>
    obtain ⟨hlanded, hreg⟩ := hopen x List.mem_cons_self
    have hx : (!x.landed && decide (x.reg < g.vregs)) = true := by rw [hlanded, decide_eq_true hreg]; rfl
    rw [List.foldl_cons, if_pos hx, Group.written_cons]
    exact ih fun y hy => hopen y (List.mem_cons_of_mem _ hy)

/-- The completion of an instruction none of whose results has landed: its writes, its flags, and its window closed. -/
theorem Group.complete_eq {g : Group} (alone : g.orun = none) {x : Pend} (hopen : ∀ y ∈ x.writes, y.open_ g) :
    g.complete x = { g.written x.writes with flags := g.flags ||| x.flags, pend := g.pend.erase x } := by
  obtain ⟨v, hv⟩ := g.written_eq x.writes
  have hkeep (rows : List Nat) : g.keepRows rows = g := by simp only [Group.keepRows, alone]
  rw [Group.complete, hkeep, Group.foldl_open hopen, hv]

/-- A completion, as the event falls. -/
theorem execLongLatencyComplete_eq {s : State} {gid i : Nat} {g : Group} {x : Pend} (here : s.group? gid = some g) (hx : g.pend[i]? = some x)
    (hacc : x.acc = 0) (hmem : x.mem = false) :
    exec (.longLatencyComplete gid i) s = .next (s.setGroup gid (g.complete x)) := by
  change execLongLatencyComplete gid i s = _
  simp only [execLongLatencyComplete, State.completes, here, hx, hacc, hmem, ne_eq, not_true_eq_false, if_false, Bool.false_eq_true]

/-- A group put leaves every byte of memory as it was. -/
theorem SameBytes.setGroup (s : State) (gid : Nat) (g : Group) : SameBytes s (s.setGroup gid g) := fun _ => rfl

section
variable {s : State} {g : Group} {p : Path}

/-- What the completion of an issued instruction leaves of its group. -/
theorem Group.longIssued_complete {x : Pend} (alone : g.orun = none) (slot : Nat) (p : Path) (hopen : ∀ y ∈ x.writes, y.open_ g) :
    let g' := (g.longIssued slot p x).complete x
    OnlyLanes g g' ∧ g'.pend.length = g.pend.length ∧ g'.flags = g.flags ||| x.flags
      ∧ ∀ r l, g'.vreg r l = (g.written x.writes).vreg r l := by
  intro g'
  have hg' : g' = _ := Group.complete_eq (g := g.longIssued slot p x) (by simpa [Group.longIssued] using alone)
    fun y hy => by simpa [LaneWrite.open_, Group.longIssued] using hopen y hy
  obtain ⟨v, hv⟩ := (g.longIssued slot p x).written_eq x.writes
  refine ⟨?_, ?_, ?_, fun r l => ?_⟩
  · rw [hg', hv]
    unfold OnlyLanes Group.longIssued Group.stepPath Group.setPath
    split <;> rfl
  · rw [hg']
    simp [Group.longIssued, Group.stepPath_pend, List.length_erase_of_mem]
  · rw [hg']
    simp [Group.longIssued]
  · rw [hg']
    exact Group.vreg_written_congr x.writes (Group.stepPath_vreg g slot p r l)

/-- A long-latency instruction that computes from registers alone issues, and at its completion its lanes have written what it says. -/
theorem CanIssue.laneLong (h : CanIssue s g p false) {i : Instr} {w : LaneWord} {rows : List Nat}
    {f : Group → Path → W64 → Nat → List LaneWrite × Flags} {after : Nat → Nat → W32} {lw : Nat → List LaneWrite} {fl : Nat → Flags}
    (hexec : exec i s = laneLong s w rows f) (hf : ∀ l, f g p (g.active p &&& g.guard w) l = (lw l, fl l)) (hopen : ∀ l, ∀ x ∈ lw l, x.open_ g)
    (hafter : ∀ r l, l < 64 → (g.written ((lanesOf (g.active p &&& g.guard w)).flatMap lw)).vreg r l = after r l) :
    LaneLong s g p i w after fl (fun t => OnlyGroup s t s.cur) := by
  rw [Machine.laneLong, h.laneOp_eq] at hexec
  simp only [lanesResult_eq, hf] at hexec
  generalize hws : (lanesOf (g.active p &&& g.guard w)).flatMap lw = ws at hexec hafter
  have hopen' : ∀ x ∈ ws, x.open_ g := by
    intro x hx
    rw [← hws] at hx
    obtain ⟨l, -, hx⟩ := List.mem_flatMap.1 hx
    exact hopen l x hx
  refine ⟨fun hnone => ?_, fun hsome => ?_⟩
  · rw [hexec, hnone, beq_self_eq_true, Group.issueLL_none]
  · rw [beq_false_of_ne hsome, Group.issueLL_some] at hexec
    obtain ⟨honly, hpend, hfl, hvreg⟩ := Group.longIssued_complete (g := g) h.alone s.slot p
      (x := g.longEntry p w (ws, (lanesOf (g.active p &&& g.guard w)).foldl (fun a l => a ||| fl l) 0)) hopen'
    refine ⟨_, _, hexec, OnlyGroup.setGroup .., fun k hk => State.setGroup_other _ _ _ _ hk, State.setGroup_self .., rfl, rfl, rfl, _,
      execLongLatencyComplete_eq (State.setGroup_self ..) ?_ rfl rfl, _, State.setGroup_self .., honly, fun k hk => ?_,
      SameBytes.setGroup _ _ _, hpend, fun r l hl => ?_, hfl⟩
    · simp [Group.longIssued, Group.stepPath_pend]
    · rw [State.setGroup_other _ _ _ _ hk, State.setGroup_other _ _ _ _ hk]
    · rw [hvreg]; exact hafter r l hl

/-- The registers that a field of the allocation names. -/
theorem open_of_regWrites {c : BitVec 8} {n l : Nat} {val : Nat → Nat} (hfits : fits g.vregs c n = true) :
    ∀ x ∈ regWrites c n l val, x.open_ g := by
  intro x hx
  obtain ⟨hv, k, hk, rfl⟩ := mem_regWrites.1 hx
  simp only [fits, hv, Bool.not_true, Bool.false_or, decide_eq_true_eq] at hfits
  exact ⟨rfl, by change c.toNat + k < g.vregs; omega⟩

/-- A long-latency instruction with one result of the word's type completes with it (R84). -/
theorem CanIssue.laneLater (h : CanIssue s g p false) {i : Instr} {w : LaneWord} {rows : List Nat}
    {f : Group → Path → W64 → Nat → List LaneWrite × Flags} {val : Nat → Nat} {fl : Nat → Flags} (hfits : fits g.vregs w.vd w.ty.regs = true)
    (hexec : exec i s = Machine.laneLong s w rows f)
    (hf : ∀ l, f g p (g.active p &&& g.guard w) l = (resultWrites w.ty w.vd l (val l), fl l)) : LaneLater s g p i w val fl := by
  have hresult (l : Nat) : f g p (g.active p &&& g.guard w) l = (regWrites w.vd w.ty.regs l (fun k => val l / 2 ^ (32 * k)), fl l) := by
    rw [hf, resultWrites_eq]
  refine h.laneLong hexec hresult (fun l => open_of_regWrites hfits) fun r l hl => ?_
  rw [Group.written, ← Group.apply_eq h.alone]
  exact Group.vreg_apply_lanes h.alone p w w.ty.regs (fun k l => val l / 2 ^ (32 * k)) r hl

end

end Sys2Proof.Machine
end

section
/-! SUPPORT. Long-latency arithmetic: division, roots and bounded functions (spec/08 R188, R190), and the quantiser (spec/04 R105). -/

namespace Sys2Proof.Machine

section
variable {s : State} {g : Group} {p : Path}

/-- A long-latency floating-point instruction completes with its operation on each element. -/
theorem CanIssue.vfpLong (h : CanIssue s g p false) {i : Instr} {w : LaneWord} {f : Path → Nat → Nat → Nat → Nat × Flags}
    (hfits : fits g.vregs w.vd w.ty.regs = true) (hexec : exec i s = vfpLong s w f) :
    LaneLater s g p i w (fun l => elements w.ty (fun e => (floatElem g p w (f p) l e).1))
      (fun l => elementFlags w.ty (fun e => (floatElem g p w (f p) l e).2)) :=
  h.laneLater hfits hexec fun l => floatLane_eq g p w l (f p)

theorem resultWrites_i32 (c : BitVec 8) (l raw : Nat) : resultWrites .i32 c l raw = regWrites c 1 l (fun _ => raw) := by
  refine (resultWrites_eq ..).trans (regWrites_congr fun k hk => ?_)
  rw [Nat.lt_one_iff.1 hk, Nat.mul_zero, Nat.pow_zero, Nat.div_one]

theorem QRes.status_eq (r : QRes) : r.status = r.code + 2 ^ 8 * r.tries + 2 ^ 11 * r.ovf.toNat + 2 ^ 12 * r.nonfin.toNat := by
  unfold QRes.status
  ring

/-- The block that `vquant` quantises in a lane (R105). -/
def quantBlock (g : Group) (w : LaneWord) (l : Nat) : List Val :=
  (List.range 32).map (fun j => ((tyFloat w.srcTy).getD .f32).val
    (elem w.srcTy (g.vreg (w.va.toNat + j / w.srcTy.elems) l).toNat (j % w.srcTy.elems)))

/-- What the quantiser makes of it. -/
def quantLane (g : Group) (p : Path) (w : LaneWord) (l : Nat) : QRes :=
  quantise (qtOf w.ty) (fmtRnd p.fmt) (fmtRetry p.fmt) (fmtQsat p.fmt) (quantBlock g w l)

/-- The writes of `vquant` in a lane: eight registers of codes, then the status word. -/
def quantResult (g : Group) (p : Path) (w : LaneWord) (l : Nat) : List LaneWrite × Flags :=
  (regWrites w.vd 8 l (fun k => packElems w.ty ((List.range 4).map (fun e => nth (quantLane g p w l).y (4 * k + e) 0)))
    ++ resultWrites .i32 w.vc l (quantLane g p w l).status, (quantLane g p w l).flags)

/-- Register k of the eight that hold its codes. -/
def quantWord (g : Group) (p : Path) (w : LaneWord) (l k : Nat) : Nat :=
  elements w.ty (fun e => nth (quantLane g p w l).y (4 * k + e) 0)

/-- `vquant` completes with the eight registers of codes and then the status word (R105). -/
theorem CanIssue.vquant (h : CanIssue s g p false) {w : LaneWord} (hcodes : fits g.vregs w.vd 8 = true) (hstatus : fits g.vregs w.vc 1 = true)
    (h4 : w.ty.elems = 4) :
    LaneLong s g p (.vquant w) w (fun r l =>
        if takesPart g p w l && RegCode.isV w.vc && r == w.vc.toNat then BitVec.ofNat 32 (quantLane g p w l).status
        else laneAfter g p w 8 (fun k l => quantWord g p w l k) r l)
      (fun l => (quantLane g p w l).flags) (fun t => OnlyGroup s t s.cur) := by
  have hresult (l : Nat) : quantResult g p w l
      = (regWrites w.vd 8 l (quantWord g p w l) ++ regWrites w.vc 1 l (fun _ => (quantLane g p w l).status), (quantLane g p w l).flags) := by
    have hword : (fun k => packElems w.ty ((List.range 4).map (fun e => nth (quantLane g p w l).y (4 * k + e) 0))) = quantWord g p w l := by
      rw [show List.range 4 = List.range w.ty.elems by rw [h4]]
      exact funext fun k => packElems_range ..
    rw [quantResult, hword, resultWrites_i32]
  have hexec : exec (.vquant w) s = Machine.laneLong s w (rowsOf w.vd 8 ++ rowsOf w.vc 1) fun g p _ l => quantResult g p w l := rfl
  refine h.laneLong hexec hresult (fun l x hx => ?_) fun r l hl => ?_
  · exact (List.mem_append.1 hx).elim (open_of_regWrites hcodes x) (open_of_regWrites hstatus x)
  · rw [Group.vreg_written_lanes (fun m x hx => ?_) (lanesOf_nodup _) (fun m hm => lane_lt (mem_lanesOf.1 hm)) g r hl, Group.written_append,
      Group.vreg_written_regWrites _ _ _ _ _ hl, Group.vreg_written_regWrites _ _ _ _ _ hl]
    · have htakes : l ∈ lanesOf (g.active p &&& g.guard w) ↔ takesPart g p w l = true := mem_lanesOf
      have hone : (decide (w.vc.toNat ≤ r) && decide (r < w.vc.toNat + 1)) = (r == w.vc.toNat) := by
        rw [Bool.eq_iff_iff, Bool.and_eq_true, decide_eq_true_eq, decide_eq_true_eq, beq_iff_eq]; omega
      simp only [htakes, laneAfter, Bool.and_assoc, hone]
      cases takesPart g p w l <;> simp
    · rcases List.mem_append.1 hx with hx | hx
      all_goals obtain ⟨-, k, -, rfl⟩ := mem_regWrites.1 hx; rfl

end

/-- Settles O42: an issue opens a window with the results of the registers as they are, and its completion writes them. -/
theorem laneLongArithmetic : Obligations.LaneLongArithmetic := by
  unfold Obligations.LaneLongArithmetic
  intro s g p w T can hfits
  refine ⟨fun hT _ => ?_, fun hT _ hcodes hstatus _ => ?_⟩
  · obtain rfl := ftOf_eq hT
    intro z a b i r hform
    simp only [List.mem_cons, Prod.mk.injEq, List.not_mem_nil, or_false] at hform
    rcases hform with ⟨rfl, rfl⟩ | ⟨rfl, rfl⟩ | ⟨rfl, rfl⟩ | ⟨rfl, rfl⟩ | ⟨rfl, rfl⟩ | ⟨rfl, rfl⟩ | ⟨rfl, rfl⟩ | ⟨rfl, rfl⟩
    · exact can.vfpLong hfits (f := fun p a b _ => roundTo w p (divVal ((ftOf w).val a) ((ftOf w).val b))) rfl
    · exact can.vfpLong hfits (f := fun p a _ _ => roundTo w p (sqrtVal ((ftOf w).val a))) rfl
    · exact can.vfpLong hfits (f := fun p a _ _ => rcp (fmtFtz p.fmt) w.sat a) rfl
    · exact can.vfpLong hfits (f := fun p a _ _ => rsq (fmtFtz p.fmt) a) rfl
    · exact can.vfpLong hfits (f := fun p a _ _ => exp2 (fmtFtz p.fmt) w.sat a) rfl
    · exact can.vfpLong hfits (f := fun p a _ _ => log2f (fmtFtz p.fmt) a) rfl
    · exact can.vfpLong hfits (f := fun p a _ _ => sinCos (fmtFtz p.fmt) false a) rfl
    · exact can.vfpLong hfits (f := fun p a _ _ => sinCos (fmtFtz p.fmt) true a) rfl
  · obtain rfl : (tyFloat w.srcTy).getD .f32 = T := by rw [hT, Option.getD_some]
    intro n x q h4
    have hlong := can.vquant hcodes hstatus h4
    simp only [QRes.status_eq] at hlong
    exact hlong

end Sys2Proof.Machine
end

section
/-! SUPPORT. `lnop`, `lbrk` and `vput` (spec/06 R156, R157, spec/08 R200). -/

namespace Sys2Proof.Machine

/-- A lane control word runs once its path has no long-latency instruction outstanding (R149): with the path less its dead lanes. -/
theorem CanIssue.laneCtl_eq {s : State} {g : Group} {p : Path} (h : CanIssue s g p false) (hidle : ∀ x ∈ g.pend, x.path ≠ p.id)
    (k : Nat → Group → Path → Group → Res) :
    let q := g.issuedPath { p with mask := p.mask &&& g.live }
    laneCtl s k = k s.cur g q (g.stepPath s.slot q) := by
  have hwindow : g.pend.any (fun x => x.path == p.id && (true || x.left == 0)) = false := by
    rw [List.any_eq_false]
    intro x hx
    simp [hidle x hx]
  have hshadow : s.shadow s.cur g (noRows g p) = some g := by
    simp [State.shadow, Group.newRows, h.alone]
  unfold laneCtl laneOp
  simp only [h.here, h.path, hwindow, hshadow, Bool.false_eq_true, if_false]

/-- The lowest lane that takes part heads the lanes that do. -/
theorem lanesOf_eq_cons {m : W64} {l : Nat} (hl : lane m l = true) (hlow : ∀ k, k < l → lane m k = false) : ∃ r, lanesOf m = l :: r := by
  have hmem := mem_lanesOf.2 hl
  have hsorted : (lanesOf m).Pairwise (· < ·) := List.pairwise_lt_range.filter _
  cases hm : lanesOf m with
  | nil => simp [hm] at hmem
  | cons k r =>
    have hk : lane m k = true := mem_lanesOf.1 (hm ▸ List.mem_cons_self)
    rw [hm] at hmem hsorted
    rcases List.mem_cons.1 hmem with rfl | hr
    · exact ⟨r, rfl⟩
    · have := List.rel_of_pairwise_cons hsorted hr
      rw [hlow k this] at hk
      cases hk

theorem lanesOf_zero : lanesOf 0 = [] := by decide

/-- The sign extension of 32 bits read from a register (R200). -/
theorem ofInt_sextNat (n : Nat) : BitVec.ofInt 64 (sextNat n 32) = (BitVec.ofNat 32 n).signExtend 64 := by
  have hint : sextNat n 32 = (BitVec.ofNat 32 n).toInt := by
    rw [sextNat, BitVec.toInt_eq_toNat_cond, BitVec.toNat_ofNat]
    exact if_congr (by omega) rfl rfl
  rw [hint, BitVec.signExtend]

section
variable {s : State} {g : Group} {p : Path} {w : LaneWord}

/-- `lbrk` (R157), once its path has no long-latency instruction outstanding. -/
theorem CanIssue.execLbrk_eq (h : CanIssue s g p false) (hidle : ∀ x ∈ g.pend, x.path ≠ p.id) (b : W64) (hb : b = p.mask &&& g.live &&& g.guard w) :
    exec (.lbrk w) s = if b = 0 then .next (s.setGroup s.cur (g.stepPath s.slot { p with mask := p.mask &&& g.live })) else
      .next ((s.setGroup s.cur (g.stepPath s.slot { p with mask := p.mask &&& g.live })).stop s.cur
        { s.stopRecord s.cur g .brk true with addr := (w.x32.extractLsb' 0 16).setWidth 64, fmask := b }) := by
  have haddr : w.x32.setWidth 16 = w.x32.extractLsb' 0 16 := by ext i; simp
  change execLbrk w s = _
  rw [execLbrk, h.laneCtl_eq hidle, hb, haddr]
  rfl

/-- `vput` without a lane that takes part (R200). -/
theorem CanIssue.execVput_none (h : CanIssue s g p false) (hnone : lanesOf (g.active p &&& g.guard w) = []) :
    exec (.vput w) s = .next (s.setGroup s.cur (g.stepPath s.slot p)) := by
  change execVput w s = _
  rw [execVput, h.laneOp_eq, hnone]

/-- `vput` of the lowest lane that takes part (R200). -/
theorem CanIssue.execVput_lowest (h : CanIssue s g p false) {l : Nat} {r : List Nat} (hl : lanesOf (g.active p &&& g.guard w) = l :: r) :
    exec (.vput w) s = if 16 ≤ g.retQ.length then (s.updGroup s.cur (fun g => { g with vputFull := true })).stallL
      else .next (s.setGroup s.cur ({ g with retQ := g.retQ ++ [putValue g w l], retAt := g.retAt ++ [g.laneN + 1] }.stepPath s.slot p)) := by
  change execVput w s = _
  rw [execVput, h.laneOp_eq, hl]

/-- What the hold of a path changes (R119). -/
theorem stallL_eq (h : s.group? s.cur = some g) : ∃ g', s.stallL = .next (s.setGroup s.cur g')
    ∧ g' = { g with lHeld := g'.lHeld, lHeld1 := g'.lHeld1, heldVer := g'.heldVer, sideWait := g'.sideWait } := by
  have hheld (k : Nat) : g.heldBy k = { g with heldVer := (g.heldBy k).heldVer, sideWait := (g.heldBy k).sideWait } := by
    unfold Group.heldBy; split <;> rfl
  unfold State.stallL
  rw [State.updGroup_eq s _ _ g h]
  refine ⟨_, rfl, ?_⟩
  dsimp only
  rw [hheld]
  split <;> rfl

end

/-- Settles O48, by the lanes that take part. -/
theorem laneNopBreakAndPut : Obligations.LaneNopBreakAndPut := by
  unfold Obligations.LaneNopBreakAndPut
  intro s g p w can
  refine ⟨can.laneOp_eq noRows fun gid g p => .next (s.setGroup gid (g.stepPath s.slot p)), fun hidle => ⟨fun hnone => ?_, fun hsome => ?_⟩,
    fun hnone => ?_, fun l hl hlow => ?_⟩
  · exact (can.execLbrk_eq hidle _ rfl).trans (if_pos hnone)
  · exact (can.execLbrk_eq hidle _ rfl).trans (if_neg hsome)
  · exact can.execVput_none (by rw [hnone, lanesOf_zero])
  · obtain ⟨r, hr⟩ := lanesOf_eq_cons hl hlow
    rw [Controls, can.execVput_lowest hr, putValue, ofInt_sextNat]
    refine ⟨fun hroom => if_neg (by omega), fun hfull => ?_⟩
    have hfull' : s.updGroup s.cur (fun g => { g with vputFull := true }) = s.setGroup s.cur { g with vputFull := true } :=
      State.updGroup_eq s _ _ g can.here
    obtain ⟨g', hnext, hg'⟩ := stallL_eq (s := s.setGroup s.cur { g with vputFull := true }) (State.setGroup_self ..)
    rw [if_pos hfull, hfull', hnext]
    exact ⟨_, g', rfl, ⟨rfl, fun k hk => (State.setGroup_other _ _ _ _ hk).trans (State.setGroup_other _ _ _ _ hk)⟩, State.setGroup_self .., hg'⟩
end Sys2Proof.Machine
end

section
/-! SUPPORT. Values of other lanes: shuffles, ballots, and the tree in which reductions and scans combine lanes (spec/08 R197-R199). -/

namespace Sys2Proof.Machine

/-! The tree of R199. -/

/-- A node of a tree over leaves in their order: its value and the flags that its nodes raise. -/
inductive Combines (f : Nat → Nat → Nat × Flags) : List Nat → Nat → Flags → Prop where
  | leaf (x : Nat) : Combines f [x] x fl0
  | node {xs ys : List Nat} {x y : Nat} {fx fy : Flags} : Combines f xs x fx → Combines f ys y fy →
      Combines f (xs ++ ys) (f x y).1 (fx ||| fy ||| (f x y).2)

/-- A node of a level, present over some leaves and absent over none. -/
inductive NodeOver (f : Nat → Nat → Nat × Flags) : List Nat → Option (Nat × Flags) → Prop where
  | absent : NodeOver f [] none
  | present {xs : List Nat} {z : Nat × Flags} : Combines f xs z.1 z.2 → NodeOver f xs (some z)

/-- A level of the tree over the leaves of its nodes, in their order. -/
inductive LevelOver (f : Nat → Nat → Nat × Flags) : List Nat → List (Option (Nat × Flags)) → Prop where
  | nil : LevelOver f [] []
  | cons {xs ys : List Nat} {n : Option (Nat × Flags)} {ns : List (Option (Nat × Flags))} : NodeOver f xs n → LevelOver f ys ns →
      LevelOver f (xs ++ ys) (n :: ns)

/-- A level of the tree has half as many nodes as the one below. -/
theorem length_redLevel (f : Nat → Nat → Nat × Flags) (ns : List (Option (Nat × Flags))) : (redLevel f ns).length = (ns.length + 1) / 2 := by
  induction ns using redLevel.induct (f := f) with
  | case1 x y r ih | case2 x r ih | case3 y r ih => simp only [redLevel, List.length_cons, ih]; omega
  | case4 r h1 h2 h3 =>
    rw [redLevel.eq_4 f r h1 h2 h3]
    match r, h1, h2, h3 with
    | [], _, _, _ => rfl
    | [_], _, _, _ => simp
    | some x :: some y :: r, h1, _, _ => exact (h1 x y r rfl).elim
    | some x :: none :: r, _, h2, _ => exact (h2 x r rfl).elim
    | none :: y :: r, _, _, h3 => exact (h3 y r rfl).elim

/-- Each level of the tree stands over the leaves of the level below. -/
theorem LevelOver.redLevel {f : Nat → Nat → Nat × Flags} {xs : List Nat} {ns : List (Option (Nat × Flags))} (h : LevelOver f xs ns) :
    LevelOver f xs (redLevel f ns) := by
  induction ns using redLevel.induct (f := f) generalizing xs with
  | case1 x y r ih =>
    obtain _ | ⟨_ | ⟨hx⟩, _ | ⟨_ | ⟨hy⟩, hr⟩⟩ := h
    rw [← List.append_assoc]
    exact .cons (.present (.node hx hy)) (ih hr)
  | case2 x r ih =>
    obtain _ | ⟨hx, _ | ⟨⟨⟩, hr⟩⟩ := h
    exact .cons hx (ih hr)
  | case3 y r ih =>
    obtain _ | ⟨⟨⟩, _ | ⟨hy, hr⟩⟩ := h
    rw [List.nil_append]
    exact .cons hy (ih hr)
  | case4 r h1 h2 h3 => rwa [redLevel.eq_4 f r h1 h2 h3]

/-- The value of a leaf of the tree (R199). -/
def redLeaf (g : Group) (p : Path) (w : LaneWord) (op l : Nat) : Nat :=
  if 6 ≤ op then ftzIn .f32 (fmtFtz p.fmt) (g.readTy w.ty w.va l) else g.readTy w.ty w.va l

/-- The leaves of a set of lanes: those of its lanes are present, in their order. -/
theorem LevelOver.leaves (f : Nat → Nat → Nat × Flags) (leaf : Nat → Nat) (m : W64) (ls : List Nat) :
    LevelOver f ((ls.filter (lane m)).map leaf) (ls.map (fun i => if lane m i then some (leaf i, fl0) else none)) := by
  induction ls with
  | nil => exact .nil
  | cons l ls ih =>
    by_cases hl : lane m l = true
    · have hleaf : NodeOver f [leaf l] (some (leaf l, fl0)) := .present (.leaf _)
      simpa [hl] using ih.cons hleaf
    · simpa [hl] using ih.cons .absent

/-- The tree stands over the leaves of its lanes. -/
theorem redTree_over (g : Group) (p : Path) (w : LaneWord) (op : Nat) (m : W64) :
    NodeOver (redOp w p op) ((lanesOf m).map (redLeaf g p w op)) (redTree g p w op m) := by
  have hover := (LevelOver.leaves (redOp w p op) (redLeaf g p w op) m (List.range 64)).redLevel.redLevel.redLevel.redLevel.redLevel.redLevel
  rw [← lanesOf] at hover
  generalize hroot : redLevel (redOp w p op) _ = root at hover
  have htree : redTree g p w op m = root.headD none := congrArg (List.headD · none) hroot
  obtain ⟨n, rfl⟩ : ∃ n, root = [n] := List.length_eq_one_iff.1 (by
    rw [← hroot]
    simp only [length_redLevel, List.length_map, List.length_range])
  rw [htree]
  generalize (lanesOf m).map (redLeaf g p w op) = xs at hover
  obtain _ | ⟨hover, ⟨⟩⟩ := hover
  rw [List.append_nil]
  exact hover

/-- A combination has a leaf. -/
theorem Combines.ne_nil {f : Nat → Nat → Nat × Flags} {xs : List Nat} {v : Nat} {fl : Flags} (h : Combines f xs v fl) : xs ≠ [] := by
  induction h with
  | leaf => exact List.cons_ne_nil _ _
  | node hx hy ihx ihy => exact List.append_ne_nil_of_left_ne_nil ihx _

/-- The tree over no lane has no value. -/
theorem redTree_none (g : Group) (p : Path) (w : LaneWord) (op : Nat) : redTree g p w op 0 = none := by
  have h := redTree_over g p w op 0
  rw [show lanesOf 0 = [] by decide, List.map_nil] at h
  generalize redTree g p w op 0 = t at h
  generalize hxs : ([] : List Nat) = xs at h
  obtain _ | ⟨h⟩ := h
  · rfl
  · exact absurd hxs.symm h.ne_nil

/-- The tree over some lanes combines their leaves. -/
theorem redTree_some (g : Group) (p : Path) (w : LaneWord) (op : Nat) {m : W64} (hm : m ≠ 0) :
    ∃ z, redTree g p w op m = some z ∧ Combines (redOp w p op) ((lanesOf m).map (redLeaf g p w op)) z.1 z.2 := by
  have h := redTree_over g p w op m
  generalize hxs : (lanesOf m).map (redLeaf g p w op) = xs at h
  generalize redTree g p w op m = t at h
  obtain _ | ⟨h⟩ := h
  · have hnone : lanesOf m = [] := List.map_eq_nil_iff.1 hxs
    refine absurd (BitVec.eq_of_getLsbD_eq fun l hl => ?_) hm
    have hl : l ∉ lanesOf m := by simp [hnone]
    rw [mem_lanesOf, Bool.not_eq_true] at hl
    exact hl.trans BitVec.getLsbD_zero.symm
  · exact ⟨_, rfl, h⟩

/-! What the integer operations combine (R199). -/

/-- The combination by an operation that is associative: the fold, from any start. -/
theorem Combines.foldl_eq {f : Nat → Nat → Nat × Flags} {h : Nat → Nat → Nat} (hf : ∀ a b, f a b = (h a b, fl0))
    (hassoc : ∀ a b c, h (h a b) c = h a (h b c)) {xs : List Nat} {v : Nat} {fl : Flags} (hc : Combines f xs v fl) (i : Nat) :
    xs.foldl h i = h i v := by
  induction hc generalizing i with
  | leaf x => rfl
  | node hx hy ihx ihy => rw [List.foldl_append, ihx, ihy, hassoc, hf]

/-- No flag is raised by an operation that raises none. -/
theorem Combines.flags_eq {f : Nat → Nat → Nat × Flags} (hf : ∀ a b, (f a b).2 = fl0) {xs : List Nat} {v : Nat} {fl : Flags}
    (hc : Combines f xs v fl) : fl = fl0 := by
  induction hc with
  | leaf x => rfl
  | node hx hy ihx ihy => rw [ihx, ihy, hf]; rfl

/-- A bound that the leaves keep, and the operation keeps, holds of the combination. -/
theorem Combines.all {f : Nat → Nat → Nat × Flags} {P : Nat → Prop} (hf : ∀ a b, P a → P b → P (f a b).1) {xs : List Nat} {v : Nat} {fl : Flags}
    (hc : Combines f xs v fl) (hxs : ∀ x ∈ xs, P x) : P v := by
  induction hc with
  | leaf x => exact hxs x List.mem_cons_self
  | node hx hy ihx ihy =>
    exact hf _ _ (ihx fun x h => hxs x (List.mem_append_left _ h)) (ihy fun x h => hxs x (List.mem_append_right _ h))

/-- The combination by the lesser of two in an order is a least leaf. -/
theorem Combines.least {f : Nat → Nat → Nat × Flags} {key : Nat → Int}
    (hf : ∀ a b, (f a b).1 = a ∧ key a ≤ key b ∨ (f a b).1 = b ∧ key b ≤ key a) {xs : List Nat} {v : Nat} {fl : Flags} (hc : Combines f xs v fl) :
    v ∈ xs ∧ ∀ x ∈ xs, key v ≤ key x := by
  induction hc with
  | leaf x => simp
  | @node xs ys x y fx fy hx hy ihx ihy =>
    obtain ⟨hxmem, hxle⟩ := ihx
    obtain ⟨hymem, hyle⟩ := ihy
    obtain ⟨hv, hle⟩ | ⟨hv, hle⟩ := hf x y
    · rw [hv]
      exact ⟨List.mem_append_left _ hxmem, fun z hz => (List.mem_append.1 hz).elim (hxle z) fun hz => hle.trans (hyle z hz)⟩
    · rw [hv]
      exact ⟨List.mem_append_right _ hymem, fun z hz => (List.mem_append.1 hz).elim (fun hz => hle.trans (hxle z hz)) (hyle z)⟩

/-- A sum kept below a modulus at each step. -/
theorem foldl_add_mod (M : Nat) (xs : List Nat) (i : Nat) : xs.foldl (fun a x => (a + x) % M) (i % M) = xs.foldl (fun a x => a + x) i % M := by
  induction xs generalizing i with
  | nil => rfl
  | cons x xs ih => rw [List.foldl_cons, List.foldl_cons, Nat.mod_add_mod, ih]

section
variable {g : Group} {p : Path} {w : LaneWord} {m : W64} {v : Nat} {fl : Flags}

theorem Group.readTy_lt (g : Group) {t : Ty} (ht : t ∈ [Ty.i32, .n32, .i64, .n64]) (c : BitVec 8) (l : Nat) : g.readTy t c l < 2 ^ tyBits t := by
  have h0 := g.word32_lt c 0 l
  have h1 := g.word32_lt c 1 l
  simp only [List.mem_cons, List.not_mem_nil, or_false] at ht
  unfold Group.readTy
  rw [g.read64_word32, g.read32_word32]
  rcases ht with rfl | rfl | rfl | rfl
  · exact h0
  · exact h0
  · change _ + _ < 2 ^ 64; omega
  · change _ + _ < 2 ^ 64; omega

/-- An integer combination of the tree is the one of its operation, and raises no flag. -/
theorem combined_of_combines {op : Nat} (hop : op < 6) (ht : w.ty ∈ [Ty.i32, .n32, .i64, .n64])
    (hc : Combines (redOp w p op) ((lanesOf m).map (redLeaf g p w op)) v fl) : Combined g p w op m v ∧ fl = 0 := by
  have hleaf : redLeaf g p w op = fun l => g.readTy w.ty w.va l := funext fun l => if_neg (by omega)
  rw [hleaf] at hc
  have hlt : ∀ x ∈ (lanesOf m).map (fun l => g.readTy w.ty w.va l), x < 2 ^ tyBits w.ty := by
    simp only [List.mem_map]
    rintro _ ⟨l, -, rfl⟩
    exact g.readTy_lt ht w.va l
  interval_cases op
  · refine ⟨?_, hc.flags_eq fun _ _ => rfl⟩
    have hv := hc.all (P := (· < 2 ^ tyBits w.ty)) (fun _ _ _ _ => Nat.mod_lt _ (Nat.two_pow_pos _)) hlt
    have hfold := hc.foldl_eq (h := fun a b => (a + b) % 2 ^ tyBits w.ty) (fun _ _ => rfl)
      (fun a b c => by rw [Nat.mod_add_mod, Nat.add_mod_mod, Nat.add_assoc]) (0 % 2 ^ tyBits w.ty)
    rw [foldl_add_mod, List.foldl_map, Nat.zero_mod, Nat.zero_add, Nat.mod_eq_of_lt hv] at hfold
    exact hfold.symm
  · refine ⟨?_, hc.flags_eq fun _ _ => rfl⟩
    have hleast := hc.least (key := intVal w.ty) fun a b => by
      simp only [redOp]
      split <;> simp only [true_and] <;> omega
    simpa [Combined] using hleast
  · refine ⟨?_, hc.flags_eq fun _ _ => rfl⟩
    have hleast := hc.least (key := fun x => - intVal w.ty x) fun a b => by
      simp only [redOp]
      split <;> simp only [true_and] <;> omega
    simpa [Combined] using hleast
  · refine ⟨?_, hc.flags_eq fun _ _ => rfl⟩
    have hv := hc.all (P := (· < 2 ^ tyBits w.ty)) (fun a _ _ hb => Nat.and_lt_two_pow a hb) hlt
    have hfold := hc.foldl_eq (fun _ _ => rfl) Nat.and_assoc (2 ^ tyBits w.ty - 1)
    rw [List.foldl_map, Nat.and_comm, Nat.and_two_pow_sub_one_of_lt_two_pow hv] at hfold
    exact hfold.symm
  · refine ⟨?_, hc.flags_eq fun _ _ => rfl⟩
    have hfold := hc.foldl_eq (fun _ _ => rfl) Nat.or_assoc 0
    rw [List.foldl_map, Nat.zero_or] at hfold
    exact hfold.symm
  · refine ⟨?_, hc.flags_eq fun _ _ => rfl⟩
    have hfold := hc.foldl_eq (fun _ _ => rfl) Nat.xor_assoc 0
    rw [List.foldl_map, Nat.zero_xor] at hfold
    exact hfold.symm

/-- Whatever the tree combines of some lanes is what R199 says, without a flag from the integer operations. -/
theorem redTree_combined {op : Nat} (hop : op ≤ 8) (ht : if 6 ≤ op then w.ty = .f32 else w.ty ∈ [Ty.i32, .n32, .i64, .n64]) (hm : m ≠ 0)
    (d : Nat × Flags) :
    Combined g p w op m ((redTree g p w op m).getD d).1 ∧ (op < 6 → ((redTree g p w op m).getD d).2 = 0) := by
  obtain ⟨z, hz, hc⟩ := redTree_some g p w op hm
  by_cases hint : op < 6
  · rw [if_neg (by omega)] at ht
    obtain ⟨hcomb, hfl⟩ := combined_of_combines hint ht hc
    rw [hz]
    exact ⟨hcomb, fun _ => hfl⟩
  · refine ⟨?_, fun h => absurd h hint⟩
    have htree : (redTree g p w op m).map (·.1) = some ((redTree g p w op m).getD d).1 := by rw [hz]; rfl
    obtain rfl | rfl | rfl : op = 6 ∨ op = 7 ∨ op = 8 := by omega
    all_goals exact htree

end

/-! The instructions. -/

/-- The lane that `vshfl` reads, as R198 gives it. -/
theorem shuffleLane_eq (m n l b : Nat) (hm : m < 4) :
    shuffleLane m n l b = if m = 0 then b % n else if m = 1 then l ^^^ (b % n)
      else if m = 2 then (if l < b then l else l - b) else if n ≤ l + b then l else l + b := by
  unfold shuffleLane
  obtain rfl | rfl | rfl | rfl : m = 0 ∨ m = 1 ∨ m = 2 ∨ m = 3 := by omega
  · rfl
  · rfl
  · exact (if_congr Nat.not_lt.symm rfl rfl).trans (ite_not ..)
  · exact (if_congr Nat.not_le.symm rfl rfl).trans (ite_not ..)

/-- The lanes that `vscan` combines for a lane: those that take part up to it, or below it for the exclusive form (R199). -/
def scanLanes (w : LaneWord) (part : W64) (l : Nat) : W64 := part &&& lanesMask (if bit w.vc.toNat 4 then l else l + 1)

/-- What `vscan` gives a lane, with the flags that it raises (R199). -/
def scanNode (g : Group) (p : Path) (w : LaneWord) (part : W64) (l : Nat) : Nat × Flags :=
  (redTree g p w (w.vc.toNat % 16) (scanLanes w part l)).getD (redIdentity w.ty (w.vc.toNat % 16), fl0)

/-- Without such a lane it is the identity, and no flag is raised. -/
theorem scanNode_none (g : Group) (p : Path) {w : LaneWord} {part : W64} {l : Nat} (h : scanLanes w part l = 0) :
    scanNode g p w part l = (redIdentity w.ty (w.vc.toNat % 16), fl0) := by
  rw [scanNode, h, redTree_none]; rfl

/-- Settles O43: each instruction issues with the values of the lanes at issue; `vred` and `vscan` by the tree over the lanes of their set. -/
theorem crossLaneResults : Obligations.CrossLaneResults := by
  unfold Obligations.CrossLaneResults
  intro s g p w can hfits src part op
  refine ⟨?_, can.laneLater hfits (execVbcast.eq_def w s) fun l => Prod.ext rfl rfl,
    can.laneLater hfits (execVballot.eq_def w s) fun l => Prod.ext rfl rfl, fun hop ht => ⟨?_, ?_⟩⟩
  · rintro _ rfl
    refine can.laneLater hfits (execVshfl.eq_def w s) fun l => Prod.ext ?_ rfl
    exact congrArg (fun j => resultWrites w.ty w.vd l (g.source p w j)) (shuffleLane_eq _ _ _ _ (Nat.mod_lt _ (by decide)))
  · refine ⟨((redTree g p w op part).getD (0, fl0)).1, ((redTree g p w op part).getD (0, fl0)).2,
      fun hpart => (redTree_combined hop ht hpart _).1, fun hint => ?_,
      can.laneLater hfits (execVred.eq_def w s) fun l => Prod.ext rfl rfl⟩
    by_cases hpart : part = 0
    · rw [hpart, redTree_none]; rfl
    · exact (redTree_combined hop ht hpart _).2 hint
  · refine ⟨fun l => (scanNode g p w part l).1, fun l => (scanNode g p w part l).2,
      can.laneLater hfits (execVscan.eq_def w s) fun l => Prod.ext rfl rfl, fun l _ => ⟨fun hint => ?_, fun hsome => ?_, fun hnone => ?_⟩⟩
    · by_cases hbelow : scanLanes w part l = 0
      · exact congrArg (·.2) (scanNode_none g p hbelow)
      · exact (redTree_combined hop ht hbelow _).2 hint
    · exact (redTree_combined hop ht hsome _).1
    · exact congrArg (·.1) (scanNode_none g p hnone)

end Sys2Proof.Machine
end

section
/-! SUPPORT. An `unlock` whose line takes the place of a clean line that DRAM no longer equals (spec/11 R240, R249). -/

namespace Sys2Proof.Machine

/-- What leaves a full LLC for a line does not go by the groups. -/
theorem State.llcRoom_setGroup (s : State) (gid : Nat) (g : Group) (n : Nat) : (s.setGroup gid g).llcRoom n = (s.llcRoom n).setGroup gid g := by
  unfold State.llcRoom State.llcEvict
  have hlines : (s.setGroup gid g).dieLines = s.dieLines := rfl
  simp only [State.setGroup_llc, State.setGroup_tick, State.setGroup_mem, hlines]
  split
  · rfl
  · split
    · split <;> rfl
    · rfl

theorem State.llcTouch_setGroup {s : State} {n : Nat} (absent : Tbl.find s.llc n = none) (gid : Nat) (g : Group) :
    (s.setGroup gid g).llcTouch n = (s.llcTouch n).setGroup gid g := by
  unfold State.llcTouch State.llcPut
  simp only [State.setGroup_llc, absent, Option.isSome_none, Bool.false_eq_true, if_false, State.llcRoom_setGroup]
  rfl

/-- The group of `fullLlc` with the address of its word in s1. -/
def unlockGroup : Group := { amoGroup with s := [(1, 0x5000)] }

/-- The machine whose LLC is full, with that group. -/
def unlockFull : State := fullLlc.setGroup 0 unlockGroup

/-- The state once the stale line has left for the line of the lock. -/
def unlockEvicted : State := llcEvicted.setGroup 0 unlockGroup

theorem unlockFull_llcTouch : unlockFull.llcTouch 0x1000000 = unlockEvicted := by
  rw [unlockFull, State.llcTouch_setGroup (by decide +kernel), fullLlc_llcTouch, unlockEvicted]

theorem unlockFull_device : OnlyDevice fullLlc unlockFull 0 :=
  ⟨rfl, fun _ hk => State.setGroup_other _ _ _ _ hk, fun _ => rfl, fun _ => rfl, fun _ => rfl, id, id⟩

theorem unlockFull_locate (touch : Bool) : unlockFull.locate 0 unlockGroup 0x5000 4 .amo touch = (.port 0x40000000, unlockFull) := by
  have houtside : inAperture 0x5000 = false ∧ inTeamWin 0x5000 = false := by decide +kernel
  have h := fullLlc_locate unlockFull_device touch
  simp only [State.locate, houtside, Bool.false_eq_true, if_false] at h ⊢
  exact h

theorem unlockFull_access : Access unlockFull unlockGroup 0 (unlockGroup.reg 1).toNat 4 0x40000000 .amo where
  here := rfl
  port := unlockFull_locate
  unrefused := by decide +kernel
  kind := .inr
    { dram := by decide +kernel
      line := by decide
      decided := by decide +kernel
      current := fun l hl => by
        rw [show Tbl.find unlockFull.llc (0x40000000 / 64) = none by decide +kernel] at hl
        exact nomatch hl
      named := by decide +kernel
      goes := fun _ => ⟨rfl, rfl, by
        rw [show unlockFull.taskHead unlockGroup = none by decide +kernel]
        exact ⟨by decide +kernel, by decide +kernel⟩⟩ }
  aligned := by decide
  unwatched := by decide +kernel
  alone := rfl
  settled := rfl
  room := fun _ => by decide +kernel
  clear := by decide +kernel
  unlocked := rfl
  good := by decide +kernel

/-- An `unlock` of a word in a state where nothing keeps it waiting: zero is written, and the critical count lowered (R249). -/
theorem Access.execUnlock_eq {s t : State} {g : Group} {a : Reg} {sc : Scope} {w : Bool} {pa m : Nat}
    (h : Access s g 0 (g.reg a).toNat (wBytes w) pa .amo) (free : ReleasesAtOnce s g .rel sc)
    (performed : s.rmw s.cur g 0 (g.reg a).toNat pa (wBytes w) sc (fun _ => 0) = .ok m t) :
    exec (.unlock a sc w) s = .next ((t.ordAfter s.cur g .rel sc).done s.cur (fun g => g.critStep false)) := by
  have hdrain : s.drainFor s.cur pa (wBytes w) true = .ok () s := by
    simp [State.drainFor, h.here, h.settled, State.earlier, State.performAll]
  change execUnlock a sc w s = _
  rw [execUnlock, scalar_eq h.here, h.alone, Option.isSome_none, if_neg Bool.false_ne_true, ordered, scalar_eq h.here]
  simp only [overWide, h.alone, Option.isSome_none, Bool.false_and, Bool.false_eq_true, if_false, h.aligned, ne_eq, not_true, h.room rfl,
    Bool.and_false, Bool.not_true, h.check_pass, State.atomicS, State.relBefore_atOnce h.here h.settled free, Rc.intoS, h.port,
    State.afterSide, h.clear, hdrain, performed]

/-- The state once zero has been written. -/
def unlockDone : State :=
  ((unlockEvicted.portPut 0x40000000 [0, 0, 0, 0]).snoop 0 0x40000000 [0, 0, 0, 0] true).note
    { pa := 0x40000000, len := 4, who := some 0, launch := 1, committed := true }

theorem unlockEvicted_writeFor :
    unlockEvicted.writeFor (some 0) (some 0) unlockGroup.key 0x5000 0x40000000 [0, 0, 0, 0] false = .ok () unlockDone := by
  have htarget : unlockEvicted.target (some 0) unlockGroup.key 0x40000000 false 1 1 = .ok none unlockEvicted := rfl
  have hkey : unlockGroup.key / 2 ^ 32 = 1 := by decide +kernel
  unfold State.writeFor
  rw [htarget, hkey]
  rfl

theorem unlockFull_rmw : unlockFull.rmw 0 unlockGroup 0 0x5000 0x40000000 4 .grp (fun _ => 0) = .ok 0 unlockDone := by
  have hdrain : unlockFull.drainFor 0 0x40000000 4 true = .ok () unlockFull := rfl
  have hreach : unlockFull.reach 0 0x40000000 = unlockFull := rfl
  have hmark : unlockFull.markRead unlockGroup 0x40000000 4 = unlockFull := rfl
  have hbad : unlockFull.bad 0x40000000 4 = false := by decide +kernel
  have hregion : regionOf 0x40000000 = .dram := by decide +kernel
  have hread : unlockFull.rmwRead unlockGroup.key 0x40000000 4 false = 0 := by decide +kernel
  have hbytes : toBytes 4 0 = [0, 0, 0, 0] := by decide +kernel
  have hscope : decide (2 ≤ Scope.grp.code) = false := rfl
  have halone : unlockGroup.orun = none := rfl
  unfold State.rmw
  rw [hdrain]
  simp only [halone, hbad, coreOf, Nat.zero_div, hreach, hmark, hscope, State.rmwPut, hregion, hread, hbytes, Bool.false_eq_true, if_false]
  rw [show 0x40000000 / 64 = 0x1000000 from rfl, unlockFull_llcTouch, unlockEvicted_writeFor]
  rfl

/-- The end of a scalar instruction leaves every byte of memory as it was. -/
theorem State.done_memByte (s : State) (gid : Nat) (f : Group → Group) (a : Nat) : (s.done gid f).memByte a = s.memByte a := by
  unfold State.done State.updGroup
  split <;> rfl

/-- A release at group scope publishes nothing (R337). -/
theorem State.ordAfter_rel_grp (s : State) (gid : Nat) (g : Group) : s.ordAfter gid g .rel .grp = s := by
  unfold State.ordAfter
  split <;> rfl

/-- The `unlock` changes the byte beside its line. -/
theorem unlockFull_stale_lost {t : State} (h : exec (.unlock 1 .grp false) unlockFull = .next t) :
    t.memByte (64 * staleLine) ≠ unlockFull.memByte (64 * staleLine) := by
  have hfree : ReleasesAtOnce unlockFull unlockGroup .rel .grp := fun _ => ⟨fun h => absurd h (by decide), fun h => absurd h (by decide)⟩
  have hreg : (unlockGroup.reg 1).toNat = 0x5000 := by decide +kernel
  have hexec := unlockFull_access.execUnlock_eq (w := false) hfree (by rw [hreg]; exact unlockFull_rmw)
  rw [State.ordAfter_rel_grp] at hexec
  injection hexec.symm.trans h with h
  rw [← h, State.done_memByte]
  decide +kernel

/-- Refutes O22: where the home LLC is full, the line of the word takes the place of another, and a clean one that DRAM no longer equals (R240)
leaves it without a write-back. The byte of that line, which `unlock` does not touch, then reads as DRAM has it. -/
theorem not_scratchLocks : ¬ Obligations.ScratchLocks := by
  unfold Obligations.ScratchLocks
  intro h
  have hnarrow : Narrow unlockFull unlockGroup 0x40000000 .grp := fun _ => .inl (by decide)
  obtain ⟨-, hunlock⟩ := h unlockFull unlockGroup 1 0x40000000 .grp false unlockFull_access hnarrow
  obtain ⟨t, hexec, -, -, -, hstores⟩ := hunlock fun _ => ⟨fun h => absurd h (by decide), fun h => absurd h (by decide)⟩
  obtain ⟨-, -, hbytes⟩ := hstores
  have hcommitted : (unlockFull.taskHead unlockGroup).isSome = false := by decide +kernel
  rw [hcommitted, if_neg (by simp)] at hbytes
  exact unlockFull_stale_lost hexec (hbytes _ (.inr (by decide +kernel)))

end Sys2Proof.Machine
end

section
/-! SUPPORT. Groups spawned, and groups that exit (spec/05 R133, R134). -/

namespace Sys2Proof.Machine

/-- A choice among candidates is one of them, and draws at most a free value (log 14). -/
theorem State.pick_mem (s : State) {α : Type} {xs : List α} (h : xs ≠ []) :
    ∃ x ∈ xs, ∃ n, s.pick xs = (some x, { s with fresh := n }) := by
  match xs, h with
  | [x], _ => exact ⟨x, List.mem_cons_self, s.fresh, rfl⟩
  | x :: y :: r, _ =>
    have hlt : Config.placeChoice s.useFresh.1 % ((y :: r).length + 1) < (x :: y :: r).length := Nat.mod_lt _ (Nat.succ_pos _)
    refine ⟨_, List.getElem_mem hlt, s.fresh + 1, ?_⟩
    unfold State.pick
    dsimp only
    rw [List.getElem?_eq_getElem hlt]
    rfl

/-- A table after entries set one after another: the value of a key that is among them, else the one before. -/
theorem Tbl.get_foldl_set {α : Type} [DecidableEq α] (f : Nat → α) (d : α) (ks : List Nat) (t : Tbl α) (j : Nat) :
    Tbl.get (ks.foldl (fun t k => Tbl.set t k (f k) d) t) j d = if j ∈ ks then f j else Tbl.get t j d := by
  induction ks generalizing t with
  | nil => simp
  | cons k ks ih =>
    rw [List.foldl_cons, ih]
    by_cases hk : j = k
    · subst hk; simp
    · simp [hk, Tbl.get_set_other _ _ _ _ _ hk]

/-- The registers of a spawned group: s8 to s15 of its creator, every other zero (R133). -/
theorem Group.get_spawnRegs (g : Group) (r : Reg) :
    Tbl.get g.spawnRegs r.toNat 0 = if 8 ≤ r.toNat ∧ r.toNat ≤ 15 then g.reg r else 0 := by
  have hregs : g.spawnRegs = ((List.range 8).map (8 + ·)).foldl (fun t k => Tbl.set t k (g.reg (BitVec.ofNat 5 k)) 0) [] := by
    rw [List.foldl_map]; rfl
  rw [hregs, Tbl.get_foldl_set]
  have hmem : r.toNat ∈ (List.range 8).map (8 + ·) ↔ 8 ≤ r.toNat ∧ r.toNat ≤ 15 := by
    simp only [List.mem_map, List.mem_range]
    exact ⟨by rintro ⟨i, hi, h⟩; omega, fun h => ⟨r.toNat - 8, by omega, by omega⟩⟩
  rw [BitVec.ofNat_toNat, BitVec.setWidth_eq]
  exact if_congr hmem rfl rfl

/-- The group that `spawn` makes (R133). -/
def State.spawned (s : State) (core j rb reserve : Nat) (g : Group) (pc : W64) : Group :=
  { (newGroup (32 + j) g.launch g.team g.lanew g.vregs rb reserve (s.cyc core) pc g.spawnRegs) with
    from_ := s.cycles + 1, spawnIdx := (s.teamOf g).spawned }

theorem State.spawned_reg (s : State) (core j rb reserve : Nat) (g : Group) (pc : W64) (r : Reg) :
    (s.spawned core j rb reserve g pc).reg r = if 8 ≤ r.toNat ∧ r.toNat ≤ 15 then g.reg r else 0 := by
  change (if r = 0 then 0 else Tbl.get g.spawnRegs r.toNat 0) = _
  rw [Group.get_spawnRegs]
  by_cases hr : r = 0
  · subst hr; rfl
  · exact if_neg hr

theorem State.spawnAt_self (s : State) (core ctx j rb reserve : Nat) (g : Group) (pc : W64) :
    (s.spawnAt core ctx j rb reserve g pc).group? (128 * core + ctx) = some (s.spawned core j rb reserve g pc) := State.setGroup_self ..

theorem State.spawnAt_other (s : State) (core ctx j rb reserve : Nat) (g : Group) (pc : W64) {k : Nat} (h : k ≠ 128 * core + ctx) :
    (s.spawnAt core ctx j rb reserve g pc).group? k = s.group? k := State.setGroup_other _ _ _ _ h

section
variable {s : State} {g : Group}

/-- A release at team scope of a group with nothing to be performed waits for nothing (R247). -/
theorem State.releaseWait_team (here : s.group? s.cur = some g) (settled : g.posted = []) (hside : s.sideOf s.cur g = []) :
    s.releaseWait s.cur g .team = .ok () s :=
  State.relBefore_atOnce (o := .rel) here settled fun _ => ⟨fun _ => hside, fun h => absurd h (by decide)⟩

/-- `spawn` without a number or a context for the group (R133). -/
theorem execSpawn_none (here : s.group? s.cur = some g) (alone : g.orun = none) (d a : Reg)
    (h : s.spawnIndex g.key = none ∨ nextCtx (s.ctxUsed (coreOf s.cur)) = none) :
    exec (.spawn d a) s = .next (s.done s.cur (fun g => g.setReg d 1)) := by
  change execSpawn d a s = _
  rw [execSpawn, scalar_eq here, settled_eq alone]
  rcases h with h | h
  · rw [h]
  · dsimp only
    rw [h]
    split
    next heq => exact nomatch heq
    next => rfl

/-- `spawn` with a number and a context: by the rows and reserves that fit (R133). -/
theorem execSpawn_some (here : s.group? s.cur = some g) (alone : g.orun = none) (d a : Reg) {j ctx : Nat} {rows res : List Nat}
    (hj : s.spawnIndex g.key = some j) (hctx : nextCtx (s.ctxUsed (coreOf s.cur)) = some ctx)
    (hrows : positions rowCap (32 * g.lanew) (rowBytes g.vregs g.lanew) (s.rowsUsed (coreOf s.cur)) = rows)
    (hres : positions scratchCap 4096 4096 (s.scratchUsed (coreOf s.cur)) = res) :
    exec (.spawn d a) s = if rows.isEmpty || res.isEmpty then .next (s.done s.cur (fun g => g.setReg d 2))
      else (s.releaseWait s.cur g .team).intoS s.cur g 0 fun _ s' =>
        .next ((((s'.pick rows).2.pick res).2.spawnAt (coreOf s.cur) ctx j ((s'.pick rows).1.getD 0) (((s'.pick rows).2.pick res).1.getD 0) g
          (g.reg a)).done s.cur (fun g => g.setReg d 0)) := by
  subst hrows hres
  change execSpawn d a s = _
  rw [execSpawn, scalar_eq here, settled_eq alone, hj]
  dsimp only
  rw [hctx]

/-- `spawn` with room makes the group in rows and a reserve that fit. -/
theorem execSpawn_room (here : s.group? s.cur = some g) (alone : g.orun = none) (settled : g.posted = []) (hside : s.sideOf s.cur g = [])
    (d a : Reg) {j ctx : Nat} {rows res : List Nat}
    (hj : s.spawnIndex g.key = some j) (hctx : nextCtx (s.ctxUsed (coreOf s.cur)) = some ctx)
    (hrows : positions rowCap (32 * g.lanew) (rowBytes g.vregs g.lanew) (s.rowsUsed (coreOf s.cur)) = rows)
    (hres : positions scratchCap 4096 4096 (s.scratchUsed (coreOf s.cur)) = res) (hr : rows ≠ []) (hv : res ≠ []) :
    ∃ rb ∈ rows, ∃ reserve ∈ res, ∃ n, exec (.spawn d a) s
      = .next ((({ s with fresh := n } : State).spawnAt (coreOf s.cur) ctx j rb reserve g (g.reg a)).done s.cur (fun g => g.setReg d 0)) := by
  obtain ⟨rb, hrb, n, hpick⟩ := s.pick_mem hr
  obtain ⟨reserve, hreserve, n', hpick'⟩ := ({ s with fresh := n } : State).pick_mem hv
  refine ⟨rb, hrb, reserve, hreserve, n', ?_⟩
  rw [execSpawn_some here alone d a hj hctx hrows hres, State.releaseWait_team here settled hside, if_neg (by simp [hr, hv])]
  simp only [Rc.intoS, hpick, hpick', Option.getD_some]

/-! The end of a group. -/

/-- What a group that leaves has set down and accepted is no part of another group or of memory. -/
theorem State.leaveWaits_frame (s : State) (gid : Nat) :
    (s.leaveWaits gid).groups = s.groups ∧ (s.leaveWaits gid).mem = s.mem ∧ (s.leaveWaits gid).llc = s.llc := ⟨rfl, rfl, rfl⟩

theorem State.leaveLate_frame (s : State) (gid : Nat) :
    (s.leaveLate gid).groups = s.groups ∧ (s.leaveLate gid).mem = s.mem ∧ (s.leaveLate gid).llc = s.llc := by
  unfold State.leaveLate
  split <;> exact ⟨rfl, rfl, rfl⟩

/-- Where no group waits on an object there is none to be tested (R226). -/
theorem State.retest_none {s : State} (waits : ∀ e ∈ s.groups, e.2.blocked = none) (key : Nat) : s.retest key = s := by
  have hobjs : s.waitedObjs key = [] := by
    unfold State.waitedObjs
    rw [List.filterMap_eq_nil_iff.2 fun e he => by rw [waits e (List.mem_of_mem_filter he)]]
    rfl
  rw [State.retest, hobjs, List.foldl_nil]

/-- A group leaves its context and nothing else of the groups and of memory, when no group waits on an object (R134, R226). -/
theorem State.retire_frame (here : s.group? s.cur = some g) (waits : ∀ e ∈ s.groups, e.2.blocked = none) :
    (s.retire s.cur g).groups = Tbl.del s.groups s.cur ∧ SameBytes s (s.retire s.cur g) := by
  obtain ⟨hgroups, hmem, hllc⟩ := s.leaveWaits_frame s.cur
  obtain ⟨hgroups', hmem', hllc'⟩ := (s.leaveWaits s.cur).leaveLate_frame s.cur
  rw [hgroups] at hgroups'; rw [hmem] at hmem'; rw [hllc] at hllc'
  unfold State.retire
  generalize (s.leaveWaits s.cur).leaveLate s.cur = u at hgroups' hmem' hllc' ⊢
  have here' : u.group? s.cur = some g := by rw [State.group?, hgroups']; exact here
  have hdel : (u.delGroup s.cur).groups = Tbl.del s.groups s.cur ∧ (u.delGroup s.cur).mem = s.mem ∧ (u.delGroup s.cur).llc = s.llc := by
    unfold State.delGroup
    rw [here']
    exact ⟨congrArg (Tbl.del · s.cur) hgroups', hmem', hllc'⟩
  generalize u.delGroup s.cur = v at hdel ⊢
  obtain ⟨hgroups, hmem, hllc⟩ := hdel
  dsimp only
  rw [State.retest_none fun e he => ?_]
  · refine ⟨by simp [hgroups], fun a => ?_⟩
    simp [State.memByte, State.comByte, hmem, hllc]
  · rw [State.updTeam_groups, hgroups] at he
    exact waits e (Tbl.mem_del _ _ _ he).1

theorem execExit_eq (here : s.group? s.cur = some g) (alone : g.orun = none) (hlanes : g.laneQ = []) (hpend : g.pend = [])
    (hcharge : g.pendCharge = none) (htags : (s.teamOf g).tags = []) : exec .exit s = .next (s.retire s.cur g) := by
  change execExit s = _
  rw [execExit, scalar_eq here, settled_eq alone]
  simp [Group.laneIdle, hlanes, hpend, hcharge, htags]

end

/-- Settles O25, by what `spawn` finds free, and what a retired group leaves. -/
theorem spawnAndExit : Obligations.SpawnAndExit := by
  unfold Obligations.SpawnAndExit
  intro s g d a here alone settled hside
  have status (n : W64) (h : exec (.spawn d a) s = .next (s.done s.cur (fun g => g.setReg d n))) : ScalarResult s g (.spawn d a) d n :=
    .intro (h.trans (by rw [State.done_eq here]))
  refine ⟨fun h => status 1 (execSpawn_none here alone d a h), ?_, fun hlanes hpend hcharge htags waits => ?_⟩
  · intro j ctx hj hctx hother rows res
    refine ⟨fun h => status 2 ?_, fun hr hv => ?_⟩
    · rw [execSpawn_some here alone d a hj hctx rfl rfl]
      exact if_pos (by simpa using h)
    · obtain ⟨rb, hrb, reserve, hreserve, n, hexec⟩ := execSpawn_room here alone settled hside d a hj hctx rfl rfl hr hv
      refine ⟨_, ({ s with fresh := n } : State).spawned (coreOf s.cur) j rb reserve g (g.reg a), hexec, ?_, ?_, fun k hk hk' => ?_, rfl, rfl, rfl, rfl, rfl, hrb, hreserve, rfl, rfl, rfl, rfl, rfl, rfl, rfl, rfl, fun r => ?_⟩
      · rw [State.done, State.updGroup_self, State.spawnAt_other _ _ _ _ _ _ _ _ (Ne.symm hother)]
        change (s.group? s.cur).map _ = _
        rw [here]
        rfl
      · rw [State.done, State.updGroup_other _ _ _ _ hother, State.spawnAt_self]
      · rw [State.done, State.updGroup_other _ _ _ _ hk, State.spawnAt_other _ _ _ _ _ _ _ _ hk']
        rfl
      · exact State.spawned_reg ..
  · obtain ⟨hgroups, hbytes⟩ := State.retire_frame here waits
    refine ⟨_, execExit_eq here alone hlanes hpend hcharge htags, ?_, hbytes, fun k hk => ?_⟩
    · rw [State.group?, hgroups, Tbl.find_del_self]
    · rw [State.group?, hgroups, Tbl.find_del_other _ _ _ hk]; rfl

end Sys2Proof.Machine
end

section
/-! SUPPORT. Fields of registers (spec/01 R4): what a field reads after a write of it or of another. -/

namespace Sys2Proof.Machine

theorem testBit_bits (x lo len j : Nat) : (bits x lo len).testBit j = (decide (j < len) && x.testBit (lo + j)) := by
  rw [bits, Nat.testBit_mod_two_pow, Nat.testBit_div_two_pow, Nat.add_comm]

theorem bits_lt (x lo len : Nat) : bits x lo len < 2 ^ len := Nat.mod_lt _ (Nat.two_pow_pos _)

theorem testBit_fld {n : Nat} (r : BitVec n) (lo len j : Nat) : (fld r lo len).testBit j = (decide (j < len) && r.getLsbD (lo + j)) := by
  rw [fld, testBit_bits, BitVec.testBit_toNat]

theorem getLsbD_setFld {n : Nat} (r : BitVec n) (lo len v j : Nat) :
    (setFld r lo len v).getLsbD j = (decide (j < n) && if lo ≤ j ∧ j < lo + len then v.testBit (j - lo) else r.getLsbD j) := by
  rw [setFld, BitVec.getLsbD_ofNat, testBit_setBits, BitVec.testBit_toNat]

/-- A field reads as it was written. -/
theorem fld_setFld_self {n : Nat} (r : BitVec n) {lo len v : Nat} (hfit : lo + len ≤ n) (hv : v < 2 ^ len) :
    fld (setFld r lo len v) lo len = v := by
  refine Nat.eq_of_testBit_eq fun j => ?_
  rw [testBit_fld, getLsbD_setFld]
  by_cases hj : j < len
  · rw [decide_eq_true hj, decide_eq_true (by omega), if_pos (by omega), Nat.add_sub_cancel_left]; rfl
  · rw [decide_eq_false hj, Nat.testBit_lt_two_pow (hv.trans_le (Nat.pow_le_pow_right (by decide) (Nat.not_lt.1 hj)))]; rfl

/-- A write of a field leaves another as it is. -/
theorem fld_setFld_other {n : Nat} (r : BitVec n) {lo len v lo' len' : Nat} (hapart : lo' + len' ≤ lo ∨ lo + len ≤ lo') :
    fld (setFld r lo len v) lo' len' = fld r lo' len' := by
  refine Nat.eq_of_testBit_eq fun j => ?_
  rw [testBit_fld, testBit_fld, getLsbD_setFld]
  by_cases hj : j < len'
  · by_cases hn : lo' + j < n
    · rw [if_neg (by omega), decide_eq_true hn, Bool.true_and]
    · rw [decide_eq_false hn, BitVec.getLsbD_of_ge r _ (Nat.not_lt.1 hn), Bool.false_and]
  · rw [decide_eq_false hj, Bool.false_and, Bool.false_and]

end Sys2Proof.Machine
end

section
/-! SUPPORT. Events of a group's time: blocks that start, streams that age, waits that are probed, critical groups that are stopped, and leave
that is granted (spec/05 R117, R120, spec/10 R227, spec/22 R416, spec/26 R454). -/

namespace Sys2Proof.Machine

section
variable {s : State} {gid : Nat} {g : Group}

/-- A block that is removed before it has started. -/
theorem Group.endBlock_idle (idle : g.running = false) {b : Block} {r : List Block} (hq : g.laneQ = b :: r) :
    g.endBlock = { g with laneQ := r, slot0 := none, slot1 := none, stack := [] } := by
  rw [Group.endBlock, hq, ← idle]; rfl

/-- A block that starts (R117). -/
theorem execBlockStart_eq (here : s.group? gid = some g) (idle : g.running = false) (hstopped : g.stopped = false)
    (hstopping : g.stopping = false) {b : Block} {r : List Block} (hq : g.laneQ = b :: r) (hat : b.at_ < s.cycles)
    (htrace : s.traced (s.launchOf g) g.launch = false) :
    exec (.blockStart gid) s = .next (s.setGroup gid (
        if g.live = 0 then { g with laneQ := r, slot0 := none, slot1 := none, stack := [] }
        else { g with running := true, stack := [], slot0 := some { pc := b.start, mask := g.live, fmt := b.fmt, id := g.nextPath }, slot1 := none,
                      nextPath := g.nextPath + 1 })) := by
  change execBlockStart gid s = _
  have hgo : (g.running || g.stopped || g.stopping) = false := by rw [idle, hstopped, hstopping]; rfl
  rw [← Group.endBlock_idle idle hq]
  simp only [execBlockStart, here, hgo, Bool.false_eq_true, if_false, hq, Nat.not_le.2 hat]
  split
  · rfl
  · exact congrArg Host.Outcome.next (packet_none htrace)

/-- A stream that ages (R120). -/
theorem execStreamAgePromotion_eq (here : s.group? gid = some g) (lane : Bool) :
    exec (.streamAgePromotion gid lane) s = .next (
      if !(if lane then s.readyL g else s.readyS g) || s.cyc (coreOf gid) - (if lane then g.lastL else g.lastS) < 256 then s
      else
        let k := if 256 * ((s.groupsIn (coreOf gid) (quarterOf gid)).filter (fun e => if lane then s.readyL e.2 else s.readyS e.2)).length
          ≤ s.cyc (coreOf gid) - (if lane then g.lastL else g.lastS) then 2 else 1
        s.setGroup gid (if lane then { g with promoL := k } else { g with promoS := k })) := by
  change execStreamAgePromotion gid lane s = _
  simp only [execStreamAgePromotion, here]

/-! The wait-cycle probe (R227, R228). -/

/-- A group blocked on a matrix batch awaits the complex. -/
theorem State.awaitsS_matrix {b : Blocked} (hb : g.blocked = some b) (hkind : b.kind = 2) (hstopped : g.stopped = false)
    (hstopping : g.stopping = false) (hpage : g.pageWait = []) : s.awaitsS gid g = some [.complex g.key] := by
  simp [State.awaitsS, hstopped, hstopping, hpage, hb, hkind]

/-- A command at the head of the complex's owner that lacks a quarter awaits the groups of the team. -/
theorem State.awaitsM_quarter {key : Nat} {t : Team} {c : MxCmd} {r : List MxCmd} (hteam : s.team? key = some t)
    (howner : (s.complex (tandemOf t.core)).owner = some key) (hq : t.mxQ = c :: r) (hop : c.op = .mxa) (hstart : c.started = false)
    (hlacks : ∃ i < 4, ∀ x ∈ t.tags, ¬ (x.tag = c.tag ∧ x.q = i)) : s.awaitsM key = some (s.teamParties key) := by
  obtain ⟨i, hi, hlacks⟩ := hlacks
  have hall : (List.range 4).all (fun i => t.tags.any (fun x => x.tag == c.tag && x.q == i)) = false := by
    rw [List.all_eq_false]
    refine ⟨i, List.mem_range.2 hi, ?_⟩
    simpa using hlacks
  simp [State.awaitsM, hteam, howner, hq, hop, hstart, hall]

/-- A probe that comes back to the group whose team alone could let its command go on. -/
theorem State.probe_cycle (here : s.group? gid = some g) (hgroup : s.awaitsS gid g = some [.complex g.key])
    (hcomplex : s.awaitsM g.key = some [.scalar gid]) (n : Nat) :
    s.probe [] [.complex g.key] (n + 3) = some [.scalar gid, .complex g.key] := by
  have hscalar : s.awaits (.scalar gid) = some [.complex g.key] := by rw [State.awaits, here]; exact hgroup
  have hrest : s.probe [.scalar gid, .complex g.key] [.complex g.key] (n + 1) = some [.scalar gid, .complex g.key] := by
    cases n <;> simp [State.probe]
  have hsecond : s.probe [.complex g.key] [.scalar gid] (n + 2) = some [.scalar gid, .complex g.key] := by
    rw [State.probe, if_neg (by simp), hscalar]; exact hrest
  rw [State.probe, if_neg (by simp), State.awaits, hcomplex]; exact hsecond

/-- A group whose wait only it could end stops. -/
theorem execWaitProbe_cycle (here : s.group? gid = some g) {b : Blocked} (hb : g.blocked = some b) (hage : s.probeAge gid g = true)
    (hgroup : s.awaitsS gid g = some [.complex g.key]) (hcomplex : s.awaitsM g.key = some [.scalar gid]) :
    exec (.waitProbe gid) s = .next (s.stop gid { s.stopRecord gid g .waitcycle false with addr := b.obj }) := by
  have hdue : s.probeDue gid g = true := by simp [State.probeDue, hage, hb]
  obtain ⟨n, hn⟩ : ∃ n, (s.groups.length + s.teams.length + 2) * (s.groups.length + 2) + [Party.complex g.key].length = n + 3 :=
    ⟨_, (Nat.sub_add_cancel (by simp only [List.length_singleton]; nlinarith)).symm⟩
  have hseen := State.probe_cycle here hgroup hcomplex n
  have hmem : [Party.scalar gid, Party.complex g.key].contains (.scalar gid) = true := by simp
  change execWaitProbe gid s = _
  simp only [execWaitProbe, here, hdue, Bool.not_true, Bool.false_eq_true, if_false, hgroup, hn, hseen, hmem, if_true, hb]

theorem execWaitProbe_young (here : s.group? gid = some g) (hage : s.probeAge gid g = false) : exec (.waitProbe gid) s = .next s := by
  change execWaitProbe gid s = _
  simp [execWaitProbe, here, State.probeDue, hage]

/-- The stop of the one group that is still critical (R416). -/
theorem execCrittimeout_one {p : Nat} (hvacate : (s.part p).vacate ≠ []) (hlate : (s.part p).vacSince + 100000 ≤ s.stc)
    (hone : s.groups.filter (fun e => (s.launchOf e.2).part == p && s.moved e.2 && e.2.crit != 0 && !e.2.stopping && !e.2.stopped) = [(gid, g)])
    {g1 : Group} (h1 : (s.rollback gid).group? gid = some g1) :
    exec (.crittimeout p) s = .next ((((s.rollback gid).recordEvent p
        { (s.rollback gid).stopRecord gid g1 .crittimeout false with addr := g1.crit.setWidth 64, ovrb := g.orun.isSome } true).stopForMove gid).retest
          g1.key) := by
  have hdue : ((s.part p).vacate.isEmpty || decide (s.stc < (s.part p).vacSince + 100000)) = false := by
    rw [Bool.or_eq_false_iff]
    exact ⟨by simpa using hvacate, decide_eq_false (Nat.not_lt.2 hlate)⟩
  change execCrittimeout p s = _
  simp only [execCrittimeout, hdue, Bool.false_eq_true, if_false, hone, List.foldl_cons, List.foldl_nil, h1]

/-! Grants of leave (R453, R454). -/

/-- Monitors apart, a die is as it was before a value is recorded (R436). -/
theorem State.die_monitor (s : State) (core part ev v d : Nat) : ∃ ms, (s.monitor core part ev v).die d = { s.die d with mons := ms } := by
  unfold State.monitor
  dsimp only
  split
  next =>
    by_cases hd : d = dieOf core
    · subst hd; exact ⟨_, State.setDie_self ..⟩
    · exact ⟨_, State.setDie_other _ _ _ _ hd⟩
  next => exact ⟨_, rfl⟩

theorem State.monitor_eq (s : State) (core part ev v : Nat) : s.monitor core part ev v = { s with dies := (s.monitor core part ev v).dies } := by
  unfold State.monitor
  dsimp only
  split <;> rfl

/-- The controller of a die once a request has its grant (R454): its wait counted. -/
def State.afterLeave (s : State) (die : Nat) (x : Leave) : State :=
  s.updDie die (fun d => { d with
    leaves := d.leaves.erase x
    gaps := if x.cls = 2 then d.gaps else Tbl.put d.gaps (x.cls * 65536 + x.who) (s.cyc (20 * die) + 32)
    reg := setFld d.reg 64 32 (min 0xFFFFFFFF (max (fld d.reg 64 32) (s.cyc (20 * die) - x.since))) })

/-- What a grant leaves: the controller of its die with the grant counted, and every byte of memory. -/
theorem State.giveLeave_frame (s : State) (die : Nat) (x : Leave) :
    (∃ ms, (s.giveLeave die x).die die = { (s.afterLeave die x).die die with mons := ms })
      ∧ (s.giveLeave die x).mem = s.mem ∧ (s.giveLeave die x).llc = s.llc := by
  unfold State.giveLeave
  dsimp only
  rw [← State.afterLeave]
  generalize hu : State.monitor (s.afterLeave die x) _ _ _ _ = u
  have hdie : ∃ ms, u.die die = { (s.afterLeave die x).die die with mons := ms } := hu ▸ State.die_monitor ..
  have hmem : u.mem = s.mem ∧ u.llc = s.llc := by rw [← hu, State.monitor_eq]; exact ⟨rfl, rfl⟩
  split
  · rw [State.updGroup_die, State.updGroup_mem, State.updGroup_llc]; exact ⟨hdie, hmem⟩
  · split
    · exact ⟨hdie, hmem⟩
    · split <;> exact ⟨hdie, hmem⟩

/-- A `curb` that has its grant asks once less (R423). -/
theorem State.giveLeave_curb (die : Nat) {x : Leave} (hcurb : x.curb = true) (here : s.group? x.id = some g) :
    (s.giveLeave die x).group? x.id = some { g with curbAsk := g.curbAsk - 1 } := by
  unfold State.giveLeave
  rw [if_pos hcurb, State.updGroup_self]
  change (State.group? (State.monitor _ _ _ _ _) _).map _ = _
  rw [State.monitor_eq]
  change (s.group? x.id).map _ = _
  rw [here]; rfl

/-- A copy command that has its grant (R455). -/
theorem State.giveLeave_copy (s : State) (die : Nat) {x : Leave} (hcls : x.cls = 1) (hcurb : x.curb = false) :
    ((s.giveLeave die x).core x.who).copyQ = (s.core x.who).copyQ.map (fun c => if c.id = x.id then { c with granted := true } else c) := by
  unfold State.giveLeave
  simp only [hcurb, hcls, Bool.false_eq_true, if_false, if_true, one_ne_zero]
  rw [State.updCore, State.setCore_self, State.monitor_eq]
  rfl

/-- The grant of a lone request that fits (R454). -/
theorem execCurbGrant_lone {die : Nat} {x : Leave} (hlone : (s.die die).leaves = [x]) (hsince : x.since < s.cyc (20 * die))
    (hfirst : (s.die die).grantAt ≠ s.cyc (20 * die) + 1) (hfits : leaveWeight x.cls ≤ fld (s.die die).reg 8 8) :
    exec (.curbGrant die) s
      = .next ((s.setDie die { s.die die with grantAt := s.cyc (20 * die) + 1 }).giveLeave die x) := by
  change execCurbGrant die s = _
  have horder : leaveOrder ([x].filter (fun x => decide (x.since < s.cyc (20 * die)))) = [x] := by
    simp [leaveOrder, hsince]
  simp [execCurbGrant, hlone, horder, grantable, hfits, hfirst]

end

/-- Settles O51, event by event. -/
theorem groupTimingEvents : Obligations.GroupTimingEvents := by
  unfold Obligations.GroupTimingEvents
  intro s gid p die g here
  refine ⟨fun b r idle hstopped hstopping hq hat htrace => execBlockStart_eq here idle hstopped hstopping hq hat htrace, ⟨?_, ?_, ?_⟩, ?_, ?_, ?_, ?_, ?_⟩
  · intro hready hage
    rw [execStreamAgePromotion_eq here]
    simp [hready, Nat.not_lt.2 hage]
  · intro hready hage
    rw [execStreamAgePromotion_eq here]
    simp [hready, Nat.not_lt.2 hage]
  · intro hage
    rw [execStreamAgePromotion_eq here]
    simp [hage]
  · intro b t c r hb hkind hstopped hstopping hpage hteam howner hq hop hstart hlacks hgroups hage
    refine execWaitProbe_cycle here hb hage (State.awaitsS_matrix hb hkind hstopped hstopping hpage) ?_
    rw [State.awaitsM_quarter hteam howner hq hop hstart hlacks, State.teamParties, hgroups]
    rfl
  · intro hlog
    exact execWaitProbe_young here (by simp [State.probeAge, hlog])
  · intro hearly
    change execCrittimeout p s = _
    simp [execCrittimeout, hearly]
  · intro hvacate hlate hone u g1 h1
    exact execCrittimeout_one hvacate hlate hone h1
  · intro x hlone hsince hfirst hfits
    refine ⟨_, execCurbGrant_lone hlone hsince hfirst hfits, ?_⟩
    generalize hu : s.setDie die { s.die die with grantAt := s.cyc (20 * die) + 1 } = u
    have hdie : u.die die = { s.die die with grantAt := s.cyc (20 * die) + 1 } := by rw [← hu, State.setDie_self]
    have hcyc : u.cyc (20 * die) = s.cyc (20 * die) := by
      rw [State.cyc, State.cyc, dieOf, Nat.mul_div_cancel_left die (by decide), hdie, ← hu]; rfl
    obtain ⟨⟨ms, hms⟩, hmem, hllc⟩ := u.giveLeave_frame die x
    rw [State.afterLeave, State.updDie, State.setDie_self, hdie, hcyc] at hms
    have hsame : u.mem = s.mem ∧ u.llc = s.llc := by rw [← hu]; exact ⟨rfl, rfl⟩
    refine ⟨?_, ?_, fun hcurb hid => ?_, fun hcls hcurb => ?_, fun a => ?_⟩
    · rw [hms]; simp [hlone]
    · rw [hms]
      exact fld_setFld_self _ (by decide) (by omega)
    · subst hid
      exact State.giveLeave_curb die hcurb (by rw [← hu]; exact here)
    · rw [State.giveLeave_copy u die hcls hcurb, ← hu]; rfl
    · simp only [State.memByte, State.comByte, hmem, hllc, hsame]

end Sys2Proof.Machine
end


section
/-! SUPPORT. A saved group that is still in overreach comes back (spec/10 R231, R232, spec/22 R414). -/

namespace Sys2Proof.Machine

/-! READMISSION at a place, and an object whose phase completes. -/

/-- READMISSION at a place where the one saved team of a partition fits brings it back there. -/
theorem exec_readmission_at {s : State} {p : Nat} {pl : Place} {y : SavedTeam} {t : Team} {l : Launch} (hsaved : (s.part p).saved = [y])
    (hload : (s.part p).ctxsaved = false) (ht : s.team? y.key = some t) (hl : s.launch? (y.key / 2 ^ 32) = some l)
    (hgang : s.gangOf y.key t = [(y.key, t)]) (hunit : (s.unitsFor l (y.key % 2 ^ 32)).contains pl.core = true)
    (hplace : s.placeOk (y.need t l.desc) pl = true) :
    exec (.readmission p pl) s = .next (s.readmit p y t pl) := by
  have htry : s.tryReadmit p y (some pl) = some (s.readmit p y t pl) := by
    simp only [State.tryReadmit, ht, hl, hunit, hplace, Bool.and_self, if_true]
  change execReadmission p pl s = _
  simp [execReadmission, hsaved, hload, ht, hgang, htry]

/-- Where no arrival is held, Complete is evaluated once (R215). -/
theorem State.evaluate_of_none_held {s : State} {o : ObjRef} (h : s.heldAt o = []) : s.evaluate o = s.complete1 o := by
  simp [State.evaluate, State.evaluateN, h]

/-- A phase that completes with nobody in WAITERS and no arrival held ends the overreaches bound to it (R215, R232). -/
theorem State.complete1_of_no_waiter {s u : State} {o : ObjRef} (hcan : canComplete (s.obj o.pa) = true)
    (hnone : (List.range 256).filter (fun b => bit (s.obj o.pa) (256 + b)) = [])
    (hheld : (s.setObj o.pa (completed (s.obj o.pa))).heldAt o = [])
    (hu : (s.setObj o.pa (completed (s.obj o.pa))).endOvers o (completed (s.obj o.pa)) = u) : s.complete1 o = u := by
  simp only [State.complete1, hcan, hnone, hheld, if_true, List.foldl_nil, hu, State.admitHeld]

/-- The overreach of a team's one group, bound to a phase that has completed, rolls back if a write conflicts with it (R231, R232). -/
theorem State.endOvers_of_conflict {s : State} {o : ObjRef} {w gid : Nat} {g : Group} {v : Over} (hover : g.orun = some v)
    (hteam : s.groupsOf o.key = [(gid, g)]) (hobj : v.obj.toNat = o.va) (hdone : phaseDone w v.phase.toNat = true)
    (hconflict : s.wrote.any (fun x => s.conflicts x gid g) = true) : s.endOvers o w = (s.rollback gid).unblock gid := by
  simp only [State.endOvers, hteam, List.filter_cons, List.filter_nil, hover, hobj, hdone, beq_self_eq_true, Bool.and_self, if_true,
    List.foldl_cons, List.foldl_nil, hconflict]

/-! The counterexample. -/

/-- An overreach bound to phase 0 of the first object of its team, entered with 7 in s1, whose signature is full. -/
def fullOver : Over := { obj := BitVec.ofNat 64 aperture, ckpt := { s := [(1, 7)] }, sig := BitVec.allOnes 2048 }
/-- Any granule may have been read in it, whatever bit of the signature stands for it (R230, log 11). -/
theorem fullOver_mayHaveRead (n : Nat) : fullOver.mayHaveRead n = true := by
  rw [Over.mayHaveRead, fullOver, BitVec.getLsbD_allOnes, decide_eq_true_eq]
  exact (Config.sigBit n).isLt
/-- A group in that overreach, which has set s1 to 0 since. -/
def overreaching : Group := { launch := 1, orun := some fullOver }
/-- The team of that group, as it is saved. -/
def overreachTeam : SavedTeam := { key := keyOf 1 0, groups := [(0, overreaching)] }
@[inherit_doc overreachTeam] def overreachAway : Team := { scratch := 4096, moving := true, away := true }
/-- A state whose partition 0 has that team saved. Landed bytes wait for its first object, and another agent has written one byte. -/
def overreachSaved : State :=
  { parts := [(0, { rcd := 1, saved := [overreachTeam] })],
    launches := [(1, { desc := { scratch := 1 } })],
    teams := [(keyOf 1 0, overreachAway)],
    landWait := [{ kind := .landed, key := keyOf 1 0, obj := aperture }],
    wrote := [{ pa := 2 ^ 40, len := 1 }] }
/-- Where the team comes back. -/
def overreachPlace : Place := { ctxs := [0], rbs := [0], reserves := [4096] }
/-- The group at its place again. -/
def overreachingBack : Group := { overreaching with reserve := 4096 }
/-- The state in which the team has its place again, and nothing that waited for it has been counted. -/
def overreachBack : State :=
  { overreachSaved with
    parts := [(0, { rcd := 1 })], teams := [(keyOf 1 0, { scratch := 4096 })], groups := [(0, overreachingBack)] }
/-- The first object of the team, at its port. -/
def overreachObj : ObjRef := { key := keyOf 1 0, va := aperture, pa := onchip 0 0 }
/-- The state in which the landed bytes have been counted, before Complete. -/
def overreachLanded : State := { overreachBack with landWait := [] }
/-- The state in which the phase has completed and the overreach has rolled back. -/
def overreachRolled : State :=
  ((overreachLanded.setObj overreachObj.pa (completed (overreachLanded.obj overreachObj.pa))).rollback 0).unblock 0

/-- The team comes back, what waited for it is counted, and its group goes on. -/
theorem overreachSaved_readmit : overreachSaved.readmit 0 overreachTeam overreachAway overreachPlace =
    (overreachBack.landLate overreachTeam.key).wakeSaved 0 false := by
  unfold State.readmit
  dsimp only
  refine (congrArg (fun X : State => List.foldl _ (X.landLate _) _) (?_ : _ = overreachBack)).trans ?_
  · decide +kernel
  · generalize overreachBack.landLate overreachTeam.key = X
    rfl

/-- The write of the other agent conflicts with the overreach (R231). -/
theorem overreachLanded_conflicts (w : Nat) : (overreachLanded.setObj overreachObj.pa w).wrote.any
    (fun x => (overreachLanded.setObj overreachObj.pa w).conflicts x 0 overreachingBack) = true := by
  have hread : (linesOf (2 ^ 40) 1).any fullOver.mayHaveRead = true := by
    rw [List.any_eq_true]
    exact ⟨2 ^ 34, by decide +kernel, fullOver_mayHaveRead _⟩
  have hwrote : (overreachLanded.setObj overreachObj.pa w).wrote = [{ pa := 2 ^ 40, len := 1 }] := rfl
  simp only [hwrote, List.any_cons, List.any_nil, State.conflicts, overreachingBack, overreaching, hread, Bool.or_false, Bool.and_true]
  rfl

/-- The bytes that waited complete the phase, and the overreach rolls back (R215, R231, R232). -/
theorem overreachBack_landLate : overreachBack.landLate overreachTeam.key = overreachRolled := by
  have hland : overreachBack.landLate overreachTeam.key = overreachLanded.applyLanded (keyOf 1 0) aperture 0 := by
    have hwait : overreachBack.landWait.filter (fun h => h.key == overreachTeam.key) = [{ kind := .landed, key := keyOf 1 0, obj := aperture }] := by
      decide +kernel
    have hrest : overreachBack.landWait.filter (fun h => h.key != overreachTeam.key) = [] := by decide +kernel
    rw [State.landLate, hwait, hrest, List.foldl_cons, List.foldl_nil, overreachLanded]
  have hobj : overreachLanded.objAt (keyOf 1 0) aperture = some overreachObj := by decide +kernel
  have hset : overreachLanded.setObj overreachObj.pa (setBits (overreachLanded.obj overreachObj.pa) 192 64
      (oLanded (overreachLanded.obj overreachObj.pa) + 0)) = overreachLanded := by decide +kernel
  rw [hland]
  simp only [State.applyLanded, hobj, hset]
  rw [State.evaluate_of_none_held (by decide +kernel)]
  exact State.complete1_of_no_waiter (by decide +kernel) (by decide +kernel) (by decide +kernel)
    (State.endOvers_of_conflict (g := overreachingBack) rfl (by decide +kernel) (by decide +kernel) (by decide +kernel)
      (overreachLanded_conflicts _))

/-- The group then has the registers of its checkpoint. -/
theorem overreachRolled_regs : ((overreachRolled.wakeSaved 0 false).group? 0).map (·.s) = some [(1, 7)] := by
  decide +kernel

/-- Refutes O53: nothing in the clause of READMISSION excludes a saved group that is still in overreach. When landed bytes that waited for its
team complete the phase of its object, a conflicting write rolls it back, and it stands with the registers of its checkpoint, not with those
with which it was saved. -/
theorem not_teamAndLaunchEvents : ¬ Obligations.TeamAndLaunchEvents := by
  unfold Obligations.TeamAndLaunchEvents
  intro h
  obtain ⟨-, -, -, -, -, -, -, hreadmission⟩ := h overreachSaved
  have hgang : overreachSaved.gangOf overreachTeam.key overreachAway = [(overreachTeam.key, overreachAway)] := by decide +kernel
  have hunit : (overreachSaved.unitsFor { desc := { scratch := 1 } } (overreachTeam.key % 2 ^ 32)).contains overreachPlace.core = true := by
    decide +kernel
  have hplace : overreachSaved.placeOk (overreachTeam.need overreachAway { scratch := 1 }) overreachPlace = true := by decide +kernel
  obtain ⟨t, hexec, -, -, hgroups⟩ := hreadmission 0 overreachPlace overreachTeam overreachAway { desc := { scratch := 1 } } rfl rfl rfl rfl
    hgang hunit hplace (by decide) (by decide)
  rw [exec_readmission_at rfl rfl rfl rfl hgang hunit hplace, overreachSaved_readmit, overreachBack_landLate] at hexec
  injection hexec with ht
  obtain ⟨g, hg, hs, -⟩ := hgroups 0 _ rfl
  rw [show 128 * (overreachPlace.core + (coreOf 0 - overreachAway.core)) + nth overreachPlace.ctxs 0 0 = 0 from rfl] at hg
  have hback := overreachRolled_regs
  rw [ht, hg, Option.map_some, hs] at hback
  exact absurd hback (by decide)

end Sys2Proof.Machine
end


section
/-! SUPPORT. The place that the record of a stop names (spec/06 R158). -/

namespace Sys2Proof.Machine

/-- The record of a stop that a lane instruction has caused names its path (R158). -/
theorem State.stopRecord_lane {g : Group} {p : Path} (s : State) (gid : Nat) (c : Cause) (hpath : g.path? s.slot = some p) :
    (s.stopRecord gid g c true).lpc = p.pc ∧ (s.stopRecord gid g c true).amask = p.mask := by
  simp [State.stopRecord, hpath]

/-- The record of another stop names the live path that issued last (R158). -/
theorem State.stopRecord_scalar {g : Group} {p : Path} (s : State) (gid : Nat) (c : Cause) (hlast : g.lastPath = some p) :
    (s.stopRecord gid g c false).lpc = p.pc ∧ (s.stopRecord gid g c false).amask = p.mask := by
  simp [State.stopRecord, hlast]

/-- The live path that issued last: the only one, or the one of the two with the later issue (R158). -/
theorem Group.lastPath_eq {g : Group} {p q : Path}
    (h : (g.slot0 = some p ∧ (g.slot1 = none ∨ (g.slot1 = some q ∧ q.last < p.last)))
      ∨ (g.slot1 = some p ∧ (g.slot0 = none ∨ (g.slot0 = some q ∧ q.last < p.last)))) : g.lastPath = some p := by
  unfold Group.lastPath
  rcases h with ⟨h0, h1 | ⟨h1, hlast⟩⟩ | ⟨h1, h0 | ⟨h0, hlast⟩⟩
  · rw [h0, h1]
  · rw [h0, h1]; exact if_neg (by omega)
  · rw [h0, h1]
  · rw [h0, h1]; exact if_pos hlast

/-- Settles O35: the fields of the record that are no path's are those of the group, and `route` is the table of R405. -/
theorem stopNamesItsPlace : Obligations.StopNamesItsPlace := by
  unfold Obligations.StopNamesItsPlace
  refine ⟨fun s gid g c ln => ?_, fun _ => rfl, rfl, rfl, fun dev => by cases dev <;> rfl, fun _ => rfl⟩
  refine ⟨rfl, rfl, rfl, rfl, rfl, rfl, rfl, rfl, rfl, rfl, rfl, rfl, rfl, rfl, fun p hln hpath => ?_, fun p q hln hlast => ?_⟩
  · subst hln
    exact State.stopRecord_lane s gid c hpath
  · subst hln
    exact State.stopRecord_scalar s gid c (Group.lastPath_eq hlast)

end Sys2Proof.Machine
end

section
/-! SUPPORT. Scalar branches, jumps, calls and returns (spec/06 R159, R160). -/

namespace Sys2Proof.Machine

section
variable {s : State} {g g1 : Group} {i : Instr}

/-- A jump of a group that is not traced writes no packet (R432). -/
theorem State.jumpTo_untraced (htrace : s.traced (s.launchOf g) g.launch = false) (hlaunch : g1.launch = g.launch) (gid : Nat) (t : W64) :
    s.jumpTo gid g1 t = .next (s.goTo gid g1 t) := by
  have htrace' : (s.goTo gid g1 t).traced ((s.goTo gid g1 t).launchOf g1) g1.launch = false := by
    rw [State.launchOf, hlaunch]; exact htrace
  exact congrArg Host.Outcome.next (packet_none htrace')

/-- A transfer of a group whose registers may have taken a link. -/
theorem JumpsTo.goTo {regs : Reg → W64} {pc : W64} (h : exec i s = .next (s.goTo s.cur g1 pc)) (honly : g1 = { g with s := g1.s })
    (hregs : ∀ r, g1.reg r = regs r) : JumpsTo s g i regs pc := by
  refine ⟨_, _, h, OnlyGroup.setGroup _ _ _, State.setGroup_self _ _ _, ?_, hregs, rfl⟩
  rw [honly]; rfl

/-- A transfer that has written no link. -/
theorem JumpsTo.unlinked {pc : W64} (h : exec i s = .next (s.goTo s.cur g pc)) : JumpsTo s g i g.reg pc :=
  JumpsTo.goTo h rfl fun _ => rfl

/-- A transfer that has written its link to s31. -/
theorem JumpsTo.linked {pc : W64} (h : exec i s = .next (s.goTo s.cur (g.setReg 31 (g.spc + 4)) pc)) : JumpsTo s g i (linked g) pc :=
  JumpsTo.goTo h (by simp [Group.setReg]) fun r => by rw [Group.reg_setReg, Machine.linked]; simp

/-- A jump to an address that is not aligned stops before itself, and writes no link (R160). -/
theorem jumpReg_misaligned (here : s.group? s.cur = some g) {a : Reg} (halign : (g.reg a).toNat % 4 ≠ 0) (link : Bool) :
    jumpReg s a link = s.trapS s.cur g .align (g.reg a) := by
  rw [jumpReg, scalar_eq here]
  exact if_pos halign

variable (here : s.group? s.cur = some g) (htrace : s.traced (s.launchOf g) g.launch = false)
include here htrace

/-- A conditional branch (R160). -/
theorem JumpsTo.branchIf {a b : Reg} {o : BitVec 16} {c : W64 → W64 → Bool} {d : Bool} (hexec : exec i s = branchIf s a b o c)
    (hd : c (g.reg a) (g.reg b) = d) : JumpsTo s g i g.reg (if d then g.spc + (o.signExtend 64 : W64) * 4 else g.spc + 4) := by
  refine JumpsTo.unlinked (hexec.trans ?_)
  rw [Machine.branchIf, scalar_eq here, hd]
  cases d with
  | true => exact State.jumpTo_untraced htrace rfl _ _
  | false => rfl

/-- A jump to an aligned address; a link is the address of the next instruction, in s31 (R160). -/
theorem jumpReg_aligned {a : Reg} (halign : (g.reg a).toNat % 4 = 0) (link : Bool) :
    jumpReg s a link = .next (s.goTo s.cur (if link then g.setReg 31 (g.spc + 4) else g) (g.reg a)) := by
  rw [jumpReg, scalar_eq here]
  refine (if_neg (not_not.2 halign)).trans (State.jumpTo_untraced htrace ?_ _ _)
  split
  · exact Group.setReg_launch ..
  · rfl

/-- A jump to a distance from the instruction (R160). -/
theorem execJmp_eq (o : BitVec 26) : exec (.jmp o) s = .next (s.goTo s.cur g (g.spc + o.signExtend 64 * 4)) := by
  change execJmp o s = _
  rw [execJmp, scalar_eq here, State.jumpTo_untraced htrace rfl]

/-- The same with a link (R160). -/
theorem execCall_eq (o : BitVec 26) :
    exec (.call o) s = .next (s.goTo s.cur (g.setReg 31 (g.spc + 4)) (g.spc + o.signExtend 64 * 4)) := by
  change execCall o s = _
  rw [execCall, scalar_eq here, State.jumpTo_untraced htrace (Group.setReg_launch ..)]

end

/-- Settles O14: each branch goes by its comparison; a jump goes to its target, which must be aligned where a register names it. -/
theorem branchesAndJumps : Obligations.BranchesAndJumps := by
  unfold Obligations.BranchesAndJumps
  intro s g here htrace a b o j
  refine ⟨fun i c hi => ?_, .unlinked (execJmp_eq here htrace j), .linked (execCall_eq here htrace j),
    fun h => ⟨.unlinked (jumpReg_aligned here htrace h false), .linked (jumpReg_aligned here htrace h true)⟩,
    fun h => .unlinked (jumpReg_aligned here htrace h false),
    fun h => ⟨jumpReg_misaligned here h false, jumpReg_misaligned here h true⟩, fun h => jumpReg_misaligned here h false⟩
  simp only [List.mem_cons, List.not_mem_nil, or_false, Prod.mk.injEq] at hi
  rcases hi with ⟨rfl, rfl⟩ | ⟨rfl, rfl⟩ | ⟨rfl, rfl⟩ | ⟨rfl, rfl⟩ | ⟨rfl, rfl⟩ | ⟨rfl, rfl⟩
  · exact .branchIf here htrace (c := fun x y => x == y) rfl (beq_eq_decide _ _)
  · exact .branchIf here htrace (c := fun x y => x != y) rfl (by rw [decide_not, bne, beq_eq_decide])
  · exact .branchIf here htrace (c := fun x y => decide (x.toInt < y.toInt)) rfl rfl
  · exact .branchIf here htrace (c := fun x y => decide (y.toInt ≤ x.toInt)) rfl rfl
  · exact .branchIf here htrace (c := fun x y => decide (x.toNat < y.toNat)) rfl rfl
  · exact .branchIf here htrace (c := fun x y => decide (y.toNat ≤ x.toNat)) rfl rfl

end Sys2Proof.Machine
end


section
/-! SUPPORT. Lane control instructions: paths that split, arrive, retire and lose lanes, and the stack (spec/06 R139-R155). -/

namespace Sys2Proof.Machine

/-! The slots. -/

/-- Every slot but slot 0 is slot 1, whose sibling is slot 0. -/
theorem slot_cases (slot : Nat) : slot = 0 ∨ slot ≠ 0 ∧ 1 - slot = 0 := by omega

/-- The other slot keeps its path. -/
@[simp] theorem Group.setPath_other (g : Group) (slot : Nat) (x : Option Path) : (g.setPath slot x).path? (1 - slot) = g.path? (1 - slot) := by
  rcases slot_cases slot with rfl | ⟨h, h'⟩
  · rfl
  · simp [Group.setPath, Group.path?, h, h']

/-- The slot itself, seen from the other. -/
@[simp] theorem Group.setPath_sibling (g : Group) (slot : Nat) (x : Option Path) : (g.setPath (1 - slot) x).path? slot = g.path? slot := by
  rcases slot_cases slot with rfl | ⟨h, h'⟩
  · rfl
  · simp [Group.setPath, Group.path?, h, h']

/-- A path is live if it stands in a slot or in the other. -/
theorem Group.anyPath_eq (g : Group) (slot : Nat) : g.anyPath = ((g.path? slot).isSome || (g.path? (1 - slot)).isSome) := by
  rcases slot_cases slot with rfl | ⟨h, h'⟩
  · rfl
  · simp [Group.anyPath, Group.path?, h, h', Bool.or_comm]

/-- A slot is free if the one or the other is. -/
theorem Group.slotFree_eq (g : Group) (slot : Nat) :
    (g.slot0.isNone || g.slot1.isNone) = ((g.path? slot).isNone || (g.path? (1 - slot)).isNone) := by
  rcases slot_cases slot with rfl | ⟨h, h'⟩
  · rfl
  · simp [Group.path?, h, h', Bool.or_comm]

/-- A path goes into the slot beside a live one. -/
theorem Group.place_sibling {g : Group} {slot : Nat} {x : Path} (hx : g.path? slot = some x) (hfree : g.path? (1 - slot) = none) (n : Path) :
    g.place n = g.setPath (1 - slot) (some n) := by
  rcases slot_cases slot with rfl | ⟨h, h'⟩
  · have hx : g.slot0 = some x := hx
    simp [Group.place, Group.setPath, hx]
  · rw [h'] at hfree ⊢
    have hfree : g.slot0 = none := hfree
    simp [Group.place, Group.setPath, hfree]

/-- The slots stand beside the live lanes. -/
theorem Group.setPath_withLive (g : Group) (slot : Nat) (x : Option Path) (m : W64) :
    ({ g with live := m } : Group).setPath slot x = { g.setPath slot x with live := m } := by
  unfold Group.setPath
  split <;> rfl

/-! `Resolve` (R144). -/

/-- Nothing is popped while a path is live and no path entry is on top. -/
theorem Group.resolveLoop_stays {g : Group} (hlive : g.anyPath = true) (htop : ∀ e ∈ g.stack.head?, e.kind = .joinE) (n : Nat) :
    g.resolveLoop n = g := by
  cases n with
  | zero => rfl
  | succ n =>
    unfold Group.resolveLoop
    cases hstack : g.stack with
    | nil => rfl
    | cons e r =>
      rw [hstack] at htop
      simp [htop e rfl, hlive]

/-- Then `Resolve` leaves the group as it is. -/
theorem Group.resolve_stays {g : Group} (hlive : g.anyPath = true) (htop : ∀ e ∈ g.stack.head?, e.kind = .joinE) : g.resolve = g := by
  rw [Group.resolve, Group.resolveLoop_stays hlive htop]
  simp [hlive]

/-- The block ends without a live path and without an entry. -/
theorem Group.resolve_ends {g : Group} (hdead : g.anyPath = false) (hstack : g.stack = []) : g.resolve = g.endBlock := by
  have hloop : g.resolveLoop (g.stack.length + 1) = g := by rw [Group.resolveLoop, hstack]
  rw [Group.resolve, hloop]
  simp [hdead, hstack]

/-- A join whose last path has arrived releases the lanes that are still alive, at the next index with the FMT of `mjoin`. -/
theorem Group.resolve_releases {g : Group} {e : StackEnt} {r : List StackEnt} (h0 : g.slot0 = none) (h1 : g.slot1 = none)
    (hstack : g.stack = e :: r) (hkind : e.kind = .joinE) (hlanes : e.arrived &&& g.live ≠ 0) (htop : ∀ x ∈ r.head?, x.kind = .joinE) :
    g.resolve = { g with stack := r, nextPath := g.nextPath + 1,
                         slot0 := some { pc := e.index + 1, mask := e.arrived &&& g.live, fmt := e.fmt, id := g.nextPath } } := by
  have hplace (p : Path) : { g with stack := r }.placeNew p
      = { g with stack := r, slot0 := some { p with id := g.nextPath }, nextPath := g.nextPath + 1 } := by
    simp [Group.placeNew, Group.place, h0]
  have hloop : g.resolveLoop (g.stack.length + 1)
      = ({ g with stack := r }.placeNew { pc := e.index + 1, mask := e.arrived &&& g.live, fmt := e.fmt }).resolveLoop g.stack.length := by
    rw [Group.resolveLoop, hstack]
    simp only [hkind, Group.anyPath, h0, h1, Option.isSome_none, Bool.or_false, Bool.false_eq_true, if_false, if_neg hlanes, List.length_cons]
  rw [Group.resolve, hloop, hplace, Group.resolveLoop_stays rfl htop]
  rfl

/-- A path that retires beside a live one leaves its slot free. -/
theorem Group.retire_stays {g : Group} {slot : Nat} (hsib : g.path? (1 - slot) ≠ none) (hstack : g.stack = []) :
    g.retire slot = g.setPath slot none := by
  refine Group.resolve_stays ?_ (by simp [hstack])
  rw [Group.anyPath_eq _ slot, Group.setPath_other, Option.isSome_iff_ne_none.2 hsib, Bool.or_true]

/-- The block ends with its last path. -/
theorem Group.retire_ends {g : Group} {slot : Nat} (hsib : g.path? (1 - slot) = none) (hstack : g.stack = []) : g.retire slot = g.endBlock := by
  have hdead : (g.setPath slot none).anyPath = false := by rw [Group.anyPath_eq _ slot, Group.setPath_self, Group.setPath_other, hsib]; rfl
  rw [Group.retire, Group.resolve_ends hdead (by simp [hstack])]
  unfold Group.endBlock Group.setPath
  split <;> rfl

/-- What `Resolve` begins with when lanes have arrived at the join entry on top: their path's slot is free. -/
def Group.arriveAt (g : Group) (slot : Nat) (e : StackEnt) (r : List StackEnt) (m : W64) : Group :=
  { g.setPath slot none with stack := { e with arrived := e.arrived ||| m } :: r }

/-- `Arrive` at a join entry on top. -/
theorem Group.arrive_top {g : Group} {e : StackEnt} {r : List StackEnt} (hstack : g.stack = e :: r) (hkind : e.kind = .joinE)
    (slot : Nat) (p : Path) : g.arrive slot p = (g.arriveAt slot e r (p.mask &&& g.live)).resolve := by
  have htop : arriveTop (p.mask &&& g.live) g.stack = { e with arrived := e.arrived ||| (p.mask &&& g.live) } :: r := by
    rw [hstack]; exact if_pos hkind
  rw [Group.arrive, htop]
  unfold Group.arriveAt Group.setPath
  split <;> rfl

/-- Only the sibling is live after an arrival. -/
theorem Group.arriveAt_anyPath (g : Group) (slot : Nat) (e : StackEnt) (r : List StackEnt) (m : W64) :
    (g.arriveAt slot e r m).anyPath = (g.path? (1 - slot)).isSome := by
  change (g.setPath slot none).anyPath = _
  rw [Group.anyPath_eq _ slot, Group.setPath_self, Group.setPath_other]; rfl

/-- It leaves the rest of the group alone. -/
@[simp] theorem Group.arriveAt_live (g : Group) (slot : Nat) (e : StackEnt) (r : List StackEnt) (m : W64) :
    (g.arriveAt slot e r m).live = g.live := Group.setPath_live ..

@[simp] theorem Group.arriveAt_launch (g : Group) (slot : Nat) (e : StackEnt) (r : List StackEnt) (m : W64) :
    (g.arriveAt slot e r m).launch = g.launch := Group.setPath_launch ..

/-! Traces of a group that is not traced (R432). -/

section
variable {s : State} {g : Group} (htrace : s.traced (s.launchOf g) g.launch = false)
include htrace

/-- No packet tells of its paths. -/
theorem State.tracePath_untraced (gid ev : Nat) (pc : W32) (mask : W64) : s.tracePath gid g ev pc mask = s := packet_none htrace

/-- So the paths that joins release leave no packet either. -/
theorem State.laneDone_untraced {g1 : Group} (hlaunch : g1.launch = g.launch) (gid : Nat) (before : Group) :
    s.laneDone gid before g1 = s.setGroup gid g1 := by
  have htrace' : (s.setGroup gid g1).traced ((s.setGroup gid g1).launchOf g1) g1.launch = false := by
    rw [State.launchOf, hlaunch]; exact htrace
  exact List.foldl_fixed' (fun x => by
    cases x with
    | none => rfl
    | some p => simp [State.tracePath_untraced htrace']) _

end

/-! The instructions. -/

/-- The lanes that are left when those of a guard leave. -/
theorem and_not_and_self (m n : W64) : m &&& ~~~(m &&& n) = m &&& ~~~n := by
  ext i
  cases h : m[i] <;> simp [h]

/-- The path of a lane control word as it has issued, less its dead lanes (R140, R158). -/
def Group.ctlPath (g : Group) (p : Path) : Path := g.issuedPath { p with mask := p.mask &&& g.live }

/-- It holds live lanes only. -/
theorem Group.ctlPath_live (g : Group) (p : Path) : (g.ctlPath p).mask &&& g.live = (g.ctlPath p).mask := by
  change p.mask &&& g.live &&& g.live = p.mask &&& g.live
  rw [BitVec.and_assoc, BitVec.and_self]

/-- Its group, with the path at the next word. -/
def Group.ctlStep (g : Group) (slot : Nat) (p : Path) : Group := g.stepPath slot (g.ctlPath p)

/-- The sibling is as it was. -/
theorem Group.ctlStep_other (g : Group) (slot : Nat) (p : Path) : (g.ctlStep slot p).path? (1 - slot) = g.path? (1 - slot) :=
  Group.stepPath_slot_other ..

@[simp] theorem Group.ctlStep_live (g : Group) (slot : Nat) (p : Path) : (g.ctlStep slot p).live = g.live := Group.stepPath_live ..
@[simp] theorem Group.ctlStep_stack (g : Group) (slot : Nat) (p : Path) : (g.ctlStep slot p).stack = g.stack := Group.stepPath_stack ..
@[simp] theorem Group.ctlStep_laneQ (g : Group) (slot : Nat) (p : Path) : (g.ctlStep slot p).laneQ = g.laneQ := Group.stepPath_laneQ ..
@[simp] theorem Group.ctlStep_v (g : Group) (slot : Nat) (p : Path) : (g.ctlStep slot p).v = g.v := Group.stepPath_v ..
@[simp] theorem Group.ctlStep_launch (g : Group) (slot : Nat) (p : Path) : (g.ctlStep slot p).launch = g.launch := Group.stepPath_launch ..

/-- The lanes of the path for which the guard of the word holds (R73). -/
def Group.ctlTaken (g : Group) (p : Path) (w : LaneWord) : W64 := (g.ctlPath p).mask &&& g.guard w

/-- The lanes of the path for which it does not hold. -/
def Group.ctlLeft (g : Group) (p : Path) (w : LaneWord) : W64 := (g.ctlPath p).mask &&& ~~~(g.guard w)

/-- The join level of a group whose topmost entry is a join entry (R139). -/
theorem Group.level_top {g : Group} {e : StackEnt} {r : List StackEnt} (hstack : g.stack = e :: r) (hkind : e.kind = .joinE) :
    g.level = some e := by
  simp [Group.level, hstack, hkind]

/-- There is none on an empty stack. -/
theorem Group.level_nil {g : Group} (hstack : g.stack = []) : g.level = none := by
  rw [Group.level, hstack]; rfl

/-- A new path goes into the slot beside a live one, with a name of its own. -/
theorem Group.placeNew_sibling {g : Group} {slot : Nat} {x : Path} (hx : g.path? slot = some x) (hfree : g.path? (1 - slot) = none) (n : Path) :
    g.placeNew n = { g.setPath (1 - slot) (some { n with id := g.nextPath }) with nextPath := g.nextPath + 1 } := by
  rw [Group.placeNew, Group.place_sibling hx hfree]

section
variable {s : State} {g : Group} {p : Path} {w : LaneWord} (can : CanIssue s g p true)
include can

/-- A lane control word of a path that can issue goes by the path and the group of its issue (R149). -/
theorem CanIssue.laneCtl_issues (k : Nat → Group → Path → Group → Res) :
    laneCtl s k = k s.cur g (g.ctlPath p) (g.ctlStep s.slot p) := by
  have hidle : ∀ x ∈ g.pend, x.path ≠ p.id := fun x hx hpath => absurd (can.windows x hx hpath).1 (by decide)
  have can' : CanIssue s g p false := ⟨can.here, can.path, fun x hx hpath => absurd hpath (hidle x hx), can.alone⟩
  exact can'.laneCtl_eq hidle k

/-- `mjoin` (R151, R145): a live sibling is pushed below the join entry. -/
theorem CanIssue.execMjoin_eq {below : List StackEnt} (hbelow : below = ((g.path? (1 - s.slot)).map Path.entry).toList ++ g.stack) :
    exec (.mjoin w) s = if 64 ≤ below.length then s.trapL s.cur g .stackovf 0 0
      else .next (s.setGroup s.cur { (g.ctlStep s.slot p).setPath (1 - s.slot) none with
        stack := { kind := .joinE, index := w.x32, mask := (g.ctlPath p).mask, arrived := 0, fmt := p.fmt } :: below }) := by
  change execMjoin w s = _
  rw [execMjoin, can.laneCtl_issues]
  subst hbelow
  cases g.path? (1 - s.slot) <;> simp only [Nat.lt_add_one_iff] <;> rfl

/-- `join` where no join entry names it (R152). -/
theorem CanIssue.execJoin_passes (hlevel : ∀ e, g.level = some e → e.index ≠ p.pc) :
    exec (.join w) s = .next (s.setGroup s.cur (g.ctlStep s.slot p)) := by
  change execJoin w s = _
  rw [execJoin, can.laneCtl_issues]
  cases h : g.level with
  | none => rfl
  | some e => exact if_neg (hlevel e h)

/-- `join` at the index of the join entry on top (R152). -/
theorem CanIssue.execJoin_top {e : StackEnt} {r : List StackEnt} (hstack : g.stack = e :: r) (hkind : e.kind = .joinE) (hpc : e.index = p.pc) :
    exec (.join w) s = .next (s.laneDone s.cur (g.ctlStep s.slot p) ((g.ctlStep s.slot p).arriveAt s.slot e r (g.ctlPath p).mask).resolve) := by
  have hstack' : (g.ctlStep s.slot p).stack = e :: r := (Group.ctlStep_stack ..).trans hstack
  change execJoin w s = _
  rw [execJoin, can.laneCtl_issues, Group.level_top hstack hkind]
  refine (if_pos hpc).trans ?_
  rw [Group.arrive_top hstack' hkind, Group.ctlStep_live, Group.ctlPath_live]

/-- `lfmt` (R155). -/
theorem CanIssue.execLfmt_eq : exec (.lfmt w) s = .next (s.setGroup s.cur ((g.ctlStep s.slot p).setPath s.slot
    (some { g.ctlPath p with pc := p.pc + 1, fmt := w.x32.extractLsb' 0 19 }))) := by
  have hfmt : w.x32.setWidth 19 = w.x32.extractLsb' 0 19 := by ext i; simp
  change execLfmt w s = _
  rw [execLfmt, can.laneCtl_issues, hfmt]
  rfl

variable (htrace : s.traced (s.launchOf g) g.launch = false)
include htrace

/-- `lbra` (R150, R144, R145), by the lanes taken and those left, and by the room for the new path. -/
theorem CanIssue.execLbra_eq : exec (.lbra w) s =
    if g.ctlTaken p w = 0 then .next (s.setGroup s.cur (g.ctlStep s.slot p))
    else if g.ctlLeft p w = 0 then .next (s.setGroup s.cur ((g.ctlStep s.slot p).setPath s.slot (some { g.ctlPath p with pc := w.x32 })))
    else
      let n : Path := { pc := w.x32, mask := g.ctlTaken p w, fmt := p.fmt, id := (g.ctlStep s.slot p).nextPath }
      let g2 := (g.ctlStep s.slot p).setPath s.slot (some { g.ctlPath p with pc := p.pc + 1, mask := g.ctlLeft p w })
      if g.path? (1 - s.slot) = none then .next (s.setGroup s.cur (g2.placeNew n))
      else if 64 ≤ g.stack.length then s.trapL s.cur g .stackovf 0 0
      else .next (s.setGroup s.cur { g2 with stack := n.entry :: g2.stack, nextPath := g2.nextPath + 1 }) := by
  have hlog (g1 : Group) (ev : Nat) (pc : W32) (m : W64) : (s.setGroup s.cur g1).tracePath s.cur g ev pc m = s.setGroup s.cur g1 :=
    State.tracePath_untraced (s := s.setGroup s.cur g1) htrace s.cur ev pc m
  have hfree : (g.slot0.isNone || g.slot1.isNone) = true ↔ g.path? (1 - s.slot) = none := by
    rw [Group.slotFree_eq g s.slot, can.path]; simp
  change execLbra w s = _
  rw [execLbra, can.laneCtl_issues]
  simp only [and_not_and_self, hlog, hfree, Nat.lt_add_one_iff]
  rfl

/-- A path splits into the free slot (R144). -/
theorem CanIssue.lbra_splits (hk : g.ctlTaken p w ≠ 0) (hf : g.ctlLeft p w ≠ 0) (hsib : g.path? (1 - s.slot) = none) :
    ∃ g1, Controls s (.lbra w) g1 ∧ g1.path? s.slot = some { g.ctlPath p with pc := p.pc + 1, mask := g.ctlLeft p w }
      ∧ (∃ y, g1.path? (1 - s.slot) = some y ∧ y.pc = w.x32 ∧ y.mask = g.ctlTaken p w ∧ y.fmt = p.fmt ∧ y.redo = none)
      ∧ g1.stack = g.stack ∧ g1.live = g.live ∧ g1.v = g.v := by
  have hexec := can.execLbra_eq htrace (w := w)
  rw [if_neg hk, if_neg hf, if_pos hsib,
    Group.placeNew_sibling (Group.setPath_self ..) ((Group.setPath_other ..).trans ((Group.ctlStep_other ..).trans hsib))] at hexec
  refine ⟨_, hexec, (Group.setPath_sibling ..).trans (Group.setPath_self ..), ⟨_, Group.setPath_self .., rfl, rfl, rfl, rfl⟩, ?_⟩
  simp

/-- A path splits with both slots taken: the lanes taken wait as an entry (R144). -/
theorem CanIssue.lbra_pushes (hk : g.ctlTaken p w ≠ 0) (hf : g.ctlLeft p w ≠ 0) (hsib : g.path? (1 - s.slot) ≠ none) (hroom : g.stack.length < 64) :
    ∃ g1 e, Controls s (.lbra w) g1 ∧ g1.path? s.slot = some { g.ctlPath p with pc := p.pc + 1, mask := g.ctlLeft p w }
      ∧ g1.path? (1 - s.slot) = g.path? (1 - s.slot) ∧ g1.stack = e :: g.stack ∧ e.kind = .pathE ∧ e.index = w.x32
      ∧ e.mask = g.ctlTaken p w ∧ e.fmt = p.fmt ∧ e.arrived = 0 := by
  have hexec := can.execLbra_eq htrace (w := w)
  rw [if_neg hk, if_neg hf, if_neg hsib, if_neg (by omega)] at hexec
  exact ⟨_, _, hexec, Group.setPath_self .., (Group.setPath_other ..).trans (Group.ctlStep_other ..),
    congrArg _ ((Group.setPath_stack ..).trans (Group.ctlStep_stack ..)), rfl, rfl, rfl, rfl, rfl⟩

/-- `lend` (R146, R153). -/
theorem CanIssue.execLend_eq : exec (.lend w) s = if g.level.isSome then s.trapL s.cur g .lenddiv 0 0
    else .next (s.laneDone s.cur (g.ctlStep s.slot p) ((g.ctlStep s.slot p).retire s.slot)) := by
  change execLend w s = _
  rw [execLend, can.laneCtl_issues, State.tracePath_untraced htrace]

/-- `lend` beside a live path. -/
theorem CanIssue.lend_stays (hstack : g.stack = []) (hsib : g.path? (1 - s.slot) ≠ none) :
    Controls s (.lend w) ((g.ctlStep s.slot p).setPath s.slot none) := by
  rw [Controls, can.execLend_eq htrace, Group.level_nil hstack, Group.retire_stays (by rwa [Group.ctlStep_other]) (by simpa using hstack),
    State.laneDone_untraced htrace (by simp)]
  rfl

/-- `lend` of the last path ends the block. -/
theorem CanIssue.lend_ends (hstack : g.stack = []) (hsib : g.path? (1 - s.slot) = none) :
    Controls s (.lend w) { g.ctlStep s.slot p with laneQ := g.laneQ.tail, running := false, slot0 := none, slot1 := none, stack := [] } := by
  rw [← Group.ctlStep_laneQ g s.slot p, Controls, can.execLend_eq htrace, Group.level_nil hstack,
    Group.retire_ends (by rwa [Group.ctlStep_other]) (by simpa using hstack), State.laneDone_untraced htrace (by simp [Group.endBlock])]
  rfl

/-- `lkill` (R154, R140), by the lanes that live on and those that the path keeps. -/
theorem CanIssue.execLkill_eq : exec (.lkill w) s =
    let g2 := { g.ctlStep s.slot p with live := g.live &&& ~~~(g.ctlTaken p w) }
    if g.live &&& ~~~(g.ctlTaken p w) = 0 then .next (s.setGroup s.cur g2.endBlock)
    else if g.ctlLeft p w = 0 then .next (s.laneDone s.cur g2 (g2.retire s.slot))
    else .next (s.setGroup s.cur (g2.setPath s.slot (some { g.ctlPath p with pc := p.pc + 1, mask := g.ctlLeft p w }))) := by
  change execLkill w s = _
  rw [execLkill, can.laneCtl_issues]
  simp only [and_not_and_self, State.tracePath_untraced htrace, ite_self, Group.ctlStep_live]
  rfl

/-- The death of the last lanes ends the block (R140). -/
theorem CanIssue.lkill_ends (hdead : g.live &&& ~~~(g.ctlTaken p w) = 0) :
    Controls s (.lkill w) { g.ctlStep s.slot p with
      live := 0, laneQ := g.laneQ.tail, running := false, slot0 := none, slot1 := none, stack := [] } := by
  rw [← Group.ctlStep_laneQ g s.slot p, Controls, can.execLkill_eq htrace, if_pos hdead, hdead]
  rfl

/-- A path that keeps lanes goes on with them. -/
theorem CanIssue.lkill_keeps (hlive : g.live &&& ~~~(g.ctlTaken p w) ≠ 0) (hf : g.ctlLeft p w ≠ 0) :
    Controls s (.lkill w) { (g.ctlStep s.slot p).setPath s.slot (some { g.ctlPath p with pc := p.pc + 1, mask := g.ctlLeft p w }) with
      live := g.live &&& ~~~(g.ctlTaken p w) } := by
  rw [Controls, can.execLkill_eq htrace, if_neg hlive, if_neg hf, Group.setPath_withLive]

/-- A path that keeps none retires beside a live one. -/
theorem CanIssue.lkill_retires (hlive : g.live &&& ~~~(g.ctlTaken p w) ≠ 0) (hf : g.ctlLeft p w = 0) (hsib : g.path? (1 - s.slot) ≠ none)
    (hstack : g.stack = []) :
    Controls s (.lkill w) { (g.ctlStep s.slot p).setPath s.slot none with live := g.live &&& ~~~(g.ctlTaken p w) } := by
  have hsib' : ({ g.ctlStep s.slot p with live := g.live &&& ~~~(g.ctlTaken p w) } : Group).path? (1 - s.slot) ≠ none := by
    change (g.ctlStep s.slot p).path? (1 - s.slot) ≠ none
    rwa [Group.ctlStep_other]
  rw [Controls, can.execLkill_eq htrace, if_neg hlive, if_pos hf, Group.retire_stays hsib' ((Group.ctlStep_stack ..).trans hstack),
    State.laneDone_untraced htrace (by simp), Group.setPath_withLive]

/-- The lanes of a path wait at the join while its sibling lives (R152). -/
theorem CanIssue.join_waits {e : StackEnt} {r : List StackEnt} (hstack : g.stack = e :: r) (hkind : e.kind = .joinE) (hpc : e.index = p.pc)
    (hsib : g.path? (1 - s.slot) ≠ none) : Controls s (.join w) ((g.ctlStep s.slot p).arriveAt s.slot e r (g.ctlPath p).mask) := by
  have hany : ((g.ctlStep s.slot p).arriveAt s.slot e r (g.ctlPath p).mask).anyPath = true := by
    rw [Group.arriveAt_anyPath, Group.ctlStep_other]; exact Option.isSome_iff_ne_none.2 hsib
  rw [Controls, can.execJoin_top hstack hkind hpc, Group.resolve_stays hany (by simpa [Group.arriveAt] using hkind),
    State.laneDone_untraced htrace (by simp)]

/-- The last path to arrive releases the lanes that have arrived (R152). -/
theorem CanIssue.join_releases {e : StackEnt} {r : List StackEnt} (hstack : g.stack = e :: r) (hkind : e.kind = .joinE) (hpc : e.index = p.pc)
    (hsib : g.path? (1 - s.slot) = none) (hmask : (g.ctlPath p).mask ≠ 0) (htop : ∀ x ∈ r.head?, x.kind = .joinE) :
    ∃ g1 y, Controls s (.join w) g1 ∧ g1.stack = r ∧ g1.slot0 = some y ∧ g1.slot1 = none ∧ y.pc = e.index + 1
      ∧ y.mask = (e.arrived ||| (g.ctlPath p).mask) &&& g.live ∧ y.fmt = e.fmt := by
  have hexec := can.execJoin_top (w := w) hstack hkind hpc
  have hany : ((g.ctlStep s.slot p).arriveAt s.slot e r (g.ctlPath p).mask).anyPath = false := by
    rw [Group.arriveAt_anyPath, Group.ctlStep_other, hsib]; rfl
  have hlive : ((g.ctlStep s.slot p).arriveAt s.slot e r (g.ctlPath p).mask).live = g.live := by simp
  have hlaunch : ((g.ctlStep s.slot p).arriveAt s.slot e r (g.ctlPath p).mask).launch = g.launch := by simp
  have hstack' : ((g.ctlStep s.slot p).arriveAt s.slot e r (g.ctlPath p).mask).stack
      = { e with arrived := e.arrived ||| (g.ctlPath p).mask } :: r := rfl
  generalize (g.ctlStep s.slot p).arriveAt s.slot e r (g.ctlPath p).mask = h at hexec hany hlive hlaunch hstack'
  obtain ⟨h0, h1⟩ : h.slot0 = none ∧ h.slot1 = none := by simpa [Group.anyPath] using hany
  have hlanes : (e.arrived ||| (g.ctlPath p).mask) &&& h.live ≠ 0 := by
    rw [hlive, BitVec.and_comm, BitVec.and_or_distrib_left, BitVec.and_comm g.live (g.ctlPath p).mask, Group.ctlPath_live]
    exact fun hzero => hmask (BitVec.or_eq_zero_iff.1 hzero).2
  rw [Group.resolve_releases h0 h1 hstack' hkind hlanes htop, State.laneDone_untraced htrace (by exact hlaunch)] at hexec
  exact ⟨_, _, hexec, rfl, rfl, h1, rfl, congrArg ((e.arrived ||| (g.ctlPath p).mask) &&& ·) hlive, rfl⟩

end

/-- Settles O47: each instruction of a path that can issue is the procedure of R144 that it names, with the slots and the stack as they stand. -/
theorem laneControlPaths : Obligations.LaneControlPaths := by
  unfold Obligations.LaneControlPaths
  intro s g p w can htrace q G sib k f here gone
  have hlbra := can.execLbra_eq htrace (w := w)
  refine ⟨fun hk => hlbra.trans (if_pos hk), fun hk hf => hlbra.trans ((if_neg hk).trans (if_pos hf)), can.lbra_splits htrace,
    can.lbra_pushes htrace, fun hk hf hsib hfull => hlbra.trans ((if_neg hk).trans ((if_neg hf).trans ((if_neg hsib).trans (if_pos hfull)))),
    ?_, can.execJoin_passes, fun e r hstack hkind hpc => ⟨can.join_waits htrace hstack hkind hpc, can.join_releases htrace hstack hkind hpc⟩,
    fun hlevel => (can.execLend_eq htrace).trans (if_pos (Option.isSome_iff_ne_none.2 hlevel)), can.lend_stays htrace, can.lend_ends htrace,
    can.lkill_ends htrace, can.lkill_keeps htrace, can.lkill_retires htrace, can.execLfmt_eq⟩
  have hsib : sib = g.path? (1 - s.slot) := rfl
  clear_value sib
  intro below
  have hbelow : below = (sib.map Path.entry).toList ++ g.stack := by cases sib <;> rfl
  have hmjoin := can.execMjoin_eq (w := w) (hbelow.trans (by rw [hsib]))
  exact ⟨fun hroom => hmjoin.trans (if_neg (by omega)), fun hfull => hmjoin.trans (if_pos hfull)⟩

end Sys2Proof.Machine
end

section
/-! SUPPORT. Scalar integer arithmetic (spec/07 R165-R169): register results, division, and counts of bits. -/

namespace Sys2Proof.Machine

/-- An instruction whose meaning is a register result completes with its value. -/
theorem ScalarResult.of_setResult {s : State} {g : Group} (here : s.group? s.cur = some g) {i : Instr} {d : Reg} {f : Group → W64} {v : W64}
    (hexec : exec i s = setResult s d f) (hv : f g = v) : ScalarResult s g i d v :=
  .intro (by rw [hexec, setResult_eq here, hv])

/-- The shift count of a register: its bits 5:0 (R166). -/
theorem toNat_shiftCount (b : W64) : b.toNat % 64 = (b.extractLsb' 0 6).toNat := by
  rw [BitVec.extractLsb'_toNat, Nat.shiftRight_zero]

/-- The smaller of two by a key that tells them apart, whichever is asked about first. -/
theorem smaller_comm {α κ : Type} [LinearOrder κ] {key : α → κ} (hkey : ∀ x y, key x = key y → x = y) (x y : α) :
    (if key x < key y then x else y) = if key y < key x then y else x := by
  rcases lt_trichotomy (key x) (key y) with h | h | h
  · rw [if_pos h, if_neg h.asymm]
  · rw [hkey x y h]
  · rw [if_neg h.asymm, if_pos h]

/-- Settles O10: each instruction writes its one result. -/
theorem scalarAluResults : Obligations.ScalarAluResults := by
  unfold Obligations.ScalarAluResults
  intro s g here d a b
  have result {i : Instr} {f : Group → W64} {v : W64} (hexec : exec i s = setResult s d f) (hv : f g = v) : ScalarResult s g i d v :=
    .of_setResult here hexec hv
  have count := toNat_shiftCount (g.reg b)
  have less {x y p q : W64} : (if x.toNat < y.toNat then p else q) = if x < y then p else q := if_congr BitVec.lt_def.symm rfl rfl
  exact ⟨result rfl rfl, result rfl rfl, result rfl rfl, result rfl rfl, result rfl rfl, result rfl rfl, result rfl rfl, result rfl rfl,
    result rfl (congrArg (g.reg a <<< ·) count), result rfl (congrArg (g.reg a >>> ·) count),
    result rfl (congrArg (g.reg a).sshiftRight count), result rfl (smaller_comm (fun _ _ => BitVec.eq_of_toInt_eq) _ _), result rfl rfl,
    result rfl ((smaller_comm (fun _ _ => BitVec.eq_of_toNat_eq) _ _).trans less), result rfl less, result rfl rfl,
    result rfl less, result rfl rfl, result rfl rfl, result rfl rfl, result rfl rfl, result rfl rfl, result rfl rfl, result rfl rfl,
    result rfl rfl⟩

/-- Settles O13: each immediate form writes its one result; `slti` compares with the immediate sign-extended. -/
theorem scalarImmediateResults : Obligations.ScalarImmediateResults := by
  unfold Obligations.ScalarImmediateResults
  intro s g here d a imm n
  have result {i : Instr} {f : Group → W64} {v : W64} (hexec : exec i s = setResult s d f) (hv : f g = v) : ScalarResult s g i d v :=
    .of_setResult here hexec hv
  have himm : (imm.signExtend 64 : W64).toInt = imm.toInt := BitVec.toInt_signExtend_of_le (by decide)
  rw [himm]
  exact ⟨result rfl rfl, result rfl rfl, result rfl rfl, result rfl rfl, result rfl rfl, result rfl rfl, result rfl rfl, result rfl rfl,
    result rfl rfl, result rfl rfl, result rfl rfl⟩

/-! Division (R167). -/

theorem divSigned_eq_sdiv (a : W64) {b : W64} (hb : b ≠ 0) : divSigned a b = a.sdiv b := by
  refine BitVec.eq_of_toInt_eq ?_
  rw [divSigned, if_neg hb, BitVec.toInt_ofInt, BitVec.toInt_sdiv]

theorem remSigned_eq_srem (a b : W64) : remSigned a b = a.srem b := by
  unfold remSigned
  split
  next hb => rw [hb, BitVec.ofNat_eq_ofNat, BitVec.srem_zero]
  next => rw [← BitVec.toInt_srem, BitVec.ofInt_toInt]

/-- Quotient and remainder recompose the dividend, also where the quotient is fixed (R167). -/
theorem divSigned_mul_add_remSigned (a b : W64) : divSigned a b * b + remSigned a b = a := by
  unfold divSigned remSigned
  split
  next hb => simp [hb]
  next =>
    calc BitVec.ofInt 64 (a.toInt.tdiv b.toInt) * b + BitVec.ofInt 64 (a.toInt.tmod b.toInt)
        = BitVec.ofInt 64 (a.toInt.tdiv b.toInt * b.toInt + a.toInt.tmod b.toInt) := by
          rw [BitVec.ofInt_add, BitVec.ofInt_mul, BitVec.ofInt_toInt]
      _ = a := by rw [Int.tdiv_mul_add_tmod, BitVec.ofInt_toInt]

/-- Out of the fixed cases the signed quotient is the exact one, truncated, and the remainder is below the divisor and has the sign of the
dividend (R167). -/
theorem divSigned_exact {a b : W64} (hb : b ≠ 0) (hfix : ¬(a = 0x8000000000000000 ∧ b = 0xFFFFFFFFFFFFFFFF)) :
    (divSigned a b).toInt = a.toInt.tdiv b.toInt ∧ (remSigned a b).toInt = a.toInt.tmod b.toInt := by
  rw [divSigned_eq_sdiv a hb, remSigned_eq_srem]
  exact ⟨BitVec.toInt_sdiv_of_ne_or_ne _ _ (not_and_or.1 hfix), BitVec.toInt_srem _ _⟩

/-- The unsigned quotient and remainder recompose the dividend (R167). -/
theorem ofNat_div_mul_add_mod (a b : W64) : BitVec.ofNat 64 (a.toNat / b.toNat) * b + BitVec.ofNat 64 (a.toNat % b.toNat) = a :=
  calc BitVec.ofNat 64 (a.toNat / b.toNat) * b + BitVec.ofNat 64 (a.toNat % b.toNat)
      = BitVec.ofNat 64 (a.toNat / b.toNat * b.toNat + a.toNat % b.toNat) := by
        rw [BitVec.ofNat_add, BitVec.ofNat_mul, BitVec.ofNat_toNat, BitVec.setWidth_eq]
    _ = a := by rw [Nat.div_add_mod', BitVec.ofNat_toNat, BitVec.setWidth_eq]

/-- Settles O11: the signed forms are division truncated, the unsigned ones that of numbers, but for the divisor zero. -/
theorem scalarDivision : Obligations.ScalarDivision := by
  unfold Obligations.ScalarDivision
  intro s g here d a b
  generalize hx : g.reg a = x
  generalize hy : g.reg b = y
  refine ⟨divSigned x y, remSigned x y, if y = 0 then 0xFFFFFFFFFFFFFFFF else BitVec.ofNat 64 (x.toNat / y.toNat),
    if y = 0 then x else BitVec.ofNat 64 (x.toNat % y.toNat), ?_, ?_, ?_, ?_, divSigned_mul_add_remSigned x y, ?_, ?_, ?_, ?_⟩
  iterate 4 exact .of_setResult here rfl (by rw [← hx, ← hy])
  · split
    next hzero => simp [hzero]
    next => exact ofNat_div_mul_add_mod x y
  · rintro rfl
    exact ⟨rfl, rfl, rfl, rfl⟩
  · rintro rfl rfl
    exact ⟨by decide, by decide⟩
  · intro hb hfix
    obtain ⟨hq, hm⟩ := divSigned_exact hb hfix
    have hne : y.toInt ≠ 0 := fun h => hb (BitVec.eq_of_toInt_eq h)
    rw [hq, hm, if_neg hb, if_neg hb, BitVec.toNat_ofNat, BitVec.toNat_ofNat]
    refine ⟨rfl, ?_, (Int.tdiv_mul_add_tmod _ _).symm, fun h => Int.tmod_nonneg _ h.le, fun h => ?_, ?_, ?_⟩
    · rw [Int.natAbs_tmod]
      exact Nat.mod_lt _ (Int.natAbs_pos.2 hne)
    · exact (by rw [← neg_nonneg, ← Int.neg_tmod]; exact Int.tmod_nonneg _ (by omega))
    · exact Nat.mod_eq_of_lt (Nat.lt_of_le_of_lt (Nat.div_le_self _ _) x.isLt)
    · exact Nat.mod_eq_of_lt (Nat.lt_of_le_of_lt (Nat.mod_le _ _) x.isLt)

/-! Counts of bits (R166). -/

theorem leadingZeros_le (x n : Nat) : leadingZeros x n ≤ n := by
  induction n with
  | zero => exact le_rfl
  | succ n ih => rw [leadingZeros]; split <;> omega

/-- The bits above the highest one bit are zero, and that bit, where there is one, is one. -/
theorem testBit_leadingZeros (x n : Nat) : (∀ i < leadingZeros x n, x.testBit (n - 1 - i) = false)
    ∧ (leadingZeros x n < n → x.testBit (n - 1 - leadingZeros x n) = true) := by
  induction n with
  | zero => exact ⟨fun i hi => absurd hi (Nat.not_lt_zero i), fun h => absurd h (Nat.not_lt_zero _)⟩
  | succ n ih =>
    obtain ⟨hzeros, hone⟩ := ih
    by_cases htop : x / 2 ^ n % 2 = 1
    · rw [leadingZeros, if_pos htop]
      exact ⟨fun i hi => absurd hi (Nat.not_lt_zero i), fun _ => by simp [Nat.testBit_eq_decide_div_mod_eq, htop]⟩
    · rw [leadingZeros, if_neg htop]
      refine ⟨fun i hi => ?_, fun h => ?_⟩
      · cases i with
        | zero => simp [Nat.testBit_eq_decide_div_mod_eq, htop]
        | succ i => exact (congrArg x.testBit (by omega)).trans (hzeros i (by omega))
      · exact (congrArg x.testBit (by omega)).trans (hone (by omega))

theorem trailingZeros_le (x n : Nat) : trailingZeros x n ≤ n := by
  induction n generalizing x with
  | zero => exact le_rfl
  | succ n ih =>
    have := ih (x / 2)
    rw [trailingZeros]; split <;> omega

/-- The bits below the lowest one bit are zero, and that bit, where there is one, is one. -/
theorem testBit_trailingZeros (x n : Nat) : (∀ i < trailingZeros x n, x.testBit i = false)
    ∧ (trailingZeros x n < n → x.testBit (trailingZeros x n) = true) := by
  induction n generalizing x with
  | zero => exact ⟨fun i hi => absurd hi (Nat.not_lt_zero i), fun h => absurd h (Nat.not_lt_zero _)⟩
  | succ n ih =>
    obtain ⟨hzeros, hone⟩ := ih (x / 2)
    by_cases hlow : x % 2 = 1
    · rw [trailingZeros, if_pos hlow]
      exact ⟨fun i hi => absurd hi (Nat.not_lt_zero i), fun _ => by simp [Nat.testBit_zero, hlow]⟩
    · rw [trailingZeros, if_neg hlow, Nat.add_comm 1]
      refine ⟨fun i hi => ?_, fun h => ?_⟩
      · cases i with
        | zero => simp [Nat.testBit_zero, hlow]
        | succ i => exact (Nat.testBit_succ x i).trans (hzeros i (by omega))
      · exact (Nat.testBit_succ x _).trans (hone (by omega))

theorem oneBits_eq_countP (x n : Nat) : oneBits x n = (List.range n).countP x.testBit := by
  induction n generalizing x with
  | zero => rfl
  | succ n ih =>
    have htail : x.testBit ∘ Nat.succ = (x / 2).testBit := funext fun i => Nat.testBit_succ x i
    rw [oneBits, ih, List.range_succ_eq_map, List.countP_cons, List.countP_map, htail, Nat.testBit_zero, Nat.add_comm]
    by_cases hlow : x % 2 = 1
    · simp [hlow]
    · simp [Nat.mod_two_ne_one.1 hlow]

/-- Settles O12, by the bits of the operand as a number. -/
theorem scalarBitCounts : Obligations.ScalarBitCounts := by
  unfold Obligations.ScalarBitCounts
  intro s g here d a
  simp only [← BitVec.testBit_toNat]
  refine ⟨⟨_, leadingZeros_le _ 64, .of_setResult here rfl rfl, testBit_leadingZeros _ 64⟩,
    ⟨_, trailingZeros_le _ 64, .of_setResult here rfl rfl, testBit_trailingZeros _ 64⟩, .of_setResult here rfl ?_⟩
  exact congrArg (BitVec.ofNat 64) (oneBits_eq_countP _ 64)

end Sys2Proof.Machine
end

section
/-! SUPPORT. Device-side launches (spec/20 R380, R381): ordinary loads of a team's own scratchpad, the four lines of a command, and its child. -/

namespace Sys2Proof.Machine

/-! Bytes of ordinary memory outside device memory. -/

/-- The bytes of two ranges that follow one another. -/
theorem Memory.readList_append (m : Memory) (a n k : Nat) : Memory.readList m a n ++ Memory.readList m (a + n) k = Memory.readList m a (n + k) := by
  induction n generalizing a with
  | zero => rw [Nat.zero_add]; rfl
  | succ n ih =>
    rw [Nat.add_right_comm, Memory.readList, Memory.readList, ← ih, List.cons_append, Nat.add_assoc, Nat.add_comm 1 n]

/-- A byte of a core's window (R17). -/
theorem regionOf_onchip {core off : Nat} (hcore : core < 160) (hoff : off < 0x800000) : regionOf (onchip core off) = .onchip core off := by
  generalize hx : onchip core off = x
  unfold Machine.onchip at hx
  have hin : (decide (0x1F000000000 ≤ x) && decide (x < 0x1F050000000)) = true := by
    rw [Bool.and_eq_true, decide_eq_true_eq, decide_eq_true_eq]
    omega
  have hout : ¬ (decide (0x4000000000 ≤ x) && decide (x < 0x1C000000000)) = true := by
    rw [Bool.and_eq_true, decide_eq_true_eq, decide_eq_true_eq]
    omega
  unfold regionOf
  rw [if_neg (by omega), if_neg (by omega), if_neg (by omega), if_neg hout, if_pos hin]
  exact congrArg₂ Region.onchip (by omega) (by omega)

/-- Ordinary memory outside device memory is a scratchpad or host memory (R11, R17). -/
theorem PlainMemory.regionOf_eq {pa n i : Nat} (h : PlainMemory pa n) (hi : i < n) :
    (∃ core off, regionOf (pa + i) = .onchip core off ∧ pa + i = Machine.onchip core off ∧ off < 0x400000) ∨ ∃ x, regionOf (pa + i) = .host x := by
  rcases h with ⟨core, off, rfl, hcore, hoff⟩ | ⟨hlow, hhigh⟩
  · have hpa : onchip core off + i = onchip core (off + i) := Nat.add_assoc _ _ _
    exact .inl ⟨core, off + i, hpa ▸ regionOf_onchip hcore (by omega), hpa, by omega⟩
  · refine .inr ⟨pa + i - 2 ^ 64, ?_⟩
    unfold regionOf
    rw [if_neg (by omega), if_pos (by omega)]

/-- A byte there is the byte of memory. -/
theorem PlainMemory.portByte_eq {pa n i : Nat} (h : PlainMemory pa n) (hi : i < n) (s : State) :
    s.portByte (pa + i) = Memory.byte s.mem (pa + i) := by
  unfold State.portByte
  rcases h.regionOf_eq hi with ⟨core, off, hregion, hpa, hoff⟩ | ⟨x, hregion⟩
  · rw [hregion, hpa]
    exact if_pos hoff
  · rw [hregion]

theorem State.portRead_eq_readList {s : State} {pa n : Nat} (h : ∀ i < n, s.portByte (pa + i) = Memory.byte s.mem (pa + i)) :
    s.portRead pa n = Memory.readList s.mem pa n := by
  induction n generalizing pa with
  | zero => rfl
  | succ n ih =>
    have hfirst := h 0 (Nat.succ_pos n)
    rw [Nat.add_zero] at hfirst
    rw [State.portRead, Memory.readList, hfirst, ih fun i hi => ?_]
    rw [Nat.add_assoc, Nat.add_comm 1 i]
    exact h (i + 1) (by omega)

/-! An ordinary load of the team's own scratchpad. -/

/-- With no posted store an access awaits none (R175). -/
theorem State.drainFor_none {s : State} {gid pa n : Nat} {g : Group} {wr : Bool} (here : s.group? gid = some g) (settled : g.posted = []) :
    s.drainFor gid pa n wr = .ok () s := by
  simp only [State.drainFor, here, settled, State.earlier, List.foldr_nil, State.performAll]

/-- An access that reaches no device memory leaves its level alone (R435). -/
theorem State.reach_eq {s : State} {core pa : Nat} (h : regionOf pa ≠ .dram) : ∃ r, s.reach core pa = { s with reached := r } := by
  have hport : (s.portLevel core pa).2 = s := by
    unfold State.portLevel
    cases hregion : regionOf pa with
    | dram => exact absurd hregion h
    | _ => rfl
  have hlevel : (s.levelAt core pa).2 = s := by
    unfold State.levelAt
    split
    · exact hport
    · rfl
  unfold State.reach State.reachAt
  dsimp only
  rw [hlevel]
  split
  · exact ⟨_, rfl⟩
  · exact ⟨s.reached, rfl⟩

section
variable {s : State} {g : Group} {va pa : Nat}

/-- An ordinary access in the team's own scratchpad stays one while accesses are noted (R205, R435). -/
theorem ScratchAccess.withReached {k n : Nat} {rw : Rw} (h : ScratchAccess s g k va n pa rw) (r : List (Nat × Nat)) :
    ScratchAccess { s with reached := r } g k va n pa rw := by
  obtain ⟨access, inside, plain⟩ := h
  refine ⟨⟨access.here, fun touch => ?_, access.unrefused, .inl plain, access.aligned, access.unwatched, access.alone, access.settled,
    access.room, access.clear, access.unlocked, access.good⟩, inside, plain⟩
  have hport := access.port touch
  rw [State.locate, if_pos inside, Prod.mk.injEq] at hport
  rw [State.locate, if_pos inside, Prod.mk.injEq]
  exact ⟨hport.1, rfl⟩

/-- A load there returns the bytes of memory, and only the access is noted (R172). -/
theorem ScratchAccess.load_eq {n : Nat} (h : ScratchAccess s g 0 va n pa .rd) (hn : 0 < n) (via : Via) :
    ∃ r, s.load s.cur g 0 va n via = .ok (Memory.readList s.mem pa n) { s with reached := r } := by
  obtain ⟨access, -, plain⟩ := h
  have hregion := plain.regionOf_eq hn
  rw [Nat.add_zero] at hregion
  have hdevice : regionOf pa ≠ .dram := by
    rcases hregion with ⟨core, off, hregion, -⟩ | ⟨x, hregion⟩ <;> rw [hregion] <;> nofun
  have hfree : s.portBusy pa n false = false := by
    unfold State.portBusy
    rcases hregion with ⟨core, off, hregion, -, hoff⟩ | ⟨x, hregion⟩
    · rw [hregion]
      simp only [decide_eq_false (Nat.not_le.2 (Nat.lt_trans hoff (by decide : 0x400000 < 0x580000))), Bool.false_and]
    · rw [hregion]
  obtain ⟨r, hreach⟩ := s.reach_eq (core := coreOf s.cur) hdevice
  refine ⟨r, ?_⟩
  have hdrain (wr : Bool) : s.drainFor s.cur pa n wr = .ok () s := State.drainFor_none access.here access.settled
  have hbytes : s.portRead pa n = Memory.readList s.mem pa n := State.portRead_eq_readList fun i hi => plain.portByte_eq hi s
  have hport : s.loadPort s.cur g pa n via = .ok (Memory.readList s.mem pa n) { s with reached := r } := by
    unfold State.loadPort
    rw [hdrain]
    simp only [access.alone, hfree, access.good, hbytes, hreach, Bool.false_eq_true, if_false]
  simp only [State.load, access.port, State.afterSide, access.clear, hdrain, hport, Bool.false_eq_true, if_false]

/-! The lines of a command (R176, R381). -/

/-- Lines that are ordinary accesses pass their checks. -/
theorem State.checkLines_pass {k : Nat} (hlines : ∀ i < k, ScratchAccess s g 0 (va + 64 * i) 64 (pa + 64 * i) .rd)
    (hva : va + 64 * k < 2 ^ 64) : ∃ va', s.checkLines s.cur g va k = ((.pass, va'), s) := by
  induction k generalizing va pa with
  | zero => exact ⟨va, rfl⟩
  | succ k ih =>
    have hcheck : s.check s.cur g 0 va 64 .rd = (.pass, s) := (hlines 0 (Nat.succ_pos k)).access.check_pass
    rw [State.checkLines, hcheck]
    dsimp only
    rw [Nat.mod_eq_of_lt (by omega)]
    refine ih (pa := pa + 64) (fun i hi => ?_) (by omega)
    have hline := hlines (i + 1) (by omega)
    rwa [Nat.mul_succ, Nat.add_comm (64 * i), ← Nat.add_assoc, ← Nat.add_assoc] at hline

/-- Lines that are ordinary accesses are read whole. -/
theorem State.readLines_eq {k : Nat} (hlines : ∀ i < k, ScratchAccess s g 0 (va + 64 * i) 64 (pa + 64 * i) .rd)
    (hva : va + 64 * k < 2 ^ 64) :
    ∃ r, s.readLines s.cur g va k = .ok (Memory.readList s.mem pa (64 * k)) { s with reached := r } := by
  induction k generalizing s va pa with
  | zero => exact ⟨s.reached, rfl⟩
  | succ k ih =>
    obtain ⟨r, hload⟩ := (hlines 0 (Nat.succ_pos k)).load_eq (by decide) .bypass
    rw [Nat.mul_zero, Nat.add_zero, Nat.add_zero] at hload
    obtain ⟨r', hrest⟩ := ih (s := { s with reached := r }) (va := va + 64) (pa := pa + 64) (fun i hi => by
      have hline := (hlines (i + 1) (by omega)).withReached r
      rwa [Nat.mul_succ, Nat.add_comm (64 * i), ← Nat.add_assoc, ← Nat.add_assoc] at hline) (by omega)
    refine ⟨r', ?_⟩
    rw [State.readLines, hload]
    dsimp only
    rw [Nat.mod_eq_of_lt (by omega), hrest]
    dsimp only
    rw [Memory.readList_append, Nat.mul_succ, Nat.add_comm 64]

end

/-! The instruction. -/

/-- A queue named with a bit above 13 has a number of 2^14 or more (R381). -/
theorem fld_above_ne_zero (x : W64) : fld x 14 50 ≠ 0 ↔ 2 ^ 14 ≤ x.toNat := by
  have := x.isLt
  unfold fld bits
  omega

/-- A child handed to its queue stands at its end, is counted by its launch, and leaves memory as it was (R381). -/
theorem State.addKid_eq {s : State} {g : Group} (here : s.group? s.cur = some g) (q : Nat) (bs : List Byte) (d : Reg) :
    let t := s.addKid q s.cur g bs d
    t.group? s.cur = some (g.setReg d 0).advance ∧ SameBytes s t
      ∧ (t.queue q).kids = (s.queue q).kids
        ++ [{ cmd := BitVec.ofNat 2048 (ofBytes bs), parent := g.launch, team := g.team, call := (s.teamOf g).calls.toNat }]
      ∧ ∀ l, s.launch? g.launch = some l → t.launch? g.launch = some { l with children := l.children + 1 } := by
  intro t
  let u := ((s.updQueue q fun x => { x with kids := x.kids
      ++ [{ cmd := BitVec.ofNat 2048 (ofBytes bs), parent := g.launch, team := g.team, call := (s.teamOf g).calls.toNat }] }).updLaunch g.launch
    fun l => { l with children := l.children + 1 }).updTeam g.key fun t => { t with calls := t.calls + 1 }
  have hu : u.group? s.cur = some g := by simp [u, State.updQueue, here]
  have ht : t = u.setGroup s.cur (g.setReg d 0).advance := State.done_eq hu _
  rw [ht]
  refine ⟨State.setGroup_self .., fun a => ?_, ?_, fun l hl => ?_⟩
  · simp [u, State.memByte, State.comByte, State.updQueue]
  · simp [u, State.updQueue]
  · simp [u, State.updQueue, hl]

/-- The queue that `dlaunch` names: that of its launch, or by a register's bits 13:0 (R381). -/
def namedQueue (s : State) (g : Group) (b : Reg) : Nat := if b = 0 then (s.launchOf g).q else (g.reg b).toNat % 2 ^ 14

/-- The launch may not use the queue that it names (R381). -/
def QueueRefused (s : State) (g : Group) (b : Reg) : Prop :=
  (b ≠ 0 ∧ 2 ^ 14 ≤ (g.reg b).toNat) ∨ fld (s.queue (namedQueue s g b)).rcd 0 1 ≠ 1
    ∨ fld (s.queue (namedQueue s g b)).rcd 8 4 ≠ (s.launchOf g).part

/-- What `dlaunch` looks at to refuse its queue. -/
theorem queueRefused_iff (s : State) (g : Group) (b : Reg) : QueueRefused s g b ↔
    ((b != 0 && fld (g.reg b) 14 50 != 0) || fld (s.queue (namedQueue s g b)).rcd 0 1 != 1
      || fld (s.queue (namedQueue s g b)).rcd 8 4 != (s.launchOf g).part) = true := by
  unfold QueueRefused
  rw [← fld_above_ne_zero]
  simp [or_assoc]

theorem not_queueRefused {s : State} {g : Group} {b : Reg} (hname : b = 0 ∨ (g.reg b).toNat < 2 ^ 14)
    (hen : fld (s.queue (namedQueue s g b)).rcd 0 1 = 1) (hpart : fld (s.queue (namedQueue s g b)).rcd 8 4 = (s.launchOf g).part) :
    ¬QueueRefused s g b := by
  rintro (⟨hb, hhigh⟩ | hen' | hpart')
  · exact hname.elim hb (Nat.not_lt.2 hhigh)
  · exact hen' hen
  · exact hpart' hpart

section
variable {s : State} {g : Group} {d a b : Reg} (here : s.group? s.cur = some g) (alone : g.orun = none)
include here alone

theorem dlaunch_misaligned (halign : (g.reg a).toNat % 64 ≠ 0) : StopsS s g (.dlaunch d a b) .align (g.reg a) := by
  change execDlaunch d a b s = _
  rw [execDlaunch, scalar_eq here, settled_eq alone]
  exact if_pos halign

variable (halign : (g.reg a).toNat % 64 = 0)
include halign

theorem dlaunch_refused (hqueue : QueueRefused s g b) : ScalarResult s g (.dlaunch d a b) d 2 := by
  refine .intro ?_
  change execDlaunch d a b s = _
  rw [execDlaunch, scalar_eq here, settled_eq alone]
  refine (if_neg (not_not.2 halign)).trans ((if_pos ((queueRefused_iff s g b).1 hqueue)).trans ?_)
  exact congrArg Host.Outcome.next (State.done_eq here _)

variable (hqueue : ¬QueueRefused s g b)
include hqueue

theorem dlaunch_full (hfull : 1024 ≤ s.childCount (s.launchOf g).part) : ScalarResult s g (.dlaunch d a b) d 1 := by
  refine .intro ?_
  change execDlaunch d a b s = _
  rw [execDlaunch, scalar_eq here, settled_eq alone]
  refine (if_neg (not_not.2 halign)).trans ((if_neg (mt (queueRefused_iff s g b).2 hqueue)).trans ((if_pos hfull).trans ?_))
  exact congrArg Host.Outcome.next (State.done_eq here _)

/-- A command in the team's own scratchpad, of a task without a version and with nothing to be performed, is read and handed to its queue. -/
theorem dlaunch_hands (hroom : s.childCount (s.launchOf g).part < 1024) (hside : s.sideOf s.cur g = [])
    (hversion : (s.teamOf g).version = none) {pa : Nat} (hva : (g.reg a).toNat + 256 < 2 ^ 64)
    (hlines : ∀ i < 4, ScratchAccess s g 0 ((g.reg a).toNat + 64 * i) 64 (pa + 64 * i) .rd) :
    ∃ r, exec (.dlaunch d a b) s
      = .next (({ s with reached := r } : State).addKid (namedQueue s g b) s.cur g (Memory.readList s.mem pa 256) d) := by
  obtain ⟨va', hcheck⟩ := State.checkLines_pass hlines (by omega)
  obtain ⟨r, hread⟩ := State.readLines_eq hlines (by omega)
  have hrelease : s.releaseWait s.cur g .dev = .ok () s :=
    State.relBefore_atOnce (o := .rel) here (hlines 0 (by decide)).access.settled fun _ => ⟨fun _ => hside, fun _ => hversion⟩
  refine ⟨r, ?_⟩
  change execDlaunch d a b s = _
  rw [execDlaunch, scalar_eq here, settled_eq alone]
  refine (if_neg (not_not.2 halign)).trans ((if_neg (mt (queueRefused_iff s g b).2 hqueue)).trans ((if_neg (Nat.not_le.2 hroom)).trans ?_))
  have hpublish : ({ s with reached := r } : State).publishAt g .dev = { s with reached := r } := State.publishAt_none fun _ => hversion
  simp only [hrelease, Rc.intoS, hcheck, hread, hpublish]
  rfl

end

/-- Settles O32: the answers come in the order of R381, and a command that can be read becomes the last child of its queue. -/
theorem deviceLaunch : Obligations.DeviceLaunch := by
  unfold Obligations.DeviceLaunch
  intro s g d a b here alone
  refine ⟨dlaunch_misaligned here alone, dlaunch_refused here alone,
    fun halign hname hen hpart => dlaunch_full here alone halign (not_queueRefused hname hen hpart),
    fun hname hen hpart hroom hside hversion _ pa hva hlines => ?_⟩
  have halign := (hlines 0 (by decide)).access.aligned
  obtain ⟨r, hexec⟩ := dlaunch_hands (d := d) here alone halign (not_queueRefused hname hen hpart) hroom hside hversion hva hlines
  obtain ⟨hgroup, hbytes, hkids, hlaunch⟩ :=
    State.addKid_eq (s := { s with reached := r }) here (namedQueue s g b) (Memory.readList s.mem pa 256) d
  exact ⟨_, _, hexec, hgroup, hbytes, hkids, by rw [ofBytes_readList], rfl, rfl, rfl, hlaunch⟩

end Sys2Proof.Machine
end

section
/-! SUPPORT. Scalar loads and stores whose line takes the place of a clean line that DRAM no longer equals (spec/07 R172, R173, spec/11 R240). -/

namespace Sys2Proof.Machine

/-! Where the accesses lead. -/

/-- In host-assisted mode an access that a held translation permits leads to its frame, A and D set (R318, R320, R324). -/
theorem State.translate_permitted {s : State} {core va pa : Nat} {l : Launch} {leaf : W64} {rw : Rw} (hs : Tbl.sorted s.cores = true)
    (htlb : (s.core core).tlb = [(tlbKey l.asid.toNat va, leaf)]) (assisted : fld (s.part l.part).rcd 80 1 = 1)
    (canonical : bits va 56 8 = 0) (hpred : l.pred = false)
    (hleaf : setBits leaf.toNat 54 3 0 = leaf.toNat ∧ fld leaf 54 3 = 0 ∧ permitted leaf.toNat rw = true
      ∧ bit leaf.toNat 5 = false ∧ tlbLeaf leaf.toNat 0 = leaf)
    (hplace : s.place (leafAddr leaf.toNat 0 va) = some pa) (hreach : s.reachable l.part pa rw = true) (hmoving : s.frameMoving pa = false)
    (touch : Bool) : s.translate core l va rw touch = (.port pa, s) := by
  obtain ⟨hbits, hlevel, hperm, hglobal, hheld⟩ := hleaf
  have hfor (need : Nat) : s.leafFor core l va need false = (.leaf leaf.toNat 0 0, s) := by
    simp [State.leafFor, Core.tlbOf, htlb, Tbl.find, assisted, hbits, hlevel]
  simp [State.translate, canonical, hfor, hperm, hplace, hreach, hpred, hmoving, leafKey, hglobal, hheld, State.holdLeaf_same hs htlb]

/-- Loads and stores of the mapped word lead to it, as its reduction does. -/
theorem unlockFull_locate_as {rw : Rw} (hrw : rw = .rd ∨ rw = .wr) (touch : Bool) :
    unlockFull.locate 0 unlockGroup 0x5000 4 rw touch = (.port 0x40000000, unlockFull) := by
  have houtside : inAperture 0x5000 = false ∧ inTeamWin 0x5000 = false := by decide +kernel
  simp only [State.locate, houtside, Bool.false_eq_true, if_false]
  refine State.translate_permitted (leaf := amoLeaf) (by decide +kernel) (by decide +kernel) (by decide +kernel) (by decide +kernel)
    (by decide +kernel) ?_ (by decide +kernel) ?_ (by decide +kernel) touch
  · rcases hrw with rfl | rfl <;> decide +kernel
  · rcases hrw with rfl | rfl <;> decide +kernel

/-- An access that is an ordinary one as an atomic is one as a load or a store that leads to the same port and meets no watchpoint. -/
theorem Access.of_amo {s : State} {g : Group} {k va n pa : Nat} {rw : Rw} (h : Access s g k va n pa .amo)
    (port : ∀ touch, s.locate s.cur g va n rw touch = (.port pa, s)) (unwatched : s.gwHit s.cur g k va n rw = false) :
    Access s g k va n pa rw :=
  { h with
    port := port
    unwatched := unwatched
    kind := h.kind.imp_right fun device => { device with goes := fun _ => device.goes (by decide) } }

theorem unlockFull_access_as {rw : Rw} (hrw : rw = .rd ∨ rw = .wr) :
    Access unlockFull unlockGroup 0 (unlockGroup.reg 1).toNat 4 0x40000000 rw :=
  unlockFull_access.of_amo (unlockFull_locate_as hrw) (by rcases hrw with rfl | rfl <;> decide +kernel)

/-! The load. -/

/-- A load of committed device memory past the caches fills the LLC and returns what it then holds (R172, R240). -/
theorem State.readDram_bypass {s : State} {core fresh pa n : Nat} {ch : List Nat} (hchain : s.chainHolds ch pa = false)
    (hgood : (s.llcTouch (pa / 64)).bad pa n = false) : s.readDram core ch fresh pa n .bypass
      = ((some ((List.range n).map fun i => (s.llcTouch (pa / 64)).comByte (pa + i)), 0), (s.llcTouch (pa / 64)).refresh core pa) := by
  simp [State.readDram, hchain, cacheByte, Tbl.find, hgood]

/-- A load past the caches whose port answers completes with its bytes (R171, R172). -/
theorem Access.execSld_bypass {s u : State} {g : Group} {d a : Reg} {sz : Size} {off : BitVec 12} {pa : Nat} {bs : List Byte}
    (h : Access s g 0 (effAddr g a off).toNat sz.bytes pa .rd) (hport : s.loadPort s.cur g pa sz.bytes .bypass = .ok bs u) :
    exec (.sld d a sz true off) s
      = .next ((u.monitorFree (coreOf s.cur) (u.launchOf g).part 2).done s.cur fun g => g.setReg d (BitVec.ofNat 64 (ofBytes bs))) := by
  have hdrain : s.drainFor s.cur pa sz.bytes false = .ok () s := State.drainFor_none h.here h.settled
  have hload : s.load s.cur g 0 (effAddr g a off).toNat sz.bytes .bypass = .ok bs u := by
    simp only [State.load, h.port, State.afterSide, h.clear, hdrain, hport, Bool.false_eq_true, if_false]
  change execSld d a sz true off s = _
  rw [execSld, scalar_eq h.here]
  simp only [h.aligned, ne_eq, not_true, if_false, h.room rfl, Bool.not_true, Bool.false_eq_true, h.check_pass, if_true, hload, Rc.intoS]

/-- No live prediction has a read to remember (R389). -/
theorem State.markRead_decided {s : State} {g : Group} {pa n : Nat} (h : ((s.launchOf g).pred && (s.launchOf g).live) = false) :
    s.markRead g pa n = s := by
  unfold State.markRead
  dsimp only
  rw [h]
  rfl

/-- A load of committed device memory past the caches, with nothing of its group in flight and nothing that watches levels, answers what the
LLC holds once it has the line (R172, R240). -/
theorem State.loadPort_bypass {s u : State} {gid pa n : Nat} {g : Group} (here : s.group? gid = some g) (settled : g.posted = [])
    (alone : g.orun = none) (hregion : regionOf pa = .dram) (quiet : s.observed (coreOf gid) = false)
    (hchain : s.chainHolds (s.chainOf (s.teamOf g) (s.launchOf g)) pa = false) (htouch : s.llcTouch (pa / 64) = u) (hgood : u.bad pa n = false)
    (quiet' : (u.refresh (coreOf gid) pa).observed (coreOf gid) = false)
    (decided : (((u.refresh (coreOf gid) pa).launchOf g).pred && ((u.refresh (coreOf gid) pa).launchOf g).live) = false) :
    s.loadPort gid g pa n .bypass = .ok ((List.range n).map fun i => u.comByte (pa + i)) (u.refresh (coreOf gid) pa) := by
  subst htouch
  simp only [State.loadPort, State.drainFor_none here settled, hregion, State.levelAt, quiet, Bool.false_eq_true, if_false,
    State.readDram_bypass hchain hgood, alone, State.markRead_decided decided, State.reachAt, quiet']

theorem unlockFull_loadPort : unlockFull.loadPort 0 unlockGroup 0x40000000 4 .bypass
    = .ok ((List.range 4).map fun i => unlockEvicted.comByte (0x40000000 + i)) (unlockEvicted.refresh 0 0x40000000) :=
  State.loadPort_bypass rfl rfl rfl (by decide +kernel) (by decide +kernel) (by decide +kernel) unlockFull_llcTouch (by decide +kernel)
    (by decide +kernel) (by decide +kernel)

theorem unlockFull_sld_access : Access unlockFull unlockGroup 0 (effAddr unlockGroup 1 0).toNat Size.w.bytes 0x40000000 .rd := by
  rw [show effAddr unlockGroup 1 0 = unlockGroup.reg 1 by decide +kernel]
  exact unlockFull_access_as (.inl rfl)

/-- The load changes the byte beside its line. -/
theorem unlockFull_load_stale_lost {t : State} (h : exec (.sld 2 1 .w true 0) unlockFull = .next t) :
    t.memByte (64 * staleLine) ≠ unlockFull.memByte (64 * staleLine) := by
  have hexec := unlockFull_sld_access.execSld_bypass (d := 2) unlockFull_loadPort
  injection hexec.symm.trans h with h
  rw [← h, State.done_memByte]
  decide +kernel

/-- Refutes O18: where the home LLC is full, the line that a load of device memory fills takes the place of another, and a clean one that DRAM
no longer equals (R240) leaves it without a write-back. The byte of that line, which the load does not touch, then reads as DRAM has it. -/
theorem not_scratchLoads : ¬ Obligations.ScratchLoads := by
  unfold Obligations.ScratchLoads
  intro h
  obtain ⟨hload, -⟩ := h unlockFull unlockGroup 2 1 0x40000000
  obtain ⟨⟨v, t, hexec, -, -, -, hbytes⟩, -⟩ := hload .w true 0 unlockFull_sld_access
  exact unlockFull_load_stale_lost hexec (hbytes _)

/-! The store. -/

/-- Where the home LLC is full, the one line that stands there leaves it for another (R240). -/
theorem fullLlc_llcRoom : fullLlc.llcRoom 0x1000000 = fullLlc.llcEvict staleLine := by
  have hfilter : fullLlc.llc.filter (fun e => homeDie (64 * e.1) == homeDie (64 * 0x1000000)) = [(staleLine, { data := 1 })] := by decide +kernel
  have hdie : homeDie (64 * 0x1000000) = 0 := by decide +kernel
  unfold State.llcRoom
  simp only [hfilter]
  rw [hdie, State.dieLines_llcFillers (n := 6291456) rfl]
  simp [Nat.mod_one]

/-- The state once the stale line has left for the line of the store, whose first byte has been written: of the word 0. -/
def storeEvicted : State :=
  { unlockFull with llc := [(0x1000000, { dirty := true, data := lineSet (unlockFull.dramLine 0x1000000) 0 [0] })] }

/-- A byte written at its home where no line stands brings the line into the LLC (R239). -/
theorem State.comSet_absent {s : State} {pa : Nat} (absent : Tbl.find s.llc (pa / 64) = none) (b : Byte) :
    let r := s.llcRoom (pa / 64)
    s.comSet pa b = { r with llc := Tbl.put r.llc (pa / 64) { dirty := true, data := lineSet (s.dramLine (pa / 64)) (pa % 64) [b] } } := by
  simp [State.comSet, State.llcPut, absent]

theorem unlockFull_portPut : unlockFull.portPut 0x40000000 [0, 0, 0, 0] = storeEvicted.portPut 0x40000001 [0, 0, 0] := by
  have hregion : regionOf 0x40000000 = .dram := by decide +kernel
  have hroom : unlockFull.llcRoom 0x1000000 = (fullLlc.llcEvict staleLine).setGroup 0 unlockGroup := by
    rw [unlockFull, State.llcRoom_setGroup, fullLlc_llcRoom]
  have hfirst : unlockFull.portSet 0x40000000 0 = storeEvicted := by
    simp only [State.portSet, hregion]
    rw [State.comSet_absent (by decide +kernel), show 0x40000000 / 64 = 0x1000000 from rfl, hroom]
    rfl
  rw [State.portPut, hfirst]

/-- A store into committed memory writes its bytes at the port, and the caches and the record of writes follow (R236, R334). -/
theorem State.writePort_committed {s : State} {core va pa key : Nat} {who : Option Nat} (bs : List Byte) (hregion : regionOf pa = .dram)
    (hplain : ((s.launch? (key / 2 ^ 32)).getD {}).desc.cls = 1) (hparent : ((s.launch? (key / 2 ^ 32)).getD {}).taskParent = none) :
    s.writePort core who key va pa bs = .ok () ((((s.portPut pa bs).snoop core pa bs true).note
      { pa := pa, len := bs.length, who := who, launch := key / 2 ^ 32, committed := true }).unstallLog who (key / 2 ^ 32)) := by
  have htarget : s.target who key pa false 1 1 = .ok none s := by
    simp only [State.target, hplain, hparent, decide_true, Bool.true_or, if_true]
  simp only [State.writePort, hregion, State.writeFor, htarget]

/-- A relaxed ordered store whose port takes it completes, where nothing watches levels and no lock request waits (R246). -/
theorem Access.execSsto_relaxed {s t : State} {g : Group} {a b : Reg} {sc : Scope} {w : Bool} {pa : Nat}
    (h : Access s g 0 (g.reg a).toNat (wBytes w) pa .wr) (quiet : s.observed (coreOf s.cur) = false)
    (hwrite : s.writePort (coreOf s.cur) (some s.cur) g.key (g.reg a).toNat pa (toBytes (wBytes w) (g.reg b).toNat) = .ok () t)
    (unlocked : t.locks = []) : exec (.ssto a b .rlx sc w) s = .next (t.done s.cur id) := by
  have hreach : s.reach (coreOf s.cur) pa = s := by simp [State.reach, State.levelAt, State.reachAt, quiet]
  have hdrain : s.drainFor s.cur pa (wBytes w) true = .ok () s := State.drainFor_none h.here h.settled
  have hgrant : t.grantAll = t := if_pos (by rw [unlocked]; rfl)
  have hstore : s.store s.cur g 0 (g.reg a).toNat (toBytes (wBytes w) (g.reg b).toNat) (carried .rlx sc) = .ok () t := by
    simp only [State.store, toBytes_length, h.port, State.afterSide, h.clear, hdrain, h.alone, hreach, hwrite, Rc.grant, hgrant,
      Bool.false_eq_true, if_false]
  change execSsto a b .rlx sc w s = _
  rw [execSsto_eq, ordered, scalar_eq h.here]
  simp only [overWide, h.alone, Option.isSome_none, Bool.false_and, Bool.and_false, Bool.false_eq_true, if_false, h.aligned, ne_eq, not_true,
    h.room rfl, Bool.not_true, Bool.not_false, h.check_pass, retireOrdered, State.relBefore, State.ordAfter, hstore, Rc.intoS, Order.releases,
    Order.acquires]

/-- The state once the store has been performed. -/
def storeDone : State :=
  (((storeEvicted.portPut 0x40000001 [0, 0, 0]).snoop 0 0x40000000 [0, 0, 0, 0] true).note
    { pa := 0x40000000, len := 4, who := some 0, launch := unlockGroup.key / 2 ^ 32, committed := true }).unstallLog (some 0) (unlockGroup.key / 2 ^ 32)

theorem unlockFull_writePort : unlockFull.writePort 0 (some 0) unlockGroup.key (unlockGroup.reg 1).toNat 0x40000000 [0, 0, 0, 0]
    = .ok () storeDone := by
  rw [State.writePort_committed _ (by decide +kernel) (by decide +kernel) (by decide +kernel), unlockFull_portPut]
  rfl

theorem unlockFull_ssto : exec (.ssto 1 0 .rlx .grp false) unlockFull = .next (storeDone.done 0 id) :=
  Access.execSsto_relaxed (w := false) (unlockFull_access_as (.inr rfl)) (by decide +kernel) unlockFull_writePort (by decide +kernel)

/-- The store changes the byte beside its line. -/
theorem storeDone_stale_lost : storeDone.memByte (64 * staleLine) ≠ unlockFull.memByte (64 * staleLine) := by decide +kernel

/-- Refutes O19: where the home LLC is full, the line of a store into device memory takes the place of another, and a clean one that DRAM no
longer equals (R240) leaves it without a write-back. The byte of that line, which the store does not touch, then reads as DRAM has it. -/
theorem not_scratchStores : ¬ Obligations.ScratchStores := by
  unfold Obligations.ScratchStores
  intro h
  obtain ⟨-, hordered⟩ := h unlockFull unlockGroup 0 1 0x40000000
  have hfree : ReleasesAtOnce unlockFull unlockGroup .rlx .grp := fun hrel => absurd hrel (by decide)
  obtain ⟨t, hexec, -, -, -, -, -, hbytes⟩ := hordered .rlx .grp false hfree (unlockFull_access_as (.inr rfl))
  have hcommitted : (unlockFull.taskHead unlockGroup).isSome = false := by decide +kernel
  rw [hcommitted, if_neg (by simp)] at hbytes
  injection unlockFull_ssto.symm.trans hexec with ht
  have hstale := hbytes (64 * staleLine) (.inr (by decide +kernel))
  rw [← ht, State.done_memByte] at hstale
  exact storeDone_stale_lost hstale

end Sys2Proof.Machine
end

section
/-! SUPPORT. Barrier objects at their ports (spec/10 R212): the fields of an object's word, the word that stands there after a write, and
Complete where nobody waits (R215). -/

namespace Sys2Proof.Machine

/-! Fields of numbers. -/

/-- A field reads as it was written. -/
theorem bits_setBits_self (x lo len v : Nat) : bits (setBits x lo len v) lo len = v % 2 ^ len := by
  refine Nat.eq_of_testBit_eq fun j => ?_
  rw [testBit_bits, testBit_setBits, Nat.testBit_mod_two_pow, Nat.add_sub_cancel_left]
  by_cases hj : j < len
  · rw [if_pos (by omega)]
  · rw [decide_eq_false hj, Bool.false_and, Bool.false_and]

/-- A write of a field leaves another as it is. -/
theorem bits_setBits_other {x lo len v lo' len' : Nat} (hapart : lo' + len' ≤ lo ∨ lo + len ≤ lo') :
    bits (setBits x lo len v) lo' len' = bits x lo' len' := by
  refine Nat.eq_of_testBit_eq fun j => ?_
  rw [testBit_bits, testBit_bits, testBit_setBits]
  by_cases hj : j < len'
  · rw [if_neg (by omega)]
  · rw [decide_eq_false hj, Bool.false_and, Bool.false_and]

/-- A field reads the same in the bytes that hold it. -/
theorem bits_mod_bytes {x n lo len : Nat} (hfit : lo + len ≤ 8 * n) : bits (x % 256 ^ n) lo len = bits x lo len := by
  have hpow : 256 ^ n = 2 ^ (8 * n) := (Nat.pow_mul 2 8 n).symm
  refine Nat.eq_of_testBit_eq fun j => ?_
  rw [testBit_bits, testBit_bits, hpow, Nat.testBit_mod_two_pow]
  by_cases hj : j < len
  · rw [decide_eq_true (show lo + j < 8 * n by omega), Bool.true_and]
  · rw [decide_eq_false hj, Bool.false_and, Bool.false_and]

theorem bit_eq_bits (x i : Nat) : bit x i = (bits x i 1 == 1) := rfl

/-- No bit of a field that reads zero is set. -/
theorem bit_of_bits_zero {x lo len i : Nat} (h : bits x lo len = 0) (hi : i < len) : bit x (lo + i) = false := by
  have hbit := testBit_bits x lo len i
  rw [h, Nat.zero_testBit, decide_eq_true hi, Bool.true_and] at hbit
  rw [bit_eq_testBit, ← hbit]

/-! Bytes of ordinary memory outside device memory, written. -/

theorem Memory.writeList_toBytes (m : Memory) (a n v : Nat) : Memory.writeList m a (toBytes n v) = Memory.write m a n v := by
  induction n generalizing m a v with
  | zero => rfl
  | succ n ih => exact ih _ _ _

/-- A byte written there is a byte of memory. -/
theorem PlainMemory.portSet_eq {pa n i : Nat} (h : PlainMemory pa n) (hi : i < n) (s : State) (b : Byte) :
    s.portSet (pa + i) b = { s with mem := Memory.setByte s.mem (pa + i) b } := by
  unfold State.portSet
  rcases h.regionOf_eq hi with ⟨core, off, hregion, hpa, hoff⟩ | ⟨x, hregion⟩
  · rw [hregion, hpa]
    exact if_pos hoff
  · rw [hregion]

theorem State.portPut_eq_writeList {s : State} {pa : Nat} {bs : List Byte}
    (h : ∀ i < bs.length, ∀ (u : State) (b : Byte), u.portSet (pa + i) b = { u with mem := Memory.setByte u.mem (pa + i) b }) :
    s.portPut pa bs = { s with mem := Memory.writeList s.mem pa bs } := by
  induction bs generalizing s pa with
  | nil => rfl
  | cons b r ih =>
    have hfirst : s.portSet pa b = { s with mem := Memory.setByte s.mem pa b } := h 0 (Nat.succ_pos _) s b
    rw [State.portPut, Memory.writeList, hfirst, ih fun i hi => ?_]
    · rw [Nat.add_assoc, Nat.add_comm 1 i]
      exact h (i + 1) (Nat.succ_lt_succ hi)

/-! The word of an object. -/

/-- The word that an object holds once a word has been written to it: reserved bits are written as zero (R212). -/
def objWord (w : Nat) : Nat := setBits w 35 13 0 % 256 ^ 64

/-- A field of an object outside the reserved bits reads as it was written. -/
theorem bits_objWord (w : Nat) {lo len : Nat} (hin : lo + len ≤ 35 ∨ 48 ≤ lo) (hfit : lo + len ≤ 512) : bits (objWord w) lo len = bits w lo len := by
  rw [objWord, bits_mod_bytes hfit, bits_setBits_other hin]

@[simp] theorem oPhase_objWord (w : Nat) : oPhase (objWord w) = oPhase w := bits_objWord w (by decide) (by decide)
@[simp] theorem oDrops_objWord (w : Nat) : oDrops (objWord w) = oDrops w := bits_objWord w (by decide) (by decide)
@[simp] theorem oExpect_objWord (w : Nat) : oExpect (objWord w) = oExpect w := bits_objWord w (by decide) (by decide)
@[simp] theorem oArrived_objWord (w : Nat) : oArrived (objWord w) = oArrived w := bits_objWord w (by decide) (by decide)
@[simp] theorem oXbytes_objWord (w : Nat) : oXbytes (objWord w) = oXbytes w := bits_objWord w (by decide) (by decide)
@[simp] theorem oLanded_objWord (w : Nat) : oLanded (objWord w) = oLanded w := bits_objWord w (by decide) (by decide)

theorem bit_objWord (w : Nat) {i : Nat} (hin : i < 35 ∨ 48 ≤ i) (hfit : i < 512) : bit (objWord w) i = bit w i := by
  rw [bit_eq_bits, bit_eq_bits, bits_objWord w (by omega) (by omega)]

@[simp] theorem oBytes_objWord (w : Nat) : oBytes (objWord w) = oBytes w := bit_objWord w (by decide) (by decide)
@[simp] theorem oTdm_objWord (w : Nat) : oTdm (objWord w) = oTdm w := bit_objWord w (by decide) (by decide)

@[simp] theorem canComplete_objWord (w : Nat) : canComplete (objWord w) = canComplete w := by simp [canComplete]

section
variable {pa : Nat} (plain : PlainMemory pa 64)
include plain

theorem PlainMemory.obj_eq (s : State) : s.obj pa = Memory.read s.mem pa 64 := by
  rw [State.obj, State.portRead_eq_readList fun i hi => plain.portByte_eq hi s, ofBytes_readList]

theorem PlainMemory.setObj_eq (s : State) (w : Nat) :
    s.setObj pa w = { s with mem := Memory.write s.mem pa 64 (setBits w 35 13 0) } := by
  rw [State.setObj, State.portPut_eq_writeList fun i hi u b => plain.portSet_eq (toBytes_length 64 _ ▸ hi) u b, Memory.writeList_toBytes]

theorem PlainMemory.obj_setObj (s : State) (w : Nat) : (s.setObj pa w).obj pa = objWord w := by
  rw [plain.obj_eq, plain.setObj_eq, Memory.read_write]
  rfl

/-- A write of an object changes no byte outside it. -/
theorem PlainMemory.setObj_outside (s : State) (w : Nat) : BytesOutside s (s.setObj pa w) pa 64 := by
  intro a ha
  have hbyte := Memory.byte_write_outside s.mem pa 64 (setBits w 35 13 0) a ha
  rw [plain.setObj_eq]
  unfold State.memByte State.comByte
  simp only [hbyte]

/-- The word of an object does not rest on the groups. -/
theorem PlainMemory.obj_setGroup (s : State) (k : Nat) (g : Group) : (s.setGroup k g).obj pa = s.obj pa := by
  rw [plain.obj_eq, plain.obj_eq, State.setGroup_mem]

theorem PlainMemory.groups_setObj (s : State) (w : Nat) : (s.setObj pa w).groups = s.groups := by rw [plain.setObj_eq]

end

/-! Objects of a team. -/

section
variable {s : State} {g : Group} {va : W64} {rw : Rw} {o : ObjRef} (object : ScratchObject s g va rw o)
include object

theorem ScratchObject.plain : PlainMemory o.pa 64 := .inl object.chip

end

/-- An object bears the name of its team (R212). -/
theorem State.objCheck_key {s : State} {gid va : Nat} {g : Group} {rw : Rw} {o : ObjRef} (h : s.objCheck gid g va rw = .ok o) :
    o.key = g.key := by
  rw [State.objCheck] at h
  generalize scratchLoc (s.teamOf g) (va - aperture) 64 = loc at h
  generalize (if va - aperture < 0x400000 then (s.teamOf g).core else (s.teamOf g).core + 1) = holder at h
  cases loc with
  | port pa =>
    simp only at h
    split_ifs at h
    cases h
    rfl
  | _ => simp only at h; split_ifs at h

/-! Complete where nobody waits (R215). -/

/-- No group is blocked, and none overreaches. -/
def State.Quiet (s : State) : Prop := ∀ e ∈ s.groups, e.2.blocked = none ∧ e.2.orun = none

theorem State.Quiet.setGroup {s : State} (quiet : s.Quiet) (k : Nat) {g : Group} (hblocked : g.blocked = none) (halone : g.orun = none) :
    (s.setGroup k g).Quiet := by
  intro e he
  rcases Tbl.mem_put _ _ _ _ he with rfl | he
  · exact ⟨hblocked, halone⟩
  · exact quiet e he

theorem State.Quiet.heldAt {s : State} (quiet : s.Quiet) (o : ObjRef) : s.heldAt o = [] := by
  refine List.eq_nil_iff_forall_not_mem.2 fun e he => ?_
  have hmem : e ∈ s.groups := by
    simp only [State.heldAt, State.groupsOf, List.mem_append, List.mem_filter] at he
    rcases he with ⟨⟨⟨hmem, -⟩, -⟩, -⟩ | ⟨⟨⟨hmem, -⟩, -⟩, -⟩ <;> exact hmem
  simp [State.heldAt, (quiet e hmem).1] at he

theorem State.Quiet.endOvers {s : State} (quiet : s.Quiet) (o : ObjRef) (w : Nat) : s.endOvers o w = s := by
  refine (congrArg (List.foldl _ s) (List.filter_eq_nil_iff.2 fun e he => ?_)).trans rfl
  rw [(quiet e (List.mem_filter.1 he).1).2]
  exact Bool.false_ne_true

/-- A phase that cannot complete stays (R215). -/
theorem State.Quiet.evaluate_open {s : State} (quiet : s.Quiet) {o : ObjRef} (hopen : canComplete (s.obj o.pa) = false) :
    s.evaluate o = s := by
  rw [State.evaluate_of_none_held (quiet.heldAt o), State.complete1]
  dsimp only
  rw [hopen]
  rfl

/-- A phase that can complete does, and its object is written (R215). -/
theorem State.Quiet.evaluate_complete {s : State} (quiet : s.Quiet) {o : ObjRef} (plain : PlainMemory o.pa 64)
    (hcan : canComplete (s.obj o.pa) = true) (hnobody : bits (s.obj o.pa) 256 256 = 0) :
    s.evaluate o = s.setObj o.pa (completed (s.obj o.pa)) := by
  have quiet' : (s.setObj o.pa (completed (s.obj o.pa))).Quiet := by
    unfold State.Quiet
    rw [plain.groups_setObj]
    exact quiet
  rw [State.evaluate_of_none_held (quiet.heldAt o)]
  refine State.complete1_of_no_waiter hcan ?_ (quiet'.heldAt o) (quiet'.endOvers o _)
  refine List.filter_eq_nil_iff.2 fun b hb => ?_
  rw [bit_of_bits_zero hnobody (List.mem_range.1 hb)]
  exact Bool.false_ne_true

/-- Where nobody waits, Complete changes the object alone (R215). -/
theorem State.Quiet.evaluate_frame {s : State} (quiet : s.Quiet) {o : ObjRef} (plain : PlainMemory o.pa 64)
    (hnobody : canComplete (s.obj o.pa) = true → bits (s.obj o.pa) 256 256 = 0) :
    (s.evaluate o).groups = s.groups ∧ BytesOutside s (s.evaluate o) o.pa 64
      ∧ (s.evaluate o).obj o.pa = if canComplete (s.obj o.pa) then objWord (completed (s.obj o.pa)) else s.obj o.pa := by
  cases hcan : canComplete (s.obj o.pa) with
  | false =>
    rw [quiet.evaluate_open hcan, if_neg Bool.false_ne_true]
    exact ⟨rfl, fun _ _ => rfl, rfl⟩
  | true =>
    rw [quiet.evaluate_complete plain hcan (hnobody hcan), if_pos rfl]
    exact ⟨plain.groups_setObj _ _, plain.setObj_outside _ _, plain.obj_setObj _ _⟩

/-- What stands once an object has been written, its writer has become another, and Complete has been evaluated (R215). -/
structure ObjectWritten (s t : State) (o : ObjRef) (g : Group) (x : Nat) : Prop where
  here : t.group? s.cur = some g
  others : ∀ j, j ≠ s.cur → t.group? j = s.group? j
  outside : BytesOutside s t o.pa 64
  word : t.obj o.pa = if canComplete x then objWord (completed (objWord x)) else objWord x

theorem State.Quiet.evaluate_written {s : State} (quiet : s.Quiet) {o : ObjRef} (plain : PlainMemory o.pa 64) {g : Group} (x : Nat)
    (hblocked : g.blocked = none) (halone : g.orun = none) (hnobody : canComplete x = true → bits x 256 256 = 0) :
    ObjectWritten s (((s.setObj o.pa x).setGroup s.cur g).evaluate o) o g x := by
  have hgroups : (s.setObj o.pa x).groups = s.groups := plain.groups_setObj s x
  have houtside : BytesOutside s (s.setObj o.pa x) o.pa 64 := plain.setObj_outside s x
  have hobj : ((s.setObj o.pa x).setGroup s.cur g).obj o.pa = objWord x := (plain.obj_setGroup _ _ _).trans (plain.obj_setObj s x)
  generalize s.setObj o.pa x = u at *
  have quietU : (u.setGroup s.cur g).Quiet := State.Quiet.setGroup (fun e he => quiet e (hgroups ▸ he)) s.cur hblocked halone
  have hother (j : Nat) (hj : j ≠ s.cur) : (u.setGroup s.cur g).group? j = s.group? j :=
    (State.setGroup_other _ _ _ _ hj).trans (congrArg (Tbl.find · j) hgroups)
  obtain ⟨hgroups', houtside', hword⟩ := quietU.evaluate_frame plain (by
    rw [hobj, canComplete_objWord, bits_objWord x (.inr (by decide)) (by decide)]
    exact hnobody)
  rw [hobj, canComplete_objWord] at hword
  exact ⟨(congrArg (Tbl.find · s.cur) hgroups').trans (State.setGroup_self _ _ _), fun j hj => (congrArg (Tbl.find · j) hgroups').trans (hother j hj),
    fun a ha => (houtside' a ha).trans (houtside a ha), hword⟩

end Sys2Proof.Machine
end

section
/-! SUPPORT. Barrier instructions on an object where nobody waits (spec/10 R215-R223). -/

namespace Sys2Proof.Machine

/-! The words that the instructions write. -/

/-- A field that is zero already is written as it is. -/
theorem setBits_zero {x lo len : Nat} (h : bits x lo len = 0) : setBits x lo len 0 = x := by simp [setBits, h]

/-- The word of `binit` (R221): FLAGS and EXPECT, all else zero. -/
def initWord (f e : Nat) : Nat := f * 2 ^ 32 + e * 2 ^ 64

theorem objWord_initWord {f : Nat} (hf : f < 8) (e : Nat) : objWord (initWord f e) = initWord f e % 256 ^ 64 := by
  have hreserved : bits (initWord f e) 35 13 = 0 := by
    unfold bits initWord
    omega
  rw [objWord, setBits_zero hreserved]

theorem canComplete_initWord {f e : Nat} (hf : f < 8) (he : e < 2 ^ 32) (hne : e ≠ 0) : canComplete (initWord f e) = false := by
  have hexpect : oExpect (initWord f e) = e := by
    unfold oExpect bits initWord
    omega
  have harrived : oArrived (initWord f e) = 0 := by
    unfold oArrived bits initWord
    omega
  rw [canComplete, hexpect, harrived, beq_false_of_ne hne.symm, Bool.false_and]

section
variable (w : Nat) (drop : Bool)

/-- Of the fields of an object an arrival changes ARRIVED and DROPS alone (R216). -/
theorem bits_countArrival {lo len : Nat} (hdrops : lo + len ≤ 48 ∨ 64 ≤ lo) (harrived : lo + len ≤ 96 ∨ 128 ≤ lo) :
    bits (countArrival w drop) lo len = bits w lo len := by
  unfold countArrival
  split <;> split <;> simp [bits_setBits_other, hdrops, harrived]

theorem oPhase_countArrival : oPhase (countArrival w drop) = oPhase w := bits_countArrival w drop (by decide) (by decide)
theorem oExpect_countArrival : oExpect (countArrival w drop) = oExpect w := bits_countArrival w drop (by decide) (by decide)

/-- An arrival at an object that expects any counts in ARRIVED (R216). -/
theorem oArrived_countArrival (hexpect : oExpect w ≠ 0) : oArrived (countArrival w drop) = (oArrived w + 1) % 2 ^ 32 := by
  unfold countArrival oArrived
  rw [if_neg hexpect]
  split
  · rw [bits_setBits_other (by decide), bits_setBits_self]
  · rw [bits_setBits_self]

/-- A drop counts in DROPS, up to its largest value (R216). -/
theorem oDrops_countArrival (hexpect : oExpect w ≠ 0) :
    oDrops (countArrival w drop) = if drop then min 0xFFFF (oDrops w + 1) else oDrops w := by
  have hother (v : Nat) : oDrops (setBits w 96 32 v) = oDrops w := bits_setBits_other (by decide)
  unfold countArrival
  rw [if_neg hexpect]
  dsimp only
  rw [hother]
  cases drop
  · exact hother _
  · exact (bits_setBits_self _ 48 16 _).trans (Nat.mod_eq_of_lt (by omega))

/-- The fields of an object after a phase has completed (R215). -/
theorem completed_fields : oPhase (completed w) = (oPhase w + 1) % 2 ^ 32 ∧ oArrived (completed w) = 0 ∧ oDrops (completed w) = 0
    ∧ oXbytes (completed w) = 0 ∧ oLanded (completed w) = 0 ∧ oExpect (completed w) = oExpect w - oDrops w := by
  have hflags : bits w 32 3 < 2 ^ 3 := bits_lt w 32 3
  have hexpect : oExpect w < 2 ^ 32 := bits_lt w 64 32
  have hleft : (if oExpect w ≤ oDrops w then 0 else oExpect w - oDrops w) = oExpect w - oDrops w := by
    split <;> omega
  have hword : completed w = (oPhase w + 1) % 2 ^ 32 + bits w 32 3 * 2 ^ 32 + (oExpect w - oDrops w) * 2 ^ 64 := by
    rw [completed, hleft]
  have hnext : (oPhase w + 1) % 2 ^ 32 < 2 ^ 32 := Nat.mod_lt _ (by decide)
  have hstill : oExpect w - oDrops w < 2 ^ 32 := by omega
  rw [hword]
  generalize oExpect w - oDrops w = e, (oPhase w + 1) % 2 ^ 32 = n, bits w 32 3 = f at *
  unfold oPhase oArrived oDrops oXbytes oLanded oExpect bits
  refine ⟨?_, ?_, ?_, ?_, ?_, ?_⟩ <;> omega

end

/-! The instructions. -/

section
variable {s : State} {g : Group} {a : Reg} {o : ObjRef} (object : ScratchObject s g (g.reg a) .amo o) (quiet : s.Quiet)
include object

theorem ScratchObject.execBexp (b : Reg) :
    exec (.bexp a b) s = .next (((s.setObj o.pa (setBits (s.obj o.pa) 128 64 (oXbytes (s.obj o.pa) + (g.reg b).toNat))).done s.cur id).evaluate o) := by
  change Machine.execBexp a b s = _
  rw [Machine.execBexp, scalar_eq object.here, settled_eq object.alone, object.check]

theorem ScratchObject.execBinit (b : Reg) (f : BitVec 3) (hnobody : bits (s.obj o.pa) 256 256 = 0) :
    exec (.binit a b f) s = .next (((s.setObj o.pa (initWord f.toNat ((g.reg b).toNat % 2 ^ 32))).done s.cur id).evaluate o) := by
  have hlisted : (List.range 256).filter (fun i => bit (s.obj o.pa) (256 + i)) = [] := by
    refine List.filter_eq_nil_iff.2 fun i hi => ?_
    rw [bit_of_bits_zero hnobody (List.mem_range.1 hi)]
    exact Bool.false_ne_true
  change Machine.execBinit a b f s = _
  rw [Machine.execBinit, scalar_eq object.here, settled_eq object.alone, object.check]
  simp only [hlisted]
  rfl

/-- An arrival that the phase can take, of a group with nothing still to be performed (R216, R222). -/
theorem ScratchObject.arrive_eq (d : Reg) (drop : Bool) (hside : s.sideOf s.cur g = [])
    (hroom : oExpect (s.obj o.pa) = 0 ∨ oArrived (s.obj o.pa) ≠ oExpect (s.obj o.pa)) :
    let w := s.obj o.pa
    let last := (oPhase w + 2 ^ 32 - 1) % 2 ^ 32
    let t := ((s.setObj o.pa (countArrival w drop)).done s.cur (fun g => g.setReg d (BitVec.ofNat 64 (oPhase w)))).evaluate o
    arrive d a drop s = .next (if oExpect w = 0 && s.zero.contains (o.pa, last) then s.done s.cur (fun g => g.setReg d (BitVec.ofNat 64 last))
      else if oExpect w = 0 && oPhase (t.obj o.pa) != oPhase w then { t with zero := t.zero ++ [(o.pa, oPhase w)] } else t) := by
  have hrelease : s.releaseWait s.cur g .team = .ok () s :=
    State.relBefore_atOnce (o := .rel) object.here object.settled fun _ => ⟨fun _ => hside, fun hwide => absurd hwide (by decide)⟩
  have htakes : (decide (oExpect (s.obj o.pa) ≠ 0) && decide (oArrived (s.obj o.pa) = oExpect (s.obj o.pa))) = false := by
    rcases hroom with hzero | hne
    · simp [hzero]
    · simp [hne]
  intro w last t
  rw [arrive, scalar_eq object.here, settled_eq object.alone, object.check]
  simp only [hrelease, Rc.intoS, htakes, Bool.false_eq_true, if_false]
  split <;> rfl

include quiet

theorem ScratchObject.idle : g.blocked = none := (quiet _ (Tbl.mem_of_find _ _ _ object.here)).1

/-- The state that an instruction leaves which writes the object and goes on. -/
theorem ScratchObject.written (f : Group → Group) (x : Nat) (hidle : (f g).blocked = none) (halone : (f g).orun = none)
    (hnobody : canComplete x = true → bits x 256 256 = 0) :
    ObjectWritten s (((s.setObj o.pa x).done s.cur f).evaluate o) o (f g).advance x := by
  have here : (s.setObj o.pa x).group? s.cur = some g := (congrArg (Tbl.find · s.cur) (object.plain.groups_setObj s x)).trans object.here
  rw [State.done_eq here]
  exact quiet.evaluate_written object.plain x hidle halone hnobody

end

/-- What is known of the phases that completed with EXPECT 0 is no part of the object. -/
theorem ObjectWritten.withZero {s t : State} {o : ObjRef} {g : Group} {x : Nat} (ht : ObjectWritten s t o g x) (plain : PlainMemory o.pa 64)
    (z : List (Nat × Nat)) : ObjectWritten s { t with zero := z } o g x := by
  refine ⟨ht.here, ht.others, ht.outside, ?_⟩
  rw [plain.obj_eq, ← ht.word, plain.obj_eq]

section
variable {s t : State} {o : ObjRef} {g : Group} {w : Nat} {drop : Bool} (ht : ObjectWritten s t o g (countArrival w drop))
include ht

/-- An arrival with others still to come is counted, and the phase stays (R216). -/
theorem ObjectWritten.counted (hexpect : oExpect w ≠ 0) (hmore : oArrived w + 1 < oExpect w) :
    oArrived (t.obj o.pa) = oArrived w + 1 ∧ oPhase (t.obj o.pa) = oPhase w ∧ oExpect (t.obj o.pa) = oExpect w
      ∧ oDrops (t.obj o.pa) = if drop then min 0xFFFF (oDrops w + 1) else oDrops w := by
  have hbound : oExpect w < 2 ^ 32 := bits_lt w 64 32
  have harrived : oArrived (countArrival w drop) = oArrived w + 1 :=
    (oArrived_countArrival w drop hexpect).trans (Nat.mod_eq_of_lt (by omega))
  have hopen : canComplete (countArrival w drop) = false := by
    rw [canComplete, harrived, oExpect_countArrival, beq_false_of_ne (Nat.ne_of_lt hmore), Bool.false_and]
  have hword := ht.word
  rw [hopen, if_neg Bool.false_ne_true] at hword
  rw [hword, oArrived_objWord, oPhase_objWord, oExpect_objWord, oDrops_objWord]
  exact ⟨harrived, oPhase_countArrival w drop, oExpect_countArrival w drop, oDrops_countArrival w drop hexpect⟩

/-- An arrival after which the phase can complete completes it (R215). -/
theorem ObjectWritten.phased (hcan : canComplete (countArrival w drop) = true) :
    oPhase (t.obj o.pa) = (oPhase w + 1) % 2 ^ 32 ∧ oArrived (t.obj o.pa) = 0 ∧ oDrops (t.obj o.pa) = 0
      ∧ oXbytes (t.obj o.pa) = 0 ∧ oLanded (t.obj o.pa) = 0 ∧ oExpect (t.obj o.pa) = oExpect w - oDrops (countArrival w drop) := by
  have hword := ht.word
  rw [hcan, if_pos rfl] at hword
  rw [hword, oPhase_objWord, oArrived_objWord, oDrops_objWord, oXbytes_objWord, oLanded_objWord, oExpect_objWord]
  have hfields := completed_fields (objWord (countArrival w drop))
  rwa [oPhase_objWord, oExpect_objWord, oDrops_objWord, oPhase_countArrival, oExpect_countArrival] at hfields

end

/-- Settles O26: each instruction writes the object's word and evaluates Complete, where nobody waits. -/
theorem barrierArrivals : Obligations.BarrierArrivals := by
  unfold Obligations.BarrierArrivals
  intro s g d a b o object quiet w
  have hidle : g.blocked = none := object.idle quiet
  refine ⟨fun hnobody hexpect f => ?_, fun hopen => ?_, fun hside hroom hnobody i drop hform => ?_⟩
  · have hclosed : canComplete (initWord f.toNat ((g.reg b).toNat % 2 ^ 32)) = false :=
      canComplete_initWord f.isLt (Nat.mod_lt _ (by decide)) hexpect
    have ht := object.written quiet id (initWord f.toNat ((g.reg b).toNat % 2 ^ 32)) hidle object.alone
      fun hcan => absurd (hclosed.symm.trans hcan) Bool.false_ne_true
    have hword := ht.word
    rw [if_neg (hclosed ▸ Bool.false_ne_true), object.plain.obj_eq, objWord_initWord f.isLt] at hword
    exact ⟨_, object.execBinit b f hnobody, ht.here, ht.others, hword, ht.outside⟩
  · have ht := object.written quiet id (setBits w 128 64 (oXbytes w + (g.reg b).toNat)) hidle object.alone
      fun hcan => absurd (hopen.symm.trans hcan) Bool.false_ne_true
    have hword := ht.word
    rw [if_neg (hopen ▸ Bool.false_ne_true)] at hword
    refine ⟨_, object.execBexp b, ht.here, ht.others, ?_, ht.outside⟩
    rw [hword, oXbytes_objWord, oXbytes, bits_setBits_self]
  · have hexec : exec i s = arrive d a drop s := by
      simp only [List.mem_cons, Prod.mk.injEq, List.not_mem_nil, or_false] at hform
      rcases hform with ⟨rfl, rfl⟩ | ⟨rfl, rfl⟩ <;> rfl
    have harrive := hexec.trans (object.arrive_eq d drop hside hroom)
    intro x last
    refine ⟨fun hzero hmem => ?_, fun hnew => ?_⟩
    · have hcond : (decide (oExpect w = 0) && s.zero.contains (o.pa, last)) = true := by simp [hzero, hmem]
      rw [if_pos hcond, State.done_eq object.here] at harrive
      exact ⟨_, harrive, State.setGroup_self _ _ _, fun k hk => State.setGroup_other _ _ _ _ hk, fun _ => rfl⟩
    · have hcond : ¬ (decide (oExpect w = 0) && s.zero.contains (o.pa, last)) = true := by simpa using hnew
      rw [if_neg hcond] at harrive
      have ht := object.written quiet (fun g => g.setReg d (BitVec.ofNat 64 (oPhase w))) (countArrival w drop)
        ((Group.setReg_blocked _ _ _).trans hidle) ((Group.setReg_orun _ _ _).trans object.alone)
        fun _ => (bits_countArrival w drop (.inr (by decide)) (.inr (by decide))).trans hnobody
      generalize ((s.setObj o.pa (countArrival w drop)).done s.cur _).evaluate o = t at harrive ht
      split at harrive
      · exact ⟨_, harrive, ht.here, ht.others, ht.outside, (ht.withZero object.plain _).counted, (ht.withZero object.plain _).phased⟩
      · exact ⟨_, harrive, ht.here, ht.others, ht.outside, ht.counted, ht.phased⟩

end Sys2Proof.Machine
end

section
/-! SUPPORT. `wait` and `btest` (spec/10 R224-R226). -/

namespace Sys2Proof.Machine

/-- A phase is done by its distance from the object's (R224). -/
theorem phaseDone_eq (w : Nat) (n : W32) :
    phaseDone w n.toNat = decide (1 ≤ (oPhase w + 2 ^ 32 - n.toNat) % 2 ^ 32 ∧ (oPhase w + 2 ^ 32 - n.toNat) % 2 ^ 32 < 2 ^ 31) := by
  rw [phaseDone, Nat.mod_eq_of_lt n.isLt, Bool.decide_and]

/-- The bit of WAITERS of a context is one of 256 (R16). -/
theorem waiterBit_lt (t : Team) (gid : Nat) : waiterBit t gid < 256 := by
  have := Nat.mod_lt gid (show 0 < 128 by decide)
  unfold waiterBit ctxOf
  split <;> omega

/-- The entries of a table at the other keys that meet a condition still do once one entry is another. -/
theorem Tbl.length_filter_put_le {α : Type} (t : Tbl α) (k : Nat) (v : α) {P Q : Nat × α → Bool} (hPQ : ∀ e, e.1 ≠ k → P e = true → Q e = true)
    (hself : ∀ e, P e = true → e.1 ≠ k) : (t.filter P).length ≤ ((Tbl.put t k v).filter Q).length := by
  have hmono (r : Tbl α) : (r.filter P).length ≤ (r.filter Q).length := by
    rw [← List.countP_eq_length_filter, ← List.countP_eq_length_filter]
    exact List.countP_mono_left fun e _ he => hPQ e (hself e he) he
  induction t with
  | nil => exact Nat.zero_le _
  | cons e r ih =>
    obtain ⟨a, x⟩ := e
    by_cases ha : a = k
    · have hout : P (a, x) = false := Bool.eq_false_iff.2 fun he => hself _ he ha
      rw [Tbl.put, if_pos ha, List.filter_cons_of_neg (by simp [hout])]
      exact (hmono r).trans (List.Sublist.filter _ (List.sublist_cons_self _ _)).length_le
    · by_cases hk : k < a
      · rw [Tbl.put, if_neg ha, if_pos hk]
        exact (hmono _).trans (List.Sublist.filter _ (List.sublist_cons_self _ _)).length_le
      · rw [Tbl.put, if_neg ha, if_neg hk]
        cases hP : P (a, x) with
        | false =>
          rw [List.filter_cons_of_neg (by simp [hP])]
          exact ih.trans (List.Sublist.filter _ (List.sublist_cons_self _ _)).length_le
        | true =>
          rw [List.filter_cons_of_pos hP, List.filter_cons_of_pos (hPQ _ ha hP)]
          exact Nat.succ_le_succ ih

/-! Waits on objects. -/

/-- An object where enough parties of its team can still arrive is no orphan (R226). -/
theorem State.orphanTest_able {s : State} {o : ObjRef} (hable : oExpect (s.obj o.pa) ≤ oArrived (s.obj o.pa)
    + ((s.groupsOf o.key).filter fun e => mayUse ((s.team? o.key).getD {}) o (s.obj o.pa) e.1 && !e.2.blockedOn o.va).length) :
    s.orphanTest o = s := by
  rw [State.orphanTest, decide_eq_false (Nat.not_lt.2 hable), Bool.false_and, if_neg Bool.false_ne_true]

/-- An object's write changes memory alone. -/
theorem PlainMemory.setObj_mem {pa : Nat} (plain : PlainMemory pa 64) (s : State) (w : Nat) : ∃ m, s.setObj pa w = { s with mem := m } :=
  ⟨_, plain.setObj_eq s w⟩

/-- The group blocked at a `wait` on an object (R224). -/
def blockedAt (s : State) (gid : Nat) (g : Group) (o : ObjRef) (n : W32) : Group :=
  { g with blocked := some { obj := BitVec.ofNat 64 o.va, kind := 0, n := n, since := s.cyc (coreOf gid) } }

/-- The word of an object once a bit of WAITERS is set in it (R212). -/
def listedWord (w i : Nat) : Nat := setBits w (256 + i) 1 1

/-- Setting a bit of WAITERS changes no other field. -/
theorem bits_listedWord (w i : Nat) {lo len : Nat} (hin : lo + len ≤ 256) : bits (listedWord w i) lo len = bits w lo len :=
  bits_setBits_other (.inl (by omega))

theorem bit_listedWord (w : Nat) {i : Nat} (hi : i < 256) : bit (objWord (listedWord w i)) (256 + i) = true := by
  rw [bit_objWord _ (.inr (by omega)) (by omega), bit_eq_bits, listedWord, bits_setBits_self]
  rfl

/-- What a group's own block leaves of those of its team that can still arrive (R226). -/
theorem able_after_block {s u : State} {g' : Group} {o : ObjRef} {w w' : Nat} (hgroups : u.groups = Tbl.put s.groups s.cur g')
    (htdm : oTdm w' = oTdm w) (t : Team) :
    ((s.groupsOf o.key).filter fun e => mayUse t o w e.1 && !e.2.blockedOn o.va && e.1 != s.cur).length
      ≤ ((u.groupsOf o.key).filter fun e => mayUse t o w' e.1 && !e.2.blockedOn o.va).length := by
  rw [State.groupsOf, State.groupsOf, hgroups, List.filter_filter, List.filter_filter]
  refine Tbl.length_filter_put_le _ _ _ (fun e _ he => ?_) (fun e he => ?_)
  · simp only [Bool.and_eq_true] at he ⊢
    obtain ⟨⟨⟨hmay, hfree⟩, -⟩, hteam⟩ := he
    rw [mayUse] at hmay ⊢
    exact ⟨⟨htdm ▸ hmay, hfree⟩, hteam⟩
  · simp only [Bool.and_eq_true, bne_iff_ne] at he
    exact he.1.2

/-- Once a group is another and listed in WAITERS, an object that others of its team can complete is no orphan (R226). -/
theorem State.orphanTest_listed {s : State} {o : ObjRef} (plain : PlainMemory o.pa 64) (i : Nat) (g' : Group)
    (hable : oExpect (s.obj o.pa) ≤ oArrived (s.obj o.pa) + ((s.groupsOf o.key).filter fun e =>
      mayUse ((s.team? o.key).getD {}) o (s.obj o.pa) e.1 && !e.2.blockedOn o.va && e.1 != s.cur).length) :
    ((s.setObj o.pa (listedWord (s.obj o.pa) i)).setGroup s.cur g').orphanTest o
      = (s.setObj o.pa (listedWord (s.obj o.pa) i)).setGroup s.cur g' := by
  have hobj := plain.obj_setObj s (listedWord (s.obj o.pa) i)
  have hgroups := plain.groups_setObj s (listedWord (s.obj o.pa) i)
  have hteam : (s.setObj o.pa (listedWord (s.obj o.pa) i)).team? o.key = s.team? o.key := by
    obtain ⟨m, hm⟩ := plain.setObj_mem s (listedWord (s.obj o.pa) i)
    rw [hm]
    rfl
  have hexpect : oExpect (listedWord (s.obj o.pa) i) = oExpect (s.obj o.pa) := bits_listedWord _ _ (by decide)
  have harrived : oArrived (listedWord (s.obj o.pa) i) = oArrived (s.obj o.pa) := bits_listedWord _ _ (by decide)
  have htdm : oTdm (objWord (listedWord (s.obj o.pa) i)) = oTdm (s.obj o.pa) := by
    rw [oTdm_objWord, oTdm, oTdm, bit_eq_bits, bit_eq_bits, bits_listedWord _ _ (by decide)]
  generalize s.setObj o.pa (listedWord (s.obj o.pa) i) = u at *
  refine State.orphanTest_able ?_
  rw [plain.obj_setGroup, hobj, oExpect_objWord, oArrived_objWord, hexpect, harrived, State.setGroup_team_at, hteam]
  exact hable.trans (Nat.add_le_add_left (able_after_block (congrArg (Tbl.put · _ _) hgroups) htdm _) _)

/-- A group that blocks on an object that others of its team can complete stays blocked, with its bit set (R224, R226). -/
theorem State.block_able {s : State} {g : Group} {o : ObjRef} (n : W32) (here : s.group? s.cur = some g) (plain : PlainMemory o.pa 64)
    (hkey : o.key = g.key) (hable : oExpect (s.obj o.pa) ≤ oArrived (s.obj o.pa)
      + ((s.groupsOf g.key).filter fun e => mayUse (s.teamOf g) o (s.obj o.pa) e.1 && !e.2.blockedOn o.va && e.1 != s.cur).length) :
    s.block s.cur g o n
      = (s.setObj o.pa (listedWord (s.obj o.pa) (waiterBit (s.teamOf g) s.cur))).setGroup s.cur (blockedAt s s.cur g o n) := by
  have here' (x : Nat) : (s.setObj o.pa x).group? s.cur = some g := (congrArg (Tbl.find · s.cur) (plain.groups_setObj s x)).trans here
  have hcyc (x : Nat) : (s.setObj o.pa x).cyc (coreOf s.cur) = s.cyc (coreOf s.cur) := by
    obtain ⟨m, hm⟩ := plain.setObj_mem s x
    rw [hm]
    rfl
  rw [State.block, State.updGroup_eq _ _ _ g (here' _), hcyc]
  rw [State.teamOf, ← hkey] at *
  exact State.orphanTest_listed plain _ _ hable

/-! The instructions. -/

section
variable {s : State} {g : Group} {a b : Reg} {o : ObjRef} {k : WaitKind} (hk : k = .obj ∨ k = .objOr)
include hk

theorem kind_of_object : (k == .copy || k == .matrix) = false := by rcases hk with rfl | rfl <;> rfl

section
variable (object : ScratchObject s g (g.reg a) .amo o)
include object

/-- A `wait` whose phase is done goes on (R224). -/
theorem ScratchObject.wait_done (hdone : phaseDone (s.obj o.pa) ((g.reg b).setWidth 32 : W32).toNat = true) :
    ScalarDone s (.wait a b k) g (fun g => { g with noOver := none }) := by
  change execWait a b k s = _
  rw [execWait, scalar_eq object.here, settled_eq object.alone]
  dsimp only
  rw [kind_of_object hk, if_neg Bool.false_ne_true, object.check]
  dsimp only
  rw [if_pos hdone, State.done_eq object.here]

/-- A `wait` whose phase is not done, and that enters no overreach, blocks its group (R224, R229). -/
theorem ScratchObject.wait_blocks (hdone : phaseDone (s.obj o.pa) ((g.reg b).setWidth 32 : W32).toNat = false)
    (hplain : k = .obj ∨ oOvr (s.obj o.pa) = false) :
    exec (.wait a b k) s = .next (s.block s.cur g o ((g.reg b).setWidth 32)) := by
  have henter : (k == .objOr && oOvr (s.obj o.pa) && g.noOver != some (g.reg a, (g.reg b).setWidth 32)) = false := by
    rcases hplain with rfl | hovr
    · rfl
    · rw [hovr, Bool.and_false, Bool.false_and]
  change execWait a b k s = _
  rw [execWait, scalar_eq object.here, settled_eq object.alone]
  dsimp only
  rw [kind_of_object hk, if_neg Bool.false_ne_true, object.check]
  dsimp only
  rw [hdone, if_neg Bool.false_ne_true, henter, if_neg Bool.false_ne_true]

end

/-- A `btest` of an object reports its phase (R225). -/
theorem ScratchObject.btest_object (d : Reg) (object : ScratchObject s g (g.reg a) .rd o) :
    ScalarResult s g (.btest d a b k) d (BitVec.ofNat 64
      ((phaseDone (s.obj o.pa) ((g.reg b).setWidth 32 : W32).toNat).toNat + 2 ^ 32 * oPhase (s.obj o.pa))) := by
  refine .intro ?_
  change execBtest d a b k s = _
  rw [execBtest, scalar_eq object.here]
  dsimp only
  rw [kind_of_object hk, if_neg Bool.false_ne_true, object.check]
  dsimp only
  rw [State.done_eq object.here, Nat.mul_comm (2 ^ 32)]

end

/-- How a group is blocked at a `wait` on a batch (R224). -/
def batchBlock (s : State) (k : WaitKind) (n : W32) : Blocked :=
  { obj := 0, kind := (if k == .matrix then 2 else 1), n := n, since := s.cyc (coreOf s.cur) }

section
variable {s : State} {g : Group} {a b : Reg} {k : WaitKind} {bo : Batch} (here : s.group? s.cur = some g)
  (hk : (k = .copy ∧ bo = g.copyB) ∨ (k = .matrix ∧ bo = g.matB))
include hk

theorem kind_of_batch : (k == .copy || k == .matrix) = true ∧ g.batch k = bo := by
  rcases hk with ⟨rfl, rfl⟩ | ⟨rfl, rfl⟩ <;> exact ⟨rfl, rfl⟩

include here

/-- A `wait` on a batch stops when it has not been closed, goes on when it is done, and else blocks its group (R224). -/
theorem execWait_batch (alone : g.orun = none) : exec (.wait a b k) s =
    let n : W32 := (g.reg b).setWidth 32
    if bo.ahead n then s.trapS s.cur g .batchahead 0 else if bo.past n then .next (s.setGroup s.cur g.advance)
    else .next (s.setGroup s.cur { g with blocked := some (batchBlock s k n) }) := by
  obtain ⟨hkind, hbatch⟩ := kind_of_batch hk
  change execWait a b k s = _
  rw [execWait, scalar_eq here, settled_eq alone]
  dsimp only
  rw [hkind, if_pos rfl, hbatch, State.done_eq here, id]
  rfl

/-- A `btest` of a batch reports it (R225). -/
theorem btest_batch (d : Reg) : let n : W32 := (g.reg b).setWidth 32
    ScalarResult s g (.btest d a b k) d (BitVec.ofNat 64
      ((!bo.ahead n && bo.past n).toNat + 2 * (bo.ahead n).toNat + 2 ^ 32 * bo.done.toNat)) := by
  obtain ⟨hkind, hbatch⟩ := kind_of_batch hk
  refine .intro ?_
  change execBtest d a b k s = _
  rw [execBtest, scalar_eq here]
  dsimp only
  rw [hkind, if_pos rfl, hbatch, State.done_eq here, Nat.mul_comm (2 ^ 32), Nat.mul_comm 2]

end

/-- Settles O27: a wait goes on where its phase or batch is done, else it blocks or stops; a test reports the same. -/
theorem waitsAndTests : Obligations.WaitsAndTests := by
  unfold Obligations.WaitsAndTests
  intro s g d a b n
  refine ⟨?_, ?_, ?_⟩
  · intro o object k hk w dist
    have hk' : k = .obj ∨ k = .objOr := by simpa using hk
    have hdone : phaseDone w n.toNat = decide (1 ≤ dist ∧ dist < 2 ^ 31) := phaseDone_eq w n
    refine ⟨fun hlow hhigh => object.wait_done hk' (hdone.trans (decide_eq_true ⟨hlow, hhigh⟩)), fun hopen hplain hable => ?_⟩
    have hundone : phaseDone w n.toNat = false := hdone.trans (decide_eq_false (by omega))
    have hblock := State.block_able n object.here object.plain (State.objCheck_key object.check) hable
    have hexec := object.wait_blocks hk' hundone hplain
    have hword := object.plain.obj_setObj s (listedWord w (waiterBit (s.teamOf g) s.cur))
    have houtside := object.plain.setObj_outside s (listedWord w (waiterBit (s.teamOf g) s.cur))
    rw [hblock] at hexec
    generalize s.setObj o.pa (listedWord w (waiterBit (s.teamOf g) s.cur)) = u at *
    refine ⟨_, hexec, State.setGroup_self _ _ _, ?_, houtside⟩
    rw [object.plain.obj_setGroup, hword]
    exact bit_listedWord w (waiterBit_lt _ _)
  · intro here alone k bo hk ahead past
    have hahead : bo.ahead n = ahead := (Bool.decide_and _ _).symm
    have hpast : bo.past n = past := rfl
    have hwait := execWait_batch (a := a) (b := b) here hk alone
    dsimp only at hwait
    rw [hahead, hpast] at hwait
    refine ⟨fun h => ?_, fun h h' => ?_, fun h h' => ?_, ?_⟩
    · exact hwait.trans (if_pos h)
    · exact hwait.trans ((if_neg (h ▸ Bool.false_ne_true)).trans (if_pos h'))
    · refine ⟨_, _, hwait.trans ((if_neg (h ▸ Bool.false_ne_true)).trans (if_neg (h' ▸ Bool.false_ne_true))), OnlyGroup.setGroup _ _ _,
        State.setGroup_self _ _ _, ?_, rfl⟩
      simp only [batchBlock, beq_iff_eq]
    · have htest := btest_batch (a := a) (b := b) here hk d
      dsimp only at htest
      rwa [hahead, hpast] at htest
  · intro o object k hk w dist
    have hdone : phaseDone w n.toNat = decide (1 ≤ dist ∧ dist < 2 ^ 31) := phaseDone_eq w n
    rw [← hdone]
    exact object.btest_object (by simpa using hk) d

end Sys2Proof.Machine
end

section
/-! SUPPORT. A lane load whose line takes the place of a clean line that DRAM no longer equals (spec/10 R241, spec/11 R240). -/

namespace Sys2Proof.Machine

/-- `vrdm` of the word at v5:v4, with nothing added to the address and its result discarded. -/
def readWord : LaneWord := { vd := 0xFF, va := 4, vb := 5 }

theorem readWord_takesPart {l : Nat} (h : takesPart amoGroup amoPath readWord l = true) : l = 0 :=
  amoWord_takesPart h

/-- The address of its one lane. -/
def readEa (l : Nat) : Nat :=
  (BitVec.ofNat 64 (amoGroup.read64 readWord.va l) + (BitVec.ofNat 32 (amoGroup.read32 readWord.vb l)).signExtend 64
    + readWord.x32.signExtend 64).toNat

theorem readEa_zero : readEa 0 = 0x5000 := by decide +kernel

/-- The load leads to its word in device memory, in the machine and once accesses have been made in it. -/
theorem fullLlc_locate_read {u : State} (hu : OnlyDevice fullLlc u 0) (touch : Bool) :
    u.locate 0 amoGroup 0x5000 4 .rd touch = (.port 0x40000000, u) := by
  obtain ⟨hfields, -, hcore, -, -, hsorted, -⟩ := hu
  have htlb : (u.core 0).tlb = [(tlbKey 0 0x5000, amoLeaf)] := by rw [hcore]; rfl
  have hlaunch : u.launchOf amoGroup = fullLlc.launchOf amoGroup := by rw [hfields]; rfl
  have hpart : u.part 0 = fullLlc.part 0 := by rw [hfields]; rfl
  have hplace : u.place 0x40000000 = fullLlc.place 0x40000000 := by rw [hfields]; rfl
  have hreach : u.reachable 0 0x40000000 .rd = fullLlc.reachable 0 0x40000000 .rd := by rw [hfields]; rfl
  have hmoving : u.frameMoving 0x40000000 = fullLlc.frameMoving 0x40000000 := by rw [hfields]; rfl
  have houtside : inAperture 0x5000 = false ∧ inTeamWin 0x5000 = false := by decide +kernel
  have hl : (fullLlc.launchOf amoGroup).part = 0 ∧ (fullLlc.launchOf amoGroup).asid.toNat = 0
    ∧ (fullLlc.launchOf amoGroup).pred = false := by decide +kernel
  obtain ⟨hlpart, hlasid, hlpred⟩ := hl
  simp only [State.locate, houtside, Bool.false_eq_true, if_false, hlaunch]
  refine State.translate_permitted (leaf := amoLeaf) (hsorted (by decide +kernel)) (by rw [hlasid]; exact htlb) ?_ (by decide +kernel) hlpred
    (by decide +kernel) ?_ ?_ ?_ touch
  · rw [hlpart, hpart]; decide +kernel
  · rw [show leafAddr amoLeaf.toNat 0 0x5000 = 0x40000000 by decide +kernel, hplace]; decide +kernel
  · rw [hlpart, hreach]; decide +kernel
  · rw [hmoving]; decide +kernel

theorem fullLlc_read_access : Access fullLlc amoGroup 1 0x5000 4 0x40000000 .rd :=
  fullLlc_access.of_amo (fullLlc_locate_read fullLlc_self) (by decide +kernel)

theorem fullLlc_lanesRead : LanesAccess fullLlc amoGroup amoPath readWord readEa (fun _ => 0x40000000) 4 .rd where
  whole := rfl
  lanes l hl := by
    obtain rfl := readWord_takesPart hl
    rw [readEa_zero]
    exact fullLlc_read_access
  stays l hl u touch hu _ := by
    obtain rfl := readWord_takesPart hl
    rw [readEa_zero]
    exact fullLlc_locate_read hu touch

/-- The load past the caches fills the LLC with its line, in the place of the stale one. -/
theorem fullLlc_load : fullLlc.load 0 amoGroup 1 0x5000 4 .bypass
    = .ok ((List.range 4).map fun i => llcEvicted.comByte (0x40000000 + i)) (llcEvicted.refresh 0 0x40000000) := by
  have hport : fullLlc.loadPort 0 amoGroup 0x40000000 4 .bypass
      = .ok ((List.range 4).map fun i => llcEvicted.comByte (0x40000000 + i)) (llcEvicted.refresh 0 0x40000000) :=
    State.loadPort_bypass rfl rfl rfl (by decide +kernel) (by decide +kernel) (by decide +kernel) fullLlc_llcTouch (by decide +kernel)
      (by decide +kernel) (by decide +kernel)
  have hclear : fullLlc.sideBlocks 0 amoGroup 0x5000 0x40000000 4 false = false := by decide +kernel
  have hdrain : fullLlc.drainFor 0 0x40000000 4 false = .ok () fullLlc := rfl
  simp only [State.load, fullLlc_locate_read fullLlc_self, State.afterSide, hclear, hdrain, hport, Bool.false_eq_true, if_false]

section
variable {s u : State} {g : Group} {p : Path} {w : LaneWord} {l n ea : Nat} {rw : Rw} {bs : List Byte}

/-- The frame of a lane memory instruction whose one lane is aligned and passes its checks (R243). -/
theorem CanIssue.laneMem_one_lane (h : CanIssue s g p false) {rows : List Nat} {stall : Bool} {addr : Group → Nat → Nat}
    (k : Nat → Group → Path → List (Nat × Nat × Chk) → State → Res) (hself : s.setGroup s.cur g = s) (hpart : g.active p &&& g.guard w ≠ 0)
    (hlanes : (lanesOf (g.active p &&& g.guard w)).map (fun l => (l, addr g l)) = [(l, ea)]) (haligned : ea % n = 0)
    (hcheck : s.check s.cur g (1 + s.slot) ea n rw = (.pass, s)) :
    laneMem s w rows n stall rw addr k = k s.cur g p [(l, ea, .pass)] s := by
  rw [laneMem, h.laneOp_eq]
  refine (if_neg hpart).trans ((if_neg (by simp [h.alone])).trans ?_)
  simp [hlanes, haligned, hself, State.checkLanes, hcheck, firstCause]

/-- A load of one lane that passes, and whose port answers, issues with its bytes (R243). -/
theorem laneLoad_one_lane {via : Via} {entries : Nat} (part : State → State) (here : s.group? s.cur = some g)
    (hroom : s.tableRoom s.cur (1 + s.slot) entries = true) (hload : s.load s.cur g (1 + s.slot) ea n via = .ok bs u) :
    laneLoad s s.cur p w n rw g [(l, ea, .pass)] entries (loadOne s.cur w n via) part id
      = (part (u.monitorLevels (coreOf s.cur) (u.launchOf g).part s.reached.length)).issued s.cur p w (loaded w l bs) entries := by
  have hnone : maskOf (fun _ => false) = 0 := by decide +kernel
  have hone : loadOne s.cur w n via g l ea s = .ok (loaded w l bs) u := by rw [loadOne, hload]
  simp [laneLoad, hroom, failing, lanesThat, State.laneOrder, lanesOverlap, State.performLanes, here, hone, hnone]

/-- A relaxed `vrdm` of one lane issues with the bytes that its port answers (R241-R243). -/
theorem CanIssue.execVrdm_one_lane (h : CanIssue s g p false) (horder : vcOrder w = .rlx) (hself : s.setGroup s.cur g = s)
    (hpart : g.active p &&& g.guard w ≠ 0) (hlanes : (lanesOf (g.active p &&& g.guard w)).map (fun l => (l, laneEa w g l)) = [(l, ea)])
    (haligned : ea % tyBytes w.ty = 0) (hcheck : s.check s.cur g (1 + s.slot) ea (tyBytes w.ty) .rd = (.pass, s))
    (hroom : s.tableRoom s.cur (1 + s.slot) (granules (tyBytes w.ty) [(l, ea)]) = true)
    (hload : s.load s.cur g (1 + s.slot) ea (tyBytes w.ty) .bypass = .ok bs u) :
    exec (.vrdm w) s = (u.monitorLevels (coreOf s.cur) (u.launchOf g).part s.reached.length).issued s.cur p w (loaded w l bs)
      (granules (tyBytes w.ty) [(l, ea)]) := by
  change execVrdm w s = _
  rw [execVrdm]
  refine (h.laneMem_one_lane _ hself hpart hlanes haligned hcheck).trans ?_
  rw [show (vcOrder w).acquires = false from horder ▸ rfl]
  exact laneLoad_one_lane id h.here hroom hload

end

/-- The load changes the byte beside its line. -/
theorem fullLlc_read_stale_lost {t : State} (h : exec (.vrdm readWord) fullLlc = .next t) :
    t.memByte (64 * staleLine) ≠ fullLlc.memByte (64 * staleLine) := by
  have hpart : amoGroup.active amoPath &&& amoGroup.guard readWord = 1 := by decide +kernel
  have hexec := fullLlc_canIssue.execVrdm_one_lane (w := readWord) (l := 0) (by decide +kernel) fullLlc_setGroup (by rw [hpart]; decide)
    (by decide +kernel) (by decide +kernel) fullLlc_read_access.check_pass (by decide +kernel) fullLlc_load
  injection hexec.symm.trans h with h
  rw [← h]
  decide +kernel

/-- Refutes O44: where the home LLC is full, the line that a lane's load of device memory fills takes the place of another, and a clean one that
DRAM no longer equals (R240) leaves it without a write-back. The byte of that line, which no lane touches, then reads as DRAM has it. -/
theorem not_laneScratchAccesses : ¬ Obligations.LaneScratchAccesses := by
  unfold Obligations.LaneScratchAccesses
  intro h
  obtain ⟨hloads, -⟩ := h fullLlc amoGroup amoPath readWord (fun _ => 0x40000000) fullLlc_canIssue (by decide +kernel) (by decide +kernel)
  obtain ⟨-, hreads⟩ := hloads (by decide +kernel)
  obtain ⟨⟨-, hissues⟩, -⟩ := hreads fullLlc_lanesRead
  obtain ⟨t, -, hexec, hbytes, -⟩ := hissues (by decide +kernel)
  exact fullLlc_read_stale_lost hexec (hbytes _)

end Sys2Proof.Machine
end

section
/-! SUPPORT. Scalar atomics and reductions whose line takes the place of a clean line that DRAM no longer equals (spec/11 R240, R246). -/

namespace Sys2Proof.Machine

section
variable {s t : State} {g : Group} {a : Reg} {sc : Scope} {w : Bool} {pa m : Nat}

/-- An atomic or ordered instruction whose access is an ordinary one goes on with the access (R176). -/
theorem Access.ordered_eq {rw : Rw} (h : Access s g 0 (g.reg a).toNat (wBytes w) pa rw) (side : Option (Nat → Group → Nat → State → Rc Unit))
    (k : Nat → Group → Nat → State → Res) : ordered s a sc w rw side k = k s.cur g (g.reg a).toNat s := by
  rw [ordered, scalar_eq h.here]
  simp only [overWide, h.alone, Option.isSome_none, Bool.false_and, Bool.and_false, Bool.false_eq_true, if_false, h.aligned, ne_eq, not_true,
    h.room rfl, Bool.not_true, Bool.not_false, h.check_pass]

/-- An ordinary access at its port, with nothing of the group in flight, makes its read-modify-write at once (R175, R176). -/
theorem Access.afterSide_eq {α : Type} {k va n : Nat} {rw : Rw} (h : Access s g k va n pa rw) (wr : Bool) (f : State → Rc α) :
    s.afterSide s.cur g k va pa n wr f = f s := by
  simp only [State.afterSide, h.clear, State.drainFor_none h.here h.settled, Bool.false_eq_true, if_false]

/-- A `samo` completes with the old value in its register where its read-modify-write is performed (R246). -/
theorem Access.samo_eq {op : Nat} {d b : Reg} {o : Order} (h : Access s g 0 (g.reg a).toNat (wBytes w) pa .amo) (free : ReleasesAtOnce s g o sc)
    (performed : s.rmw s.cur g 0 (g.reg a).toNat pa (wBytes w) sc
      (fun m => amoValue op (8 * wBytes w) m ((g.reg b).toNat % 2 ^ (8 * wBytes w))) = .ok m t) :
    samo op d a b o sc w s = .next ((t.ordAfter s.cur g o sc).done s.cur (fun g => g.setReg d (BitVec.ofNat 64 m))) := by
  rw [samo, h.ordered_eq]
  simp only [State.atomicS, State.relBefore_atOnce h.here h.settled free, Rc.intoS, h.port, h.afterSide_eq, performed]

/-- A `sred` completes where its read-modify-write is performed, and returns nothing (R246). -/
theorem Access.sred_eq {op : Nat} {b : Reg} {o : Order} (h : Access s g 0 (g.reg a).toNat (wBytes w) pa .amo) (free : ReleasesAtOnce s g o sc)
    (performed : s.rmw s.cur g 0 (g.reg a).toNat pa (wBytes w) sc
      (fun m => amoValue op (8 * wBytes w) m ((g.reg b).toNat % 2 ^ (8 * wBytes w))) = .ok m t) :
    sred op a b o sc w s = .next ((t.ordAfter s.cur g o sc).done s.cur id) := by
  rw [sred, h.ordered_eq]
  simp only [State.relBefore_atOnce h.here h.settled free, Rc.intoS, h.port, h.afterSide_eq, performed]

end

/-- The word of `unlockFull` combined by `and` with the zero of s0 leaves the state that a write of zero leaves. -/
theorem unlockFull_and_zero : unlockFull.rmw 0 unlockGroup 0 (unlockGroup.reg 1).toNat 0x40000000 (wBytes false) .grp
    (fun m => amoValue 1 (8 * wBytes false) m ((unlockGroup.reg 0).toNat % 2 ^ (8 * wBytes false))) = .ok 0 unlockDone := by
  have hzero : (fun m => amoValue 1 (8 * wBytes false) m ((unlockGroup.reg 0).toNat % 2 ^ (8 * wBytes false))) = fun _ => 0 :=
    funext fun m => Nat.and_zero m
  have hreg : (unlockGroup.reg 1).toNat = 0x5000 := by decide +kernel
  rw [hzero, hreg]
  exact unlockFull_rmw

/-- Nothing of a relaxed access waits. -/
theorem unlockFull_relaxed : ReleasesAtOnce unlockFull unlockGroup .rlx .grp := fun hrel => absurd hrel (by decide)

theorem unlockFull_narrow : Narrow unlockFull unlockGroup 0x40000000 .grp := fun _ => .inl (by decide)

/-- What an atomic on the word of `unlockFull` leaves changes the byte beside its line. -/
theorem not_storesFor_unlockDone (f : Group → Group) (v : Nat) :
    ¬StoresFor unlockFull (unlockDone.done 0 f) unlockGroup 0x40000000 4 v := by
  rintro ⟨-, -, hbytes⟩
  have hcommitted : (unlockFull.taskHead unlockGroup).isSome = false := by decide +kernel
  have hlost : unlockDone.memByte (64 * staleLine) ≠ unlockFull.memByte (64 * staleLine) := by decide +kernel
  rw [hcommitted, if_neg (by simp)] at hbytes
  have hstale := hbytes (64 * staleLine) (.inr (by decide +kernel))
  rw [State.done_memByte] at hstale
  exact hlost hstale

/-- Refutes O20: where the home LLC is full, the line of the word takes the place of another, and a clean one that DRAM no longer equals (R240)
leaves it without a write-back. The byte of that line, which `samo.and` does not touch, then reads as DRAM has it. -/
theorem not_scratchAtomics : ¬ Obligations.ScratchAtomics := by
  unfold Obligations.ScratchAtomics
  intro h
  obtain ⟨hatomic, -⟩ := h unlockFull unlockGroup 2 1 0 0x40000000 .rlx .grp false unlockFull_relaxed unlockFull_access unlockFull_narrow
  obtain ⟨t, hexec, -, -, -, hstores⟩ := hatomic (.samoAnd 2 1 0 .rlx .grp false) _ (List.mem_cons_of_mem _ List.mem_cons_self)
  have hdone := unlockFull_access.samo_eq (w := false) (d := 2) unlockFull_relaxed unlockFull_and_zero
  injection hdone.symm.trans hexec with ht
  rw [← ht] at hstores
  exact not_storesFor_unlockDone _ _ hstores

/-- Refutes O21: as for `samo.and`, where the home LLC is full, `sred.and` puts the line of its word in the place of a clean one that DRAM no
longer equals (R240). The byte of that line, which it does not touch, then reads as DRAM has it. -/
theorem not_scratchReductions : ¬ Obligations.ScratchReductions := by
  unfold Obligations.ScratchReductions
  intro h
  obtain ⟨hreduction, -⟩ := h unlockFull unlockGroup 1 0 0x40000000 .rlx .grp false unlockFull_relaxed unlockFull_access unlockFull_narrow
  obtain ⟨t, hexec, -, -, -, hstores⟩ := hreduction (.sredAnd 1 0 .rlx .grp false) _ (List.mem_cons_of_mem _ List.mem_cons_self)
  have hdone := unlockFull_access.sred_eq (w := false) unlockFull_relaxed unlockFull_and_zero
  injection hdone.symm.trans hexec with ht
  rw [← ht] at hstores
  exact not_storesFor_unlockDone _ _ hstores

end Sys2Proof.Machine
end

section
/-! SUPPORT. Fences, cache maintenance and status (spec/11 R247, R248, R251, R253): what a release with nothing to wait for leaves, the physical
lines of a range, and the lines that caches hold after `flush` and `inv`. -/

namespace Sys2Proof.Machine

/-! What completes a scalar instruction. -/

/-- An instruction whose last effect is the issue of its group completes, where what it has done before leaves the groups as they were. -/
theorem Completes.of_done {s t : State} {g : Group} {i : Instr} {f : Group → Group} {P : State → Prop} (here : s.group? s.cur = some g)
    (hgroups : t.groups = s.groups) (hexec : exec i s = .next (t.done s.cur f)) (hP : P (t.setGroup s.cur (f g).advance)) :
    Completes s i (f g) P := by
  have hgroup (k : Nat) : t.group? k = s.group? k := by rw [State.group?, State.group?, hgroups]
  rw [State.done_eq ((hgroup _).trans here)] at hexec
  exact ⟨_, hexec, State.setGroup_self .., fun k hk => (State.setGroup_other _ _ _ _ hk).trans (hgroup k), hP⟩

/-- A release of a group with nothing to be performed, of a task without a version, changes nothing (R247, R337). -/
theorem State.release_atOnce {s : State} {g : Group} (here : s.group? s.cur = some g) (settled : g.posted = [])
    (hside : s.sideOf s.cur g = []) (hversion : (s.teamOf g).version = none) (sc : Scope) : s.release s.cur g sc = .ok () s := by
  have hwait : s.releaseWait s.cur g sc = .ok () s :=
    State.relBefore_atOnce (o := .rel) here settled fun _ => ⟨fun _ => hside, fun _ => hversion⟩
  rw [State.release, hwait]
  exact congrArg (Rc.ok ()) (State.publishAt_none fun _ => hversion)

/-! Acquires (R239). -/

/-- An acquire at device or system scope discards the die's copies of remote lines. -/
theorem State.acquire_wide {s : State} {gid : Nat} {sc : Scope} (h : 4 ≤ sc.code) :
    s.acquire gid sc = s.updDie (dieOf (coreOf gid)) fun d => { d with l2r := [] } := if_pos h

/-- A narrower one discards nothing. -/
theorem State.acquire_narrow {s : State} {gid : Nat} {sc : Scope} (h : sc.code < 4) : s.acquire gid sc = s := if_neg (Nat.not_le.2 h)

theorem State.acquire_eq (s : State) (gid : Nat) (sc : Scope) : s.acquire gid sc = { s with dies := (s.acquire gid sc).dies } := by
  unfold State.acquire
  split <;> rfl

section
variable {s : State} {g : Group} (here : s.group? s.cur = some g) (alone : g.orun = none) (settled : g.posted = [])
  (hside : s.sideOf s.cur g = []) (hversion : (s.teamOf g).version = none)
include here alone settled hside hversion

/-- `fence` (R248). -/
theorem execFence_eq (o : Order) (sc : Scope) :
    exec (.fence o sc) s = .next ((if o.acquires then s.acquire s.cur sc else s).done s.cur id) := by
  have hrelease : (if o.releases then s.release s.cur g sc else .ok () s) = .ok () s :=
    (congrArg (fun r => if o.releases then r else .ok () s) (State.release_atOnce here settled hside hversion sc)).trans (ite_self _)
  change execFence o sc s = _
  rw [execFence, scalar_eq here, hrelease]
  simp only [overWide, alone, Option.isSome_none, Bool.false_and, Bool.false_eq_true, if_false, Rc.intoS]

theorem fence_completes (o : Order) (sc : Scope) : Completes s (.fence o sc) g (fun t => SameBytes s t ∧ OnlyMemory s t s.cur
    ∧ (o.acquires = true → 4 ≤ sc.code → (t.die (dieOf (coreOf s.cur))).l2r = [])
    ∧ (o.acquires = false ∨ sc.code < 4 → t.dies = s.dies)) := by
  have hkeeps (u : State) (hu : u = { s with dies := u.dies }) :
      SameBytes s (u.setGroup s.cur g.advance) ∧ OnlyMemory s (u.setGroup s.cur g.advance) s.cur := by
    rw [hu]
    exact ⟨fun _ => rfl, rfl, fun k hk => State.setGroup_other _ _ _ _ hk⟩
  have hexec := execFence_eq here alone settled hside hversion o sc
  cases hacquires : o.acquires with
  | false =>
    rw [hacquires, if_neg Bool.false_ne_true] at hexec
    obtain ⟨hbytes, honly⟩ := hkeeps s rfl
    exact .of_done here rfl hexec ⟨hbytes, honly, nofun, fun _ => rfl⟩
  | true =>
    rw [hacquires, if_pos rfl] at hexec
    obtain ⟨hbytes, honly⟩ := hkeeps _ (s.acquire_eq s.cur sc)
    refine .of_done here (by rw [State.acquire_eq]) hexec ⟨hbytes, honly, fun _ hwide => ?_, fun hnarrow => ?_⟩
    · rw [State.acquire_wide hwide]
      simp [State.updDie]
    · rw [State.acquire_narrow (hnarrow.resolve_left nofun)]
      rfl

end

/-! The physical lines of a range (R251). -/

theorem State.leafFor_onlyWalks (s : State) (core : Nat) (l : Launch) (va need : Nat) (eng : Bool) :
    OnlyWalks s (s.leafFor core l va need eng).2 := by
  have hwalk := s.walk_onlyWalks (dieOf core) l.asid.toNat va false l.root.toNat 5
  unfold State.leafFor
  dsimp only
  split
  · split <;> exact .refl s
  · split
    · exact hwalk
    · (repeat' split) <;> exact hwalk

theorem State.frameOf_onlyWalks (s : State) (core : Nat) (l : Launch) (va : Nat) (eng : Bool) : OnlyWalks s (s.frameOf core l va eng).2 := by
  have hleaf := s.leafFor_onlyWalks core l va 0 eng
  unfold State.frameOf
  dsimp only
  split
  · exact .refl s
  · generalize s.leafFor core l va 0 eng = r at hleaf
    obtain ⟨w, u⟩ := r
    cases w with
    | leaf e a k => dsimp only; split <;> exact hleaf
    | missing => exact hleaf
    | bad => exact hleaf
    | asked => exact hleaf

theorem State.lineOf_onlyWalks (s : State) (core : Nat) (l : Launch) (va : Nat) : OnlyWalks s (s.lineOf core l va).state := by
  have hframe := s.frameOf_onlyWalks core l va false
  unfold State.lineOf
  split
  · exact .refl s
  · generalize s.frameOf core l va false = r at hframe
    obtain ⟨p, u⟩ := r
    cases p <;> exact hframe

/-- What asks for the physical lines of a range changes only non-leaf entries that are held. -/
theorem State.linesUnder_onlyWalks {core : Nat} {l : Launch} {vs ls : List Nat} {s u : State} (h : s.linesUnder core l vs = .ok ls u) :
    OnlyWalks s u := by
  induction vs generalizing s ls with
  | nil =>
    cases h
    exact .refl _
  | cons v vs ih =>
    have hline := s.lineOf_onlyWalks core l (64 * v % 2 ^ 64)
    rw [State.linesUnder] at h
    cases hv : s.lineOf core l (64 * v % 2 ^ 64) with
    | ok x s1 =>
      rw [hv] at hline h
      dsimp only at h
      cases hrest : s1.linesUnder core l vs with
      | ok y s2 =>
        rw [hrest] at h
        cases h
        exact hline.trans (ih hrest)
      | flt c s2 => rw [hrest] at h; cases h
      | hold s2 => rw [hrest] at h; cases h
    | flt c s1 => rw [hv] at h; cases h
    | hold s1 => rw [hv] at h; cases h

/-! Lines written back (R240, R251). -/

theorem State.writeBack_eq (s : State) (n : Nat) : ∃ m c, s.writeBack n = { s with mem := m, llc := c } := by
  unfold State.writeBack
  split
  · split <;> exact ⟨_, _, rfl⟩
  · exact ⟨_, _, rfl⟩

/-- A line that is dirty after a line has been written back is another, and was dirty before. -/
theorem State.dirty_of_writeBack {s : State} {n k : Nat} {l : LlcLine} (hfind : Tbl.find (s.writeBack n).llc k = some l) (hdirty : l.dirty = true) :
    k ≠ n ∧ Tbl.find s.llc k = some l := by
  by_cases hk : k = n
  · subst hk
    exfalso
    unfold State.writeBack at hfind
    cases hold : Tbl.find s.llc k with
    | none => rw [hold] at hfind; exact nomatch hold.symm.trans hfind
    | some l0 =>
      rw [hold] at hfind
      dsimp only at hfind
      split at hfind
      · rw [Tbl.find_put_self] at hfind
        cases hfind
        exact nomatch hdirty
      next hclean =>
        rw [hold] at hfind
        cases hfind
        exact hclean hdirty
  · refine ⟨hk, ?_⟩
    unfold State.writeBack at hfind
    split at hfind
    · split at hfind
      · rwa [Tbl.find_put_other _ _ _ _ hk] at hfind
      · exact hfind
    · exact hfind

theorem State.writeBack_all_groups (ls : List Nat) (s : State) : (ls.foldl State.writeBack s).groups = s.groups := by
  induction ls generalizing s with
  | nil => rfl
  | cons n ls ih =>
    obtain ⟨m, c, h⟩ := s.writeBack_eq n
    rw [List.foldl_cons, ih, h]

/-- After the lines of a list have been written back, none of them is dirty. -/
theorem State.dirty_of_writeBack_all {ls : List Nat} {s : State} {k : Nat} {l : LlcLine}
    (hfind : Tbl.find (ls.foldl State.writeBack s).llc k = some l) (hdirty : l.dirty = true) : k ∉ ls ∧ Tbl.find s.llc k = some l := by
  induction ls generalizing s with
  | nil => exact ⟨List.not_mem_nil, hfind⟩
  | cons n ls ih =>
    obtain ⟨hrest, hbefore⟩ := ih hfind
    obtain ⟨hne, hfirst⟩ := State.dirty_of_writeBack hbefore hdirty
    exact ⟨fun hk => (List.mem_cons.1 hk).elim hne hrest, hfirst⟩

/-! Lines discarded (R251). -/

/-- No cache of the package holds a committed copy of a line: no LLC, no first-level or scalar cache, no die among its remote lines. -/
def State.NoCopy (s : State) (n : Nat) : Prop :=
  Tbl.find s.llc n = none ∧ (∀ c, Tbl.find (s.core c).l1 n = none ∧ Tbl.find (s.core c).sc n = none) ∧ ∀ e, Tbl.find (s.die e).l2r n = none

/-- The entry at a key of a table whose entries have been changed one by one, each under its key. -/
theorem Tbl.find_map {α β : Type} (f : Nat × α → Nat × β) (t : Tbl α) (k : Nat) (hkey : ∀ e, (f e).1 = e.1) :
    Tbl.find (t.map f) k = (Tbl.find t k).map fun v => (f (k, v)).2 := by
  induction t with
  | nil => rfl
  | cons e t ih =>
    have hcons : Tbl.find (f e :: t.map f) k = if (f e).1 = k then some (f e).2 else Tbl.find (t.map f) k := rfl
    rw [List.map_cons, hcons, hkey, ih]
    by_cases he : e.1 = k
    · subst he; simp [Tbl.find]
    · simp [Tbl.find, he]

theorem State.dropLine_core (s : State) (n c : Nat) :
    (s.dropLine n).core c = { s.core c with l1 := Tbl.del (s.core c).l1 n, sc := Tbl.del (s.core c).sc n } := by
  simp only [State.core, Tbl.get, State.dropLine]
  rw [Tbl.find_map _ _ _ ?_]
  · cases Tbl.find s.cores c <;> rfl
  · exact fun _ => rfl

theorem State.dropLine_die (s : State) (n e : Nat) : (s.dropLine n).die e = { s.die e with l2r := Tbl.del (s.die e).l2r n } := by
  simp only [State.die, Tbl.get, State.dropLine]
  rw [Tbl.find_map _ _ _ ?_]
  · cases Tbl.find s.dies e <;> rfl
  · exact fun _ => rfl

/-- An entry that is absent stays absent when another is discarded. -/
theorem Tbl.find_del_none {α : Type} {t : Tbl α} {n : Nat} (h : Tbl.find t n = none) (k : Nat) : Tbl.find (Tbl.del t k) n = none := by
  by_cases hn : n = k
  · rw [hn, Tbl.find_del_self]
  · rw [Tbl.find_del_other _ _ _ hn, h]

/-- A line discarded is in no cache. -/
theorem State.dropLine_noCopy (s : State) (n : Nat) : (s.dropLine n).NoCopy n := by
  refine ⟨Tbl.find_del_self .., fun c => ?_, fun e => ?_⟩
  · rw [State.dropLine_core]
    exact ⟨Tbl.find_del_self .., Tbl.find_del_self ..⟩
  · rw [State.dropLine_die]
    exact Tbl.find_del_self ..

/-- A line that is in no cache comes into none when another is discarded. -/
theorem State.NoCopy.dropLine {s : State} {n : Nat} (h : s.NoCopy n) (k : Nat) : (s.dropLine k).NoCopy n := by
  obtain ⟨hllc, hcores, hdies⟩ := h
  refine ⟨Tbl.find_del_none hllc k, fun c => ?_, fun e => ?_⟩
  · obtain ⟨hl1, hsc⟩ := hcores c
    rw [State.dropLine_core]
    exact ⟨Tbl.find_del_none hl1 k, Tbl.find_del_none hsc k⟩
  · rw [State.dropLine_die]
    exact Tbl.find_del_none (hdies e) k

theorem State.NoCopy.dropLines {s : State} {n : Nat} (h : s.NoCopy n) (ls : List Nat) : (ls.foldl State.dropLine s).NoCopy n := by
  induction ls generalizing s with
  | nil => exact h
  | cons k ls ih => exact ih (h.dropLine k)

/-- After the lines of a list have been discarded, none of them is in a cache. -/
theorem State.dropLines_noCopy {ls : List Nat} {n : Nat} (h : n ∈ ls) (s : State) : (ls.foldl State.dropLine s).NoCopy n := by
  induction ls generalizing s with
  | nil => exact nomatch h
  | cons k ls ih =>
    rcases List.mem_cons.1 h with rfl | hrest
    · exact (s.dropLine_noCopy n).dropLines ls
    · exact ih hrest _

theorem State.dropLines_groups (ls : List Nat) (s : State) : (ls.foldl State.dropLine s).groups = s.groups := by
  induction ls generalizing s with
  | nil => rfl
  | cons n ls ih => exact (ih _).trans rfl

/-- An acquire brings no line into a cache. -/
theorem State.NoCopy.acquire {s : State} {n : Nat} (h : s.NoCopy n) (gid : Nat) (sc : Scope) : (s.acquire gid sc).NoCopy n := by
  obtain ⟨hllc, hcores, hdies⟩ := h
  unfold State.acquire
  split
  · refine ⟨hllc, hcores, fun e => ?_⟩
    by_cases he : e = dieOf (coreOf gid)
    · subst he; simp [State.updDie]
    · rw [State.updDie, State.setDie_other _ _ _ _ he]
      exact hdies e
  · exact ⟨hllc, hcores, hdies⟩

section
variable {s u : State} {g : Group} {a b : Reg} {ls : List Nat} (here : s.group? s.cur = some g) (alone : g.orun = none)
  (hlines : s.linesUnder (coreOf s.cur) (s.launchOf g) (linesOf (g.reg a).toNat (g.reg b).toNat) = .ok ls u)
include here alone hlines

/-- `inv` (R251). -/
theorem inv_completes : Completes s (.inv a b) g (fun t => ∀ n ∈ ls, t.NoCopy n) := by
  have hexec : exec (.inv a b) s = .next (((ls.foldl State.dropLine u).acquire s.cur .sys).done s.cur id) := by
    change execInv a b s = _
    rw [execInv, scalar_eq here, settled_eq alone]
    simp only [hlines, Rc.intoS]
  have hgroups : ((ls.foldl State.dropLine u).acquire s.cur .sys).groups = s.groups := by
    rw [State.acquire_eq]
    exact (State.dropLines_groups ls u).trans (State.linesUnder_onlyWalks hlines).groups
  exact .of_done here hgroups hexec fun n hn => (State.dropLines_noCopy hn u).acquire _ _

/-- `flush` (R251). -/
theorem flush_completes (settled : g.posted = []) (hside : s.sideOf s.cur g = []) (hversion : (s.teamOf g).version = none)
    (hdecided : ((s.launchOf g).pred && (s.launchOf g).live) = false) :
    Completes s (.flush a b) g (fun t => ∀ n ∈ ls, ∀ l, Tbl.find t.llc n = some l → l.dirty = false) := by
  have only := State.linesUnder_onlyWalks hlines
  have hrelease : u.release s.cur g .sys = .ok () u := by
    have h := State.release_atOnce (s := u) (g := g) (by rw [only.cur, only.group, here]) settled (by rw [only.cur, only.sideOf, hside])
      (by rw [only.teamOf, hversion]) .sys
    rwa [only.cur] at h
  have hexec : exec (.flush a b) s = .next ((ls.foldl State.writeBack u).done s.cur id) := by
    change execFlush a b s = _
    rw [execFlush, scalar_eq here, settled_eq alone]
    simp only [hdecided, Bool.false_eq_true, if_false, hlines, Rc.intoS, hrelease]
  refine .of_done here ((State.writeBack_all_groups ls u).trans only.groups) hexec fun n hn l hfind => ?_
  by_contra hdirty
  exact (State.dirty_of_writeBack_all hfind (Bool.eq_true_of_not_eq_false hdirty)).1 hn

end

/-! Status (R253). -/

section
variable {s : State} {g : Group} (here : s.group? s.cur = some g) (settled : g.posted = []) (hside : s.sideOf s.cur g = [])
include here settled hside

theorem vstat_counts (d : Reg) : ScalarResult s g (.vstat d 0) d (BitVec.ofNat 64 ((if g.lockReq.isSome then 1 else 0)
    + g.pend.foldl (fun n x => n + x.entries) 0 + 2 ^ 16 * s.tableFree (coreOf s.cur))) := by
  have hheld : g.tableHeld = (if g.lockReq.isSome then 1 else 0) + g.pend.foldl (fun n x => n + x.entries) 0 := by
    simp [Group.tableHeld, settled]
  refine .intro ?_
  change execVstat d 0 s = _
  rw [execVstat, scalar_eq here, if_pos rfl, State.done_eq here, hheld, hside, List.length_nil, Nat.zero_mul, Nat.add_zero, Nat.mul_comm (2 ^ 16)]

variable (alone : g.orun = none)
include alone

/-- What waits for every earlier access of the group goes on at once (R253). -/
theorem allPerformed_atOnce : g.buffering = false ∧ s.allPerformed s.cur g = .ok () s :=
  ⟨by simp [Group.buffering, alone], State.releaseWait_team here settled hside⟩

theorem vstat_lost (d : Reg) {n : BitVec 5} (hn : n ≠ 0) : ScalarResult s g (.vstat d n) d (if n = 1 then g.lost.setWidth 64 else g.lostVa) := by
  obtain ⟨hbuffering, hperformed⟩ := allPerformed_atOnce here settled hside alone
  refine .intro ?_
  change execVstat d n s = _
  rw [execVstat, scalar_eq here, if_neg hn, hbuffering, if_neg Bool.false_ne_true, hperformed]
  exact congrArg Host.Outcome.next (State.done_eq here _)

theorem stime_time (d : Reg) : ScalarResult s g (.stime d) d (BitVec.ofNat 64 s.stc) := by
  obtain ⟨hbuffering, hperformed⟩ := allPerformed_atOnce here settled hside alone
  refine .intro ?_
  change execStime d s = _
  rw [execStime, scalar_eq here, hbuffering, if_neg Bool.false_ne_true, hperformed]
  exact congrArg Host.Outcome.next (State.done_eq here _)

end

/-- Settles O24: the effects of `fence`, of `flush` and `inv` on the lines of their range, and the results of `vstat` and `stime`. -/
theorem fencesAndMaintenance : Obligations.FencesAndMaintenance := by
  unfold Obligations.FencesAndMaintenance
  intro s g a b d here alone settled hside hversion
  exact ⟨fence_completes here alone settled hside hversion,
    fun ls u hlines => ⟨flush_completes here alone hlines settled hside hversion, inv_completes here alone hlines⟩,
    vstat_counts here settled hside d, vstat_lost here settled hside alone d (by decide), vstat_lost here settled hside alone d (by decide),
    stime_time here settled hside alone d⟩

end Sys2Proof.Machine
end

section
/-! SUPPORT. Memory that stands at its port as it is: scratchpads, host memory and the window (spec/01 R11, R17): what is read there, and what a
write leaves (spec/11 R236). -/

namespace Sys2Proof.Machine

/-- n bytes at a port are bytes of memory as they stand: no cache, no register and no other package answers for them. -/
structure StandsAsIs (pa n : Nat) : Prop where
  read : ∀ i < n, ∀ s : State, s.portByte (pa + i) = Memory.byte s.mem (pa + i)
  write : ∀ i < n, ∀ (s : State) (b : Byte), s.portSet (pa + i) b = { s with mem := Memory.setByte s.mem (pa + i) b }

theorem PlainMemory.standsAsIs {pa n : Nat} (h : PlainMemory pa n) : StandsAsIs pa n :=
  ⟨fun _ hi s => h.portByte_eq hi s, fun _ hi s b => h.portSet_eq hi s b⟩

/-- A byte of the window SRAM (R11). -/
theorem regionOf_window {a : Nat} (hlow : 0x1FF00000000 ≤ a) (hhigh : a < 0x1FF00100000) : regionOf a = .window (a - 0x1FF00000000) := by
  unfold regionOf
  rw [if_neg (by omega), if_neg (by omega), if_neg (by omega), if_neg (by simp; omega), if_neg (by simp; omega), if_pos (by simp; omega)]

theorem window_standsAsIs {pa n : Nat} (hlow : 0x1FF00000000 ≤ pa) (hhigh : pa + n ≤ 0x1FF00100000) : StandsAsIs pa n := by
  have hregion (i : Nat) (hi : i < n) : regionOf (pa + i) = .window (pa + i - 0x1FF00000000) := regionOf_window (by omega) (by omega)
  refine ⟨fun i hi s => ?_, fun i hi s b => ?_⟩
  · rw [State.portByte, hregion i hi]
  · rw [State.portSet, hregion i hi]

/-- The bytes of a number that memory holds (R4). -/
theorem toBytes_read (m : Memory) (a n : Nat) : toBytes n (Memory.read m a n) = Memory.readList m a n := by
  induction n generalizing a with
  | zero => rfl
  | succ n ih =>
    have hbyte := (m.byte a).isLt
    rw [Memory.read, toBytes, Memory.readList, Nat.add_mul_div_left _ _ (by decide), Nat.div_eq_of_lt hbyte, Nat.zero_add, ih]
    refine congrArg (· :: _) (BitVec.eq_of_toNat_eq ?_)
    rw [BitVec.toNat_ofNat]
    omega

/-- The end of error marks changes nothing else (R252). -/
theorem State.heal_eq (s : State) (n : Nat) : ∃ l, s.heal n = { s with badLines := l } := by
  unfold State.heal
  split
  · exact ⟨s.badLines, rfl⟩
  · exact ⟨_, rfl⟩

section
variable {pa n : Nat} (h : StandsAsIs pa n)
include h

theorem StandsAsIs.portRead_eq (s : State) : s.portRead pa n = toBytes n (Memory.read s.mem pa n) := by
  rw [toBytes_read, State.portRead_eq_readList fun i hi => h.read i hi s]

theorem StandsAsIs.ofBytes_portRead (s : State) : ofBytes (s.portRead pa n) = Memory.read s.mem pa n := by
  rw [State.portRead_eq_readList fun i hi => h.read i hi s, ofBytes_readList]

/-- A write there changes memory, the record of writes and error marks. -/
theorem StandsAsIs.portWrite_eq (s : State) (v : Nat) :
    ∃ w l, s.portWrite pa (toBytes n v) = { s with mem := Memory.write s.mem pa n v, wrote := w, badLines := l } := by
  have hput : s.portPut pa (toBytes n v) = { s with mem := Memory.write s.mem pa n v } := by
    rw [State.portPut_eq_writeList fun i hi u b => h.write i (toBytes_length n v ▸ hi) u b, Memory.writeList_toBytes]
  unfold State.portWrite
  rw [hput]
  obtain ⟨l, hl⟩ := State.heal_eq _ s.wrote.length
  exact ⟨_, l, hl⟩

end

/-- A number written to memory is stored there, and every other byte reads as before. -/
theorem StoresAt.of_write {s t : State} {pa n v v' : Nat} (hmem : t.mem = Memory.write s.mem pa n v') (hllc : t.llc = s.llc)
    (hv : v' % 256 ^ n = v % 256 ^ n) : StoresAt s t pa n v := by
  refine ⟨by rw [hmem, Memory.read_write, hv], fun a ha => ?_⟩
  have hbyte : Memory.byte t.mem a = Memory.byte s.mem a := by rw [hmem, Memory.byte_write_outside _ _ _ _ _ ha]
  have hcommitted : t.comByte a = s.comByte a := by rw [State.comByte, State.comByte, hllc, hbyte]
  rw [State.memByte, State.memByte, hbyte, hcommitted]

/-! Numbers of whole bytes. -/

theorem bytes_pow (n : Nat) : 256 ^ n = 2 ^ (8 * n) := (Nat.pow_mul 2 8 n).symm

theorem mod_bytes_mod (n v : Nat) : v % 2 ^ (8 * n) % 256 ^ n = v % 256 ^ n := by rw [bytes_pow, Nat.mod_mod]

/-- A sum in n bytes is that of the numbers whose low n bytes are added. -/
theorem add_bytes_mod (n m b : Nat) : (m + b % 2 ^ (8 * n)) % 2 ^ (8 * n) % 256 ^ n = (m + b) % 256 ^ n := by
  rw [mod_bytes_mod, bytes_pow, Nat.add_mod_mod]

/-- So is what a compare and swap of n bytes leaves. -/
theorem cas_bytes_mod (n m c b : Nat) :
    (if m = c % 2 ^ (8 * n) then b % 2 ^ (8 * n) else m) % 256 ^ n = (if m = c % 256 ^ n then b else m) % 256 ^ n := by
  rw [bytes_pow]
  by_cases hm : m = c % 2 ^ (8 * n)
  · rw [if_pos hm, if_pos hm, Nat.mod_mod]
  · rw [if_neg hm, if_neg hm]

end Sys2Proof.Machine
end

section
/-! SUPPORT. Accesses of the host, of other packages and of supervisors to memory that stands as it is (spec/11 R250, spec/01 R14, spec/25 R439,
R448). -/

namespace Sys2Proof.Machine

/-! The window through BAR4. -/

section
variable {s : State} {r : Requester} {off size pa : Nat} (hat : s.bar4At r off size = some pa) (hin : pa + size ≤ 0x1FF00100000)
include hat

/-- What a requester reaches through BAR4 lies in the window. -/
theorem State.bar4At_low : 0x1FF00000000 ≤ pa := by
  unfold State.bar4At at hat
  split at hat
  · exact nomatch hat
  · cases hvf : r.vf with
    | none =>
      rw [hvf] at hat
      have hpa := Option.some.inj (Option.ite_none_right_eq_some.1 hat).2
      omega
    | some p =>
      rw [hvf] at hat
      have hpa := Option.some.inj (Option.ite_none_right_eq_some.1 hat).2
      omega

include hin

theorem hostWindow_standsAsIs : StandsAsIs pa size := window_standsAsIs (State.bar4At_low hat) hin

theorem hostWindowWrite_falls (v : W64) :
    Falls s (.hostWindowWrite r off size v) (fun t => StoresAt s t pa size v.toNat ∧ t.hostUr = false ∧ t.groups = s.groups) := by
  have hexec : exec (.hostWindowWrite r off size v) s = .next ({ s with hostUr := false }.portWrite pa (toBytes size v.toNat)) := by
    change execHostWindowWrite r off size v s = _
    rw [execHostWindowWrite, hat]
  obtain ⟨w, l, hwrite⟩ := (hostWindow_standsAsIs hat hin).portWrite_eq { s with hostUr := false } v.toNat
  exact ⟨_, hexec.trans (congrArg _ hwrite), .of_write rfl rfl rfl, rfl, rfl⟩

theorem hostWindowRead_eq : exec (.hostWindowRead r off size) s
    = .next { s with hostRead := BitVec.ofNat 64 (Memory.read s.mem pa size), hostUr := false } := by
  change execHostWindowRead r off size s = _
  rw [execHostWindowRead, hat, ← (hostWindow_standsAsIs hat hin).ofBytes_portRead]
  rfl

/-- An AtomicOp answers the old value, and stores the value that it gives (R250). -/
theorem atomicop_falls (op : AtomicOp) (v c : W64) (hsize : size = 4 ∨ size = 8) (haligned : off % size = 0) {x : Nat}
    (hx : atomicOpValue op (8 * size) (Memory.read s.mem pa size) (v.toNat % 2 ^ (8 * size)) (c.toNat % 2 ^ (8 * size)) % 256 ^ size
      = x % 256 ^ size) :
    Falls s (.atomicop r op off size v c) (fun t => t.hostRead = BitVec.ofNat 64 (Memory.read s.mem pa size) ∧ t.hostUr = false
      ∧ StoresAt s t pa size x) := by
  have stands := hostWindow_standsAsIs hat hin
  obtain ⟨w, l, hwrite⟩ := stands.portWrite_eq s
    (atomicOpValue op (8 * size) (Memory.read s.mem pa size) (v.toNat % 2 ^ (8 * size)) (c.toNat % 2 ^ (8 * size)))
  have hexec : exec (.atomicop r op off size v c) s = .next ((s.portWrite pa (toBytes size (atomicOpValue op (8 * size)
      (Memory.read s.mem pa size) (v.toNat % 2 ^ (8 * size)) (c.toNat % 2 ^ (8 * size))))).answerHost (some (Memory.read s.mem pa size))) := by
    change execAtomicop r op off size v c s = _
    rw [execAtomicop, hat]
    refine congrArg Host.Outcome.next ((if_pos (by simpa [haligned] using hsize)).trans ?_)
    rw [stands.ofBytes_portRead]
  rw [hwrite] at hexec
  exact ⟨_, hexec, rfl, rfl, .of_write rfl rfl hx⟩

end

/-! Other packages (R448). -/

section
variable {s : State} {hpa size a o : Nat} (hat : s.remoteAt hpa size = some a) (hregion : regionOf a = .window o) (hin : a + size ≤ 0x1FF00100000)
  (hgood : s.bad a size = false)
include hregion

theorem regionOf_window_low : 0x1FF00000000 ≤ a := by
  unfold regionOf at hregion
  split_ifs at hregion with _ _ _ _ _ hwindow
  simp only [Bool.and_eq_true, decide_eq_true_eq] at hwindow
  exact hwindow.1

include hat hin hgood

/-- An access of another package to the window writes, but for a read, and answers what was there, but for a write (R448). -/
theorem smioRemoteAccess_eq {op : RemoteOp} {v c : W64} {t : State}
    (hwrite : (if op = .read then s else s.portWrite a (toBytes size (remoteValue op (8 * size) (Memory.read s.mem a size)
      (v.toNat % 2 ^ (8 * size)) (c.toNat % 2 ^ (8 * size))))) = t) :
    exec (.smioRemoteAccess op hpa size v c) s
      = .next { t with remote := if op = .write then [] else toBytes size (Memory.read s.mem a size) } := by
  have stands : StandsAsIs a size := window_standsAsIs (regionOf_window_low hregion) hin
  have htouch : ((linesOf a size).foldl (fun s n => if regionOf a = .dram then s.llcTouch n else s) s) = s := by
    rw [hregion]
    exact List.foldl_fixed _
  change execSmioRemoteAccess op hpa size v c s = _
  rw [execSmioRemoteAccess, hat]
  dsimp only
  rw [htouch, hgood, Bool.and_false, if_neg Bool.false_ne_true, stands.ofBytes_portRead, hwrite, stands.portRead_eq]

theorem smioRemoteRead_falls (v c : W64) :
    Falls s (.smioRemoteAccess .read hpa size v c) (fun t => t.remote = toBytes size (Memory.read s.mem a size) ∧ SameBytes s t) :=
  ⟨_, smioRemoteAccess_eq hat hregion hin hgood (if_pos rfl), rfl, fun _ => rfl⟩

theorem smioRemoteWrite_falls {op : RemoteOp} (hop : op ≠ .read) (v c : W64) {x : Nat}
    (hx : remoteValue op (8 * size) (Memory.read s.mem a size) (v.toNat % 2 ^ (8 * size)) (c.toNat % 2 ^ (8 * size)) % 256 ^ size
      = x % 256 ^ size) :
    Falls s (.smioRemoteAccess op hpa size v c) (fun t => t.remote = (if op = .write then [] else toBytes size (Memory.read s.mem a size))
      ∧ StoresAt s t a size x) := by
  have stands : StandsAsIs a size := window_standsAsIs (regionOf_window_low hregion) hin
  obtain ⟨w, l, hwrite⟩ := stands.portWrite_eq s
    (remoteValue op (8 * size) (Memory.read s.mem a size) (v.toNat % 2 ^ (8 * size)) (c.toNat % 2 ^ (8 * size)))
  exact ⟨_, smioRemoteAccess_eq hat hregion hin hgood ((if_neg hop).trans hwrite), rfl, .of_write rfl rfl hx⟩

end

/-! Supervisors (R14). -/

/-- A fence discards the copies of remote lines of the supervisor's die (R239). -/
theorem supervisorFence_eq {s : State} {core : Nat} (hserved : s.served = true) (hcore : core < 160) (pa size : Nat) (v : W64) :
    exec (.supervisorCoreAccess core .fence pa size v) s = .next (s.updDie (dieOf core) (fun d => { d with l2r := [] })) := by
  change execSupervisorCoreAccess core .fence pa size v s = _
  simp only [execSupervisorCoreAccess, hserved, decide_eq_false (Nat.not_le.2 hcore), Bool.not_true, Bool.or_self, Bool.false_eq_true, if_false,
    if_true]

section
variable {s : State} {core off size : Nat} (hserved : s.served = true) (hcore : core < 160) (hpos : 0 < size)
  (hsize : size ≤ 8) (hoff : off + size ≤ 0x400000)
include hcore hoff

theorem scratchpad_standsAsIs : StandsAsIs (onchip core off) size :=
  PlainMemory.standsAsIs (.inl ⟨core, off, rfl, hcore, hoff⟩)

include hpos

/-- No access to a scratchpad waits for its turn among Casket slots (R282). -/
theorem portBusy_scratchpad (wr : Bool) : regionOf (onchip core off) = .onchip core off ∧ s.portBusy (onchip core off) size wr = false := by
  have hregion : regionOf (onchip core off) = .onchip core off := regionOf_onchip hcore (by omega)
  refine ⟨hregion, ?_⟩
  rw [State.portBusy, hregion]
  dsimp only
  rw [decide_eq_false (show ¬0x580000 ≤ off by omega), Bool.false_and, Bool.false_and]

include hserved hsize

theorem supervisorWindowAccess_eq (write : Bool) (v : W64) : exec (.supervisorWindowAccess core off size write v) s
    = .next (if write then s.portWrite (onchip core off) (toBytes size v.toNat)
        else { s with supRead := BitVec.ofNat 64 (Memory.read s.mem (onchip core off) size) }) := by
  have hfree := (portBusy_scratchpad (s := s) hcore hpos hoff write).2
  have hreached : (!s.served || decide (160 ≤ core) || decide (size = 0) || decide (8 < size) || decide (0x800000 < off + size)
      || s.portBusy (onchip core off) size write) = false := by
    simp [hserved, hfree]
    omega
  change execSupervisorWindowAccess core off size write v s = _
  rw [execSupervisorWindowAccess, hreached, if_neg Bool.false_ne_true, (scratchpad_standsAsIs hcore hoff).ofBytes_portRead]

theorem supervisorWindowWrite_falls (v : W64) : Falls s (.supervisorWindowAccess core off size true v)
    (fun t => StoresAt s t (onchip core off) size v.toNat ∧ t.groups = s.groups) := by
  obtain ⟨w, l, hwrite⟩ := (scratchpad_standsAsIs hcore hoff).portWrite_eq s v.toNat
  have hexec := supervisorWindowAccess_eq hserved hcore hpos hsize hoff true v
  rw [if_pos rfl, hwrite] at hexec
  exact ⟨_, hexec, .of_write rfl rfl rfl, rfl⟩

variable (hline : off % 64 + size ≤ 64)
include hline

/-- A supervisor's access to its scratchpad within a line is performed (R14, R352). -/
theorem supervisorCoreAccess_performed (wr : Bool) : (!s.served || decide (160 ≤ core)) = false
    ∧ (!supReach (onchip core off) size || s.portBusy (onchip core off) size wr) = false ∧ regionOf (onchip core off) ≠ .dram := by
  obtain ⟨hregion, hfree⟩ := portBusy_scratchpad (s := s) hcore hpos hoff wr
  have hreach : supReach (onchip core off) size = true := by
    rw [supReach, hregion]
    simp only [Bool.and_eq_true, decide_eq_true_eq, bne_iff_ne, ne_eq, reduceCtorEq, not_false_eq_true, and_true]
    unfold onchip
    omega
  refine ⟨?_, by rw [hreach, hfree]; rfl, by rw [hregion]; nofun⟩
  rw [hserved, decide_eq_false (Nat.not_le.2 hcore)]
  rfl

theorem supervisorLoad_eq (v : W64) : exec (.supervisorCoreAccess core .load (onchip core off) size v) s
    = .next { s with supRead := BitVec.ofNat 64 (Memory.read s.mem (onchip core off) size) } := by
  obtain ⟨hserves, hreaches, hregion⟩ := supervisorCoreAccess_performed hserved hcore hpos hsize hoff hline (SupOp.load != .load)
  have hbytes := (scratchpad_standsAsIs hcore hoff).ofBytes_portRead s
  change execSupervisorCoreAccess core .load (onchip core off) size v s = _
  simp only [execSupervisorCoreAccess, hserves, hreaches, hregion, hbytes, reduceCtorEq, Bool.false_eq_true, if_false, if_true]

theorem supervisorStore_falls (v : W64) : Falls s (.supervisorCoreAccess core .store (onchip core off) size v)
    (fun t => StoresAt s t (onchip core off) size v.toNat ∧ t.groups = s.groups) := by
  obtain ⟨hserves, hreaches, hregion⟩ := supervisorCoreAccess_performed hserved hcore hpos hsize hoff hline (SupOp.store != .load)
  have hexec : exec (.supervisorCoreAccess core .store (onchip core off) size v) s
      = .next (s.portWrite (onchip core off) (toBytes size v.toNat)) := by
    change execSupervisorCoreAccess core .store (onchip core off) size v s = _
    simp only [execSupervisorCoreAccess, State.supWrite, hserves, hreaches, hregion, reduceCtorEq, Bool.false_eq_true, if_false, if_true]
  obtain ⟨w, l, hwrite⟩ := (scratchpad_standsAsIs hcore hoff).portWrite_eq s v.toNat
  rw [hwrite] at hexec
  exact ⟨_, hexec, .of_write rfl rfl rfl, rfl⟩

theorem supervisorAmoAdd_falls (hgood : s.bad (onchip core off) size = false) (v : W64) :
    Falls s (.supervisorCoreAccess core .amoAdd (onchip core off) size v)
      (fun t => t.supRead = BitVec.ofNat 64 (Memory.read s.mem (onchip core off) size)
        ∧ StoresAt s t (onchip core off) size (Memory.read s.mem (onchip core off) size + v.toNat)) := by
  obtain ⟨hserves, hreaches, hregion⟩ := supervisorCoreAccess_performed hserved hcore hpos hsize hoff hline (SupOp.amoAdd != .load)
  have stands : StandsAsIs (onchip core off) size := scratchpad_standsAsIs hcore hoff
  let m := Memory.read s.mem (onchip core off) size
  have hexec : exec (.supervisorCoreAccess core .amoAdd (onchip core off) size v) s
      = .next { s.portWrite (onchip core off) (toBytes size (amoValue 0 (8 * size) m (v.toNat % 2 ^ (8 * size)))) with
          supRead := BitVec.ofNat 64 m } := by
    change execSupervisorCoreAccess core .amoAdd (onchip core off) size v s = _
    simp only [execSupervisorCoreAccess, State.supWrite, supAmo, hserves, hreaches, hregion, hgood, stands.ofBytes_portRead, reduceCtorEq,
      Bool.false_eq_true, if_false, m]
  obtain ⟨w, l, hwrite⟩ := stands.portWrite_eq s (amoValue 0 (8 * size) m (v.toNat % 2 ^ (8 * size)))
  rw [hwrite] at hexec
  exact ⟨_, hexec, rfl, .of_write rfl rfl (add_bytes_mod size _ _)⟩

end

end Sys2Proof.Machine
end

section
/-! SUPPORT. The host's accesses to device memory past the caches, its memory commands, and what memory itself does (spec/11 R240, R252, spec/25
R439, R442). -/

namespace Sys2Proof.Machine

/-! Device memory through BAR2 (R439). -/

/-- A mark of what the host has written under dirty lines leaves every line of the LLC with its data, dirty or clean as it was (R240). -/
theorem State.hostUnder_lines (s : State) (off n k : Nat) : (Tbl.find (s.hostUnder off n).llc k).map (fun l => (l.dirty, l.data))
    = (Tbl.find s.llc k).map (fun l => (l.dirty, l.data)) := by
  unfold State.hostUnder
  dsimp only
  generalize linesOf off n = ls
  generalize s.llc = t
  induction ls generalizing t with
  | nil => rfl
  | cons m ls ih =>
    rw [List.foldl_cons, ih]
    split
    next x hx =>
      split
      next hdirty =>
        by_cases hk : k = m
        · subst hk
          rw [Tbl.find_put_self, hx]
          rfl
        · rw [Tbl.find_put_other _ _ _ _ hk]
      next => rfl
    next => rfl

section
variable {s : State} {r : Requester} {off size : Nat}

/-- A host write changes memory, marks of the LLC, the record of writes and error marks (R240, R252). -/
theorem hostMemoryWrite_eq (hserves : s.bar2Serves r off size 64 = true) (hkept : s.hostLost off = false) (y : BitVec 512) :
    ∃ w l, exec (.hostMemoryWrite r off size y) s = .next
      { s.hostUnder off size with mem := Memory.write s.mem off size y.toNat, hostUr := false, wrote := w, badLines := l } := by
  change ∃ w l, execHostMemoryWrite r off size y s = _
  rw [execHostMemoryWrite, hserves, hkept]
  exact ⟨_, (State.heal_eq _ s.wrote.length).imp fun _ hheal => congrArg Host.Outcome.next hheal⟩

theorem hostMemoryWrite_falls (hserves : s.bar2Serves r off size 64 = true) (hkept : s.hostLost off = false) (y : BitVec 512) :
    Falls s (.hostMemoryWrite r off size y) (fun t => Memory.read t.mem off size = y.toNat % 256 ^ size
      ∧ (∀ n, (Tbl.find t.llc n).map (fun l => (l.dirty, l.data)) = (Tbl.find s.llc n).map (fun l => (l.dirty, l.data)))
      ∧ t.hostUr = false ∧ t.groups = s.groups ∧ ∀ a, (a < off ∨ off + size ≤ a) → Memory.byte t.mem a = Memory.byte s.mem a) := by
  obtain ⟨w, l, hexec⟩ := hostMemoryWrite_eq hserves hkept y
  exact ⟨_, hexec, Memory.read_write .., s.hostUnder_lines off size, rfl, rfl, fun a ha => Memory.byte_write_outside _ _ _ _ _ ha⟩

/-- A write in a page that the host is moving is lost (R331). -/
theorem hostMemoryWrite_lost (hserves : s.bar2Serves r off size 64 = true) (hlost : s.hostLost off = true) (y : BitVec 512) :
    exec (.hostMemoryWrite r off size y) s = .next { s with hostUr := false } := by
  change execHostMemoryWrite r off size y s = _
  rw [execHostMemoryWrite, hserves, hlost]
  rfl

theorem hostMemoryRead_eq (hserves : s.bar2Serves r off size 8 = true) (hgood : s.bad off size = false) : exec (.hostMemoryRead r off size) s
    = .next { s with hostRead := BitVec.ofNat 64 (Memory.read s.mem off size), hostUr := false } := by
  change execHostMemoryRead r off size s = _
  rw [execHostMemoryRead, hserves, hgood]
  rfl

theorem hostMemoryRead_bad (hserves : s.bar2Serves r off size 8 = true) (hbad : s.bad off size = true) :
    Falls s (.hostMemoryRead r off size) (fun t => t.hostUr = true ∧ t.hostRead = s.hostRead ∧ SameBytes s t) := by
  have hexec : exec (.hostMemoryRead r off size) s = .next ((s.logError off 0).answerHost none) := by
    change execHostMemoryRead r off size s = _
    rw [execHostMemoryRead, hserves, hbad]
    rfl
  exact ⟨_, hexec, rfl, rfl, fun _ => rfl⟩

end

/-! Memory commands (R442). -/

/-- A flush of a range cleans its lines in the LLC and leaves the others. -/
theorem State.flushRange_find (s : State) (a n k : Nat) :
    Tbl.find (s.flushRange a n).llc k = (Tbl.find s.llc k).map fun l => if inRange a n k then { l with dirty := false } else l := by
  unfold State.flushRange
  dsimp only
  rw [Tbl.find_map _ _ _ (fun e => by split <;> rfl)]
  cases Tbl.find s.llc k with
  | none => rfl
  | some l =>
    dsimp only [Option.map_some]
    split <;> rfl

theorem State.flushRange_clean {s : State} {a n k : Nat} {l : LlcLine} (hin : inRange a n k = true)
    (hfind : Tbl.find (s.flushRange a n).llc k = some l) : l.dirty = false := by
  rw [State.flushRange_find, hin, Option.map_eq_some_iff] at hfind
  obtain ⟨l0, -, rfl⟩ := hfind
  rfl

/-- Entries that a filter of a table does not pass are absent. -/
theorem Tbl.find_filter_none {α : Type} {p : Nat × α → Bool} {k : Nat} (h : ∀ v, p (k, v) = false) (t : Tbl α) :
    Tbl.find (t.filter p) k = none := by
  cases hfind : Tbl.find (t.filter p) k with
  | none => rfl
  | some v => exact absurd (List.mem_filter.1 (Tbl.mem_of_find _ _ _ hfind)).2 (by rw [h]; exact Bool.false_ne_true)

/-- No line of a range that has been discarded is in the LLC. -/
theorem State.invalidate_none {s : State} {a n k : Nat} (hin : inRange a n k = true) : Tbl.find (s.invalidate a n).llc k = none :=
  Tbl.find_filter_none (fun _ => by rw [hin]; rfl) _

/-- A partition's block with the words of a command in it (R442). -/
def State.hmemTake (s : State) (p : Nat) (cmd : BitVec 192) : State :=
  s.updPart p fun x => { x with hmem := setFld x.hmem 0 192 (setFld cmd 8 24 0).toNat }

@[simp] theorem State.updPart_part (s : State) (p : Nat) (f : Partition → Partition) : (s.updPart p f).part p = f (s.part p) :=
  State.setPart_self ..

/-- The words of a command leave DONESEQ. -/
theorem State.hmemTake_seq (s : State) (p : Nat) (cmd : BitVec 192) :
    fld ((s.hmemTake p cmd).part p).hmem 192 32 = fld (s.part p).hmem 192 32 := by
  rw [State.hmemTake, State.updPart_part]
  exact fld_setFld_other _ (.inr (by decide))

/-- STATUS and ACKSTC are written, and DONESEQ stays. -/
theorem State.hmemStatus_fields (s : State) (p : Nat) {v : Nat} (hv : v < 2 ^ 8) :
    fld ((s.hmemStatus p v).part p).hmem 224 8 = v ∧ fld ((s.hmemStatus p v).part p).hmem 192 32 = fld (s.part p).hmem 192 32
      ∧ fld ((s.hmemStatus p v).part p).hmem 256 64 = s.stc := by
  rw [State.hmemStatus, State.updPart_part]
  dsimp only
  refine ⟨?_, ?_, fld_setFld_self _ (by decide) (Nat.mod_lt _ (Nat.two_pow_pos _))⟩
  · rw [fld_setFld_other _ (.inl (by decide)), fld_setFld_self _ (by decide) hv]
  · rw [fld_setFld_other _ (.inl (by decide)), fld_setFld_other _ (.inl (by decide))]

section
variable {s : State} {r : Requester} {p op : Nat} {cmd : BitVec 192} (hmay : s.mayPart r p = true) (hop : fld cmd 0 8 = op)
include hmay hop

/-- A command that is the event's is taken. -/
theorem hmemCommand_taken (body : Nat → Nat → State → State) : hmemCommand op r p cmd s body =
    let a := fld cmd 64 64
    let n := fld cmd 128 64
    let ok := a % 64 == 0 && n % 64 == 0 && decide (n ≤ 2 ^ 32) && inDram a n
    let u := if ok then body a n (s.hmemTake p cmd) else s.hmemTake p cmd
    if fld cmd 32 32 ≠ (fld (s.part p).hmem 192 32 + 1) % 2 ^ 32 then .next ((s.hmemTake p cmd).hmemStatus p 3)
    else .next ((u.updPart p fun x => { x with hmem := setFld x.hmem 192 32 (fld cmd 32 32) }).hmemStatus p (if ok then 0 else 2)) := by
  rw [hmemCommand, ← s.hmemTake_seq p cmd]
  simp only [hmay, hop, bne_self_eq_false, beq_self_eq_true, Bool.not_true, Bool.false_and, Bool.or_self, Bool.true_and, Bool.false_eq_true, if_false]
  rfl

/-- A command out of sequence is answered BADSEQ (R442). -/
theorem hmemCommand_badSeq {e : Instr} {body : Nat → Nat → State → State} (hexec : exec e s = hmemCommand op r p cmd s body)
    (hseq : fld cmd 32 32 ≠ (fld (s.part p).hmem 192 32 + 1) % 2 ^ 32) :
    Falls s e (fun t => fld (t.part p).hmem 224 8 = 3 ∧ t = { s with parts := t.parts }) := by
  rw [hmemCommand_taken hmay hop, if_pos hseq] at hexec
  exact ⟨_, hexec, (State.hmemStatus_fields _ p (by decide)).1, rfl⟩

/-- A command in sequence whose range is in order is carried out and answered DONE (R442). -/
theorem hmemCommand_done {e : Instr} {body : Nat → Nat → State → State} (hexec : exec e s = hmemCommand op r p cmd s body)
    (hseq : fld cmd 32 32 = (fld (s.part p).hmem 192 32 + 1) % 2 ^ 32) (ha : fld cmd 64 64 % 64 = 0) (hn : fld cmd 128 64 % 64 = 0)
    (hle : fld cmd 128 64 ≤ 2 ^ 32) (hdram : inDram (fld cmd 64 64) (fld cmd 128 64) = true)
    (htime : ∀ u, (body (fld cmd 64 64) (fld cmd 128 64) u).stc = u.stc) :
    Falls s e (fun t => fld (t.part p).hmem 224 8 = 0 ∧ fld (t.part p).hmem 192 32 = fld cmd 32 32 ∧ fld (t.part p).hmem 256 64 = s.stc
      ∧ t.llc = (body (fld cmd 64 64) (fld cmd 128 64) (s.hmemTake p cmd)).llc) := by
  have hok : (fld cmd 64 64 % 64 == 0 && fld cmd 128 64 % 64 == 0 && decide (fld cmd 128 64 ≤ 2 ^ 32)
      && inDram (fld cmd 64 64) (fld cmd 128 64)) = true := by
    rw [ha, hn, decide_eq_true hle, hdram]
    rfl
  rw [hmemCommand_taken hmay hop, if_neg (not_not.2 hseq), hok, if_pos rfl, if_pos rfl] at hexec
  obtain ⟨hstatus, hdone, hstc⟩ := State.hmemStatus_fields ((body (fld cmd 64 64) (fld cmd 128 64) (s.hmemTake p cmd)).updPart p
    fun x => { x with hmem := setFld x.hmem 192 32 (fld cmd 32 32) }) p (v := 0) (by decide)
  refine ⟨_, hexec, hstatus, hdone.trans ?_, hstc.trans (htime _), rfl⟩
  rw [State.updPart_part]
  exact fld_setFld_self _ (by decide) (bits_lt ..)

end

/-! Memory itself (R240, R252). -/

/-- One line lies in the range of a line's bytes. -/
theorem inRange_line (n k : Nat) : inRange (64 * n) 64 k = true ↔ k = n := by
  simp only [inRange, Bool.and_eq_true, decide_eq_true_eq]
  omega

/-- Among the entries of a table, a filter that passes one key alone leaves its entry. -/
theorem Tbl.filter_one {α : Type} {t : Tbl α} {k : Nat} {v : α} {p : Nat × α → Bool} (hs : Tbl.sorted t = true) (hfind : Tbl.find t k = some v)
    (hp : ∀ e, p e = true → e.1 = k) (hv : p (k, v) = true) : t.filter p = [(k, v)] := by
  induction t with
  | nil => exact nomatch hfind
  | cons e t ih =>
    obtain ⟨habove, hrest⟩ := (Tbl.sorted_cons _ _).1 hs
    by_cases he : e.1 = k
    · have hev : e = (k, v) := by
        rw [Tbl.find, if_pos he] at hfind
        exact Prod.ext he (Option.some.inj hfind)
      rw [List.filter_cons_of_pos (hev ▸ hv), hev, List.filter_eq_nil_iff.2 fun f hf hpf => ?_]
      exact absurd (hp f hpf) (by have := habove f hf; omega)
    · rw [Tbl.find, if_neg he] at hfind
      rw [List.filter_cons_of_neg fun hpe => he (hp e hpe), ih hrest hfind]

/-- The data of a line is a number of 64 bytes. -/
theorem lineData_lt (d : BitVec 512) : d.toNat < 256 ^ 64 := by
  rw [show 256 = 2 ^ 8 from rfl, ← Nat.pow_mul, show 8 * 64 = 512 from rfl]
  exact d.isLt

theorem llcEviction_falls {s : State} {line : Nat} {l : LlcLine} (hs : Tbl.sorted s.llc = true) (hfind : Tbl.find s.llc line = some l) :
    Falls s (.llcEviction line) (fun t => Tbl.find t.llc line = none
      ∧ (l.dirty = true → Memory.read t.mem (64 * line) 64 = l.data.toNat) ∧ ∀ k, k ≠ line → Tbl.find t.llc k = Tbl.find s.llc k) := by
  refine ⟨_, rfl, Tbl.find_del_self .., fun hdirty => ?_, fun k hk => ?_⟩
  · have hone := Tbl.filter_one (p := fun e => inRange (64 * line) 64 e.1 && e.2.dirty) hs hfind
      (fun e he => (inRange_line line e.1).1 (Bool.and_eq_true_iff.1 he).1) (by rw [(inRange_line line line).2 rfl, hdirty]; rfl)
    have hmem : (s.flushRange (64 * line) 64).mem = Memory.write s.mem (64 * line) 64 l.data.toNat := by
      rw [State.flushRange, hone, ← Memory.writeList_toBytes]
      rfl
    exact (congrArg (fun m => Memory.read m (64 * line) 64) hmem).trans ((Memory.read_write ..).trans (Nat.mod_eq_of_lt (lineData_lt l.data)))
  · have hout : inRange (64 * line) 64 k = false := Bool.eq_false_iff.2 fun h => hk ((inRange_line line k).1 h)
    refine (Tbl.find_del_other _ _ _ hk).trans ?_
    rw [State.flushRange_find, hout]
    cases Tbl.find s.llc k <;> rfl

theorem uncorrectableError_falls (s : State) (line : Nat) :
    Falls s (.uncorrectableError line) (fun t => line ∈ t.badLines ∧ t = { s with badLines := t.badLines }) := by
  refine ⟨_, rfl, ?_⟩
  split
  next h => exact ⟨List.contains_iff_mem.1 h, rfl⟩
  next => exact ⟨List.mem_append_right _ List.mem_cons_self, rfl⟩

/-- A command of the block, in sequence or out of it, by what its operation does to the lines of its range (R442). -/
theorem hmemEvent_falls {s : State} {r : Requester} {p op : Nat} {cmd : BitVec 192} {e : Instr}
    (hform : (e, op) ∈ [(Instr.hflush r p cmd, 1), (.hinv r p cmd, 2)]) (hmay : s.mayPart r p = true) (hop : fld cmd 0 8 = op) :
    (fld cmd 32 32 ≠ (fld (s.part p).hmem 192 32 + 1) % 2 ^ 32 →
      Falls s e (fun t => fld (t.part p).hmem 224 8 = 3 ∧ t = { s with parts := t.parts }))
    ∧ (fld cmd 32 32 = (fld (s.part p).hmem 192 32 + 1) % 2 ^ 32 → fld cmd 64 64 % 64 = 0 → fld cmd 128 64 % 64 = 0 → fld cmd 128 64 ≤ 2 ^ 32 →
      inDram (fld cmd 64 64) (fld cmd 128 64) = true → Falls s e (fun t => fld (t.part p).hmem 224 8 = 0
        ∧ fld (t.part p).hmem 192 32 = fld cmd 32 32 ∧ fld (t.part p).hmem 256 64 = s.stc
        ∧ ∀ n, inRange (fld cmd 64 64) (fld cmd 128 64) n = true → ∀ l, Tbl.find t.llc n = some l → op = 1 ∧ l.dirty = false)) := by
  simp only [List.mem_cons, Prod.mk.injEq, List.not_mem_nil, or_false] at hform
  rcases hform with ⟨rfl, rfl⟩ | ⟨rfl, rfl⟩
  · have hexec : exec (.hflush r p cmd) s = hmemCommand 1 r p cmd s fun a n s => s.flushRange a n := rfl
    refine ⟨hmemCommand_badSeq hmay hop hexec, fun hseq ha hn hle hdram => ?_⟩
    obtain ⟨t, hnext, hstatus, hdone, hstc, hllc⟩ := hmemCommand_done hmay hop hexec hseq ha hn hle hdram fun _ => rfl
    exact ⟨t, hnext, hstatus, hdone, hstc, fun n hin l hfind => ⟨rfl, State.flushRange_clean hin (hllc ▸ hfind)⟩⟩
  · have hexec : exec (.hinv r p cmd) s = hmemCommand 2 r p cmd s fun a n s => s.invalidate a n := rfl
    refine ⟨hmemCommand_badSeq hmay hop hexec, fun hseq ha hn hle hdram => ?_⟩
    obtain ⟨t, hnext, hstatus, hdone, hstc, hllc⟩ := hmemCommand_done hmay hop hexec hseq ha hn hle hdram fun _ => rfl
    refine ⟨t, hnext, hstatus, hdone, hstc, fun n hin l hfind => ?_⟩
    rw [hllc, State.invalidate_none hin] at hfind
    exact nomatch hfind

/-- Settles O57: each event by the lemma on its access, its command or memory itself. -/
theorem hostMemoryEvents : Obligations.HostMemoryEvents := by
  unfold Obligations.HostMemoryEvents
  intro s r off size v y inWindow
  refine ⟨fun hserves => ⟨fun hkept => hostMemoryWrite_falls hserves hkept y, fun hlost => hostMemoryWrite_lost hserves hlost y⟩,
    fun hserves => ⟨hostMemoryRead_eq hserves, hostMemoryRead_bad hserves⟩, fun pa hat hin => ?_, fun p cmd e op hform hmay hop => ?_,
    fun line l hs hfind => llcEviction_falls hs hfind, uncorrectableError_falls s, fun hpa a o c hat hregion hin hgood => ?_,
    fun core hserved hcore hpos hsize => ⟨fun hoff => ?_, fun pa => supervisorFence_eq hserved hcore pa size v⟩⟩
  · refine ⟨hostWindowWrite_falls hat hin v, hostWindowRead_eq hat hin, fun op c hsize haligned => atomicop_falls hat hin op v c hsize haligned ?_⟩
    cases op with
    | fetchAdd => exact add_bytes_mod size _ _
    | swap => exact mod_bytes_mod size _
    | cas => exact cas_bytes_mod size _ _ _
  · obtain ⟨hbad, hdone⟩ := hmemEvent_falls hform hmay hop
    refine ⟨hbad, fun hseq ha hn hle hdram => ?_⟩
    obtain ⟨t, hnext, hstatus, hdoneSeq, hstc, hlines⟩ := hdone hseq ha hn hle hdram
    refine ⟨t, hnext, hstatus, hdoneSeq, hstc, fun n hin => ?_⟩
    cases hfind : Tbl.find t.llc n with
    | none => trivial
    | some l => exact hlines n hin l hfind
  · exact ⟨smioRemoteRead_falls hat hregion hin hgood v c,
      smioRemoteWrite_falls (op := .write) hat hregion hin hgood nofun v c (mod_bytes_mod size _),
      smioRemoteWrite_falls (op := .atomicAdd) hat hregion hin hgood nofun v c (add_bytes_mod size _ _)⟩
  · exact ⟨supervisorWindowWrite_falls hserved hcore hpos hsize hoff v, supervisorWindowAccess_eq hserved hcore hpos hsize hoff false v,
      fun hline hgood => ⟨supervisorStore_falls hserved hcore hpos hsize hoff hline v, supervisorLoad_eq hserved hcore hpos hsize hoff hline v,
        supervisorAmoAdd_falls hserved hcore hpos hsize hoff hline hgood v⟩⟩

end Sys2Proof.Machine
end

section
/-! SUPPORT. Commands handed to the copy engine (spec/12 R254, R266, R274), and closed batches (R269). -/

namespace Sys2Proof.Machine

/-- Every byte of memory reads as before where DRAM, the other memories and the LLC are as before (R240). -/
theorem SameBytes.of_memory {s t : State} (hmem : t.mem = s.mem) (hllc : t.llc = s.llc) : SameBytes s t := fun a => by
  simp only [State.memByte, State.comByte, hmem, hllc]

/-! A command at the end of its core's queue. -/

/-- A command as the issue of a group makes it of its operands (R266, R269, R274). -/
def CopyCmd.issuedBy (c : CopyCmd) (s : State) (gid : Nat) (g : Group) : CopyCmd :=
  { c with id := s.nextCmd, iss := g.issuer gid, at_ := s.tick, batch := g.copyB.next }

/-- With a place free and nobody waiting for one, a command has its place (R254). -/
theorem State.enginePlace_free {s : State} {gid : Nat} (hroom : (s.core (coreOf gid)).copyQ.length < 256)
    (hheld : (s.core (coreOf gid)).held = []) : s.enginePlace gid = true := by
  simp only [State.enginePlace, hheld, List.any_nil, Bool.not_false, Bool.and_true, decide_eq_true hroom]

/-- A command put at the end of the queue of a context's core, where its group waits for a place no longer (R254, R266). -/
def State.enqueue (s : State) (gid : Nat) (c : CopyCmd) : State :=
  { s.updCore (coreOf gid) fun x => { x with copyQ := x.copyQ ++ [c], held := x.held.filter (fun y => y.2 != ctxOf gid) } with
    nextCmd := s.nextCmd + 1 }

@[simp] theorem State.enqueue_mem (s : State) (gid : Nat) (c : CopyCmd) : (s.enqueue gid c).mem = s.mem := rfl
@[simp] theorem State.enqueue_llc (s : State) (gid : Nat) (c : CopyCmd) : (s.enqueue gid c).llc = s.llc := rfl
@[simp] theorem State.enqueue_groups (s : State) (gid : Nat) (c : CopyCmd) : (s.enqueue gid c).groups = s.groups := rfl
@[simp] theorem State.enqueue_group_at (s : State) (gid : Nat) (c : CopyCmd) (k : Nat) : (s.enqueue gid c).group? k = s.group? k := rfl
@[simp] theorem State.enqueue_nextCmd (s : State) (gid : Nat) (c : CopyCmd) : (s.enqueue gid c).nextCmd = s.nextCmd + 1 := rfl
@[simp] theorem State.enqueue_copyQ (s : State) (gid : Nat) (c : CopyCmd) :
    ((s.enqueue gid c).core (coreOf gid)).copyQ = (s.core (coreOf gid)).copyQ ++ [c] := by
  simp only [State.enqueue, State.core, State.updCore, State.setCore, Tbl.get_set_self]

/-- A command handed over stands at the end of the queue, its group has gone on with one command more in its open batch, and nothing else has
changed that a program sees (R254, R266). g: the issuing group as its instruction found it. -/
theorem State.handOver_takes {s : State} {gid : Nat} {x : Group} (here : s.group? gid = some x) (settled : x.posted = [])
    (hroom : (s.core (coreOf gid)).copyQ.length < 256) (hheld : (s.core (coreOf gid)).held = []) (g : Group) (c : CopyCmd) :
    ∃ t, s.handOver gid g c = .next t ∧ t.group? gid = some ({ x with copyB := x.copyB.issue, cpysHdr := none } : Group).advance
      ∧ (∀ k, k ≠ gid → t.group? k = s.group? k) ∧ SameBytes s t ∧ t.nextCmd = s.nextCmd + 1
      ∧ (t.core (coreOf gid)).copyQ = (s.core (coreOf gid)).copyQ ++ [c.issuedBy s gid g] := by
  have hdone : s.handOver gid g c = .next ((s.enqueue gid (c.issuedBy s gid g)).done gid
      fun g => { g with copyB := g.copyB.issue, cpysHdr := none }) := by
    unfold State.handOver
    rw [State.enginePlace_free hroom hheld, drain_none here settled]
    rfl
  rw [State.done_eq ((State.enqueue_group_at ..).trans here)] at hdone
  refine ⟨_, hdone, State.setGroup_self .., fun k hk => ?_, SameBytes.of_memory ?_ ?_, ?_, ?_⟩
  · rw [State.setGroup_other _ _ _ _ hk, State.enqueue_group_at]
  · rw [State.setGroup_mem, State.enqueue_mem]
  · rw [State.setGroup_llc, State.enqueue_llc]
  · rw [State.setGroup_nextCmd, State.enqueue_nextCmd]
  · rw [State.setGroup_core, State.enqueue_copyQ]

/-! `cpy`, `cpyt`, `tld` and `tst` (R265-R268, R290). -/

/-- A record that no watchpoint meets is not in the way (R266, R428). -/
theorem watchRecord_passes {s : State} {gid : Nat} {g : Group} {a : W64} (hwatch : s.gwHit gid g 0 a.toNat 64 .rd = false) (k : Res) :
    watchRecord s gid g a k = k := by
  rw [watchRecord, hwatch]
  rfl

section
variable {s : State} {g : Group} (here : s.group? s.cur = some g) (alone : g.orun = none)
include here alone

theorem execCpy_eq (r a b c : Reg) : exec (.cpy r a b c) s
    = s.handOver s.cur g { kind := .cpy, dst := g.reg a, src := g.reg b, len := g.reg c, bar := g.reg r, hasBar := r != 0 } := by
  change execCpy r a b c s = _
  rw [execCpy, scalar_eq here, settled_eq alone]

/-- `bclose` writes the batch object, and then goes on with the number closed (R269). -/
theorem execBclose_eq (r : Reg) (m : BitVec 5) :
    let g' := g.updBatch (m == 1) Batch.close
    exec (.bclose r m) s = .next ((s.setGroup s.cur g').setGroup s.cur
      (g'.setReg r ((if m == 1 then g'.matB else g'.copyB).closed.setWidth 64)).advance) := by
  change execBclose r m s = _
  rw [execBclose, scalar_eq here, settled_eq alone]
  exact congrArg Host.Outcome.next (State.done_eq (State.setGroup_self ..) _)

variable {a : Reg} (hwatch : s.gwHit s.cur g 0 (g.reg a).toNat 64 .rd = false)
include hwatch

theorem execCpyt_eq (r b c : Reg) : exec (.cpyt r a b c) s = s.handOver s.cur g
    { kind := .cpyt, dst := g.reg a, src := g.reg b, len := g.reg (b + 1), far := g.reg c, bar := g.reg r, hasBar := r != 0 } := by
  change execCpyt r a b c s = _
  rw [execCpyt, scalar_eq here, settled_eq alone, watchRecord_passes hwatch]

/-- The access of a tile move takes its place in slot order, and its command goes to the engine (R282, R290). -/
theorem tileMove_eq {i : Instr} {h : Hnd} {x : Handle} (hfind : Tbl.find (s.teamOf g).handles h.toNat = some x) (howner : x.owner = g.gidx)
    (settled : g.posted = []) (hplace : s.enginePlace s.cur = true) (b : Reg) (kind : CopyKind)
    (hi : exec i s = tileMove s h a b kind) : exec i s = (s.setTeam g.key ((s.teamOf g).placeAcc
        (wholeTile (if kind == .tld then .tldW else .tstR) x (kind == .tld)))).handOver s.cur g
      { kind := kind, dst := g.reg a, src := g.reg b, len := g.reg (b + 1), tile := x, acc := (s.teamOf g).nextAcc } := by
  have hcheck : (s.teamOf g).handleCheck g h = .ok x := by
    simp only [Team.handleCheck, hfind, howner, if_true]
  rw [hi]
  simp only [tileMove, tileOp, scalar_eq here, settled_eq alone, hcheck, watchRecord_passes hwatch, hplace,
    drain_none here settled, Rc.intoS, Bool.not_true, Bool.false_eq_true, if_false]

end

/-- A command handed over is what the issue of `cpy`, `cpyt`, `tld` or `tst` leaves; of the tile moves the team has changed before. -/
theorem Completes.of_handOver {s u : State} {g : Group} {i : Instr} {c : CopyCmd} {P : CopyCmd → Prop} (here : s.group? s.cur = some g)
    (settled : g.posted = []) (hroom : (s.core (coreOf s.cur)).copyQ.length < 256) (hheld : (s.core (coreOf s.cur)).held = [])
    (hu : u = { s with teams := u.teams }) (hexec : exec i s = u.handOver s.cur g c) (hP : P (c.issuedBy s s.cur g)) :
    Completes s i { g with copyB := g.copyB.issue, cpysHdr := none } (fun t => SameBytes s t ∧ t.nextCmd = s.nextCmd + 1
      ∧ ∃ x, (t.core (coreOf s.cur)).copyQ = (s.core (coreOf s.cur)).copyQ ++ [x]
        ∧ x.id = s.nextCmd ∧ x.iss = g.issuer s.cur ∧ x.batch = (g.copyB.closed + 1).toNat ∧ x.status = c.status ∧ x.left = c.left
        ∧ P x) := by
  rw [hu] at hexec
  obtain ⟨t, hnext, hgroup, hothers, hbytes, hcmd, hqueue⟩ :=
    State.handOver_takes (s := { s with teams := u.teams }) here settled hroom hheld g c
  exact ⟨t, hexec.trans hnext, hgroup, hothers, hbytes, hcmd, _, hqueue, rfl, rfl, rfl, rfl, rfl, hP⟩

/-- A change of one batch object of a group is seen in that object (R218). -/
theorem Group.updBatch_named (g : Group) (m : Bool) (f : Batch → Batch) :
    (if m then (g.updBatch m f).matB else (g.updBatch m f).copyB) = f (if m then g.matB else g.copyB) := by
  cases m <;> rfl

@[simp] theorem Group.updBatch_reg (g : Group) (m : Bool) (f : Batch → Batch) (r : Reg) : (g.updBatch m f).reg r = g.reg r := by
  cases m <;> rfl
@[simp] theorem Group.updBatch_spc (g : Group) (m : Bool) (f : Batch → Batch) : (g.updBatch m f).spc = g.spc := by
  cases m <;> rfl

/-- `bclose` closes the open batch of the object that it names, and returns its number (R269). -/
theorem bclose_closes {s : State} {g : Group} (here : s.group? s.cur = some g) (alone : g.orun = none) (r : Reg) (m : BitVec 5) :
    ∃ g1 t, exec (.bclose r m) s = .next t ∧ OnlyGroup s t s.cur ∧ t.group? s.cur = some g1
      ∧ (let x := if m = 1 then g.matB else g.copyB
         let y := if m = 1 then g1.matB else g1.copyB
         y.closed = x.closed + 1 ∧ y.opn = 0 ∧ (r ≠ 0 → g1.reg r = (x.closed + 1).setWidth 64)
         ∧ (∀ q, q ≠ r → g1.reg q = g.reg q) ∧ g1.spc = g.spc + 4) := by
  refine ⟨_, _, execBclose_eq here alone r m, ⟨rfl, fun k hk => ?_⟩, State.setGroup_self .., ?_⟩
  · rw [State.setGroup_other _ _ _ _ hk, State.setGroup_other _ _ _ _ hk]
  · have hnamed := g.updBatch_named (m == 1) Batch.close
    simp only [beq_iff_eq] at hnamed
    simp only [Group.advance_matB, Group.advance_copyB, Group.setReg_matB, Group.setReg_copyB, Group.advance_reg, Group.advance_spc,
      Group.setReg_spc, Group.reg_setReg, Group.updBatch_reg, Group.updBatch_spc, beq_iff_eq, hnamed]
    exact ⟨rfl, rfl, fun hr => if_pos ⟨trivial, hr⟩, fun q hq => if_neg fun h => hq h.1, trivial⟩

/-- Settles O28: each instruction hands its command over with the operands read at issue, and `bclose` closes a batch. -/
theorem copyCommandsIssue : Obligations.CopyCommandsIssue := by
  unfold Obligations.CopyCommandsIssue
  intro s g r a b c h here alone settled hroom hheld took
  have hplace := State.enginePlace_free hroom hheld
  refine ⟨.of_handOver here settled hroom hheld rfl (execCpy_eq here alone r a b c) ⟨rfl, rfl, rfl, rfl, rfl, rfl⟩, fun hwatch =>
    ⟨.of_handOver here settled hroom hheld rfl (execCpyt_eq here alone hwatch r b c) ⟨rfl, rfl, rfl, rfl, rfl, rfl, rfl⟩,
      fun x hfind howner => ⟨?_, ?_⟩⟩, bclose_closes here alone r⟩
  · exact .of_handOver here settled hroom hheld rfl (tileMove_eq here alone hwatch hfind howner settled hplace b .tld rfl)
      ⟨rfl, rfl, rfl, rfl, rfl, rfl⟩
  · exact .of_handOver here settled hroom hheld rfl (tileMove_eq here alone hwatch hfind howner settled hplace b .tst rfl)
      ⟨rfl, rfl, rfl, rfl, rfl, rfl⟩

end Sys2Proof.Machine
end

section
/-! SUPPORT. A sealed message at issue (spec/12 R271): its header read, and its destination looked at. -/

namespace Sys2Proof.Machine

/-! The header. -/

/-- A field of a header is the field of the number that its 16 bytes make. -/
theorem fld_header (x : Nat) {lo len : Nat} (hfit : lo + len ≤ 128) : fld (BitVec.ofNat 128 x) lo len = bits x lo len :=
  bits_mod_bytes (n := 16) hfit

/-- A read of ordinary memory outside device memory finds its port free. -/
theorem PlainMemory.portBusy_read {pa n : Nat} (h : PlainMemory pa n) (hn : 0 < n) (s : State) : s.portBusy pa n false = false := by
  have hregion := h.regionOf_eq hn
  rw [Nat.add_zero] at hregion
  unfold State.portBusy
  rcases hregion with ⟨core, off, hregion, -, hoff⟩ | ⟨x, hregion⟩
  · rw [hregion]
    simp only [decide_eq_false (Nat.not_le.2 (Nat.lt_trans hoff (by decide : 0x400000 < 0x580000))), Bool.false_and]
  · rw [hregion]

theorem PlainMemory.not_dram {pa n : Nat} (h : PlainMemory pa n) (hn : 0 < n) : regionOf pa ≠ .dram := by
  have hregion := h.regionOf_eq hn
  rw [Nat.add_zero] at hregion
  rcases hregion with ⟨core, off, hregion, -⟩ | ⟨x, hregion⟩ <;> rw [hregion] <;> nofun

/-- A group's state once the header of a sealed message has been read at its port: the group keeps it (R271 step 1). -/
def State.withHeader (s : State) (gid pa : Nat) : State :=
  (s.reach (coreOf gid) pa).updGroup gid fun g => { g with cpysHdr := some (BitVec.ofNat 128 (Memory.read s.mem pa 16)) }

section
variable {s : State} {g : Group} {va pa n : Nat}

/-- At the port of an ordinary access in the team's own scratchpad a load returns the bytes of memory (R172). -/
theorem ScratchAccess.loadPort_eq (h : ScratchAccess s g 0 va n pa .rd) (hn : 0 < n) (via : Via) :
    s.loadPort s.cur g pa n via = .ok (Memory.readList s.mem pa n) (s.reach (coreOf s.cur) pa) := by
  obtain ⟨access, -, plain⟩ := h
  have hbytes : s.portRead pa n = Memory.readList s.mem pa n := State.portRead_eq_readList fun i hi => plain.portByte_eq hi s
  have hdevice := plain.not_dram hn
  unfold State.loadPort
  rw [State.drainFor_none access.here access.settled]
  cases hregion : regionOf pa with
  | dram => exact absurd hregion hdevice
  | _ => simp only [access.alone, plain.portBusy_read hn, access.good, hbytes, Bool.false_eq_true, if_false]

variable {m : W64} (h : ScratchAccess s g 0 m.toNat 16 pa .rd)
include h

/-- A header in the team's own scratchpad, not read before, is read and kept (R271 step 1). -/
theorem ScratchAccess.readHeader_eq (hnone : g.cpysHdr = none) (hrefused : g.refusedTo 0 m.toNat = false)
    (k : BitVec 128 → State → Res) :
    s.readHeader s.cur g m k = k (BitVec.ofNat 128 (Memory.read s.mem pa 16)) (s.withHeader s.cur pa) := by
  have hport : s.locate s.cur g m.toNat 16 .rd true true = (.port pa, s) := by
    have hport := h.access.port true
    rwa [State.locate, if_pos h.inside] at hport ⊢
  simp only [State.readHeader, hnone, hrefused, hport, h.access.afterSide_eq, h.loadPort_eq (by decide), Rc.intoS, ofBytes_readList,
    Bool.false_eq_true, if_false]
  rfl

/-- Reading the header changes nothing but what its group keeps of it and the notes of levels. -/
theorem ScratchAccess.withHeader_eq : ∃ l, s.withHeader s.cur pa = ({ s with reached := l } : State).setGroup s.cur
    { g with cpysHdr := some (BitVec.ofNat 128 (Memory.read s.mem pa 16)) } := by
  obtain ⟨l, hreach⟩ := s.reach_eq (core := coreOf s.cur) (h.plain.not_dram (by decide))
  refine ⟨l, ?_⟩
  unfold State.withHeader
  rw [hreach]
  exact State.updGroup_eq _ _ _ g h.access.here

end

/-! The destination. -/

/-- Walks change no byte of memory. -/
theorem OnlyWalks.sameBytes {s t : State} (h : OnlyWalks s t) : SameBytes s t :=
  SameBytes.of_memory (by rw [h.1]) (by rw [h.1])

/-- Looking at the destination of a sealed message walks page tables and changes nothing else (R271 step 3). -/
theorem State.sealedDst_onlyWalks {s u : State} {gid : Nat} {g : Group} {dst n : Nat} {r : Option Nat}
    (h : s.sealedDst gid g dst n = .ok r u) : OnlyWalks s u := by
  induction n generalizing r u with
  | zero =>
    cases h
    exact .refl s
  | succ n ih =>
    rw [State.sealedDst] at h
    cases hfound : s.sealedDst gid g dst n with
    | flt c v => rw [hfound] at h; cases h
    | hold v => rw [hfound] at h; cases h
    | ok amiss v =>
      have hbefore := ih hfound
      rw [hfound] at h
      cases amiss with
      | some va => cases h; exact hbefore
      | none =>
        have hframe := v.frameOf_onlyWalks (coreOf gid) (v.launchOf g) ((dst + n) % 2 ^ 64) true
        dsimp only at h
        generalize v.frameOf (coreOf gid) (v.launchOf g) ((dst + n) % 2 ^ 64) true = q at h hframe
        obtain ⟨loc, w⟩ := q
        split at h
        · cases h; exact hbefore
        split at h
        · cases h; exact hbefore
        split at h
        · cases h; exact hbefore
        cases loc with
        | port pa => dsimp only at h; split at h <;> cases h <;> exact hbefore.trans hframe
        | flt c => cases h; exact hbefore.trans hframe
        | missing | moving | hold => cases h

/-- A destination all in the team's own scratch aperture has no part amiss (R271 step 3, log 59). -/
theorem State.sealedDst_aperture (s : State) (gid : Nat) (g : Group) {dst n : Nat}
    (h : ∀ i < n, inAperture ((dst + i) % 2 ^ 64) = true) : s.sealedDst gid g dst n = .ok none s := by
  induction n with
  | zero => rfl
  | succ n ih =>
    rw [State.sealedDst, ih fun i hi => h i (Nat.lt_succ_of_lt hi)]
    dsimp only
    rw [if_pos (h n (Nat.lt_succ_self n))]
    exact ite_self _

/-- A destination that begins in a team window is amiss from its first byte (R271 step 3). -/
theorem State.sealedDst_window (s : State) (gid : Nat) (g : Group) {dst : W64} (hwin : inTeamWin dst.toNat = true)
    (hout : inAperture dst.toNat = false) (n : Nat) : s.sealedDst gid g dst.toNat (n + 1) = .ok (some dst.toNat) s := by
  induction n with
  | zero =>
    rw [State.sealedDst, State.sealedDst]
    simp only [Nat.add_zero, Nat.mod_eq_of_lt dst.isLt, hwin, hout]
    rfl
  | succ n ih => rw [State.sealedDst, ih]

/-! `cpys`. -/

/-- The command of a `cpys`, with the header that it has read (R265, R271). -/
def sealedCmd (g : Group) (r a b c : Reg) (hdr : BitVec 128) : CopyCmd :=
  { kind := .cpys, dst := g.reg a, src := g.reg b, sel := g.reg c, hdr := hdr, bar := g.reg r, hasBar := r != 0 }

/-- What `cpys` does once its destination has been looked at: it stops at the part that is amiss, or hands its command over (R271 step 3). -/
def sealedChecked (gid : Nat) (g : Group) (c : CopyCmd) : Option Nat → State → Res
  | some va, s => s.trapS gid g .sealed (BitVec.ofNat 64 va)
  | none, s => s.handOver gid g c

/-- A header whose reserved word is not zero, or whose length is none that a message may have (R271 step 2). -/
def badHeader (hdr : Nat) : Prop := bits hdr 96 32 ≠ 0 ∨ bits hdr 64 32 = 0 ∨ 65536 < bits hdr 64 32

/-- A command handed over after its header has been read stands at the end of the queue, and its group has gone on (R265, R266). -/
theorem cpys_takes {s u : State} {g : Group} {r a b c : Reg} {pa : Nat} (h : ScratchAccess s g 0 (g.reg b).toNat 16 pa .rd)
    (hnone : g.cpysHdr = none) (hu : OnlyWalks (s.withHeader s.cur pa) u) (hroom : (s.core (coreOf s.cur)).copyQ.length < 256)
    (hheld : (s.core (coreOf s.cur)).held = []) {hdr : BitVec 128}
    (hexec : exec (.cpys r a b c) s = u.handOver s.cur g (sealedCmd g r a b c hdr)) :
    ∃ t x, exec (.cpys r a b c) s = .next t ∧ SameBytes s t
      ∧ t.group? s.cur = some ({ g with copyB := g.copyB.issue } : Group).advance
      ∧ (t.core (coreOf s.cur)).copyQ = (s.core (coreOf s.cur)).copyQ ++ [x] ∧ x.kind = .cpys ∧ x.dst = g.reg a ∧ x.src = g.reg b
      ∧ x.sel = g.reg c ∧ x.hdr = hdr ∧ x.bar = g.reg r ∧ x.hasBar = (r != 0) ∧ x.iss = g.issuer s.cur := by
  obtain ⟨l, hread⟩ := h.withHeader_eq
  rw [hread] at hu
  have hcore (k : Nat) : u.core k = s.core k := hu.core k
  have hgroup : u.group? s.cur = some { g with cpysHdr := some (BitVec.ofNat 128 (Memory.read s.mem pa 16)) } :=
    (hu.group _).trans (State.setGroup_self ..)
  obtain ⟨t, hnext, htgroup, -, hbytes, -, hqueue⟩ := State.handOver_takes (s := u) hgroup h.access.settled
    (by rwa [hcore]) (by rwa [hcore]) g (sealedCmd g r a b c hdr)
  refine ⟨t, _, hexec.trans hnext, fun p => (hbytes p).trans ?_, htgroup.trans ?_, by rw [hqueue, hcore], rfl, rfl, rfl, rfl, rfl, rfl, rfl, rfl⟩
  · exact (hu.sameBytes p).trans (SameBytes.of_memory rfl rfl p)
  · rw [← hnone]

section
variable {s : State} {g : Group} {r a b c : Reg} {pa : Nat} (decided : ((s.launchOf g).pred && (s.launchOf g).live) = false)
include decided

theorem cpys_misaligned (here : s.group? s.cur = some g) (alone : g.orun = none) (halign : (g.reg b).toNat % 16 ≠ 0) :
    StopsS s g (.cpys r a b c) .align (g.reg b) := by
  change execCpys r a b c s = _
  rw [execCpys, scalar_eq here, settled_eq alone]
  dsimp only
  rw [decided, if_neg Bool.false_ne_true, if_pos halign]
  rfl

variable (h : ScratchAccess s g 0 (g.reg b).toNat 16 pa .rd) (hnone : g.cpysHdr = none) (hrefused : g.refusedTo 0 (g.reg b).toNat = false)
include h hnone hrefused

/-- `cpys` with its header read: a command of a header that is not valid goes to the engine unseen, which ends it (R271 steps 2 and 3). -/
theorem execCpys_eq :
    let hdr := Memory.read s.mem pa 16
    let read := s.withHeader s.cur pa
    let cmd := sealedCmd g r a b c (BitVec.ofNat 128 hdr)
    (badHeader hdr → exec (.cpys r a b c) s = read.handOver s.cur g cmd)
    ∧ (¬badHeader hdr → exec (.cpys r a b c) s
      = (read.sealedDst s.cur g (g.reg a).toNat (bits hdr 64 32)).intoS s.cur g (g.reg a) (sealedChecked s.cur g cmd)) := by
  intro hdr read cmd
  have hbad : (decide (bits hdr 96 32 ≠ 0) || decide (bits hdr 64 32 = 0) || decide (65536 < bits hdr 64 32)) = true ↔ badHeader hdr := by
    simp only [Bool.or_eq_true, decide_eq_true_eq, badHeader, or_assoc]
  change (badHeader hdr → execCpys r a b c s = _) ∧ (¬badHeader hdr → execCpys r a b c s = _)
  rw [execCpys, scalar_eq h.access.here, settled_eq h.access.alone]
  dsimp only
  rw [decided, if_neg Bool.false_ne_true, if_neg (not_not.2 h.access.aligned), h.readHeader_eq hnone hrefused,
    fld_header _ (by decide), fld_header _ (by decide)]
  refine ⟨fun hinvalid => if_pos (hbad.2 hinvalid), fun hvalid => (if_neg (mt hbad.1 hvalid)).trans ?_⟩
  exact congrArg _ (funext₂ fun r u => by cases r <;> rfl)

/-- A part of the destination that is amiss stops the group (R271 step 3). -/
theorem execCpys_amiss (hvalid : ¬badHeader (Memory.read s.mem pa 16)) {va : Nat} {u : State}
    (hdst : (s.withHeader s.cur pa).sealedDst s.cur g (g.reg a).toNat (bits (Memory.read s.mem pa 16) 64 32) = .ok (some va) u) :
    exec (.cpys r a b c) s = u.trapS s.cur g .sealed (BitVec.ofNat 64 va) := by
  rw [(execCpys_eq decided h hnone hrefused).2 hvalid, hdst]
  rfl

/-- With no part amiss the command is handed over (R271 step 3). -/
theorem execCpys_clear (hvalid : ¬badHeader (Memory.read s.mem pa 16)) {u : State}
    (hdst : (s.withHeader s.cur pa).sealedDst s.cur g (g.reg a).toNat (bits (Memory.read s.mem pa 16) 64 32) = .ok none u) :
    exec (.cpys r a b c) s = u.handOver s.cur g (sealedCmd g r a b c (BitVec.ofNat 128 (Memory.read s.mem pa 16))) := by
  rw [(execCpys_eq decided h hnone hrefused).2 hvalid, hdst]
  rfl

end

/-- A header that R271 step 2 accepts. -/
theorem not_badHeader {hdr : Nat} (hreserved : bits hdr 96 32 = 0) (hpos : 0 < bits hdr 64 32) (hlong : bits hdr 64 32 ≤ 65536) :
    ¬badHeader hdr := by
  rintro (hne | hzero | hover)
  · exact hne hreserved
  · exact hpos.ne' hzero
  · exact hover.not_ge hlong

/-- Settles O29, by the header that is read and what the look at the destination finds. -/
theorem sealedCopyIssue : Obligations.SealedCopyIssue := by
  unfold Obligations.SealedCopyIssue
  intro s g r a b c decided
  refine ⟨cpys_misaligned decided, fun pa h hnone hrefused => ?_⟩
  intro hdr len read took
  refine ⟨fun hroom hheld => ?_, fun hreserved hpos hlong => ?_⟩
  · have htook {u : State} := cpys_takes (r := r) (a := a) (c := c) (u := u) (hdr := BitVec.ofNat 128 hdr) h hnone
    refine ⟨fun hbad => ?_, fun hreserved hpos hlong => ⟨fun u hdst => ?_, fun hin => ?_⟩⟩
    · exact htook (.refl _) hroom hheld ((execCpys_eq decided h hnone hrefused).1 hbad)
    · obtain ⟨t, x, hnext, -, hrest⟩ := htook (State.sealedDst_onlyWalks hdst) hroom hheld
        (execCpys_clear decided h hnone hrefused (not_badHeader hreserved hpos hlong) hdst)
      exact ⟨t, x, hnext, trivial, hrest⟩
    · exact htook (.refl _) hroom hheld
        (execCpys_clear decided h hnone hrefused (not_badHeader hreserved hpos hlong) (State.sealedDst_aperture _ _ _ hin))
  · have hamiss {va : Nat} {u : State} := execCpys_amiss (r := r) (a := a) (c := c) (va := va) (u := u) decided h hnone hrefused
      (not_badHeader hreserved hpos hlong)
    refine ⟨fun va u hdst => hamiss hdst, fun hwin hout => ?_⟩
    obtain ⟨n, hn⟩ := Nat.exists_eq_add_one.2 hpos
    have hdst := State.sealedDst_window read s.cur g hwin hout n
    rw [← hn] at hdst
    exact (hamiss hdst).trans (by rw [BitVec.ofNat_toNat, BitVec.setWidth_eq])

end Sys2Proof.Machine
end

section
/-! SUPPORT. Copy commands in their engine (spec/12 R254, R266, R267, R270-R273): taken, landed, completed, and sealed counters spent. -/

namespace Sys2Proof.Machine

/-! What a step of the engine passes through. -/

/-- Kept code changes nothing else (R64). -/
theorem State.keepCode_eq (s s0 : State) (id : Nat) : s.keepCode s0 id = { s with codePre := (s.keepCode s0 id).codePre } := by
  unfold State.keepCode
  split <;> rfl

/-- Dropped code changes nothing else (R64). -/
theorem State.dropCode_eq (s : State) : s.dropCode = { s with codePre := s.dropCode.codePre } := by
  unfold State.dropCode
  split <;> rfl

/-- Without engine watchpoints nothing is charged (R429). -/
theorem State.engineWatch_none {s : State} (h : s.ew = []) (i : Issuer) (va n : Nat) : s.engineWatch i va n = s := by
  simp only [State.engineWatch, h, List.filter_nil, List.map_nil, least]

/-- Without error marks there is none to end (R252). -/
theorem State.healCopy_none {s : State} (h : s.badLines = []) (core : Nat) (c : CopyCmd) (e k n : Nat) : s.healCopy core c e k n = s := by
  simp only [State.healCopy, h, List.isEmpty_nil, if_true]

/-! A `cpy` taken, and its first unit (R266, R267). -/

/-- A command that names no object has none to be checked (R266). -/
theorem State.barCheck_none {s : State} {c : CopyCmd} (hbar : c.hasBar = false) : s.barCheck c = .ok () s := by
  unfold State.barCheck
  dsimp only
  rw [hbar]
  exact if_pos rfl

/-- A `cpy` is taken with all its bytes to land (R266, R267). -/
theorem State.takeCmd_cpy {s : State} {core : Nat} {c : CopyCmd} (hkind : c.kind = .cpy) (hbar : c.hasBar = false) :
    s.takeCmd core c = .ok { c with since := s.cyc core, taken := true, left := if c.len = 0 then [] else [(0, c.len.toNat)] } s := by
  unfold State.takeCmd
  dsimp only
  rw [State.barCheck_none (by exact hbar), Eng.bind, hkind]

section
variable {s : State} {core id : Nat} {c : CopyCmd} (hcmd : s.cmd? core id = some c) (hstatus : c.status = none) (hstalled : c.stalled = none)
  (hsince : c.stallSince = none) (hkind : c.kind = .cpy) (hbar : c.hasBar = false)
include hcmd hstatus hstalled hsince hkind hbar

/-- The engine takes a `cpy` in its turn (R254, R266). -/
theorem copyBytesLanded_takes (htaken : c.taken = false) (hturn : s.copyTurn core c = true) (n : Nat) :
    exec (.copyBytesLanded core id n) s =
      .next (s.setCmd core { c with since := s.cyc core, taken := true, left := if c.len = 0 then [] else [(0, c.len.toNat)] }) := by
  change execCopyBytesLanded core id n s = _
  simp only [execCopyBytesLanded, hcmd, hstatus, hstalled, hsince, htaken, hturn, State.takeCmd_cpy hkind hbar, Eng.after,
    Option.isSome_none, Bool.or_self, Bool.not_false, Bool.false_eq_true, if_false, if_true]

/-- A `cpy` that the engine has taken, and that has leave where it needs it, lands what it has left (R255, R273). -/
theorem copyBytesLanded_lands (htaken : c.taken = true) (hacc : c.acc = 0) {len : Nat} (hleft : c.left = [(0, len)])
    (hleave : c.len.toNat ≤ 65536 ∨ c.granted = true) : exec (.copyBytesLanded core id 0) s = .next (s.landPart core c 0 1) := by
  have hmove : s.mayMove core c = (true, c, s) := by
    have hgo : (decide (c.total ≤ 65536) || c.granted) = true := by
      simpa only [CopyCmd.total, hkind, Bool.or_eq_true, decide_eq_true_eq] using hleave
    simp only [State.mayMove, hacc, hbar, hgo, decide_true, Bool.true_or, Bool.false_and, Bool.not_true, Bool.or_self, Bool.false_eq_true,
      if_false, if_true]
  change execCopyBytesLanded core id 0 s = _
  simp only [execCopyBytesLanded, hcmd, hstatus, hstalled, hsince, htaken, hleft, hmove, Option.isSome_none, Bool.or_self, Bool.not_true,
    Bool.false_eq_true, List.isEmpty_cons, if_false, if_true, Nat.zero_div, Nat.zero_mod, Nat.zero_add]

end

section
variable {s s1 s2 : State} {core : Nat} {c : CopyCmd} {b : Byte} (hkind : c.kind = .cpy)
  (hread : s.engRead core c.iss.key c.src.toNat 1 = .ok [b] s1) (hwrite : s1.engWrite core c.iss.key c.dst.toNat [b] = .ok () s2)
include hkind hread hwrite

/-- The first unit of a `cpy` reads a byte and writes it (R267). -/
theorem State.copyUnit_cpy : s.copyUnit core c 0 1 = .ok 1 s2 := by
  have hdest : c.dest 0 = some c.dst.toNat := by
    simp only [CopyCmd.dest, hkind, Nat.add_zero, Nat.mod_eq_of_lt c.dst.isLt]
  have hunit : s.unitBytes core c 0 = .ok [b] s1 := by
    simp only [State.unitBytes, hkind, Nat.add_zero, hread]
  have hunits : s.unitsBytes core c 0 1 = .ok [b] s1 := by
    simp only [State.unitsBytes, hunit, Eng.bind, List.append_nil]
  simp only [State.copyUnit, hkind, hdest, hunits, hwrite, Eng.bind, CopyCmd.size]

/-- It moves alone where the second unit does not go on in its element of a register window (R20). -/
theorem State.copyRun_cpy (hjoins : c.joins 0 = false) {len : Nat} (hlen : 0 < len) : s.copyRun core c 0 1 len 4 = ((1, 1, .more), s2) := by
  have hspan : min (c.span 0 3) (len - 0) = 1 := by
    rw [CopyCmd.span, hjoins, if_neg Bool.false_ne_true]
    omega
  rw [State.copyRun, if_neg (by simp only [Bool.or_eq_true, decide_eq_true_eq]; omega)]
  dsimp only
  rw [hspan, State.copyUnit_cpy hkind hread hwrite]
  dsimp only
  rw [State.copyRun, if_pos (by simp)]

end

/-- The first of the units still to land has landed. -/
theorem without_first {len : Nat} (hlen : 0 < len) : without 0 1 [(0, len)] = if len = 1 then [] else [(1, len - 1)] := by
  by_cases h : len = 1
  · subst h; rfl
  · have : 1 < len := by omega
    simp [without, h, this]

section
variable {s s1 s2 : State} {core id : Nat} {c : CopyCmd} {b : Byte}

/-- With no watchpoint and no error mark, landing the first unit changes what its byte's read and write change, and what is left (R273). -/
theorem State.landPart_cpy (hkind : c.kind = .cpy) (hbar : c.hasBar = false) (hleft : c.left = [(0, c.len.toNat)]) (hlen : 0 < c.len.toNat)
    (hjoins : c.joins 0 = false) (hread : s.engRead core c.iss.key c.src.toNat 1 = .ok [b] s1)
    (hwrite : s1.engWrite core c.iss.key c.dst.toNat [b] = .ok () s2) (hwatch : s2.ew = []) (hgood : s2.badLines = []) :
    s.landPart core c 0 1 = (s2.setCmd core { c with left := if c.len.toNat = 1 then [] else [(1, c.len.toNat - 1)] }).keepCode s c.id := by
  have hpiece : pieceAt 0 c.left = some (0, c.len.toNat) := by rw [hleft, pieceAt, if_pos hlen]; simp
  have hhead : c.head 0 0 3 = 0 := by simp [CopyCmd.head]
  have hlo : ((c.left.find? fun p => decide (p.1 ≤ 0) && decide (0 < p.1 + p.2)).map (·.1)).getD 0 = 0 := by
    rw [hleft]; simp [hlen]
  have hrun := State.copyRun_cpy hkind hread hwrite hjoins hlen
  have hrest : without 0 1 c.left = if c.len.toNat = 1 then [] else [(1, c.len.toNat - 1)] := hleft ▸ without_first hlen
  have hew (x : CopyCmd) : ((s2.setCmd core x).keepCode s c.id).ew = [] := by rw [State.keepCode_eq]; exact hwatch
  have hbad (x : CopyCmd) : (s2.setCmd core x).badLines = [] := hgood
  simp only [State.landPart, hpiece, hlo, hhead, Nat.sub_zero, Nat.add_zero, Nat.zero_add, hrun, hrest, hbar, Bool.false_eq_true,
    if_false, State.healCopy_none (hbad _), CopyCmd.wrote, hkind, List.foldl_cons, List.foldl_nil, State.engineWatch_none (hew _),
    Nat.one_ne_zero]

end

/-! A completion counted (R218, R272). -/

/-- A command of a batch that completes is counted there, with its status when it is an error (R218, R272). -/
theorem Batch.finish_counts {b : Batch} {n : Nat} (hlive : n ∈ b.live) (status : BitVec 8) :
    (b.finish n status).errs = (if status = 0 then b.errs else b.errs + 1)
      ∧ (b.finish n status).lasterr = (if status = 0 then b.lasterr else status) ∧ (b.finish n status).live.length = b.live.length - 1 := by
  have hlen := List.length_erase_of_mem hlive
  by_cases h : status = 0
  · simp only [Batch.finish, Batch.renew, h, if_true, hlen, and_self]
  · simp only [Batch.finish, Batch.renew, h, if_false, hlen, and_self]

/-- A completion of a live group that is in no debug stop and waits for nothing changes its batch object and nothing else (R218, R426). -/
theorem State.batchDone_live {s : State} {i : Issuer} {gid : Nat} {g : Group} (hissuer : s.issuer? i = some (gid, g))
    (here : s.group? gid = some g) (hdebug : g.debugStop = false) (hfree : g.blocked = none) (matrix : Bool) (n : Nat) (status : BitVec 8) :
    s.batchDone i matrix n status = s.setGroup gid (g.updBatch matrix fun b => b.finish n status) := by
  have hfree' : (g.updBatch matrix fun b => b.finish n status).blocked = none := by cases matrix <;> exact hfree
  simp only [State.batchDone, hissuer, hdebug, State.applyDone, State.updGroup_eq s gid _ g here, State.wakeBatch, State.setGroup_self, hfree',
    Bool.false_eq_true, if_false]

/-- Whoever the issuer is, no team and no byte of memory changes with a completion. -/
theorem State.batchDone_frame (s : State) (i : Issuer) (matrix : Bool) (n : Nat) (status : BitVec 8) :
    (s.batchDone i matrix n status).teams = s.teams ∧ (s.batchDone i matrix n status).mem = s.mem
      ∧ (s.batchDone i matrix n status).llc = s.llc := by
  have hrouse (u : State) (gid : Nat) (g : Group) (b : Blocked) :
      (u.rouse gid g b).teams = u.teams ∧ (u.rouse gid g b).mem = u.mem ∧ (u.rouse gid g b).llc = u.llc := by
    rw [State.rouse, State.monitor_eq]
    exact ⟨rfl, rfl, rfl⟩
  have hwake (u : State) (gid : Nat) : (u.wakeBatch gid).teams = u.teams ∧ (u.wakeBatch gid).mem = u.mem ∧ (u.wakeBatch gid).llc = u.llc := by
    unfold State.wakeBatch
    split
    · exact ⟨rfl, rfl, rfl⟩
    · split
      · exact ⟨rfl, rfl, rfl⟩
      · split
        · exact hrouse ..
        · exact ⟨rfl, rfl, rfl⟩
  unfold State.batchDone
  split
  next => exact ⟨rfl, rfl, rfl⟩
  next gid g _ =>
    split
    · exact ⟨rfl, rfl, rfl⟩
    · have h := hwake (s.updGroup gid fun g => g.updBatch matrix fun b => b.finish n status) gid
      rwa [State.updGroup_teams, State.updGroup_mem, State.updGroup_llc] at h

/-! Completion (R272). -/

/-- The state once a copy command has left its engine, the die's requests for leave, and the slot order of its team (R272). -/
def State.withoutCmd (s : State) (core id : Nat) (c : CopyCmd) : State :=
  (((s.updCore core fun x => { x with copyQ := x.copyQ.filter fun y => y.id != id }).dropCode).updDie (dieOf core) fun d =>
    { d with leaves := d.leaves.filter fun x => !(x.cls == 1 && !x.curb && x.id == id) }).updTeam c.iss.key fun t => t.dropAcc c.acc

theorem State.withoutCmd_frame (s : State) (core id : Nat) (c : CopyCmd) :
    (s.withoutCmd core id c).groups = s.groups ∧ (s.withoutCmd core id c).mem = s.mem ∧ (s.withoutCmd core id c).llc = s.llc
      ∧ ((s.withoutCmd core id c).core core).copyQ = (s.core core).copyQ.filter fun y => y.id != id := by
  unfold State.withoutCmd
  rw [State.dropCode_eq]
  refine ⟨State.updTeam_groups .., State.updTeam_mem .., State.updTeam_llc .., ?_⟩
  rw [State.updTeam_core]
  exact congrArg Core.copyQ (State.setCore_self ..)

/-- A completed copy of a live issuer leaves its engine and counts in its issuer's batch (R272). -/
theorem copyCommandComplete_falls {s : State} {core id gid : Nat} {c : CopyCmd} {g : Group} (hcmd : s.cmd? core id = some c)
    (hended : c.ended = true) (hbar : c.hasBar = false) (hissuer : s.issuer? c.iss = some (gid, g)) (here : s.group? gid = some g)
    (hdebug : g.debugStop = false) (hfree : g.blocked = none) :
    Falls s (.copyCommandComplete core id) (fun t => (t.core core).copyQ = (s.core core).copyQ.filter (fun y => y.id != id)
      ∧ t.group? gid = some { g with copyB := g.copyB.finish c.batch (c.status.getD 0) } ∧ SameBytes s t) := by
  obtain ⟨hgroups, hmem, hllc, hqueue⟩ := s.withoutCmd_frame core id c
  have hdone := State.batchDone_live (s := s.withoutCmd core id c) (i := c.iss) (gid := gid) (g := g)
    (by rw [State.issuer?, hgroups]; exact hissuer) (by rw [State.group?, hgroups]; exact here) hdebug hfree false c.batch (c.status.getD 0)
  obtain ⟨part, v, hexec⟩ : ∃ part v, exec (.copyCommandComplete core id) s
      = .next (((s.withoutCmd core id c).batchDone c.iss false c.batch (c.status.getD 0)).monitor core part 3 v) := by
    let u := (s.withoutCmd core id c).batchDone c.iss false c.batch (c.status.getD 0)
    refine ⟨((u.launch? (c.iss.key / 2 ^ 32)).getD {}).part, u.cyc core - c.since, ?_⟩
    change execCopyCommandComplete core id s = _
    simp only [execCopyCommandComplete, hcmd, hended, hbar, Bool.not_true, Bool.false_eq_true, if_false]
    rfl
  rw [hdone, State.monitor_eq] at hexec
  exact ⟨_, hexec, hqueue, State.setGroup_self .., SameBytes.of_memory hmem hllc⟩

/-! Counters of sealed messages (R271, R446). -/

/-- The first command of a queue is found by its name. -/
theorem State.cmd?_head {s : State} {core : Nat} {c : CopyCmd} {rest : List CopyCmd} (hqueue : (s.core core).copyQ = c :: rest) :
    s.cmd? core c.id = some c := by
  simp only [State.cmd?, hqueue, List.find?_cons, beq_self_eq_true]

/-- It is found changed when it has been put back. -/
theorem State.cmd?_setCmd_head {s : State} {core : Nat} {c x : CopyCmd} {rest : List CopyCmd} (hqueue : (s.core core).copyQ = c :: rest)
    (hname : x.id = c.id) : (s.setCmd core x).cmd? core c.id = some x := by
  have hnew : ((s.setCmd core x).core core).copyQ = x :: rest.map fun y => if y.id = x.id then x else y := by
    simp only [State.setCmd, State.updCore, State.setCore_self, hqueue, List.map_cons, hname, if_true]
  exact hname ▸ State.cmd?_head hnew

section
variable {s : State} {core : Nat} {c : CopyCmd}

/-- The counter of the first command of a queue is compared in its turn (R271). -/
theorem sealedMessage_spends {rest : List CopyCmd} (hqueue : (s.core core).copyQ = c :: rest) (hkind : c.kind = .cpys) (htaken : c.taken = true)
    (hstatus : c.status = none) (hstalled : c.stalled = none) (hleft : c.left = []) (hplain : c.plain = []) (hspent : c.spent = false) :
    exec (.sealedMessage core c.id) s = .next (s.spendCounter core ((s.launch? (c.iss.key / 2 ^ 32)).getD {}).part c) := by
  change execSealedMessage core c.id s = _
  have hfirst : ((s.core core).copyQ.takeWhile fun y => y.id != c.id) = [] := by
    rw [hqueue, List.takeWhile_cons, bne_self_eq_false, if_neg Bool.false_ne_true]
  simp only [execSealedMessage, State.cmd?_head hqueue, hfirst, hkind, htaken, hstatus, hstalled, hleft, hplain, hspent, bne_self_eq_false,
    Option.isSome_none, List.isEmpty_nil, Bool.not_true, Bool.not_false, Bool.or_self, Bool.false_eq_true, if_false, if_true, List.all_nil]

variable {p : Nat} {x : Sealed} (hseal : Tbl.get (s.part p).seals (fld c.sel 0 6) {} = x) (hready : x.st = 1) (hsel : fld c.sel 0 32 < 64)
  (hreserved : fld c.hdr 96 32 = 0) (hpos : 0 < fld c.hdr 64 32) (hlong : fld c.hdr 64 32 ≤ 65536)
include hseal hready hsel hreserved hpos hlong

/-- The counter that a stream that is ready expects is spent, and the command takes the stream's key; another one ends the command and fails
the stream (R271). -/
theorem State.spendCounter_eq : s.spendCounter core p c =
    if fld c.hdr 0 64 = x.next.toNat then
      (s.updPart p fun q => { q with seals := Tbl.put q.seals (fld c.sel 0 6) { x with next := x.next + 1 } }).setCmd core
        { c with spent := true, skey := x.key, sid := x.sid }
    else (s.setSeal p (fld c.sel 0 6) 2).setCmd core { c with status := some stReplay } := by
  have hstream : (decide (64 ≤ fld c.sel 0 32) || decide (x.st = 0) || decide (x.st = 2)) = false := by
    simp [hready, hsel]
  have hheader : (decide (fld c.hdr 96 32 ≠ 0) || decide (fld c.hdr 64 32 = 0) || decide (65536 < fld c.hdr 64 32)) = false := by
    simp [hreserved, hpos.ne', hlong]
  unfold State.spendCounter
  dsimp only
  rw [hseal, hstream, hheader, if_neg Bool.false_ne_true, if_neg Bool.false_ne_true, ite_not]

/-- The first message of a queue whose stream is ready spends its counter or ends with REPLAY (R271). -/
theorem sealedMessage_falls {rest : List CopyCmd} (hqueue : (s.core core).copyQ = c :: rest)
    (hexec : exec (.sealedMessage core c.id) s = .next (s.spendCounter core p c)) :
    Falls s (.sealedMessage core c.id) (fun t =>
      let y := Tbl.get (t.part p).seals (fld c.sel 0 6) {}
      if fld c.hdr 0 64 = x.next.toNat then
        y = { x with next := x.next + 1 } ∧ t.cmd? core c.id = some { c with spent := true, skey := x.key, sid := x.sid }
      else y = { x with st := 2 } ∧ t.cmd? core c.id = some { c with status := some stReplay }) := by
  refine ⟨_, hexec, ?_⟩
  dsimp only
  rw [State.spendCounter_eq hseal hready hsel hreserved hpos hlong]
  split
  · refine ⟨?_, State.cmd?_setCmd_head (rest := rest) hqueue rfl⟩
    rw [State.setCmd, State.updCore, State.setCore_part, State.updPart_part, Tbl.get, Tbl.find_put_self]
    rfl
  · refine ⟨?_, State.cmd?_setCmd_head (rest := rest) hqueue rfl⟩
    rw [State.setCmd, State.updCore, State.setCore_part, State.setSeal, State.updPart_part, hseal, Tbl.get, Tbl.find_put_self]
    rfl

end

end Sys2Proof.Machine
end

section
/-! SUPPORT. The matrix complex (spec/14 R296, R303, R304, R307, R310): the command at its head, retired commands, and its handover. -/

namespace Sys2Proof.Machine

/-- A fold of changes that each leave a part of the state alone leaves it alone. -/
theorem foldl_keeps {α β : Type} {f : State → α → State} {P : State → β} (h : ∀ s x, P (f s x) = P s) (l : List α) (s : State) :
    P (l.foldl f s) = P s := by
  induction l generalizing s with
  | nil => rfl
  | cons x l ih => exact (ih _).trans (h s x)

/-! Tiles (R279, R304). -/

/-- Writing tile bytes changes memory alone. -/
theorem State.tileWrite_eq (s : State) (t : Team) (h : Handle) (o : Nat) (bs : List Byte) :
    s.tileWrite t h o bs = { s with mem := (s.tileWrite t h o bs).mem } := by
  induction bs generalizing s o with
  | nil => rfl
  | cons b bs ih =>
    rw [State.tileWrite, ih]
    rfl

theorem State.noteTile_teams (s : State) (t : Team) (h : Handle) (lo len : Nat) : (s.noteTile t h lo len).teams = s.teams := by
  unfold State.noteTile
  exact foldl_keeps (P := State.teams) (fun u r => by rw [State.note]) _ _
theorem State.noteTile_groups (s : State) (t : Team) (h : Handle) (lo len : Nat) : (s.noteTile t h lo len).groups = s.groups := by
  unfold State.noteTile
  exact foldl_keeps (P := State.groups) (fun u r => by rw [State.note]) _ _

/-- An operation on tiles leaves every team and group as it was (R304). -/
theorem State.mxCompute_frame (s : State) (t : Team) (c : MxCmd) :
    (s.mxCompute t c).teams = s.teams ∧ (s.mxCompute t c).groups = s.groups := by
  unfold State.mxCompute
  dsimp only
  rw [State.noteTile_teams, State.noteTile_groups]
  exact ⟨foldl_keeps (P := State.teams) (fun s r => by rw [State.tileWrite_eq]) _ _,
    foldl_keeps (P := State.groups) (fun s r => by rw [State.tileWrite_eq]) _ _⟩

/-! The command at the head of the complex's owner (R304). -/

/-- A change of the head is seen in the queue of its team. -/
theorem State.setHead_team {s : State} {key : Nat} {t : Team} (hteam : s.team? key = some t) (c : MxCmd) :
    (s.setHead key c).team? key = some { t with mxQ := c :: t.mxQ.tail } := by
  rw [State.setHead, State.updTeam_self, hteam]
  rfl

/-- The commands of a complex's owner accepted that can be (R296). -/
def State.ownerAccepted (s : State) (td : Nat) : State := (s.complex td).owner.elim s fun k => s.acceptAll k

section
variable {s u : State} {td key : Nat} {t : Team} {c : MxCmd} (hu : s.ownerAccepted td = u) (hhead : u.mxHead td = some (key, t, c))
  (hteam : u.team? key = some t) (hstatus : c.status = none) (hstalled : c.stalled = none) (hsince : c.stallSince = none) (htaken : c.taken = true)
include hu hhead hteam hstatus hstalled hsince htaken

/-- A head command that has been accepted and waits for no page goes on: a `mxrdy` passes, an operation that has started is performed, and one that
has leave starts once its four quarters are posted, with nothing of its group to be performed before it (R303, R304, log 33). -/
theorem matrixOperation_eq :
    (c.op = .rdy → exec (.matrixOperation td) s = .next (u.setTeam key { t with mxQ := t.mxQ.tail }))
    ∧ (c.op = .mxa → c.started = true → exec (.matrixOperation td) s = .next (u.mxFinish key t c))
    ∧ (c.op = .mxa → c.started = false → c.granted = true → u.sideBy c.iss = [] → (∀ i < 4, ∃ x ∈ t.tags, x.tag = c.tag ∧ x.q = i) →
      exec (.matrixOperation td) s = .next (u.mxStart key t c)) := by
  have hexec : exec (.matrixOperation td) s = execMatrixOperation td s := rfl
  unfold execMatrixOperation at hexec
  dsimp only at hexec
  rw [← State.ownerAccepted, hu, hhead] at hexec
  simp only [hstatus, hstalled, hsince, htaken, Option.isSome_none, Bool.or_self, Bool.not_true, Bool.false_eq_true, if_false] at hexec
  refine ⟨fun hop => ?_, fun hop hstarted => ?_, fun hop hstarted hgranted hside hposted => ?_⟩
  · rw [hexec, hop]
    exact congrArg Host.Outcome.next (State.updTeam_eq _ _ _ _ hteam)
  · rw [hexec, hop, hstarted]
    rfl
  · have hall : ((List.range 4).all fun i => t.tags.any fun x => x.tag == c.tag && x.q == i) = true := by
      simpa using hposted
    rw [hexec]
    simp only [hop, hstarted, hside, hall, State.mxLeave, hgranted, hteam, Option.getD_some, List.isEmpty_nil, Bool.not_true,
      Bool.false_eq_true, if_false, if_true]

/-- A started operation whose accesses have their turn is performed (R304). -/
theorem matrixOperation_finishes (hop : c.op = .mxa) (hstarted : c.started = true) (hA : t.accReady c.accA = true)
    (hD : t.accReady c.accD = true) : Falls s (.matrixOperation td) (fun v => v.groups = u.groups
      ∧ ∃ t', v.team? key = some t' ∧ t'.mxQ = { c with status := some 0 } :: t.mxQ.tail) := by
  obtain ⟨hteams, hgroups⟩ := u.mxCompute_frame t c
  have hfinish : u.mxFinish key t c = (u.mxCompute t c).setHead key { c with status := some 0 } := by
    rw [State.mxFinish, hA, hD]
    rfl
  obtain ⟨-, hperform, -⟩ := matrixOperation_eq hu hhead hteam hstatus hstalled hsince htaken
  have hteam' : (u.mxCompute t c).team? key = some t := by rw [State.team?, hteams]; exact hteam
  refine ⟨_, (hperform hop hstarted).trans (congrArg _ hfinish), ?_, _, State.setHead_team hteam' _, rfl⟩
  rw [State.setHead, State.updTeam_groups, hgroups]

end

/-- The quarters taken are posted no longer, and the operation has started with their bytes; each `mxrdy` is counted (R303, R304). -/
theorem State.mxStart_takes (s : State) (key : Nat) (t : Team) (c : MxCmd) :
    SameBytes s (s.mxStart key t c) ∧ ∃ t' c', (s.mxStart key t c).team? key = some t' ∧ t'.mxQ = c' :: t.mxQ.tail ∧ c'.started = true
      ∧ c'.bq.length = 4 ∧ t'.tags = t.tags.filter (fun x => x.tag != c.tag) := by
  have hcount (u : State) (x : Quarter) (core part v : Nat) :
      let w := (u.batchDone x.iss true x.batch 0).monitor core part 4 v
      w.teams = u.teams ∧ w.mem = u.mem ∧ w.llc = u.llc := by
    rw [State.monitor_eq]
    exact u.batchDone_frame x.iss true x.batch 0
  unfold State.mxStart
  dsimp only
  refine ⟨SameBytes.of_memory ?_ ?_, _, _, (congrArg (Tbl.find · key) (foldl_keeps (P := State.teams) (fun u i => ?_) _ _)).trans
    (State.setHead_team (State.setTeam_self ..) _), rfl, rfl, by rw [List.length_map, List.length_range], rfl⟩
  · refine (foldl_keeps (P := State.mem) (fun u i => ?_) _ _).trans (State.updTeam_mem ..)
    split
    · exact (hcount ..).2.1
    · rfl
  · refine (foldl_keeps (P := State.llc) (fun u i => ?_) _ _).trans (State.updTeam_llc ..)
    split
    · exact (hcount ..).2.2
    · rfl
  · split
    · exact (hcount ..).1
    · rfl

/-! Retired commands and the handover (R307, R310). -/

/-- A performed command at the head retires into the matrix batch of its live issuer (R307). -/
theorem matrixCommandComplete_falls {s : State} {td key gid : Nat} {t : Team} {c : MxCmd} {g : Group} {st : BitVec 8}
    (hhead : s.mxHead td = some (key, t, c)) (hstatus : c.status = some st) (hissuer : s.issuer? c.iss = some (gid, g))
    (here : s.group? gid = some g) (hdebug : g.debugStop = false) (hfree : g.blocked = none) :
    Falls s (.matrixCommandComplete td) (fun u => SameBytes s u ∧ (∃ t', u.team? key = some t' ∧ t'.mxQ = t.mxQ.tail)
      ∧ u.group? gid = some { g with matB := g.matB.finish c.batch st }) := by
  let t1 := ({ t with mxQ := t.mxQ.tail }.dropAcc c.accA).dropAcc c.accD
  have hdone : (s.setTeam key t1).batchDone c.iss true c.batch st = (s.setTeam key t1).setGroup gid (g.updBatch true fun b => b.finish c.batch st) :=
    State.batchDone_live (s := s.setTeam key t1) hissuer here hdebug hfree true c.batch st
  obtain ⟨part, v, hexec⟩ : ∃ part v, exec (.matrixCommandComplete td) s
      = .next (((s.setTeam key t1).batchDone c.iss true c.batch st).monitor t.core part 4 v) := by
    let u := (s.setTeam key t1).batchDone c.iss true c.batch st
    refine ⟨((u.launch? (key / 2 ^ 32)).getD {}).part, u.cyc t.core - c.since, ?_⟩
    change execMatrixCommandComplete td s = _
    unfold execMatrixCommandComplete
    rw [hhead]
    dsimp only
    rw [hstatus]
  rw [hdone, State.monitor_eq] at hexec
  exact ⟨_, hexec, SameBytes.of_memory rfl rfl, ⟨t1, State.setTeam_self .., rfl⟩, State.setGroup_self ..⟩

/-- A released complex with no command of before the release passes on (R310). -/
theorem complexHandover_eq {s : State} {td key : Nat} {t : Team} (howner : (s.complex td).owner = some key)
    (hreleasing : (s.complex td).releasing = true) (hteam : s.team? key = some t) (hcmds : ∀ c ∈ t.mxQ, c.old = false)
    (hquarters : ∀ x ∈ t.tags, x.old = false) : exec (.complexHandover td) s = .next (match (s.complex td).waiters with
      | [] => s.setComplex td {}
      | (k, rel) :: r => (s.setComplex td { owner := some k, waiters := r, releasing := rel }).acceptAll k) := by
  have hold : (!true || t.mxQ.any (·.old) || t.tags.any (·.old)) = false := by
    rw [List.any_eq_false.2 fun c hc => by rw [hcmds c hc]; exact Bool.false_ne_true,
      List.any_eq_false.2 fun x hx => by rw [hquarters x hx]; exact Bool.false_ne_true]
    rfl
  change execComplexHandover td s = _
  unfold execComplexHandover
  dsimp only
  rw [howner]
  dsimp only
  rw [hteam, hreleasing, Option.getD_some, hold]
  exact congrArg Host.Outcome.next (if_neg Bool.false_ne_true)

/-- Settles O54, event by event. -/
theorem engineAndComplexEvents : Obligations.EngineAndComplexEvents := by
  unfold Obligations.EngineAndComplexEvents
  intro s core id td batch
  refine ⟨fun c hcmd hstatus hstalled hsince hkind hbar => ⟨fun htaken hturn n =>
      copyBytesLanded_takes hcmd hstatus hstalled hsince hkind hbar htaken hturn n, fun htaken hleft hlen hacc hjoins hleave b s1 s2 hread hwrite
      hwatch hgood => ?_⟩,
    fun c gid g hcmd hended hbar hissuer here hdebug hfree hlive => ?_,
    fun c rest hqueue hid hkind htaken hstatus hstalled hleft hplain hspent hreserved hpos hlong hsel hready => ?_,
    fun key t c hhead hteam hstatus hstalled hsince htaken => ?_,
    fun key t c hhead hteam st gid g hstatus hissuer here hdebug hfree hlive => ?_,
    fun key t howner hreleasing hteam hcmds hquarters => ?_⟩
  · rw [copyBytesLanded_lands hcmd hstatus hstalled hsince hkind hbar htaken hacc hleft hleave,
      State.landPart_cpy hkind hbar hleft hlen hjoins hread hwrite hwatch hgood]
  · obtain ⟨t, hexec, hqueue, hgroup, hbytes⟩ := copyCommandComplete_falls hcmd hended hbar hissuer here hdebug hfree
    exact ⟨t, hexec, hqueue, _, hgroup, rfl, Batch.finish_counts hlive _, hbytes⟩
  · subst hid
    exact sealedMessage_falls rfl hready hsel hreserved hpos hlong hqueue
      (sealedMessage_spends hqueue hkind htaken hstatus hstalled hleft hplain hspent)
  · obtain ⟨hrdy, -, hstarts⟩ := matrixOperation_eq rfl hhead hteam hstatus hstalled hsince htaken
    exact ⟨hrdy, matrixOperation_finishes rfl hhead hteam hstatus hstalled hsince htaken, fun hop hstarted hgranted hside hposted =>
      ⟨_, hstarts hop hstarted hgranted hside hposted, State.mxStart_takes ..⟩⟩
  · obtain ⟨u, hexec, hbytes, hqueue, hgroup⟩ := matrixCommandComplete_falls hhead hstatus hissuer here hdebug hfree
    exact ⟨u, hexec, hbytes, hqueue, _, hgroup, rfl, Batch.finish_counts hlive _⟩
  · exact complexHandover_eq howner hreleasing hteam hcmds hquarters

end Sys2Proof.Machine
end

section
/-! SUPPORT. Tile handles: `talloc`, `tgive`, `tfree`, `tzero` and `tinfo` (spec/13 R277-R292). -/

namespace Sys2Proof.Machine

/-- Taking out an entry that is absent leaves the table as it was. -/
theorem Tbl.del_absent {α : Type} {t : Tbl α} {k : Nat} (h : Tbl.find t k = none) : Tbl.del t k = t := by
  induction t with
  | nil => rfl
  | cons e r ih =>
    obtain ⟨a, x⟩ := e
    by_cases ha : a = k
    · rw [Tbl.find, if_pos ha] at h
      exact nomatch h
    · rw [Tbl.find, if_neg ha] at h
      rw [Tbl.del, if_neg ha, ih h]

/-! What the check of a handle finds (R281). -/

section
variable {t : Team} {g : Group} {h : Hnd}

theorem Team.handleCheck_free (hfind : Tbl.find t.handles h.toNat = none) : t.handleCheck g h = .error .handlefree := by
  rw [Team.handleCheck, hfind]

variable {x : Handle} (hfind : Tbl.find t.handles h.toNat = some x)
include hfind

theorem Team.handleCheck_foreign (howner : x.owner ≠ g.gidx) : t.handleCheck g h = .error .handleowner := by
  rw [Team.handleCheck, hfind]
  exact if_neg howner

theorem Team.handleCheck_owned (howner : x.owner = g.gidx) : t.handleCheck g h = .ok x := by
  rw [Team.handleCheck, hfind]
  exact if_pos howner

end

/-- A handle bound in a team (R280, R287). -/
def Team.bind (t : Team) (h : Hnd) (x : Handle) : Team := { t with handles := Tbl.put t.handles h.toNat x }

/-- A handle freed in a team (R289). -/
def Team.unbind (t : Team) (h : Hnd) : Team := { t with handles := Tbl.del t.handles h.toNat }

theorem Team.unbind_absent {t : Team} {h : Hnd} (hfind : Tbl.find t.handles h.toNat = none) : t.unbind h = t := by
  rw [Team.unbind, Tbl.del_absent hfind]

/-! Scalar tile instructions on a handle of the group. -/

section
variable {s : State} {g : Group} (here : s.group? s.cur = some g) (alone : g.orun = none) {h : Hnd}

/-- The instructions that name a handle by its owner all check it first (R281). -/
theorem exec_handleChecked (s : State) (h : Hnd) (a d : Reg) :
    ∀ i ∈ [Instr.tgive h a, .tfree h, .tzero h, .tld h a d, .tst h a d], ∃ k, exec i s = tileOp s h k := by
  simp only [List.forall_mem_cons, List.not_mem_nil, false_imp_iff, implies_true, and_true]
  exact ⟨⟨_, (rfl : execTgive h a s = _)⟩, ⟨_, (rfl : execTfree h s = _)⟩, ⟨_, (rfl : execTzero h s = _)⟩,
    ⟨_, (rfl : tileMove s h a d .tld = _)⟩, ⟨_, (rfl : tileMove s h a d .tst = _)⟩⟩

include here in
/-- An instruction that places or binds nothing but in the team of its group completes, with every byte as it was. -/
theorem Completes.of_setTeam {i : Instr} {t : Team} {f : Group → Group} {P : State → Prop}
    (hexec : exec i s = .next ((s.setTeam g.key t).done s.cur f)) {g1 : Group} (hf : f g = g1)
    (hP : ∀ u, SameBytes s u → u.team? g.key = some t → P u) : Completes s i g1 P :=
  hf ▸ .of_done (t := s.setTeam g.key t) here rfl hexec (hP _ (.of_memory rfl rfl) (State.setTeam_self s g.key t))

include here alone

theorem tileOp_stops {i : Instr} {c : Cause} {k : Nat → Group → Team → Handle → Res} (hi : exec i s = tileOp s h k)
    (hcheck : (s.teamOf g).handleCheck g h = .error c) : StopsS s g i c (h.setWidth 64) := by
  rw [StopsS, hi, tileOp, scalar_eq here, settled_eq alone, hcheck]
  rfl

theorem tileOp_owned {x : Handle} (hfind : Tbl.find (s.teamOf g).handles h.toNat = some x) (howner : x.owner = g.gidx)
    (k : Nat → Group → Team → Handle → Res) : tileOp s h k = k s.cur g (s.teamOf g) x := by
  rw [tileOp, scalar_eq here, settled_eq alone, Team.handleCheck_owned hfind howner]

section
variable {x : Handle} (hfind : Tbl.find (s.teamOf g).handles h.toNat = some x) (howner : x.owner = g.gidx)
include hfind howner

/-- `tgive` looks for a live group of the team (R288). -/
theorem execTgive_eq (a : Reg) : exec (.tgive h a) s =
    if (s.groupsOf g.key).any (fun e => e.2.gidx == (g.reg a).toNat)
      then .next ((s.setTeam g.key ((s.teamOf g).bind h { x with owner := (g.reg a).toNat })).done s.cur id)
      else s.trapS s.cur g .handleowner (g.reg a) := by
  change execTgive h a s = _
  rw [execTgive, tileOp_owned here alone hfind howner]
  rfl

theorem execTfree_eq : exec (.tfree h) s = .next ((s.setTeam g.key ((s.teamOf g).unbind h)).done s.cur id) := by
  change execTfree h s = _
  rw [execTfree, tileOp_owned here alone hfind howner]
  rfl

theorem execTzero_eq :
    exec (.tzero h) s = .next ((s.setTeam g.key ((s.teamOf g).placeAcc (wholeTile .zeroW x true))).done s.cur id) := by
  change execTzero h s = _
  rw [execTzero, tileOp_owned here alone hfind howner]

end

/-- `tinfo` answers (R292). -/
theorem tinfo_result (d : Reg) : ScalarResult s g (.tinfo d h) d (tileInfo (s.teamOf g) s.cur g h) := by
  refine .intro ?_
  change execTinfo d h s = _
  rw [execTinfo, scalar_eq here, settled_eq alone, State.done_eq here]

/-! `talloc` (R287). -/

/-- The handle of a run that `talloc` binds for a group. -/
def boundHandle (t : Team) (g : Group) (e : Geometry) (f : Nat) : Handle :=
  { rows := e.rows, rowb := e.rowb, first0 := t.f0 + f, first1 := t.f1, nslot := e.slots, owner := g.gidx }

theorem talloc_invalid {a : Reg} (hgeom : geometry (s.teamOf g) (g.reg a) = none) : StopsS s g (.talloc h a) .illegal (g.reg a) := by
  change execTalloc h a s = _
  rw [execTalloc, scalar_eq here, settled_eq alone]
  dsimp only
  rw [hgeom]
  rfl

variable {a : Reg} {e : Geometry} (hgeom : geometry (s.teamOf g) (g.reg a) = some e)
include hgeom

theorem talloc_foreign {x : Handle} (hfind : Tbl.find (s.teamOf g).handles h.toNat = some x) (howner : x.owner ≠ g.gidx) :
    StopsS s g (.talloc h a) .handleowner (h.setWidth 64) := by
  have hmine : (!(x.owner == g.gidx)) = true := by rw [beq_false_of_ne howner]; rfl
  change execTalloc h a s = _
  rw [execTalloc, scalar_eq here, settled_eq alone]
  dsimp only
  rw [hgeom, hfind]
  exact if_pos hmine

variable (hfind : Tbl.find (s.teamOf g).handles h.toNat = none) (hhold : g.allocHold = none)
include hfind hhold

/-- `talloc` into a free handle of a team of one core goes by the run that it chooses. -/
theorem execTalloc_free (hsingle : (s.teamOf g).tandem = false) :
    exec (.talloc h a) s = match (s.teamOf g).chooseRun 0 e.slots with
      | none => s.trapS s.cur g .tilequota (BitVec.ofNat 64 e.slots)
      | some f => if (s.teamOf g).runFree 0 f e.slots
        then .next ((s.setTeam g.key ((s.teamOf g).bind h (boundHandle (s.teamOf g) g e f))).done s.cur fun g => { g with allocHold := none })
        else ((s.setTeam g.key (s.teamOf g)).updGroup s.cur (fun g => { g with allocHold := some (f, 0) })).stallS := by
  have hteam := Team.unbind_absent hfind
  dsimp only [Team.unbind] at hteam
  change execTalloc h a s = _
  rw [execTalloc, scalar_eq here, settled_eq alone]
  dsimp only
  simp only [hgeom, hfind, hteam, hhold]
  cases (s.teamOf g).chooseRun 0 e.slots with
  | none => rfl
  | some f =>
    unfold Team.bind
    rw [Tbl.del_absent hfind, hsingle]
    exact (if_neg Bool.false_ne_true).trans (if_congr (by rw [Bool.not_false, Bool.true_or, Bool.and_true]) rfl rfl)

end

/-- Every slot of the lowest run is one that the test admits. -/
theorem lowestRun_admits {n tiles f : Nat} {ok : Nat → Bool} (h : lowestRun n tiles ok = some f) :
    (List.range n).all (fun i => ok (f + i)) = true :=
  (Bool.and_eq_true _ _ ▸ List.find?_some h).2

/-- A free run is chosen before one that is draining. -/
theorem Team.chooseRun_free {t : Team} {half n f : Nat} (h : lowestRun n t.tiles (t.slotFree half) = some f) : t.chooseRun half n = some f := by
  rw [Team.chooseRun, h]
  rfl

/-- Settles O30: each instruction by the check of its handle, `talloc` by the run that it chooses. -/
theorem tileHandles : Obligations.TileHandles := by
  unfold Obligations.TileHandles
  intro s g h a d here alone t
  refine ⟨talloc_invalid here alone, fun e x hgeom => talloc_foreign here alone hgeom, fun e hgeom hfind hhold hsingle =>
    ⟨fun f hrun => ?_, fun hbound hfree => ?_⟩, fun hfind i hi => ?_, fun x hfind howner i hi => ?_, fun x hfind howner =>
    ⟨fun ⟨e, he, hdst⟩ => ?_, fun hnone => ?_, ?_, ?_⟩, tinfo_result here alone d⟩
  · have hexec := execTalloc_free here alone hgeom hfind hhold hsingle
    rw [Team.chooseRun_free hrun] at hexec
    exact .of_setTeam here (hexec.trans (if_pos (lowestRun_admits hrun))) (by rw [← hhold]) fun u hbytes hteam =>
      ⟨hbytes, _, hteam, rfl, _, Tbl.find_put_self .., rfl, rfl, rfl, rfl, rfl, fun k hk => Tbl.find_put_other _ _ _ _ hk⟩
  · have hnone : t.chooseRun 0 e.slots = none := by rw [Team.chooseRun, hfree, hbound]; rfl
    have hexec := execTalloc_free here alone hgeom hfind hhold hsingle
    rwa [hnone] at hexec
  · obtain ⟨k, hk⟩ := exec_handleChecked s h a d i hi
    exact tileOp_stops here alone hk (Team.handleCheck_free hfind)
  · obtain ⟨k, hk⟩ := exec_handleChecked s h a d i hi
    exact tileOp_stops here alone hk (Team.handleCheck_foreign hfind howner)
  · have hlive : (s.groupsOf g.key).any (fun e => e.2.gidx == (g.reg a).toNat) = true :=
      List.any_eq_true.2 ⟨e, he, beq_iff_eq.2 hdst⟩
    exact .of_setTeam here ((execTgive_eq here alone hfind howner a).trans (if_pos hlive)) rfl fun u hbytes hteam =>
      ⟨hbytes, _, hteam, Tbl.find_put_self ..⟩
  · have hdead : ¬(s.groupsOf g.key).any (fun e => e.2.gidx == (g.reg a).toNat) = true := fun hany => by
      obtain ⟨e, he, hdst⟩ := List.any_eq_true.1 hany
      exact hnone e he (beq_iff_eq.1 hdst)
    exact (execTgive_eq here alone hfind howner a).trans (if_neg hdead)
  · exact .of_setTeam here (execTfree_eq here alone hfind howner) rfl fun u hbytes hteam =>
      ⟨hbytes, _, hteam, Tbl.find_del_self .., fun k hk => Tbl.find_del_other _ _ _ hk⟩
  · exact .of_setTeam here (execTzero_eq here alone hfind howner) rfl fun u hbytes hteam =>
      ⟨hbytes, _, _, hteam, rfl, rfl, rfl, rfl, rfl, rfl, rfl⟩

end Sys2Proof.Machine
end

section
/-! SUPPORT. The bytes of a tile in a team of one core, and memory cleared and written there (spec/13 R279, R291, R294). -/

namespace Sys2Proof.Machine

/-! Bytes of memory. -/

theorem Memory.byte_clear_inside (m : Memory) {a n j : Nat} (hlow : a ≤ j) (hhigh : j < a + n) : Memory.byte (Memory.clear m a n) j = 0 := by
  have habsent : Tbl.find (Memory.clear m a n) j = none :=
    Tbl.find_filter_none (fun v => by rw [decide_eq_true hlow, decide_eq_true hhigh]; rfl) m
  rw [Memory.byte, Tbl.get, habsent]
  rfl

/-- Bytes that are all zero read as zero (R4). -/
theorem Memory.read_zero {m : Memory} {a n : Nat} (h : ∀ j, a ≤ j → j < a + n → Memory.byte m j = 0) : Memory.read m a n = 0 := by
  induction n generalizing a with
  | zero => rfl
  | succ n ih =>
    rw [Memory.read, h a (by omega) (by omega), ih fun j h1 h2 => h j (by omega) (by omega)]
    rfl

/-- Bytes that follow one another, as one number (R4). -/
theorem Memory.read_add (m : Memory) (a n k : Nat) : Memory.read m a (n + k) = Memory.read m a n + 256 ^ n * Memory.read m (a + n) k := by
  induction n generalizing a with
  | zero => simp [Memory.read]
  | succ n ih =>
    rw [Nat.add_right_comm, Memory.read, Memory.read, ih, Nat.mul_add, Nat.add_assoc a 1 n, Nat.add_comm 1 n, Nat.pow_succ',
      Nat.mul_assoc, Nat.add_assoc]

theorem Memory.read_lt (m : Memory) (a n : Nat) : Memory.read m a n < 256 ^ n := by
  have h := ofBytes_lt (Memory.readList m a n)
  rwa [ofBytes_readList, Memory.readList_length] at h

/-- A byte reads as before where its byte of memory and the LLC are as before (R240). -/
theorem State.memByte_congr {s t : State} {a : Nat} (hbyte : Memory.byte t.mem a = Memory.byte s.mem a) (hllc : t.llc = s.llc) :
    t.memByte a = s.memByte a := by
  simp only [State.memByte, State.comByte, hbyte, hllc]

/-! Numbers written at equal distances. -/

/-- Memory after a number of n bytes for each of some lanes, at n bytes a lane from a base. -/
def Memory.writeLanes (m : Memory) (base n : Nat) (v : Nat → Nat) (ls : List Nat) : Memory :=
  ls.foldl (fun m l => Memory.write m (base + n * l) n (v l)) m

theorem Memory.byte_writeLanes_outside {ls : List Nat} {base n a : Nat} (h : ∀ l ∈ ls, a < base + n * l ∨ base + n * (l + 1) ≤ a) (m : Memory)
    (v : Nat → Nat) : Memory.byte (Memory.writeLanes m base n v ls) a = Memory.byte m a := by
  induction ls generalizing m with
  | nil => rfl
  | cons l ls ih =>
    have hl := h l List.mem_cons_self
    rw [Nat.mul_succ, ← Nat.add_assoc] at hl
    exact (ih (fun k hk => h k (List.mem_cons_of_mem _ hk)) _).trans (Memory.byte_write_outside _ _ _ _ _ hl)

theorem Memory.read_writeLanes {ls : List Nat} {l : Nat} (hl : l ∈ ls) (m : Memory) (base n : Nat) (v : Nat → Nat) :
    Memory.read (Memory.writeLanes m base n v ls) (base + n * l) n = v l % 256 ^ n := by
  induction ls generalizing m with
  | nil => exact nomatch hl
  | cons k ls ih =>
    by_cases hrest : l ∈ ls
    · exact ih hrest _
    · obtain rfl : l = k := (List.mem_cons.1 hl).resolve_right hrest
      refine (Memory.read_congr _ _ _ _ fun j hlow hhigh => ?_).trans (Memory.read_write m (base + n * l) n (v l))
      refine Memory.byte_writeLanes_outside (fun k hk => ?_) (Memory.write m (base + n * l) n (v l)) v
      rcases Nat.lt_or_gt_of_ne (fun h : k = l => hrest (h ▸ hk)) with hlt | hlt
      · have := Nat.mul_le_mul_left n (Nat.succ_le_of_lt hlt)
        rw [Nat.succ_eq_add_one] at this
        exact .inr (by omega)
      · have := Nat.mul_le_mul_left n (Nat.succ_le_of_lt hlt)
        rw [Nat.mul_succ] at this
        exact .inl (by omega)

/-- Bytes written one by one by their numbers from an address are the list written there. -/
theorem Memory.foldl_setByte_zip (m : Memory) (a : Nat) (bs : List Byte) :
    ((List.range bs.length).zip bs).foldl (fun m b => Memory.setByte m (a + b.1) b.2) m = Memory.writeList m a bs := by
  induction bs generalizing m a with
  | nil => rfl
  | cons b bs ih =>
    rw [List.length_cons, List.range_succ_eq_map, List.zip_cons_cons, List.foldl_cons, List.zip_map_left, List.foldl_map, Memory.writeList,
      ← ih]
    simp only [Prod.map_fst, Prod.map_snd, id_eq, Nat.add_zero, Nat.succ_eq_add_one, Nat.add_assoc, Nat.add_comm 1]

/-! A tile (R279). -/

/-- The port of the first byte of a tile in a team of one core. -/
def Team.tileAt (t : Team) (x : Handle) : Nat := onchip t.core (0x580000 + x.first0 * 0x4000)

theorem Team.onchip_tile (t : Team) (x : Handle) (o : Nat) : onchip t.core (0x580000 + x.first0 * 0x4000 + o) = t.tileAt x + o :=
  (Nat.add_assoc ..).symm

section
variable {t : Team} (single : t.tandem = false) (x : Handle)
include single

theorem Team.tileRanges_single (lo len : Nat) : t.tileRanges x lo len = [(t.core, x.first0 * 0x4000 + lo, len)] := by
  rw [Team.tileRanges, single]
  rfl

theorem Team.tileByteAt_single (o : Nat) : t.tileByteAt x o = t.tileAt x + o := by
  rw [Team.tileByteAt, Team.tileRanges_single single]
  change onchip t.core (0x580000 + (x.first0 * 0x4000 + o)) = _
  rw [← Nat.add_assoc, Team.onchip_tile]

theorem State.tileRead_single (s : State) (o n : Nat) : s.tileRead t x o n = Memory.readList s.mem (t.tileAt x + o) n := by
  induction n generalizing o with
  | zero => rfl
  | succ n ih => rw [State.tileRead, Team.tileByteAt_single single, ih]; rfl

theorem State.tileSet_single (s : State) (o : Nat) (b : Byte) :
    s.tileSet t x o b = { s with mem := Memory.setByte s.mem (t.tileAt x + o) b } := by
  rw [State.tileSet, Team.tileByteAt_single single]

theorem State.foldl_tileSet_single (s : State) (ds : List (Nat × Byte)) :
    ds.foldl (fun s b => s.tileSet t x b.1 b.2) s
      = { s with mem := ds.foldl (fun m b => Memory.setByte m (t.tileAt x + b.1) b.2) s.mem } := by
  induction ds generalizing s with
  | nil => rfl
  | cons d ds ih => rw [List.foldl_cons, ih, State.tileSet_single single]; rfl

end

/-! The record of writes to a tile is no write (R231). -/

@[simp] theorem State.noteTile_mem (s : State) (t : Team) (h : Handle) (lo len : Nat) : (s.noteTile t h lo len).mem = s.mem := by
  unfold State.noteTile
  exact foldl_keeps (P := State.mem) (fun u r => by rw [State.note]) _ _
@[simp] theorem State.noteTile_llc (s : State) (t : Team) (h : Handle) (lo len : Nat) : (s.noteTile t h lo len).llc = s.llc := by
  unfold State.noteTile
  exact foldl_keeps (P := State.llc) (fun u r => by rw [State.note]) _ _

end Sys2Proof.Machine
end

section
/-! SUPPORT. `vtget` and `vtset`: the access that takes its place at issue, and the event that performs it (spec/13 R281, R282, R291-R294). -/

namespace Sys2Proof.Machine

/-! The event (R282). -/

/-- The one access of a team that is in place has its turn. -/
theorem execTileAccessPerformed_only {s : State} {key : Nat} {t : Team} {a : TileAcc} (hteam : s.team? key = some t) (haway : t.away = false)
    (honly : t.tileAccs = [a]) : exec (.tileAccessPerformed key a.id) s = .next (s.performAcc key t a) := by
  have hfind : t.tileAccs.find? (fun b => b.id == a.id) = some a := by
    rw [honly]
    exact List.find?_cons_of_pos (beq_self_eq_true a.id)
  have hready : t.accReady a.id = true := by
    rw [Team.accReady, hfind, honly]
    simp
  change execTileAccessPerformed key a.id s = _
  simp only [execTileAccessPerformed, hteam, hfind, haway, hready, Bool.not_false, Bool.and_self, if_true]

section
variable {s : State} {key : Nat} {t : Team} {a : TileAcc} (single : t.tandem = false)
include single

/-- The performance of `tzero` clears its tile in memory (R291). -/
theorem State.performAcc_zero (hop : a.op = .zeroW) (hlo : a.lo = 0) :
    (s.performAcc key t a).mem = Memory.clear s.mem (t.tileAt a.h) a.len ∧ (s.performAcc key t a).llc = s.llc := by
  simp only [State.performAcc, hop, State.noteTile_mem, State.noteTile_llc, State.setTeam_mem, State.setTeam_llc, and_true]
  rw [Team.accRanges, Team.tileRanges_single single, List.foldl_cons, List.foldl_nil, ← Nat.add_assoc, Team.onchip_tile, hlo, Nat.add_zero]

/-- The performance of `vtset` writes its bytes, whoever has issued it (R294). -/
theorem State.performAcc_write (hop : a.op = .vset) :
    (s.performAcc key t a).mem = a.data.foldl (fun m b => Memory.setByte m (t.tileAt a.h + b.1) b.2) s.mem
      ∧ (s.performAcc key t a).llc = s.llc := by
  simp only [State.performAcc, hop, State.foldl_tileSet_single single]
  split
  · exact ⟨State.noteTile_mem .., State.noteTile_llc ..⟩
  · exact ⟨State.noteTile_mem .., State.noteTile_llc ..⟩

end

/-- The performance of `tzero` makes every byte of the tile zero and no other (R291). -/
theorem zeroAccess_falls {s : State} {key : Nat} {t : Team} {a : TileAcc} (hteam : s.team? key = some t) (single : t.tandem = false)
    (haway : t.away = false) (honly : t.tileAccs = [a]) (hop : a.op = .zeroW) (hlo : a.lo = 0) :
    Falls s (.tileAccessPerformed key a.id) (fun v => Memory.read v.mem (t.tileAt a.h) a.len = 0 ∧ BytesOutside s v (t.tileAt a.h) a.len) := by
  obtain ⟨hmem, hllc⟩ := State.performAcc_zero (s := s) (key := key) single hop hlo
  refine ⟨_, execTileAccessPerformed_only hteam haway honly, ?_, fun p hp => State.memByte_congr ?_ hllc⟩
  · rw [hmem]
    exact Memory.read_zero fun j => Memory.byte_clear_inside s.mem
  · rw [hmem]
    exact Memory.byte_clear s.mem _ _ p hp

/-- The writes that a `vtget` brings when its access is performed. -/
def rowWrites (m : Memory) (t : Team) (a : TileAcc) : List LaneWrite :=
  a.dst.map fun d => { reg := d.reg, lane := d.lane, val := BitVec.ofNat 32 (Memory.read m (t.tileAt a.h + d.off) d.size) }

/-- The performance of `vtget` gives its instruction the elements of the row (R294). -/
theorem State.performAcc_read {s : State} {key gid : Nat} {t : Team} {a : TileAcc} {g : Group} (hop : a.op = .vget) (single : t.tandem = false)
    (hissuer : s.issuer? a.iss = some (gid, g)) :
    s.performAcc key t a = (s.setTeam key (t.dropAcc a.id)).setGroup gid (Group.finishStopped
      { g with pend := g.pend.map (fun x => if x.acc = a.id then { x with acc := 0, writes := rowWrites s.mem t a } else x) }) := by
  have hissuer' : (s.setTeam key (t.dropAcc a.id)).issuer? a.iss = some (gid, g) := hissuer
  simp only [State.performAcc, hop, hissuer', State.tileRead_single single, ofBytes_readList, State.setTeam_mem]
  rfl

/-! The issue. -/

/-- The handle that a word names, as a number (R294). -/
theorem tileHnd_toNat (w : LaneWord) : (tileHnd w).toNat = bits w.x32.toNat 0 6 := by
  rw [tileHnd, BitVec.toNat_setWidth, bits, Nat.pow_zero, Nat.div_one]

theorem tileHnd_addr (w : LaneWord) : (tileHnd w).setWidth 64 = BitVec.ofNat 64 (bits w.x32.toNat 0 6) := by
  rw [← tileHnd_toNat, BitVec.ofNat_toNat]

/-- An access named by the group that issues it (R276). -/
def TileAcc.issuedBy (a : TileAcc) (i : Issuer) : TileAcc := { a with iss := i }

/-- The access that `vtget` places for the lanes that take part (R294). -/
def rowRead (w : LaneWord) (g : Group) (x : Handle) (r : Nat) (ls : List Nat) : TileAcc :=
  { op := .vget, h := x, wr := false, lo := r * x.rowb, len := min x.rowb (tyBytes w.ty * g.lanew),
    dst := ls.flatMap fun l => (tileParts w).map fun q =>
      { lane := l, reg := q.1, off := r * x.rowb + tyBytes w.ty * l + q.2.1, size := if inRow (tyBytes w.ty) x l then q.2.2 else 0 } }

/-- The access that `vtset` places. -/
def rowWrite (w : LaneWord) (g : Group) (x : Handle) (r : Nat) (ls : List Nat) : TileAcc :=
  { op := .vset, h := x, wr := true, lo := r * x.rowb, len := min x.rowb (tyBytes w.ty * g.lanew),
    data := (ls.filter (inRow (tyBytes w.ty) x)).flatMap fun l =>
      ((List.range (tyBytes w.ty)).zip (toBytes (tyBytes w.ty) (g.readTy w.ty w.vd l))).map fun b =>
        (r * x.rowb + tyBytes w.ty * l + b.1, b.2) }

theorem exec_vtget (w : LaneWord) (s : State) : exec (.vtget w) s = laneTile s w (rowsOf w.vd w.ty.regs) (rowRead w) := rfl
theorem exec_vtset (w : LaneWord) (s : State) : exec (.vtset w) s = laneTile s w [] (rowWrite w) := rfl

/-- The entry of an instruction that waits for a tile access (R294). -/
def Group.tileEntry (g : Group) (p : Path) (w : LaneWord) (acc : Nat) : Pend := { g.longEntry p w ([], fl0) with acc := acc }

/-- The state in which an access of a group has its place, and its instruction its window. -/
def State.placed (s : State) (g : Group) (p : Path) (w : LaneWord) (t : Team) (a : TileAcc) : State :=
  (s.setTeam g.key (t.placeAcc a)).setGroup s.cur (g.longIssued s.slot p (g.tileEntry p w t.nextAcc))

section
variable {s : State} {g : Group} {p : Path} {w : LaneWord} {t : Team} (can : CanIssue s g p false) (hteam : s.team? g.key = some t)
  {i : Instr} {rows : List Nat} {acc : Group → Handle → Nat → List Nat → TileAcc} (hi : exec i s = laneTile s w rows acc)
include can hteam hi

theorem laneTile_refused {c : Cause} (hcheck : t.handleCheck g (tileHnd w) = .error c) : StopsL s g i c ((tileHnd w).setWidth 64) 0 := by
  rw [StopsL, hi, laneTile, can.laneOp_eq]
  simp only [can.alone, Option.isSome_none, Bool.false_eq_true, if_false, State.teamOf, hteam, Option.getD_some, hcheck]
  rfl

/-- With a handle of the group, `vtget` and `vtset` go by their row and the lanes that take part. -/
theorem laneTile_owned {x : Handle} (hcheck : t.handleCheck g (tileHnd w) = .ok x) :
    exec i s = if x.rows ≤ tileRow w g then s.trapL s.cur g .protect (BitVec.ofNat 64 (tileRow w g)) 0
      else if g.active p &&& g.guard w = 0 then .next (s.setGroup s.cur (g.stepPath s.slot p))
      else .next (s.placed g p w t ((acc g x (tileRow w g) (lanesOf (g.active p &&& g.guard w))).issuedBy (g.issuer s.cur))) := by
  have hissue : g.issueLL s.slot p w false ([], fl0) false 0 t.nextAcc = g.longIssued s.slot p (g.tileEntry p w t.nextAcc) := by
    unfold Group.longIssued Group.tileEntry Group.longEntry
    rw [← Group.stepPath_laneN g s.slot p]
    rfl
  rw [hi, laneTile, can.laneOp_eq]
  simp only [can.alone, Option.isSome_none, Bool.false_eq_true, if_false, State.teamOf, hteam, Option.getD_some, hcheck, hissue]
  rfl

variable {x : Handle} (hfind : Tbl.find t.handles (tileHnd w).toNat = some x)
include hfind

variable (howner : x.owner = g.gidx)
include howner

theorem laneTile_past (hrow : x.rows ≤ tileRow w g) : StopsL s g i .protect (BitVec.ofNat 64 (tileRow w g)) 0 := by
  rw [StopsL, laneTile_owned can hteam hi (Team.handleCheck_owned hfind howner)]
  exact if_pos hrow

variable (hrow : tileRow w g < x.rows)
include hrow

theorem laneTile_none (hpart : g.active p &&& g.guard w = 0) : exec i s = .next (s.setGroup s.cur (g.stepPath s.slot p)) := by
  rw [laneTile_owned can hteam hi (Team.handleCheck_owned hfind howner)]
  exact (if_neg (by omega)).trans (if_pos hpart)

theorem laneTile_places (hpart : g.active p &&& g.guard w ≠ 0) : exec i s = .next (s.placed g p w t
    ((acc g x (tileRow w g) (lanesOf (g.active p &&& g.guard w))).issuedBy (g.issuer s.cur))) := by
  rw [laneTile_owned can hteam hi (Team.handleCheck_owned hfind howner)]
  exact (if_neg (by omega)).trans (if_neg hpart)

end

/-! The performance of `vtget`, and its completion. -/

/-- The entry found by a test that holds of a new one, and of no entry at another key. -/
theorem Tbl.find?_put {α : Type} {t : Tbl α} {k : Nat} {v : α} {f : Nat × α → Bool} (hnew : f (k, v) = true)
    (honly : ∀ e ∈ t, f e = true → e.1 = k) : (Tbl.put t k v).find? f = some (k, v) := by
  induction t with
  | nil => exact List.find?_cons_of_pos hnew
  | cons e r ih =>
    obtain ⟨a, x⟩ := e
    by_cases ha : a = k
    · rw [Tbl.put, if_pos ha]
      exact List.find?_cons_of_pos hnew
    · by_cases hk : k < a
      · rw [Tbl.put, if_neg ha, if_pos hk]
        exact List.find?_cons_of_pos hnew
      · rw [Tbl.put, if_neg ha, if_neg hk, List.find?_cons_of_neg fun h => ha (honly _ List.mem_cons_self h)]
        exact ih fun e he => honly e (List.mem_cons_of_mem _ he)

/-- What an element of a row brings to the registers of a lane: all its bytes, or none past the row's end (R294). -/
theorem map_tileParts (w : LaneWord) (m : Memory) (a l : Nat) (inside : Bool) :
    (tileParts w).map (fun q =>
        ({ reg := q.1, lane := l, val := BitVec.ofNat 32 (Memory.read m (a + q.2.1) (if inside then q.2.2 else 0)) } : LaneWrite))
      = resultWrites w.ty w.vd l (if inside then Memory.read m a (tyBytes w.ty) else 0) := by
  unfold tileParts resultWrites
  by_cases hv : RegCode.isV w.vd = true
  · rw [if_pos hv, if_pos hv]
    cases hwide : w.ty.wide with
    | false => cases inside <;> rfl
    | true =>
      have hbytes : tyBytes w.ty = 4 + 4 := by
        revert hwide
        cases w.ty <;> decide
      cases inside with
      | false => simp [Memory.read]
      | true =>
        have hlow := Memory.read_lt m a 4
        have hpair := Memory.read_add m a 4 4
        have hfirst : BitVec.ofNat 32 (Memory.read m a (4 + 4)) = BitVec.ofNat 32 (Memory.read m a 4) :=
          BitVec.eq_of_toNat_eq (by rw [hpair, BitVec.toNat_ofNat, BitVec.toNat_ofNat]; omega)
        have hsecond : Memory.read m a (4 + 4) / 2 ^ 32 = Memory.read m (a + 4) 4 := by
          rw [hpair]
          omega
        simp only [if_true, List.map_cons, List.map_nil, hbytes, hfirst, hsecond, Nat.add_zero]
  · rw [if_neg hv, if_neg hv]
    rfl

/-- The writes of a row read are the elements of the row, of each lane its own (R294). -/
theorem rowWrites_rowRead (m : Memory) (w : LaneWord) (t : Team) (g : Group) (x : Handle) (r : Nat) (ls : List Nat) (i : Issuer) :
    rowWrites m t ((rowRead w g x r ls).issuedBy i) = ls.flatMap fun l => resultWrites w.ty w.vd l
      (if tyBytes w.ty * (l + 1) ≤ x.rowb then Memory.read m (t.tileAt x + r * x.rowb + tyBytes w.ty * l) (tyBytes w.ty) else 0) := by
  rw [rowWrites, TileAcc.issuedBy, rowRead, List.map_flatMap]
  congr 1
  funext l
  have hparts := map_tileParts w m (t.tileAt x + r * x.rowb + tyBytes w.ty * l) l (inRow (tyBytes w.ty) x l)
  simp only [inRow, decide_eq_true_eq] at hparts
  rw [← hparts, List.map_map]
  simp only [Function.comp_def, inRow, decide_eq_true_eq, Nat.add_assoc]

/-- An instruction whose access has been performed waits for it no longer. -/
theorem Group.longIssued_performed {g : Group} (hpend : ∀ y ∈ g.pend, y.acc = 0) (slot : Nat) (p : Path) (w : LaneWord) {id : Nat} (hid : 0 < id)
    (ws : List LaneWrite) :
    (g.longIssued slot p (g.tileEntry p w id)).pend.map (fun x => if x.acc = id then { x with acc := 0, writes := ws } else x)
      = (g.longIssued slot p (g.longEntry p w (ws, fl0))).pend := by
  have hothers : (g.stepPath slot p).pend.map (fun x => if x.acc = id then { x with acc := 0, writes := ws } else x)
      = (g.stepPath slot p).pend := by
    refine (List.map_congr_left fun y hy => if_neg ?_).trans (List.map_id _)
    rw [Group.stepPath_pend] at hy
    obtain ⟨z, hz, rfl⟩ := List.mem_map.1 hy
    have := hpend z hz
    split
    · change z.acc ≠ id
      omega
    · omega
  unfold Group.longIssued
  rw [List.map_append, hothers, List.map_singleton]
  exact congrArg (fun y => (g.stepPath slot p).pend ++ [y]) (if_pos rfl)

section
variable {s : State} {g : Group} {p : Path} {w : LaneWord} {t : Team} {a : TileAcc}

theorem State.placed_team (s : State) (g : Group) (p : Path) (w : LaneWord) (t : Team) (a : TileAcc) :
    (s.placed g p w t a).team? g.key = some (t.placeAcc a) :=
  State.setTeam_self s g.key (t.placeAcc a)

@[simp] theorem State.placed_mem (s : State) (g : Group) (p : Path) (w : LaneWord) (t : Team) (a : TileAcc) :
    (s.placed g p w t a).mem = s.mem := rfl
@[simp] theorem State.placed_llc (s : State) (g : Group) (p : Path) (w : LaneWord) (t : Team) (a : TileAcc) :
    (s.placed g p w t a).llc = s.llc := rfl

/-- The group of a placed access is found by the issuer that the access names (R276). -/
theorem State.placed_issuer (hown : ∀ e ∈ s.groups, e.2.issued (g.issuer s.cur) = true → e.1 = s.cur) :
    (s.placed g p w t a).issuer? (g.issuer s.cur) = some (s.cur, g.longIssued s.slot p (g.tileEntry p w t.nextAcc)) := by
  refine Tbl.find?_put ?_ hown
  simp [Group.issued, Group.issuer, Group.key, Group.longIssued]

/-- The access of a team that had none is performed, as the event falls. -/
theorem State.placed_performed (haway : t.away = false) (hnone : t.tileAccs = []) :
    exec (.tileAccessPerformed g.key t.nextAcc) (s.placed g p w t a)
      = .next ((s.placed g p w t a).performAcc g.key (t.placeAcc a) { a with id := t.nextAcc }) :=
  execTileAccessPerformed_only (a := { a with id := t.nextAcc }) (State.placed_team ..) haway (by rw [Team.placeAcc, hnone]; rfl)

/-- The performance of a row read leaves its instruction with the row's elements to be written. -/
theorem State.placed_read (haway : t.away = false) (hnone : t.tileAccs = []) (hop : a.op = .vget) (hiss : a.iss = g.issuer s.cur)
    (single : t.tandem = false) (hown : ∀ e ∈ s.groups, e.2.issued (g.issuer s.cur) = true → e.1 = s.cur) (hstopped : g.stopped = false)
    (hstopping : g.stopping = false) (hpend : ∀ y ∈ g.pend, y.acc = 0) (hpos : 0 < t.nextAcc) :
    exec (.tileAccessPerformed g.key t.nextAcc) (s.placed g p w t a)
      = .next (((s.placed g p w t a).setTeam g.key ((t.placeAcc a).dropAcc t.nextAcc)).setGroup s.cur
        (g.longIssued s.slot p (g.longEntry p w (rowWrites s.mem t a, fl0)))) := by
  have hissuer := State.placed_issuer (p := p) (w := w) (t := t) (a := a) hown
  rw [← hiss] at hissuer
  have hfinish : (g.longIssued s.slot p (g.longEntry p w (rowWrites s.mem t a, fl0))).finishStopped
      = g.longIssued s.slot p (g.longEntry p w (rowWrites s.mem t a, fl0)) := by
    have hending : g.ending.isSome = false := (Bool.or_eq_false_iff.1 hstopped).2
    simp [Group.finishStopped, Group.longIssued, hending, hstopping]
  refine (State.placed_performed haway hnone).trans (congrArg Host.Outcome.next ?_)
  refine (State.performAcc_read (t := t.placeAcc a) (a := { a with id := t.nextAcc }) hop single hissuer).trans
    (congrArg (State.setGroup _ s.cur) ((congrArg Group.finishStopped ?_).trans hfinish))
  exact congrArg (fun ps => { g.stepPath s.slot p with pend := ps }) (Group.longIssued_performed hpend s.slot p w hpos _)

end

/-- The bytes that a `vtset` writes are its lanes' numbers, of each lane whose element lies in the row (R294). -/
theorem foldl_rowWrite (m : Memory) (w : LaneWord) (b : Nat) (g : Group) (x : Handle) (r : Nat) (ls : List Nat) :
    (rowWrite w g x r ls).data.foldl (fun m d => Memory.setByte m (b + d.1) d.2) m
      = Memory.writeLanes m (b + r * x.rowb) (tyBytes w.ty) (g.readTy w.ty w.vd) (ls.filter (inRow (tyBytes w.ty) x)) := by
  rw [rowWrite, List.foldl_flatMap, Memory.writeLanes]
  congr 1
  funext m l
  have hbytes := Memory.foldl_setByte_zip m (b + r * x.rowb + tyBytes w.ty * l) (toBytes (tyBytes w.ty) (g.readTy w.ty w.vd l))
  rw [toBytes_length, Memory.writeList_toBytes] at hbytes
  rw [← hbytes, List.foldl_map]
  simp only [Nat.add_assoc]

section
variable {s : State} {g : Group} {p : Path} {w : LaneWord} {t : Team} (haway : t.away = false) (hnone : t.tileAccs = [])
  (single : t.tandem = false) (x : Handle) (r : Nat) (ls : List Nat)
include haway hnone single

/-- The event performs the one access in place, a row read: its instruction has the elements of the row to write. -/
theorem rowRead_performed (hown : ∀ e ∈ s.groups, e.2.issued (g.issuer s.cur) = true → e.1 = s.cur) (hstopped : g.stopped = false)
    (hstopping : g.stopping = false) (hpend : ∀ y ∈ g.pend, y.acc = 0) (hpos : 0 < t.nextAcc) :
    ∃ u, exec (.tileAccessPerformed g.key t.nextAcc) (s.placed g p w t ((rowRead w g x r ls).issuedBy (g.issuer s.cur))) = .next u
      ∧ SameBytes s u ∧ u.group? s.cur = some (g.longIssued s.slot p (g.longEntry p w (ls.flatMap fun l => resultWrites w.ty w.vd l
        (if tyBytes w.ty * (l + 1) ≤ x.rowb then Memory.read s.mem (t.tileAt x + r * x.rowb + tyBytes w.ty * l) (tyBytes w.ty) else 0), fl0))) := by
  refine ⟨_, State.placed_read haway hnone rfl rfl single hown hstopped hstopping hpend hpos, .of_memory ?_ ?_, ?_⟩
  · rw [State.setGroup_mem, State.setTeam_mem, State.placed_mem]
  · rw [State.setGroup_llc, State.setTeam_llc, State.placed_llc]
  · rw [State.setGroup_self, rowWrites_rowRead]

/-- The event performs the one access in place, a row write: its lanes' elements stand in the row. -/
theorem rowWrite_performed :
    ∃ u, exec (.tileAccessPerformed g.key t.nextAcc) (s.placed g p w t ((rowWrite w g x r ls).issuedBy (g.issuer s.cur))) = .next u
      ∧ u.llc = s.llc ∧ u.mem = Memory.writeLanes s.mem (t.tileAt x + r * x.rowb) (tyBytes w.ty) (g.readTy w.ty w.vd)
        (ls.filter (inRow (tyBytes w.ty) x)) := by
  let a := (rowWrite w g x r ls).issuedBy (g.issuer s.cur)
  obtain ⟨hmem, hllc⟩ := State.performAcc_write (s := s.placed g p w t a) (key := g.key) (t := t.placeAcc a) (a := { a with id := t.nextAcc })
    single rfl
  exact ⟨_, State.placed_performed haway hnone, hllc, hmem.trans (foldl_rowWrite ..)⟩

end

/-- A row read, once performed, completes with its elements (R125, R294). -/
theorem rowRead_completes {s u : State} {g : Group} {p : Path} (alone : g.orun = none) (w : LaneWord) (val : Nat → Nat)
    (hfits : fits g.vregs w.vd w.ty.regs = true) (hgroup : u.group? s.cur = some (g.longIssued s.slot p (g.longEntry p w
      ((lanesOf (g.active p &&& g.guard w)).flatMap (fun l => resultWrites w.ty w.vd l (val l)), fl0)))) :
    Falls u (.longLatencyComplete s.cur g.pend.length) (fun v => ∃ g', v.group? s.cur = some g' ∧ OnlyLanes g g'
      ∧ ∀ q l, l < 64 → g'.vreg q l = laneAfter g p w w.ty.regs (fun k l => val l / 2 ^ (32 * k)) q l) := by
  simp only [resultWrites_eq] at hgroup
  generalize hx : g.longEntry p w (_, fl0) = x at hgroup
  have hopen : ∀ y ∈ x.writes, y.open_ g := by
    intro y hy
    rw [← hx] at hy
    obtain ⟨l, -, hy⟩ := List.mem_flatMap.1 hy
    exact open_of_regWrites hfits y hy
  obtain ⟨honly, -, -, hvreg⟩ := Group.longIssued_complete alone s.slot p hopen
  have hentry : (g.longIssued s.slot p x).pend[g.pend.length]? = some x := by
    simp [Group.longIssued, Group.stepPath_pend]
  refine ⟨_, execLongLatencyComplete_eq hgroup hentry (by rw [← hx]; rfl) (by rw [← hx]; rfl), _, State.setGroup_self .., honly,
    fun q l hl => ?_⟩
  rw [hvreg, ← hx, Group.written, ← Group.apply_eq alone]
  exact Group.vreg_apply_lanes alone p w w.ty.regs (fun k l => val l / 2 ^ (32 * k)) q hl

/-- Settles O46: the access of each instruction takes its place at issue, and the event finds it alone and performs it. -/
theorem tileRowAccesses : Obligations.TileRowAccesses := by
  unfold Obligations.TileRowAccesses
  intro s g p w t can hteam _ h r n part
  have haddr : (tileHnd w).setWidth 64 = BitVec.ofNat 64 h := tileHnd_addr w
  have hnumber : (tileHnd w).toNat = h := tileHnd_toNat w
  have hget := exec_vtget w s
  have hset := exec_vtset w s
  refine ⟨fun k u acc hteam single haway honly hop hlo hlen => ?_, fun hfind => ?_, fun x hfind => ?_⟩
  · have hzero := zeroAccess_falls hteam single haway honly hop hlo
    rwa [hlen] at hzero
  · rw [← hnumber] at hfind
    rw [← haddr]
    have hcheck := Team.handleCheck_free (g := g) hfind
    exact ⟨laneTile_refused can hteam hget hcheck, laneTile_refused can hteam hset hcheck⟩
  · rw [← hnumber] at hfind
    rw [← haddr]
    refine ⟨fun howner => ?_, fun howner hrow => ⟨laneTile_past can hteam hget hfind howner hrow, laneTile_past can hteam hset hfind howner hrow⟩,
      fun howner hrow single haway hnone hpos _ hown hstopped hstopping hpend => ?_⟩
    · have hcheck := Team.handleCheck_foreign hfind howner
      exact ⟨laneTile_refused can hteam hget hcheck, laneTile_refused can hteam hset hcheck⟩
    intro base
    have hbase : base = t.tileAt x + r * x.rowb := Team.onchip_tile ..
    refine ⟨fun hpart => ⟨laneTile_none can hteam hget hfind howner hrow hpart, laneTile_none can hteam hset hfind howner hrow hpart⟩,
      fun hpart hfits => ⟨_, laneTile_places can hteam hget hfind howner hrow hpart, .of_memory (State.placed_mem ..) (State.placed_llc ..), ?_⟩,
      fun hpart => ⟨_, laneTile_places can hteam hset hfind howner hrow hpart, .of_memory (State.placed_mem ..) (State.placed_llc ..), ?_⟩⟩
    · obtain ⟨u, hexec, hbytes, hgroup⟩ := rowRead_performed haway hnone single x r (lanesOf part) hown hstopped hstopping hpend hpos
      rw [hbase]
      exact ⟨u, hexec, hbytes, rowRead_completes can.alone w _ hfits hgroup⟩
    · obtain ⟨u, hexec, hllc, hmem⟩ := rowWrite_performed haway hnone single x r (lanesOf part)
      have htaken (l : Nat) : l ∈ (lanesOf part).filter (inRow n x) ↔ takesPart g p w l = true ∧ n * (l + 1) ≤ x.rowb := by
        rw [List.mem_filter, mem_lanesOf, inRow, decide_eq_true_eq, takesPart]
      rw [hbase]
      refine ⟨u, hexec, fun l htakes hin => ?_, fun a hout => State.memByte_congr ?_ hllc⟩
      · rw [hmem]
        exact Memory.read_writeLanes ((htaken l).2 ⟨htakes, hin⟩) ..
      · rw [hmem]
        exact Memory.byte_writeLanes_outside (fun l hl => hout l ((htaken l).1 hl).1 ((htaken l).1 hl).2) ..

end Sys2Proof.Machine
end
